-- ==== Sys2Proof/Word.lean ====
section
/-! DEFINITION. The word types of the bridge and the sparse tables that hold its indexed state.
Registers are 64 bits wide (00 R5); bit 0 is the least significant bit of any field (00 R4). -/

namespace Sys2Proof

/-- A register or a table word. -/
abbrev Word := BitVec 64

/-- A byte of memory, of a table entry or of a frame. -/
abbrev Byte := BitVec 8

/-- A table indexed by a number, as the pairs that differ from the table's default, indexes rising. -/
abbrev Tab (α : Type) := List (Nat × α)

/-- A memory of bytes by address: a `Tab` whose default byte is 0 (flash: 0xFF). -/
abbrev Mem := Tab Byte

end Sys2Proof
end

