-- ==== Sys2Proof/Parts.lean ====
section
/-! DEFINITION. The parts that the machine's state and the commands' operands are made of, block by block,
each field with the rule that names it. -/

namespace Sys2Proof

/-- Qualification state of a reference source, the values of TIM_REF_STATE (02 R55). -/
inductive RefSt where
  | qualified | qualifying | disqStop | disqPhase | disqFreq | disqQl
  deriving DecidableEq, Repr

/-- Servo states of Table 2.5 (02 R41). -/
inductive ServoState where
  | freerun | acquiring | locked | holdover | syntonized
  deriving DecidableEq, Repr

/-- DIE_STRUCT_STATUS.STATE (03 R76). -/
inductive StructState where
  | none | loaded | running
  deriving DecidableEq, Repr

/-- State of a decode or encode context: MOVED after a migration (09 R214, 11 R258). -/
inductive CtxState where
  | closed | opened | moved
  deriving DecidableEq, Repr

/-- TDM_PORT_STATUS.STATE (08 R194). -/
inductive TdmState where
  | stopped | waitClk | running
  deriving DecidableEq, Repr

/-- What an SDO pin does (08 R193). -/
inductive Sdo where
  | driven | keeper | hiz
  deriving DecidableEq, Repr

/-- Kinds of packets in egress; a leg serves them in this order (12 R278). -/
inductive TxKind where
  | control | rtcp | audio | rtx | video
  deriving DecidableEq, Repr

/-- DIE_FACE_STATUS.STATE (14 R329). -/
inductive FaceState where
  | stopped | running | waiting | fault | retired
  deriving DecidableEq, Repr

/-- PAR_STATUS.ROLE (16 R351). -/
inductive Role where
  | unpaired | active | standby | joining
  deriving DecidableEq, Repr

/-- UPD_STATUS.STATE; `partly` is PARTIAL (18 R402). -/
inductive UpdState where
  | idle | applying | partly | applied | armed | trial
  deriving DecidableEq, Repr

/-- The three parts of Table 0.1 (00 R1). -/
inductive Variant where
  | trv6402 | trv6404 | trv6408
  deriving DecidableEq, Repr

/-- Silicon steppings (00 R1). -/
inductive Stepping where
  | a0 | b0
  deriving DecidableEq, Repr

/-- How a listener's mix is encoded and labelled: what listeners of a common mix must share to share an encoder, and beside
it the leg's own SSRC and payload type (07 R172). -/
structure EncCfg where
  ac : Nat := 0
  stereo : Bool := false
  frame : Nat := 0
  abr : Nat := 0
  complexity : Nat := 0
  fec : Bool := false
  dtx : Bool := false
  ssrc : BitVec 32 := 0
  pt : BitVec 7 := 0
  deriving DecidableEq, Repr

/-- A posted command: its function and its eight 64-bit words; word 0 holds OPCODE [7:0] and TAG [63:48]
(04 R93). -/
structure Cmd where
  func : Nat := 0
  w0 : Word := 0
  w1 : Word := 0
  w2 : Word := 0
  w3 : Word := 0
  w4 : Word := 0
  w5 : Word := 0
  w6 : Word := 0
  w7 : Word := 0
  deriving DecidableEq, Repr

/-- A completion entry, Table 4.10 less its PHASE bit (04 R94). -/
structure Completion where
  id : BitVec 16 := 0
  kind : BitVec 4 := 2
  status : BitVec 8 := 0
  version : BitVec 16 := 0
  tag : BitVec 16 := 0
  mp : BitVec 64 := 0
  resultId : BitVec 16 := 0
  oldId : BitVec 16 := 0
  cookie : BitVec 64 := 0
  deriving DecidableEq, Repr

/-- The data set by which PTP ranks a clock: priority1, clock quality (class, accuracy, variance), priority2, the
grandmaster's identity and the steps removed from it (02 R35). -/
structure PtpClock where
  prio1 : Byte := 128
  quality : BitVec 32 := 0
  prio2 : Byte := 128
  gm : BitVec 64 := 0
  steps : BitVec 16 := 0
  deriving DecidableEq, Repr

/-- What a PTP message says beyond its header (02 R35); timestamps in it as event stamps by 02 R25. -/
inductive PtpBody where
  | announce (clock : PtpClock) (utc : BitVec 16) (utcValid : Bool)
  | sync (twoStep : Bool) (origin : BitVec 64)
  | followUp (origin : BitVec 64)
  | delayReq
  | delayResp (asker : BitVec 80) (receipt : BitVec 64)
  | pdelayReq
  | pdelayResp (twoStep : Bool) (asker : BitVec 80) (receipt : BitVec 64)
  | pdelayFollowUp (asker : BitVec 80) (sent : BitVec 64)
  | management (get : Bool)
  | other
  deriving DecidableEq, Repr

/-- A PTP message that arrives: the enabled port of TIM_PTP_PORTS it arrives on, its transport (0 Ethernet, 1 UDP/IPv4,
2 UDP/IPv6), domain, source port identity, sequence number, correction in 2^-16 ns, and raw arrival stamp (02 R35). -/
structure PtpMsg where
  port : Nat
  transport : BitVec 2 := 0
  domain : Byte := 0
  sender : BitVec 80 := 0
  seq : BitVec 16 := 0
  corr : Int := 0
  arrival : BitVec 64 := 0
  body : PtpBody
  deriving DecidableEq, Repr

/-- State of a PTP port (02 R35). -/
inductive PtpState where
  | listening | master | slave | passive
  deriving DecidableEq, Repr

/-- A PTP message that the Duken core sends (02 R35). -/
inductive PtpSent where
  | announce | sync (twoStep : Bool) | followUp | delayReq | delayResp | pdelayReq | pdelayResp | pdelayFollowUp | management
  deriving DecidableEq, Repr

/-- A frame of die 0's Duken core in a control queue (12 R278): a PTP message of a port with its sequence number and the stamp that it
carries (the receipt that a response tells, the departure that a follow-up tells, else 0), or an ESMC message with its SSM
code. -/
inductive DukenMsg where
  | ptp (port : Nat) (kind : PtpSent) (seq : BitVec 16) (stamp : BitVec 64)
  | esmc (code : BitVec 4)
  deriving DecidableEq, Repr

/-- Result of DRAM training of a die (15 R332): per channel none where it is disabled, else its speed
code (0: 6,400, 1: 5,600, 2: 4,800 MT/s); the device code, the ranks and the capacity of the die in GiB. -/
structure Training where
  ch0 : Option (BitVec 2) := some 0
  ch1 : Option (BitVec 2) := some 0
  device : BitVec 2 := 0
  twoRanks : Bool := false
  deriving DecidableEq, Repr

/-- An access to a staging slice in BAR2 (19 R407): bytes written, or how many bytes are read. -/
inductive StageAccess where
  | write (bytes : List Byte)
  | read (len : Nat)
  deriving DecidableEq, Repr

/-- An access to a register (00 R6): its width in bytes, and the value of a write. -/
inductive RegAccess where
  | write (width : Nat) (v : Word)
  | read (width : Nat)
  deriving DecidableEq, Repr

/-- Layer data of a video packet, from its payload header or dependency descriptor (12 R266, R268). -/
structure VInfo where
  spatial : BitVec 2 := 0
  temporal : BitVec 2 := 0
  first : Bool := false
  last : Bool := false
  switchIn : Bool := false
  switchUp : Bool := false
  /-- AV1: the operating points that the frame belongs to (09 R197) -/
  ops : BitVec 32 := 0xFFFFFFFF#32
  deriving DecidableEq, Repr

/-- One item of a received RTCP packet (05 R122, R123, 12 R272, R275, R282). -/
inductive RtcpItem where
  | senderReport (ssrc : BitVec 32) (ntp : BitVec 64) (ts : BitVec 32)
  | reportBlock (ssrc : BitVec 32) (fraction : BitVec 8) (lsr dlsr : BitVec 32)
  | bye (ssrc : BitVec 32)
  | pli (ssrc : BitVec 32)
  | fir (ssrc : BitVec 32)
  | nack (ssrc : BitVec 32) (seqs : List (BitVec 16))
  | ccfb (stamp : BitVec 32) (reports : List (BitVec 32 × BitVec 16 × Bool × BitVec 2 × BitVec 13))
  | other
  deriving DecidableEq, Repr

/-- An RTP packet, or an RTCP packet, as its parsed fields (05 R109, R124 to R126, 07 R160, 12 R266):
`len48` is the length of its audio frame in samples at 48 kHz, `level` an RFC 6464 extension (ID, level,
V), `fec` in-band FEC for the frame before, `index` its SRTP index (SRTCP index for RTCP). -/
structure Packet where
  rtcp : Bool := false
  ssrc : BitVec 32 := 0
  seq : BitVec 16 := 0
  ts : BitVec 32 := 0
  pt : BitVec 7 := 0
  marker : Bool := false
  payload : List Byte := []
  len48 : Nat := 0
  level : Option (BitVec 4 × BitVec 7 × Bool) := none
  fec : Bool := false
  video : Option VInfo := none
  items : List RtcpItem := []
  index : Nat := 0
  deriving DecidableEq, Repr

/-- An Ethernet frame as received, with its parsed fields (05 R106). `ip` is 4, 6 or 0, `payload` begins
the UDP payload with `b0` and `b1`, and `raw` runs from the destination MAC to the end of the payload; `fecFixed` and
`fecBad` count the FEC codewords corrected and uncorrectable on the subport since the frame before. -/
structure Frame where
  fcsOk : Bool := true
  len : Nat := 64
  dstMac : BitVec 48 := 0
  etherType : BitVec 16 := 0x0800
  subtype : Byte := 0
  ip : Nat := 4
  extHdr : Bool := false
  udp : Bool := true
  frag : Bool := false
  hdrOk : Bool := true
  udpSumZero : Bool := false
  udpSumOk : Bool := true
  src : BitVec 128 := 0
  dst : BitVec 128 := 0
  sport : BitVec 16 := 0
  dport : BitVec 16 := 0
  ecn : BitVec 2 := 0
  ipLen : Nat := 28
  b0 : Byte := 0
  b1 : Byte := 0
  pkt : Packet := {}
  raw : List Byte := []
  c0Ok : Bool := true
  fecFixed : Nat := 0
  fecBad : Nat := 0
  deriving DecidableEq, Repr

/-- The verdict on a packet (05 R116, 06 R147, R148): its carry check C1, its tag under the RX key and
under the previous key in grace, and the packet after decryption. -/
structure Verdict where
  c1Ok : Bool := true
  tagOk : Bool := true
  graceOk : Bool := false
  plain : Packet := {}
  deriving DecidableEq, Repr

/-- An RTCP message that the bridge sends (12 R277). -/
inductive RtcpMsg where
  | senderReport (ssrc : BitVec 32) (ntp : BitVec 64) (ts : BitVec 32)
  | ccfb (reports : List (BitVec 32 × BitVec 16 × BitVec 2 × BitVec 64))
  | receiverReport (blocks : List (BitVec 32 × BitVec 32 × BitVec 32))
  | nack (ssrc : BitVec 32) (seqs : List (BitVec 16))
  | pli (ssrc : BitVec 32)
  | fir (ssrc : BitVec 32) (seqNr : Byte)
  | bye (ssrc : BitVec 32)
  deriving DecidableEq, Repr

/-- A coding tool or RTP payload mode that Table 9.1 leaves out; `other` stands for any that it does not list. -/
inductive VidTool where
  | fieldPicture | mbaff | aso | fmo | svc | mvc | rangeExtension | screenExtension | shvc | mvHevc | highTier | fieldIndication
  | largeScaleTile | manyLayers | interleaved | donl | paci | other
  deriving DecidableEq, Repr

/-- What decoding a picture finds in its bitstream and does (09 R195 to R210): its size, format and PROFILE (profile in
[7:0], level in [15:8], as coded), whether AVC's constraint_set1_flag stands, the tools it uses that Table 9.1 leaves out, its
layer, the cores used, the references it names, the pictures kept, whether it is kept itself; whether it is an IDR picture, an
IRAP picture other than a CRA with RASL pictures, or a shown AV1 key frame (`refresh`), such a CRA (`cra`) and whether a RASL
picture of it is output; whether it carries a recovery point SEI, and whether it is the picture that one names; whether it
breaks a rule of its bitstream; whether its carry checks hold. -/
structure PicInfo where
  width : Nat := 0
  height : Nat := 0
  profile : BitVec 16 := 0
  constrained : Bool := false
  bitDepth : Nat := 8
  chroma : Nat := 1
  tools : List VidTool := []
  spatial : BitVec 2 := 0
  temporal : BitVec 2 := 0
  cores : BitVec 3 := 1
  refs : List Nat := []
  missingRefs : Bool := false
  keeps : List Nat := []
  isRef : Bool := true
  refresh : Bool := false
  cra : Bool := false
  raslOut : Bool := false
  sei : Bool := false
  recovery : Bool := false
  bsError : Bool := false
  c2Ok : Bool := true
  deriving DecidableEq, Repr

/-- What a run of block slots of the reference pool is: a buffer of a context's reservation, one borrowed from the free area, one
that a consumer keeps after its context has closed, or an output buffer of a Gallery layout (09 R202, R205, 10 R220). -/
inductive RunKind where
  | reserved | borrowed | kept | canvas
  deriving DecidableEq, Repr

/-- The parameter-set elements of the Seam tool set, with the values of Table 11.5 (11 R248); `tiles` is
tiles_enabled_flag. -/
structure SeamTools where
  log2Ctb : Nat := 6
  log2MinCbMinus3 : Nat := 0
  minTransform : Nat := 4
  maxTransform : Nat := 32
  depthInter : Nat := 1
  depthIntra : Nat := 1
  sao : Bool := true
  signHiding : Bool := true
  strongIntra : Bool := true
  amp : Bool := false
  pcm : Bool := false
  scalingList : Bool := false
  transformSkip : Bool := false
  longTermRefs : Bool := false
  temporalMvp : Bool := false
  weightedPred : Bool := false
  transquantBypass : Bool := false
  entropySync : Bool := false
  listsModification : Bool := false
  cuQpDelta : Bool := true
  qpDeltaDepth : Nat := 0
  initQp : Int := 0
  cbQpOffset : Int := 0
  crQpOffset : Int := 0
  numRefMinus1 : Nat := 0
  fiveMinusMerge : Nat := 0
  parMergeMinus2 : Nat := 0
  tiles : Bool := false
  loopAcrossTiles : Bool := false
  loopAcrossSlices : Bool := false
  deblockingControl : Bool := false
  deriving DecidableEq, Repr

/-- A slice segment of a tile picture: what the Seam keeps of its header (slice_type, slice_qp_delta, the deblocking and SAO
fields) and its slice data (10 R237). -/
structure TileSlice where
  sliceType : BitVec 2 := 0
  qpDelta : Int := 0
  filters : BitVec 8 := 0
  data : List Byte := []
  deriving DecidableEq, Repr

/-- A tile picture that reaches the Seam (10 R236, Table 10.6): its number, whether it is intra-coded, its taint, and what its
headers show: profile (1 Main, 2 Main10) and chroma format, size, widths and heights of its tiles in CTBs, its slices, whether each
is an independent one of one tile, the references as POC differences, the POC step, TemporalId and the tool set. -/
structure TilePic where
  number : Nat := 0
  intra : Bool := false
  tainted : Bool := false
  profile : Nat := 1
  chroma : Nat := 1
  width : Nat := 0
  height : Nat := 0
  colW : List Nat := []
  rowH : List Nat := []
  slices : List TileSlice := []
  independent : Bool := true
  refs : List Int := []
  pocStep : Nat := 1
  tid : Nat := 0
  tools : SeamTools := {}
  deriving DecidableEq, Repr

/-- What the Seam splices as one grid tile: a copied slice, a skip tile, a grey tile (10 R237). -/
inductive TileData where
  | copy (slice : TileSlice)
  | skip
  | grey
  deriving DecidableEq, Repr

/-- A slice segment of a mosaic, with the header fields that the Seam writes: first_slice_segment_in_pic_flag,
slice_segment_address and the picture order count; the parameter-set IDs are the mosaic's, the reference set is one picture,
delta −1 (10 R237). -/
structure MosaicSlice where
  first : Bool := false
  address : Nat := 0
  poc : BitVec 16 := 0
  data : TileData := .grey
  deriving DecidableEq, Repr

/-- The content of a mosaic's VPS, SPS and PPS: canvas size, tile grid, level (times 10), profile and tool set (10 R237). -/
structure MosaicSets where
  width : Nat := 0
  height : Nat := 0
  colW : List Nat := []
  rowH : List Nat := []
  level : Nat := 31
  main10 : Bool := false
  tools : SeamTools := {}
  deriving DecidableEq, Repr

/-- What goes wrong in an MP: the checks that fail (05 R118, 11 R253), by leg whose frame fails C2 at its decoder, by leg whose
decoded audio block fails at the mixer, by decode context and 64-line stripe of its newest picture that fails at its
consumer, and by encode context whose source picture fails; the legs whose blocks do not arrive, whose decodes overrun, and whose
encodes are not complete (07 R177). -/
structure MpFaults where
  c2 : List (BitVec 16) := []
  video : List (BitVec 16 × Nat) := []
  audio : List (BitVec 16) := []
  enc : List (BitVec 16) := []
  absent : List (BitVec 16) := []
  lateDecodes : List (BitVec 16) := []
  lateEncodes : List (BitVec 16) := []
  deriving DecidableEq, Repr

/-- What ECC shows of a line (15 R341, R342). -/
inductive EccResult where
  | clean | corrected | uncorrectable
  deriving DecidableEq, Repr

/-- An access of device DRAM (15 R336): a die, an offset, the requester, the bytes of a write (64 for a whole line) or
none for a read, and what the ECC of a read shows. -/
structure DramReq where
  die : Nat := 0
  addr : Nat := 0
  req : Byte := 0
  data : Option (List Byte) := none
  ecc : EccResult := .clean
  deriving DecidableEq, Repr

/-- What a unit finds over Adit when its pair role settles (16 R351). -/
structure PeerSeen where
  present : Bool := false
  role : Role := .unpaired
  strap : Bool := false
  sameVariant : Bool := true
  sameStructure : Bool := true
  mac : BitVec 48 := 0
  manSeq : BitVec 32 := 0
  deriving DecidableEq, Repr

/-- Which PTP interval ends (02 R35). -/
inductive PtpKind where
  | sync | announce | delayReq | pdelayReq
  deriving DecidableEq, Repr

/-- A key slot that an adopted half names, as the active unit sends it before an ADOPT record (16 R356). -/
structure KeyCopy where
  handle : BitVec 16 := 0
  ktype : BitVec 4 := 0
  usage : BitVec 6 := 0
  owner : BitVec 6 := 0
  persist : Bool := false
  two : Bool := false
  gcmCount : BitVec 32 := 0
  value : BitVec 512 := 0
  deriving DecidableEq, Repr

/-- An admission ledger record, Table 16.1 (16 R356). ADOPT brings the adopted half, the subscription entries it names
(index and bytes) and its key slots; FLIP the halves of the group's layouts (log 31). -/
inductive LedgerRec where
  | admission (leg : BitVec 16) (ssrc : BitVec 32) (seq : BitVec 16) (c1 : BitVec 32) (arrival : BitVec 64) (verdict : BitVec 3)
  | playout (leg : BitVec 16) (anchor : Option Int) (target : Nat) (step : Int)
  | picture (ctx : BitVec 16) (ts : BitVec 32) (kind : BitVec 2)
  | lateDry (ctx : BitVec 16) (rung pic row : Nat)
  | forward (die idx : Nat) (want : Option (BitVec 2 × BitVec 2))
  | target (leg : BitVec 16) (rate : Nat)
  | adopt (isConf : Bool) (id version : BitVec 16) (mp : BitVec 64) (sample : Option (BitVec 6)) (half : List Byte)
      (subs : List (Nat × List Byte)) (keys : List KeyCopy)
  | flip (commit : Bool) (mp : BitVec 64) (layouts : List (BitVec 16 × List Byte))
  | random (v : BitVec 64)
  | sent (stream : BitVec 16) (pic : BitVec 64)
  | step (amount mp : BitVec 64)
  | seal (mp : BitVec 64) (count : Nat)
  deriving DecidableEq, Repr

/-- A structure image whose checks have passed: identity, and the payload of each section by type and
die (0xFF for the device) (03 R56, R58). -/
structure ImageDef where
  imageId : BitVec 64 := 0
  version : BitVec 32 := 0
  svn : BitVec 32 := 0
  sections : List (Nat × Nat × List Byte) := []
  deriving DecidableEq, Repr

/-- One entry of the delay table. -/
structure DlyEntry where
  /-- TX_FIX, signed, 2^-16 ns (TIM_DLY_TX_FIX) (02_device_time.md R37) -/
  txFix : BitVec 32 := 0
  /-- RX_FIX, signed, 2^-16 ns (TIM_DLY_RX_FIX) (02_device_time.md R37) -/
  rxFix : BitVec 32 := 0
  /-- CABLE, unsigned, 2^-16 ns (TIM_DLY_CABLE) (02_device_time.md R37) -/
  cable : BitVec 40 := 0
  deriving DecidableEq, Repr

/-- One transmit-stamp queue, at most 64 entries, oldest first. -/
structure TxsQueue where
  /-- the departure stamps with their identifiers (TIM_TXS_STAMP, TIM_TXS_INFO) (02_device_time.md R49) -/
  entries : List (BitVec 64 × BitVec 16) := []
  /-- stamps dropped (TIM_TXS_OVF) (02_device_time.md R49) -/
  ovf : BitVec 32 := 0
  deriving DecidableEq, Repr

/-- One of a die's 16 triggers. -/
structure Trigger where
  /-- TIM_TRIG_TIME (02_device_time.md R50) -/
  time : BitVec 64 := 0
  /-- the armed event stamp; TIM_TRIG_CTRL.ARM reads 1 while it is held (02_device_time.md R50) -/
  armed : Option (BitVec 64) := none
  /-- LATE_MODE (02_device_time.md R51) -/
  lateMode : Bool := false
  /-- TARGET (02_device_time.md R50) -/
  target : BitVec 3 := 0
  /-- ARG (02_device_time.md R50) -/
  arg : BitVec 8 := 0
  /-- FIRED (02_device_time.md R50) -/
  fired : Bool := false
  /-- LATE (02_device_time.md R51) -/
  late : Bool := false
  /-- BAD_TIME (02_device_time.md R50) -/
  badTime : Bool := false
  /-- TARGET and ARG of a late firing whose action waits for the next MP boundary (02_device_time.md R51) -/
  waiting : Option (BitVec 3 × BitVec 8) := none
  deriving DecidableEq, Repr

/-- One of a die's eight capture units. -/
structure CapUnit where
  /-- TIM_CAP_CFG.SRC (02_device_time.md R52) -/
  src : BitVec 4 := 0
  /-- TIM_CAP_CFG.EDGE (02_device_time.md R52) -/
  edge : BitVec 2 := 0
  /-- TIM_CAP_CFG.DIV (02_device_time.md R52) -/
  div : BitVec 16 := 1
  /-- TIM_CAP_CFG.FILTER as written (02_device_time.md R52) -/
  filter : BitVec 5 := 0
  /-- captured stamps with their edges (1 rise, 2 fall), oldest first, at most 16 (02_device_time.md R52) -/
  fifo : List (BitVec 64 × BitVec 8) := []
  /-- overflow count (TIM_CAP_INFO[47:16]) (02_device_time.md R52) -/
  ovf : BitVec 32 := 0
  /-- edges the divider has counted since it restarted (02_device_time.md R52) -/
  count : Nat := 0
  deriving DecidableEq, Repr

/-- The TIM block of a die. -/
structure Tim where
  /-- the die's device time, in units of 2^-16 ns since the PTP epoch (02_device_time.md R24) -/
  time : Nat := 0
  /-- what the rate correction has accumulated below one unit, in 2^-40 of a unit (02_device_time.md R30) -/
  acc : Nat := 0
  /-- TIM_FREQ_ADJ, signed rate correction, 2^-40 (02_device_time.md R30) -/
  freqAdj : BitVec 40 := 0
  /-- TIM_CTRL.SERVO_EN (02_device_time.md R55) -/
  servoEn : Bool := true
  /-- TIM_CTRL.SLAVE_EN (02_device_time.md R55) -/
  slaveEn : Bool := true
  /-- TIM_STATUS.SLAVE_ERR (02_device_time.md R32) -/
  slaveErr : Bool := false
  /-- TIM_EVENT: STATE_CHG, REF_CHG, STEP_DONE, TRIG, TXS_OVF, CAP_OVF (02_device_time.md R55) -/
  event : BitVec 6 := 0
  /-- TIM_SNAP_SEC (02_device_time.md R55) -/
  snapSec : BitVec 48 := 0
  /-- TIM_SNAP_NSF (02_device_time.md R55) -/
  snapNsf : BitVec 48 := 0
  /-- TIM_OFFSET, last measured offset, signed, 2^-16 ns (02_device_time.md R55) -/
  offset : BitVec 64 := 0
  /-- the slave re-measures after a route change, its rate held (02_device_time.md R32) -/
  remeasuring : Bool := false
  /-- since when every measured offset of the slave has exceeded 1 ns (02_device_time.md R32) -/
  beyondSince : Option (BitVec 64) := none
  /-- the delay table in use, by index 0 to 31 (02_device_time.md R37) -/
  dly : Tab DlyEntry := []
  /-- the delay table as written, in use from the next MP boundary (02_device_time.md R37) -/
  dlyNext : Tab DlyEntry := []
  /-- transmit-stamp queues 0 to 7 (02_device_time.md R49) -/
  txs : Tab TxsQueue := []
  /-- triggers 0 to 15 (02_device_time.md R50) -/
  trig : Tab Trigger := []
  /-- capture units 0 to 7 (02_device_time.md R52) -/
  cap : Tab CapUnit := []
  deriving DecidableEq, Repr

/-- One reference source of the servo (PPS_IN_A/B, EXT10M_A/B, PTP, SyncE). -/
structure Ref where
  /-- its state (TIM_REF_STATE) (02_device_time.md R38) -/
  state : RefSt := .disqStop
  /-- no edge since reset or since the stop (02_device_time.md R38) -/
  stopped : Bool := true
  /-- stamp of the last edge (02_device_time.md R38) -/
  lastEdge : BitVec 64 := 0
  /-- start of the clean history (02_device_time.md R38) -/
  cleanSince : BitVec 64 := 0
  /-- predicted stamp of the next edge; for PTP the predicted offset (02_device_time.md R38) -/
  predicted : BitVec 64 := 0
  /-- frequency estimate, in 10^-12 (02_device_time.md R38) -/
  freqEst : Int := 0
  /-- consecutive windows more than 2 ppm off (02_device_time.md R38) -/
  badWindows : Nat := 0
  /-- consecutive PTP outlier measurements (02_device_time.md R40) -/
  outliers : Nat := 0
  /-- the frequency estimates of the good measurements of the last 16 s, newest first (02_device_time.md R43) -/
  history : List (BitVec 64 × Int) := []
  /-- PTP: the source is in slave state; SyncE: the port has link (02_device_time.md R36 R40) -/
  present : Bool := false
  /-- SyncE: SSM code of the last ESMC message (02_device_time.md R36) -/
  ql : Option (BitVec 4) := none
  /-- SyncE: no ESMC message for 5 s (02_device_time.md R36) -/
  silent : Bool := false
  deriving DecidableEq, Repr

/-- One of the PTP ports of TIM_PTP_PORTS. -/
structure PtpPort where
  /-- its state (02_device_time.md R35) -/
  state : PtpState := .listening
  /-- the best foreign master heard, with its port identity (02_device_time.md R35) -/
  best : Option (BitVec 80 × PtpClock) := none
  /-- when its last Announce message came (02_device_time.md R40) -/
  bestAt : BitVec 64 := 0
  /-- a two-step Sync that awaits its Follow_Up: sequence number, and arrival less correction (02_device_time.md R35) -/
  sync : Option (BitVec 16 × BitVec 64) := none
  /-- arrival less origin of the last Sync (02_device_time.md R35) -/
  last : Int := 0
  /-- departure of the last delay request (02_device_time.md R35) -/
  reqAt : Option (BitVec 64) := none
  /-- a two-step Pdelay_Resp that awaits its follow-up: its arrival less the request's departure, and plus the request's receipt (02_device_time.md R35) -/
  respAt : Option Int := none
  /-- mean path delay, 2^-16 ns (02_device_time.md R35) -/
  delay : Option Int := none
  /-- sequence number of the last message sent (02_device_time.md R35) -/
  seq : BitVec 16 := 0
  deriving DecidableEq, Repr

/-- The servo of die 0 with its registers. -/
structure Servo where
  /-- TIM_STATUS.STATE (02_device_time.md R41) -/
  state : ServoState := .freerun
  /-- TIM_STATUS.TIME_SET (02_device_time.md R42) -/
  timeSet : Bool := false
  /-- TIM_STATUS.PHASE_SRC (02_device_time.md R34) -/
  phaseSrc : BitVec 4 := 0
  /-- TIM_STATUS.FREQ_SRC (02_device_time.md R34) -/
  freqSrc : BitVec 4 := 0
  /-- the sources by their code of Table 2.2 (02_device_time.md R38) -/
  refs : Tab Ref := []
  /-- TIM_SRC_PRIO, six source codes, highest priority lowest (02_device_time.md R34) -/
  srcPrio : BitVec 24 := 0
  /-- stamp since which the offset has stayed within 500 ps (02_device_time.md R41) -/
  lockSince : BitVec 64 := 0
  /-- frequency estimate frozen at the entry to HOLDOVER, 2^-40 (02_device_time.md R44) -/
  slew : Int := 0
  /-- uptime at the entry to HOLDOVER (TIM_HOLD_AGE) (02_device_time.md R43) -/
  holdSince : Option Nat := none
  /-- the PTP ports 0 to 3 of TIM_PTP_PORTS (02_device_time.md R35) -/
  ptp : Tab PtpPort := []
  /-- TIM_STEP_AMT (02_device_time.md R45) -/
  stepAmt : BitVec 64 := 0
  /-- TIM_STEP_MP (02_device_time.md R45) -/
  stepMp : BitVec 64 := 0
  /-- TIM_STEP_CTRL.INITIAL (02_device_time.md R42) -/
  initial : Bool := false
  /-- pending step: amount and MP number (TIM_STEP_CTRL.PENDING) (02_device_time.md R45) -/
  stepPending : Option (BitVec 64 × BitVec 64) := none
  /-- TIM_STEP_CTRL.REJECT (02_device_time.md R45) -/
  stepReject : Bool := false
  /-- TIM_UTC_OFS: offset and valid bit (02_device_time.md R27) -/
  utcOfs : BitVec 17 := 0
  /-- TIM_PTP_CFG (02_device_time.md R55) -/
  ptpCfg : BitVec 64 := 0x0064808003000000#64
  /-- TIM_PTP_PORTS (02_device_time.md R55) -/
  ptpPorts : BitVec 32 := 0
  /-- TIM_SYNCE_CFG (02_device_time.md R36) -/
  synceCfg : BitVec 64 := 0
  /-- TIM_PPS_OUT_CFG (02_device_time.md R55) -/
  ppsCfg : BitVec 64 := 0
  /-- TIM_10M_OUT_CFG (02_device_time.md R55) -/
  tenMCfg : BitVec 64 := 0
  deriving DecidableEq, Repr

/-- The structure registers of a die and what its structure image set. -/
structure StructReg where
  /-- DIE_STRUCT_ID (03_structure_image.md R76) -/
  id : BitVec 64 := 0
  /-- DIE_STRUCT_VER: VERSION and SVN (03_structure_image.md R76) -/
  ver : BitVec 64 := 0
  /-- DIE_STRUCT_STATUS.STATE (03_structure_image.md R76) -/
  state : StructState := .none
  /-- DRAINING (03_structure_image.md R71) -/
  draining : Bool := false
  /-- stamp at which the structure reached RUNNING (03_structure_image.md R62) -/
  runAt : BitVec 64 := 0
  /-- BANK (03_structure_image.md R76) -/
  bank : Bool := false
  /-- HOIST_TRACE, the HOIST_OBS mode (03_structure_image.md R69) -/
  hoistTrace : Bool := false
  /-- LAST_ERR (03_structure_image.md R63) -/
  lastErr : BitVec 16 := 0
  /-- DIE_BW_ALLOC, allocation of class c, 100 MB/s (03_structure_image.md R65) -/
  bwAlloc : Tab (BitVec 12) := []
  /-- DIE_BW_USE, mean use over the last MP (03_structure_image.md R76) -/
  bwUse : Tab (BitVec 12) := []
  /-- DIE_BW_OVER, windows in which the class waited (03_structure_image.md R68) -/
  bwOver : Tab (BitVec 32) := []
  /-- bytes the class has moved in the running MP (03_structure_image.md R76) -/
  bwMoved : Tab Nat := []
  /-- admitted load of class c, bytes/s (03_structure_image.md R67) -/
  bwAdmitted : Tab Nat := []
  /-- CODEC_ROLE of cores 0 to 7: 0 off, 1 decode, 2 encode, 3 analysis (03_structure_image.md R56) -/
  codecRole : Tab (BitVec 2) := []
  /-- FACE_SPLIT, vendor cores (DIE_FACE_SPLIT.VENDOR) (03_structure_image.md R56) -/
  faceVendor : Nat := 0
  /-- FACE_SPLIT, customer cores (DIE_FACE_SPLIT.CUSTOMER) (03_structure_image.md R56) -/
  faceCustomer : Nat := 0
  /-- conferences the die may home (DIE_ROLE) (03_structure_image.md R56) -/
  homeConfs : Nat := 0
  /-- CLOCK_PLAN, spread enable of each engine PLL (03_structure_image.md R56) -/
  spread : BitVec 32 := 0
  /-- payloads of the sections of the running structure that describe this die, and on die 0 the device sections (03_structure_image.md R70) -/
  sections : List (Nat × List (BitVec 8)) := []
  /-- Face DMA region of DRAM_PART, first die offset (03_structure_image.md R56) -/
  faceDmaBase : Nat := 0
  /-- Face DMA region of DRAM_PART, bytes (03_structure_image.md R56) -/
  faceDmaLen : Nat := 0
  /-- jitter-buffer pool of DRAM_PART, bytes (03_structure_image.md R56) -/
  jbPool : Nat := 0
  /-- packet-buffer pool of DRAM_PART, bytes (03_structure_image.md R56) -/
  pktPool : Nat := 0
  deriving DecidableEq, Repr

/-- The restructure registers and the restructure in progress. -/
structure Restruct where
  /-- DIE_RESTRUCT_ADDR (03_structure_image.md R71) -/
  addr : BitVec 64 := 0
  /-- DIE_RESTRUCT_MP (03_structure_image.md R71) -/
  mp : BitVec 64 := 0
  /-- DIE_RESTRUCT_CTRL.DIE as last written (03_structure_image.md R76) -/
  dieReg : BitVec 3 := 0
  /-- target die of the restructure in progress (03_structure_image.md R71) -/
  die : BitVec 3 := 0
  /-- BUSY (03_structure_image.md R71) -/
  busy : Bool := false
  /-- RESULT (03_structure_image.md R76) -/
  result : BitVec 3 := 0
  /-- GO_BUSY (03_structure_image.md R70) -/
  goBusy : Bool := false
  /-- MP in which GO was written (03_structure_image.md R71) -/
  t0 : BitVec 64 := 0
  /-- activation MP of the restructure in progress (03_structure_image.md R71) -/
  act : BitVec 64 := 0
  /-- last step of Table 3.7 carried out (03_structure_image.md R71) -/
  step : Nat := 0
  /-- the accepted single-die image, applied at step 7 (03_structure_image.md R71) -/
  image : Option ImageDef := none
  deriving DecidableEq, Repr

/-- A table doorbell or SAFE_LOAD that has arrived and has not completed. -/
structure Doorbell where
  /-- the ringing function (04_legs_and_tables.md R88) -/
  func : Nat := 0
  /-- TAG (04_legs_and_tables.md R88) -/
  tag : BitVec 16 := 0
  /-- VERSION (04_legs_and_tables.md R88) -/
  version : BitVec 16 := 0
  /-- HOLD: it waits for RELEASE_HELD (04_legs_and_tables.md R89) -/
  hold : Bool := false
  /-- MP boundary at which it is adopted; none while held (04_legs_and_tables.md R89) -/
  atMp : Option (BitVec 64) := none
  /-- another one was pending when it arrived (04_legs_and_tables.md R89) -/
  busy : Bool := false
  /-- adopted one boundary later by the 20 µs rule (04_legs_and_tables.md R102) -/
  late : Bool := false
  /-- a bit marked 0 in Table 4.7 was set: INVALID at check 4 (04_legs_and_tables.md R88) -/
  bad : Bool := false
  /-- SAMPLE of a SAFE_LOAD; none for a plain doorbell (07_audio_mixing.md R174) -/
  sample : Option (BitVec 6) := none
  /-- a SAFE_LOAD whose checks have passed and whose completion waits for its sample (07_audio_mixing.md R174) -/
  adopted : Bool := false
  deriving DecidableEq, Repr

/-- Command and completion queue of one function. -/
structure FuncQueue where
  /-- LEG_SQ_BASE (04_legs_and_tables.md R102) -/
  sqBase : BitVec 64 := 0
  /-- LEG_SQ_CFG.LOG2_SIZE (04_legs_and_tables.md R103) -/
  sqLog2 : BitVec 4 := 4
  /-- LEG_SQ_CFG.ENABLE (04_legs_and_tables.md R103) -/
  sqEn : Bool := false
  /-- LEG_SQ_HEAD (04_legs_and_tables.md R102) -/
  sqHead : BitVec 12 := 0
  /-- tail last written to the doorbell page (04_legs_and_tables.md R92) -/
  sqTail : BitVec 12 := 0
  /-- MODEL: what the command queue in host memory holds from LEG_SQ_HEAD to the tail (04_legs_and_tables.md R92) -/
  inHost : List Cmd := []
  /-- fetched commands that have not started, oldest first (04_legs_and_tables.md R92) -/
  fetched : List Cmd := []
  /-- commands started and not yet completed, oldest first: tag, and whether it is a NOP (04_legs_and_tables.md R93) -/
  running : List (BitVec 16 × Bool) := []
  /-- LEG_CQ_BASE (04_legs_and_tables.md R102) -/
  cqBase : BitVec 64 := 0
  /-- LEG_CQ_CFG.LOG2_SIZE (04_legs_and_tables.md R103) -/
  cqLog2 : BitVec 4 := 4
  /-- LEG_CQ_CFG.VECTOR (04_legs_and_tables.md R102) -/
  cqVector : BitVec 11 := 0
  /-- LEG_CQ_CFG.IRQ_EN (04_legs_and_tables.md R102) -/
  cqIrq : Bool := false
  /-- LEG_CQ_CFG.ENABLE (04_legs_and_tables.md R103) -/
  cqEn : Bool := false
  /-- LEG_CQ_TAIL.TAIL (04_legs_and_tables.md R102) -/
  cqTail : BitVec 12 := 0
  /-- LEG_CQ_TAIL.PHASE (04_legs_and_tables.md R94) -/
  cqPhase : Bool := true
  /-- head last written to the doorbell page (04_legs_and_tables.md R92) -/
  cqHead : BitVec 12 := 0
  /-- LEG_CQ_DEFER (04_legs_and_tables.md R95) -/
  cqDefer : BitVec 32 := 0
  /-- a full completion queue is deferring adoptions and fetches (04_legs_and_tables.md R95) -/
  deferring : Bool := false
  /-- completions that wait for a free slot; none is lost (04_legs_and_tables.md R95) -/
  waiting : List Completion := []
  deriving DecidableEq, Repr

/-- The per-die registers of the LEG block. -/
structure LegBlk where
  /-- LEG_CACHE_HIT (04_legs_and_tables.md R102) -/
  cacheHit : BitVec 32 := 0
  /-- LEG_CACHE_MISS (04_legs_and_tables.md R102) -/
  cacheMiss : BitVec 32 := 0
  /-- local legs whose live halves are cached, most recently used first, at most 256 (04_legs_and_tables.md R91) -/
  cache : List Nat := []
  /-- LEG_DB_LATE (04_legs_and_tables.md R102) -/
  dbLate : BitVec 32 := 0
  /-- LEG_CONF_OWNER (04_legs_and_tables.md R97) -/
  confOwner : Tab (BitVec 6) := []
  /-- LEG_SUB_RANGE: FIRST and COUNT (04_legs_and_tables.md R96) -/
  subRange : Tab (BitVec 64) := []
  deriving DecidableEq, Repr

/-- A leg or conference move in progress. -/
structure Migration where
  /-- REHOME_CONF rather than MIGRATE_LEG (04_legs_and_tables.md R98 R100) -/
  isConf : Bool := false
  /-- L or C (04_legs_and_tables.md R98) -/
  src : BitVec 16 := 0
  /-- L' or C' (04_legs_and_tables.md R98) -/
  dst : BitVec 16 := 0
  /-- S (04_legs_and_tables.md R98) -/
  switchMp : BitVec 64 := 0
  /-- the posting function; the PF for a bridge-initiated one (04_legs_and_tables.md R98) -/
  func : Nat := 0
  /-- TAG (04_legs_and_tables.md R98) -/
  tag : BitVec 16 := 0
  /-- MP t in which it was posted (04_legs_and_tables.md R98) -/
  posted : Nat := 0
  /-- the state of L has been sent (step 4) (04_legs_and_tables.md R98) -/
  sent : Bool := false
  /-- started by the bridge: KIND 3 (16_pair_and_wear.md R368) -/
  byBridge : Bool := false
  /-- contexts that move with the leg: whether encode, old handle, new handle (09_video_decode.md R199, 11 R241) -/
  ctxs : List (Bool × BitVec 16 × BitVec 16) := []
  deriving DecidableEq, Repr

/-- One audio packet in a leg's jitter buffer. -/
structure JbFrame where
  /-- RTP sequence number (05_ingress_and_jitter.md R129) -/
  seq : BitVec 16 := 0
  /-- RTP timestamp (05_ingress_and_jitter.md R126) -/
  ts : BitVec 32 := 0
  /-- frame length in samples at 48 kHz (05_ingress_and_jitter.md R131) -/
  len : Nat := 0
  /-- coded payload (05_ingress_and_jitter.md R126) -/
  payload : List (BitVec 8) := []
  /-- RFC 6464 level of the packet (07_audio_mixing.md R160) -/
  level : BitVec 7 := 0
  /-- RFC 6464 V flag of the packet (07_audio_mixing.md R160) -/
  vflag : Bool := false
  /-- the packet carries Opus in-band FEC for its predecessor (07_audio_mixing.md R158) -/
  fec : Bool := false
  /-- placed before the tag verdict, for CUT_THROUGH decode (06_cipher_and_keys.md R149) -/
  provisional : Bool := false
  /-- its first MP is faded in (re-anchor) (05_ingress_and_jitter.md R126) -/
  fadeIn : Bool := false
  /-- play-out position of its first sample, samples (05_ingress_and_jitter.md R126) -/
  pos : Int := 0
  /-- bytes it holds of the jitter-buffer pool (05_ingress_and_jitter.md R115) -/
  size : Nat := 0
  /-- carry check C2 of the plaintext (05_ingress_and_jitter.md R116) -/
  c2 : BitVec 32 := 0
  deriving DecidableEq, Repr

/-- One missing sequence number of RX_SSRC_V0. -/
structure Nack where
  /-- the missing sequence number (05_ingress_and_jitter.md R123) -/
  seq : BitVec 16 := 0
  /-- requests sent (05_ingress_and_jitter.md R123) -/
  count : Nat := 0
  /-- stamp of the next request (05_ingress_and_jitter.md R123) -/
  due : BitVec 64 := 0
  deriving DecidableEq, Repr

/-- The audio jitter buffer of a leg. -/
structure Jb where
  /-- stored frames in sequence order (05_ingress_and_jitter.md R129) -/
  frames : List JbFrame := []
  /-- a packet has set OFFSET since the leg opened (05_ingress_and_jitter.md R126) -/
  anchored : Bool := false
  /-- OFFSET in samples, stretch steps included (05_ingress_and_jitter.md R126) -/
  offset : Int := 0
  /-- the anchor offset (05_ingress_and_jitter.md R126) -/
  anchorOffset : Int := 0
  /-- current target, samples (05_ingress_and_jitter.md R127) -/
  target : Nat := 0
  /-- PLAYOUT, samples (05_ingress_and_jitter.md R126) -/
  playout : Int := 0
  /-- stretch step of the MP (05_ingress_and_jitter.md R127) -/
  step : Int := 0
  /-- current play-out position on the leg's timeline, samples (05_ingress_and_jitter.md R126) -/
  pos : Int := 0
  /-- arrival MP and delay under the anchor offset of the last 2,000 MP's packets (05_ingress_and_jitter.md R127) -/
  window : List (Nat × Int) := []
  /-- highest timestamp received and its unwrapped media position, samples (05_ingress_and_jitter.md R126) -/
  hi : Option (BitVec 32 × Int) := none
  /-- end of the latest frame received so far, as a media position (05_ingress_and_jitter.md R126) -/
  endMedia : Int := 0
  /-- MPs of the running underrun (05_ingress_and_jitter.md R131) -/
  underrun : Nat := 0
  /-- the leg is silent until a stored position is reached (05_ingress_and_jitter.md R131) -/
  silent : Bool := false
  /-- consecutive silent MPs (05_ingress_and_jitter.md R131) -/
  silentRun : Nat := 0
  /-- last transit time, for the RFC 3550 jitter (05_ingress_and_jitter.md R133) -/
  transit : Option Int := none
  /-- RFC 3550 interarrival jitter, ns × 16 (05_ingress_and_jitter.md R133) -/
  jitter : Nat := 0
  /-- an anchor of the ledger whose packet has not been placed, and whether it fades in (05_ingress_and_jitter.md R130) -/
  pend : Option Bool := none
  /-- sequence number of the frame decoded last (07_audio_mixing.md R158) -/
  lastSeq : Option (BitVec 16) := none
  /-- what the decoder delivers for the MP: 0 nothing yet, 1 decoded, 2 in-band FEC, 3 concealment, 4 silence (05_ingress_and_jitter.md R131) -/
  mode : BitVec 3 := 0
  /-- the MP is faded in after silence or a re-anchor (05_ingress_and_jitter.md R131) -/
  fade : Bool := false
  deriving DecidableEq, Repr

/-- Mapping of a received video SSRC to device time. -/
structure VidMap where
  /-- the SSRC (05_ingress_and_jitter.md R128) -/
  ssrc : BitVec 32 := 0
  /-- RTP timestamp of the anchor (05_ingress_and_jitter.md R128) -/
  ts : BitVec 32 := 0
  /-- stamp of the anchor (05_ingress_and_jitter.md R128) -/
  at_ : BitVec 64 := 0
  /-- highest RTP timestamp received (05_ingress_and_jitter.md R128) -/
  last : BitVec 32 := 0
  /-- distance of the last two frames, 90 kHz units (05_ingress_and_jitter.md R128) -/
  gap : Nat := 0
  /-- last transit time, for the RFC 3550 jitter (12_forwarding_and_egress.md R277) -/
  transit : Option Int := none
  /-- RFC 3550 interarrival jitter, ns × 16 (12_forwarding_and_egress.md R277) -/
  jitter : Nat := 0
  deriving DecidableEq, Repr

/-- Receive counters and policing bucket of a leg. -/
structure LegRx where
  /-- RX_PKTS (05_ingress_and_jitter.md R133) -/
  rxPkts : BitVec 64 := 0
  /-- RX_BYTES (05_ingress_and_jitter.md R133) -/
  rxBytes : BitVec 64 := 0
  /-- LOST (05_ingress_and_jitter.md R133) -/
  lost : BitVec 32 := 0
  /-- RECOVERED (05_ingress_and_jitter.md R124) -/
  recovered : BitVec 32 := 0
  /-- LATE (05_ingress_and_jitter.md R129) -/
  late : BitVec 32 := 0
  /-- EARLY (05_ingress_and_jitter.md R129) -/
  early : BitVec 32 := 0
  /-- DUP (05_ingress_and_jitter.md R129) -/
  dup : BitVec 32 := 0
  /-- SSRC_UNKNOWN (05_ingress_and_jitter.md R120) -/
  ssrcUnknown : BitVec 32 := 0
  /-- POLICE_DROP (05_ingress_and_jitter.md R114) -/
  policeDrop : BitVec 32 := 0
  /-- POLICE_MARK (05_ingress_and_jitter.md R114) -/
  policeMark : BitVec 32 := 0
  /-- TAG_FAIL (06_cipher_and_keys.md R148) -/
  tagFail : BitVec 32 := 0
  /-- CARRY_FAIL (05_ingress_and_jitter.md R118) -/
  carryFail : BitVec 32 := 0
  /-- CONCEAL_MP (05_ingress_and_jitter.md R131) -/
  concealMp : BitVec 32 := 0
  /-- SILENT_MP (05_ingress_and_jitter.md R131) -/
  silentMp : BitVec 32 := 0
  /-- STRETCH (05_ingress_and_jitter.md R127) -/
  stretch : Int := 0
  /-- NACK_SENT (05_ingress_and_jitter.md R123) -/
  nackSent : BitVec 32 := 0
  /-- PT_UNKNOWN (05_ingress_and_jitter.md R125) -/
  ptUnknown : BitVec 32 := 0
  /-- policing tokens, 10^-6 bit (05_ingress_and_jitter.md R114) -/
  tok : Nat := 0
  /-- stamp of the last policing update (05_ingress_and_jitter.md R114) -/
  last : BitVec 64 := 0
  /-- outstanding requests, oldest first, at most 256 (05_ingress_and_jitter.md R123) -/
  nacks : List Nack := []
  /-- highest sequence number released, per received SSRC (05_ingress_and_jitter.md R123) -/
  tops : List (BitVec 32 × BitVec 16) := []
  /-- SSRC and sequence number of the last 2,048 packets placed, newest first (05_ingress_and_jitter.md R129 R124 R133) -/
  got : List (BitVec 32 × BitVec 16) := []
  /-- SSRC, sequence number, ECN and arrival of the packets since the last RFC 8888 report (05_ingress_and_jitter.md R106) -/
  seen : List (BitVec 32 × BitVec 16 × BitVec 2 × BitVec 64) := []
  /-- packets never released, per received SSRC (12_forwarding_and_egress.md R277) -/
  lostBy : List (BitVec 32 × BitVec 32) := []
  /-- received video SSRCs (05_ingress_and_jitter.md R128) -/
  vmap : List VidMap := []
  /-- round-trip time, ns (05_ingress_and_jitter.md R123) -/
  rtt : Nat := 100000000
  /-- published receive-statistics entry, 16 words (Table 5.7) (05_ingress_and_jitter.md R133) -/
  pub : List (BitVec 64) := []
  deriving DecidableEq, Repr

/-- SRTP state of one sent SSRC of a leg. -/
structure TxCtx where
  /-- the SSRC (06_cipher_and_keys.md R150) -/
  ssrc : BitVec 32 := 0
  /-- SRTP index: rollover counter and sequence number (06_cipher_and_keys.md R150) -/
  index : Nat := 0
  /-- index written back to the crypto area (17_power_reset_errors.md R379) -/
  stored : Nat := 0
  /-- rekey warning raised (06_cipher_and_keys.md R150) -/
  warned : Bool := false
  deriving DecidableEq, Repr

/-- Replay window of one received SSRC. -/
structure RxWin where
  /-- the SSRC; the leg's SRTCP window is held separately (06_cipher_and_keys.md R147) -/
  ssrc : BitVec 32 := 0
  /-- highest index accepted (06_cipher_and_keys.md R147) -/
  high : Option Nat := none
  /-- accepted indexes still inside the window (06_cipher_and_keys.md R147) -/
  seen : List Nat := []
  deriving DecidableEq, Repr

/-- The crypto area of a leg. -/
structure Crypto where
  /-- sent SSRCs (06_cipher_and_keys.md R437) -/
  tx : List TxCtx := []
  /-- SRTCP index (06_cipher_and_keys.md R150) -/
  srtcpIndex : Nat := 0
  /-- SRTCP index written back (17_power_reset_errors.md R379) -/
  srtcpStored : Nat := 0
  /-- rekey warning raised for the SRTCP index (06_cipher_and_keys.md R150) -/
  srtcpWarned : Bool := false
  /-- packets under the TX master key (06_cipher_and_keys.md R150) -/
  keyPkts : Nat := 0
  /-- rekey warning raised for the packet count (06_cipher_and_keys.md R150) -/
  keyWarned : Bool := false
  /-- TX_KEY the counts belong to (06_cipher_and_keys.md R437) -/
  txKey : BitVec 16 := 0
  /-- RX_KEY the windows belong to (06_cipher_and_keys.md R437) -/
  rxKey : BitVec 16 := 0
  /-- replay windows of the received SSRCs (06_cipher_and_keys.md R147) -/
  win : List RxWin := []
  /-- replay window of the leg's SRTCP (06_cipher_and_keys.md R147) -/
  rtcpWin : RxWin := {}
  /-- previous RX key and the stamp at which its grace ends (06_cipher_and_keys.md R147) -/
  grace : Option (BitVec 16 × BitVec 64) := none
  /-- no adoption since ALLOC_LEG (06_cipher_and_keys.md R437) -/
  fresh : Bool := false
  /-- TX_SSRC_A, TX_SSRC_V and TX_SSRC_RTX of the last open half (06_cipher_and_keys.md R437) -/
  own : List (BitVec 32) := []
  deriving DecidableEq, Repr

/-- The audio parameter set of a leg that processing uses. -/
structure AudioSet where
  /-- IN_GAIN, signed Q7.8 dB (07_audio_mixing.md R174) -/
  inGain : BitVec 16 := 0
  /-- MUTE (07_audio_mixing.md R174) -/
  mute : Bool := false
  /-- TALK_EN (07_audio_mixing.md R174) -/
  talkEn : Bool := false
  /-- THRESH, RATIO, KNEE, MAKEUP (07_audio_mixing.md R174) -/
  comp : BitVec 64 := 0
  /-- ATTACK, RELEASE, COMP_EN (07_audio_mixing.md R174) -/
  times : BitVec 33 := 0
  deriving DecidableEq, Repr

/-- Audio state of a leg. -/
structure LegAudio where
  /-- audio set in use at the start of the MP (07_audio_mixing.md R174) -/
  set : AudioSet := {}
  /-- set that takes effect at a sample of the running MP (07_audio_mixing.md R174) -/
  next : Option (Nat × AudioSet) := none
  /-- the leg is decoded in the running MP, and its block came (07_audio_mixing.md R162) -/
  wasDecoded : Bool := false
  /-- score of the MP (07_audio_mixing.md R160) -/
  score : Nat := 0
  /-- MP of last activity (07_audio_mixing.md R161) -/
  lastActive : Option Nat := none
  /-- score of the previous MP's decoded block (07_audio_mixing.md R160) -/
  energy : Nat := 0
  /-- codec that its decoder runs (07_audio_mixing.md R157) -/
  ac : Nat := 0
  /-- the stream last decoded has one channel (07_audio_mixing.md R168) -/
  mono : Bool := false
  /-- compressor gain state, 2^-32 dB (07_audio_mixing.md R166) -/
  compG : Int := 0
  /-- running gain ramp: the linear gain it starts from, 2^-30, and the samples done (07_audio_mixing.md R167) -/
  ramp : Option (Nat × Nat) := none
  /-- the contribution of the MP is faded in (07_audio_mixing.md R162) -/
  fadeIn : Bool := false
  deriving DecidableEq, Repr

/-- One received video frame of a stream. -/
structure VFrame where
  /-- RTP timestamp (05_ingress_and_jitter.md R128) -/
  ts : BitVec 32 := 0
  /-- spatial layer or simulcast stream (09_video_decode.md R212) -/
  spatial : BitVec 2 := 0
  /-- temporal layer (09_video_decode.md R212) -/
  temporal : BitVec 2 := 0
  /-- stamp at which its first packet was released (09_video_decode.md R212) -/
  firstRelease : BitVec 64 := 0
  /-- all its packets are released (05_ingress_and_jitter.md R128) -/
  complete : Bool := false
  /-- sequence numbers of its released packets (05_ingress_and_jitter.md R128) -/
  seqs : List (BitVec 16) := []
  /-- payload bytes released (05_ingress_and_jitter.md R128) -/
  bytes : List (BitVec 8) := []
  /-- carry checks C2 of its packets, newest first (05_ingress_and_jitter.md R116) -/
  c2 : List (BitVec 32) := []
  /-- it has broken its layer (09_video_decode.md R212) -/
  broke : Bool := false
  /-- sequence number of its first packet, once released (05_ingress_and_jitter.md R128) -/
  firstSeq : Option (BitVec 16) := none
  /-- sequence number of its last packet, once released (05_ingress_and_jitter.md R128) -/
  lastSeq : Option (BitVec 16) := none
  /-- bytes it holds of the packet-buffer pool (05_ingress_and_jitter.md R115) -/
  size : Nat := 0
  /-- AV1 operating points it belongs to (09_video_decode.md R197) -/
  ops : BitVec 32 := 0xFFFFFFFF#32
  /-- decode contexts that have taken it (09_video_decode.md R206) -/
  taken : List (BitVec 16) := []
  deriving DecidableEq, Repr

/-- State of one layer of a received video stream. -/
structure Layer where
  /-- intact or broken (09_video_decode.md R212) -/
  broken : Bool := false
  /-- MP and IP bytes released, over the last 500 MP (12_forwarding_and_egress.md R266) -/
  window : List (Nat × Nat) := []
  /-- measured rate of the layer alone, kb/s (12_forwarding_and_egress.md R266) -/
  rate : Nat := 0
  deriving DecidableEq, Repr

/-- The keyframe limiter of one received SSRC. -/
structure KfLimit where
  /-- the SSRC (09_video_decode.md R211) -/
  ssrc : BitVec 32 := 0
  /-- stamp of the last request sent (09_video_decode.md R211) -/
  lastSent : Option (BitVec 64) := none
  /-- FIR sequence number (09_video_decode.md R211) -/
  firSeq : BitVec 8 := 0
  deriving DecidableEq, Repr

/-- A packet in egress. -/
structure TxPacket where
  /-- sending leg; 0xFFFF for Duken and host frames (12_forwarding_and_egress.md R278) -/
  leg : BitVec 16 := 0xFFFF#16
  /-- RTCP, audio, retransmission, video, or control (12_forwarding_and_egress.md R278) -/
  kind : TxKind := .video
  /-- SSRC (12_forwarding_and_egress.md R271) -/
  ssrc : BitVec 32 := 0
  /-- sequence number (12_forwarding_and_egress.md R271) -/
  seq : BitVec 16 := 0
  /-- timestamp (12_forwarding_and_egress.md R271) -/
  ts : BitVec 32 := 0
  /-- payload type (12_forwarding_and_egress.md R271) -/
  pt : BitVec 7 := 0
  /-- marker bit (12_forwarding_and_egress.md R271) -/
  marker : Bool := false
  /-- IP packet length (12_forwarding_and_egress.md R279) -/
  ipLen : Nat := 0
  /-- payload after encryption (12_forwarding_and_egress.md R271) -/
  payload : List (BitVec 8) := []
  /-- egress entry, on the clock of durations (12_forwarding_and_egress.md R281) -/
  entry : BitVec 64 := 0
  /-- SRTP index it was encrypted under (06_cipher_and_keys.md R150) -/
  index : Nat := 0
  /-- the message of an RTCP packet (12_forwarding_and_egress.md R277) -/
  rtcp : Option RtcpMsg := none
  /-- identifier of a requested transmit stamp (02_device_time.md R49) -/
  stampTag : Option (BitVec 16) := none
  /-- EGR_SEND command it completes: function and TAG (12_forwarding_and_egress.md R283) -/
  owner : Option (Nat × BitVec 16) := none
  /-- message of the Duken core that it carries (12_forwarding_and_egress.md R278) -/
  duken : Option DukenMsg := none
  deriving DecidableEq, Repr

/-- A sent video packet held for retransmission. -/
structure Held where
  /-- the packet as sent (12_forwarding_and_egress.md R273) -/
  pkt : TxPacket := {}
  /-- its payload before encryption (12_forwarding_and_egress.md R273) -/
  plain : List (BitVec 8) := []
  /-- instant on the clock of durations at which it was sent (12_forwarding_and_egress.md R273) -/
  sentAt : BitVec 64 := 0
  /-- stamp of its last resend (12_forwarding_and_egress.md R273) -/
  resentAt : Option (BitVec 64) := none
  deriving DecidableEq, Repr

/-- Egress state and transmit counters of a leg. -/
structure LegTx where
  /-- queued packets, oldest first (12_forwarding_and_egress.md R278) -/
  queue : List TxPacket := []
  /-- shaper tokens, 10^-6 bit (12_forwarding_and_egress.md R280) -/
  tok : Nat := 0
  /-- stamp of the last shaper update (12_forwarding_and_egress.md R280) -/
  last : BitVec 64 := 0
  /-- start tag (12_forwarding_and_egress.md R279) -/
  start : BitVec 64 := 0
  /-- finish tag (12_forwarding_and_egress.md R279) -/
  finish : BitVec 64 := 0
  /-- the queue is ready (12_forwarding_and_egress.md R279) -/
  ready : Bool := false
  /-- packets held for RTX_HOLD, oldest first (12_forwarding_and_egress.md R273) -/
  held : List Held := []
  /-- TX_PKTS (12_forwarding_and_egress.md R285) -/
  txPkts : BitVec 64 := 0
  /-- TX_BYTES (12_forwarding_and_egress.md R285) -/
  txBytes : BitVec 64 := 0
  /-- target rate, kb/s (12_forwarding_and_egress.md R274) -/
  target : Nat := 0
  /-- TARGET_SRC (12_forwarding_and_egress.md R285) -/
  targetSrc : BitVec 2 := 0
  /-- instant of the last change of the target, on the clock of durations (11_video_encode.md R257) -/
  targetAt : BitVec 64 := 0
  /-- target before that change, kb/s (11_video_encode.md R257) -/
  targetPrev : Nat := 0
  /-- QUEUE_DROP (12_forwarding_and_egress.md R280) -/
  queueDrop : BitVec 32 := 0
  /-- WAIT_DROP (12_forwarding_and_egress.md R280) -/
  waitDrop : BitVec 32 := 0
  /-- NACK_RX (12_forwarding_and_egress.md R285) -/
  nackRx : BitVec 32 := 0
  /-- RTX_SENT (12_forwarding_and_egress.md R273) -/
  rtxSent : BitVec 32 := 0
  /-- RTX_MISS (12_forwarding_and_egress.md R273) -/
  rtxMiss : BitVec 32 := 0
  /-- KF_RX (12_forwarding_and_egress.md R272) -/
  kfRx : BitVec 32 := 0
  /-- LOSS (12_forwarding_and_egress.md R285) -/
  loss : BitVec 8 := 0
  /-- SWITCHES (12_forwarding_and_egress.md R285) -/
  switches : BitVec 32 := 0
  /-- MP, IP bytes and video flag of packets departed in the last 500 MP (12_forwarding_and_egress.md R285) -/
  sentWindow : List (Nat × Nat × Bool) := []
  /-- MP of the last feedback report, or of the last halving (12_forwarding_and_egress.md R276) -/
  lastFeedback : Nat := 0
  /-- a no-feedback episode is running (12_forwarding_and_egress.md R276) -/
  starved : Bool := false
  /-- feedback since the last evaluation calls for a fall (12_forwarding_and_egress.md R275) -/
  fbFall : Bool := false
  /-- departure stamp of each packet of the last 200 ms that feedback has named, and whether it arrived (12_forwarding_and_egress.md R275) -/
  outcomes : List (BitVec 64 × Bool) := []
  /-- instant of the next sender report of each sent SSRC, on the clock of durations (12_forwarding_and_egress.md R277) -/
  srDue : List (BitVec 32 × BitVec 64) := []
  /-- instant of the next RFC 8888 report (12_forwarding_and_egress.md R277) -/
  ccfbDue : Option (BitVec 64) := none
  /-- MP and target of the last second, bounding a rise (12_forwarding_and_egress.md R275) -/
  riseFrom : List (Nat × Nat) := []
  /-- MP and one-way delay of the last 10 s (12_forwarding_and_egress.md R275) -/
  owd : List (Nat × Int) := []
  /-- SSRC, sequence number and departure stamp kept for the controller (12_forwarding_and_egress.md R275) -/
  departures : List (BitVec 32 × BitVec 16 × BitVec 64) := []
  /-- TS_BASE of each own SSRC (12_forwarding_and_egress.md R282) -/
  tsBase : List (BitVec 32 × BitVec 32) := []
  /-- next sequence number of each own SSRC (12_forwarding_and_egress.md R271) -/
  seqBase : List (BitVec 32 × BitVec 16) := []
  /-- last output timestamp and its release stamp, per output SSRC (12_forwarding_and_egress.md R271) -/
  lastTs : List (BitVec 32 × BitVec 32 × BitVec 64) := []
  /-- latest received sender report, per source SSRC (12_forwarding_and_egress.md R282) -/
  lastSr : List (BitVec 32 × BitVec 64 × BitVec 32) := []
  /-- limited blocks of the frame being encoded, oldest first (07_audio_mixing.md R172) -/
  frameAcc : List (List (Int × Int)) := []
  /-- forwarding state of the leg's composed video, first word of Table 12.1 (12_forwarding_and_egress.md R267) -/
  comp0 : BitVec 64 := 0
  /-- the same, second word (12_forwarding_and_egress.md R267) -/
  comp1 : BitVec 64 := 0
  /-- the leg has its own encoder (07_audio_mixing.md R173) -/
  ownEnc : Bool := false
  /-- the state of its own encoder (07_audio_mixing.md R173) -/
  encSt : BitVec 64 := 0
  /-- published transmit-statistics entry, 16 words (Table 12.4) (12_forwarding_and_egress.md R285) -/
  pub : List (BitVec 64) := []
  deriving DecidableEq, Repr

/-- What one slot of a viewer's mosaic shows. -/
structure SeamSlot where
  /-- source leg shown; 0xFFFF grey (10_gallery_and_seam.md R238) -/
  shown : BitVec 16 := 0xFFFF#16
  /-- resolved source (10_gallery_and_seam.md R235) -/
  want : BitVec 16 := 0xFFFF#16
  /-- the slot shows a tainted tile or a skip after one (10_gallery_and_seam.md R238) -/
  tainted : Bool := false
  deriving DecidableEq, Repr

/-- The personal mosaic of one viewer. -/
structure Viewer where
  /-- Seam layout it is spliced from (10_gallery_and_seam.md R219) -/
  layout : BitVec 16 := 0xFFFF#16
  /-- its IDR has been emitted (10_gallery_and_seam.md R238) -/
  started : Bool := false
  /-- stamp of the running start or restart (10_gallery_and_seam.md R238) -/
  startAt : Option (BitVec 64) := none
  /-- stamp of the last restart (10_gallery_and_seam.md R238) -/
  lastRestart : Option (BitVec 64) := none
  /-- slots 0 to 63 (10_gallery_and_seam.md R238) -/
  slots : Tab SeamSlot := []
  /-- picture order count of the mosaic (10_gallery_and_seam.md R237) -/
  poc : BitVec 16 := 0
  /-- parameter sets emitted last (10_gallery_and_seam.md R237) -/
  sets : Option MosaicSets := none
  deriving DecidableEq, Repr

/-- Run-time state of one leg, beside its two table halves. -/
structure Leg where
  /-- the cache fill of its live half read a poisoned line: its work is skipped until a new version is adopted (15_memory_and_queues.md R342) -/
  badHalf : Bool := false
  /-- MODEL: a half has been adopted since its entry was last zeroed (04_legs_and_tables.md R79) -/
  opened : Bool := false
  /-- function the leg is allocated to (04_legs_and_tables.md R93) -/
  alloc : Option Nat := none
  /-- half that is live (04_legs_and_tables.md R79) -/
  live : Bool := false
  /-- pending doorbell or SAFE_LOAD (04_legs_and_tables.md R89) -/
  db : Option Doorbell := none
  /-- doorbells that arrived while one was pending (04_legs_and_tables.md R89) -/
  busyDbs : List Doorbell := []
  /-- class 3 load admitted for it (03_structure_image.md R67) -/
  loadBw : Nat := 0
  /-- takes part in a migration, which locks it from the MP after its posting (04_legs_and_tables.md R98) -/
  locked : Bool := false
  /-- leg this ID is an alias of (04_legs_and_tables.md R98) -/
  aliasOf : Option (BitVec 16) := none
  /-- MP of the last adoption (04_legs_and_tables.md R83) -/
  adoptedMp : Option Nat := none
  /-- it holds an entry of its ETH_DIE's classifier (05_ingress_and_jitter.md R108) -/
  classified : Bool := false
  /-- receive side (05_ingress_and_jitter.md R133) -/
  rx : LegRx := {}
  /-- audio jitter buffer (05_ingress_and_jitter.md R126) -/
  jb : Jb := {}
  /-- crypto area (06_cipher_and_keys.md R437) -/
  cry : Crypto := {}
  /-- audio state (07_audio_mixing.md R165) -/
  aud : LegAudio := {}
  /-- send side (12_forwarding_and_egress.md R278) -/
  tx : LegTx := {}
  /-- video frames of RX_SSRC_V0 to V2, oldest first (05_ingress_and_jitter.md R128) -/
  vframes : List VFrame := []
  /-- layers by 4 × s + t (09_video_decode.md R212) -/
  layers : Tab Layer := []
  /-- keyframe limiters (09_video_decode.md R211) -/
  kf : List KfLimit := []
  /-- personal mosaic (10_gallery_and_seam.md R219) -/
  viewer : Option Viewer := none
  /-- diverged in a pair (16_pair_and_wear.md R357) -/
  diverged : Bool := false
  deriving DecidableEq, Repr

/-- The audio parameter set of a conference that processing uses. -/
structure ConfSet where
  /-- CEILING (07_audio_mixing.md R174) -/
  ceiling : BitVec 16 := 0
  /-- PINNED (07_audio_mixing.md R174) -/
  pinned : List (BitVec 16) := []
  /-- ROUTE (07_audio_mixing.md R174) -/
  routes : List (BitVec 32) := []
  /-- C, computed from CEILING (07_audio_mixing.md R171) -/
  ceilLin : Nat := 549755813888
  deriving DecidableEq, Repr

/-- Limiter of a bus: ring of the last 17 samples with their needs. -/
structure LimState where
  /-- left, right and need, newest first (07_audio_mixing.md R171) -/
  ring : List (Int × Int × Nat) := []
  /-- gain, Q0.30 (07_audio_mixing.md R171) -/
  g : Nat := 1073741824
  deriving DecidableEq, Repr

/-- A mixed MP whose last limiter gains follow with the next MP. -/
structure MixedMp where
  /-- audio set at its sample 0 (07_audio_mixing.md R174) -/
  set : ConfSet := {}
  /-- set that took effect at a sample of it (07_audio_mixing.md R174) -/
  next : Option (Nat × ConfSet) := none
  /-- its 48 bus samples (07_audio_mixing.md R168) -/
  bus : List (Int × Int) := []
  /-- the contributions that a mix omits: by leg ID, or 65,536 + 8 × die + port for an input port (07_audio_mixing.md R170) -/
  own : List (Nat × List (Int × Int)) := []
  /-- limiter gains of its samples 0 to 31, by die (07_audio_mixing.md R171) -/
  gains : Tab (List Nat) := []
  /-- legs that are sent the mix, with the encoding that their halves give (07_audio_mixing.md R170) -/
  listeners : List (BitVec 16 × EncCfg) := []
  deriving DecidableEq, Repr

/-- Run-time state of one conference, beside its two table halves. -/
structure Conf where
  /-- the cache fill of its live half read a poisoned line: its work is skipped until a new version is adopted (15_memory_and_queues.md R342) -/
  badHalf : Bool := false
  /-- MODEL: a half has been adopted since its entry was last zeroed (04_legs_and_tables.md R79) -/
  opened : Bool := false
  /-- half that is live (04_legs_and_tables.md R79) -/
  live : Bool := false
  /-- pending doorbell or SAFE_LOAD (04_legs_and_tables.md R89) -/
  db : Option Doorbell := none
  /-- doorbells that arrived while one was pending (04_legs_and_tables.md R89) -/
  busyDbs : List Doorbell := []
  /-- locked by a move (04_legs_and_tables.md R100) -/
  locked : Bool := false
  /-- conference this ID is an alias of (04_legs_and_tables.md R100) -/
  aliasOf : Option (BitVec 16) := none
  /-- audio set in use (07_audio_mixing.md R174) -/
  set : ConfSet := {}
  /-- set that takes effect at a sample of the running MP (07_audio_mixing.md R174) -/
  next : Option (Nat × ConfSet) := none
  /-- talker set in selection order (07_audio_mixing.md R161) -/
  talkers : List (BitVec 16) := []
  /-- departing talkers (07_audio_mixing.md R162) -/
  departing : List (BitVec 16) := []
  /-- the copy of the bus limiter of each die (07_audio_mixing.md R169, R171) -/
  lim : Tab LimState := []
  /-- states of the shared encoders, by die and configuration (07_audio_mixing.md R172) -/
  encs : List ((Nat × EncCfg) × BitVec 64) := []
  /-- CHANGES (07_audio_mixing.md R178) -/
  changes : BitVec 32 := 0
  /-- CLAMPS (07_audio_mixing.md R178) -/
  clamps : BitVec 32 := 0
  /-- bus peak of the last mixed MP (07_audio_mixing.md R178) -/
  peak : Nat := 0
  /-- lowest limiter gain of the last mixed MP (07_audio_mixing.md R178) -/
  lowGain : Nat := 1073741824
  /-- published mix-state entry, 16 words (Table 7.5) (07_audio_mixing.md R178) -/
  pub : List (BitVec 64) := []
  /-- running crossfades by route index: the route words it leaves, oldest first, each with the weights used (07_audio_mixing.md R174) -/
  fades : Tab (List (BitVec 32 × Nat)) := []
  /-- the same crossfades on the output routes, which follow the limited samples (07_audio_mixing.md R171, R174) -/
  outFades : Tab (List (BitVec 32 × Nat)) := []
  /-- the MP mixed last, whose limited output waits for the 16 samples of look-ahead (07_audio_mixing.md R171, R176) -/
  held : Option MixedMp := none
  deriving DecidableEq, Repr

/-- A packet in a die's SRTP engine, its plaintext provisional. -/
structure RxPacket where
  /-- matched leg (05_ingress_and_jitter.md R108) -/
  leg : BitVec 16 := 0xFFFF#16
  /-- the packet (05_ingress_and_jitter.md R116) -/
  pkt : Packet := {}
  /-- corrected arrival stamp (02_device_time.md R48) -/
  arrival : BitVec 64 := 0
  /-- stamp at which its first block was placed (06_cipher_and_keys.md R149) -/
  placed : BitVec 64 := 0
  /-- marked by policing (05_ingress_and_jitter.md R115) -/
  marked : Bool := false
  /-- IP packet length (05_ingress_and_jitter.md R114) -/
  ipLen : Nat := 0
  /-- ECN field (05_ingress_and_jitter.md R106) -/
  ecn : BitVec 2 := 0
  /-- carry check C1 of the IP packet (05_ingress_and_jitter.md R116) -/
  c1 : BitVec 32 := 0
  /-- the frame, for a BYE record (05_ingress_and_jitter.md R122) -/
  raw : List (BitVec 8) := []
  /-- arriving subport (05_ingress_and_jitter.md R111) -/
  sub : Nat := 0
  /-- whether the frame verifies against C0 (05_ingress_and_jitter.md R116) -/
  c0Ok : Bool := true
  deriving DecidableEq, Repr

/-- Token bucket of a stranger class. -/
structure StrBucket where
  /-- tokens, 10^-9 packet (05_ingress_and_jitter.md R112) -/
  tok : Nat := 0
  /-- stamp of the last update (05_ingress_and_jitter.md R112) -/
  last : BitVec 64 := 0
  /-- packets refused since the last record of the class (05_ingress_and_jitter.md R112) -/
  skipped : BitVec 32 := 0
  deriving DecidableEq, Repr

/-- Registers of one Ethernet subport. -/
structure EthPort where
  /-- ING_ETH_CFG.FEC (05_ingress_and_jitter.md R134) -/
  fec : BitVec 2 := 0
  /-- ING_ETH_CFG.AN_EN (05_ingress_and_jitter.md R134) -/
  anEn : Bool := true
  /-- ING_ETH_CFG.MAX_FRAME (05_ingress_and_jitter.md R134) -/
  maxFrame : BitVec 14 := 1522
  /-- ING_ETH_CFG.ENABLE (05_ingress_and_jitter.md R134) -/
  enable : Bool := true
  /-- ING_MAC (05_ingress_and_jitter.md R134) -/
  mac : BitVec 48 := 0
  deriving DecidableEq, Repr

/-- One entry of the local address list. -/
structure LAddr where
  /-- ING_LADDR_HI and _LO, byte 0 highest (05_ingress_and_jitter.md R107) -/
  addr : BitVec 128 := 0
  /-- VALID (05_ingress_and_jitter.md R107) -/
  valid : Bool := false
  /-- PORTS (05_ingress_and_jitter.md R107) -/
  ports : BitVec 8 := 0
  deriving DecidableEq, Repr

/-- The ING block of a die. -/
structure Ing where
  /-- ING_ETH_MODE.MODE0 (05_ingress_and_jitter.md R134) -/
  mode0 : BitVec 2 := 0
  /-- ING_ETH_MODE.MODE1 (05_ingress_and_jitter.md R134) -/
  mode1 : BitVec 2 := 0
  /-- ING_ETH_MODE.ADIT (05_ingress_and_jitter.md R134) -/
  adit : BitVec 8 := 0
  /-- ING_LINK.UP (05_ingress_and_jitter.md R134) -/
  up : BitVec 8 := 0
  /-- ING_LINK.PRESENT (05_ingress_and_jitter.md R134) -/
  present : BitVec 8 := 0
  /-- ING_EVENT: LINK_CHG, STR_FULL, POOL, CHECK (05_ingress_and_jitter.md R134) -/
  event : BitVec 4 := 0
  /-- subports 0 to 7 (05_ingress_and_jitter.md R134) -/
  eth : Tab EthPort := []
  /-- local address list, 16 entries (05_ingress_and_jitter.md R107) -/
  laddr : Tab LAddr := []
  /-- ING_STR_BASE (05_ingress_and_jitter.md R134) -/
  strBase : BitVec 64 := 0
  /-- ING_STR_CFG.LOG2_SIZE (05_ingress_and_jitter.md R134) -/
  strLog2 : BitVec 4 := 6
  /-- ING_STR_CFG.VECTOR (05_ingress_and_jitter.md R134) -/
  strVector : BitVec 11 := 0
  /-- ING_STR_CFG.IRQ_EN (05_ingress_and_jitter.md R134) -/
  strIrq : Bool := false
  /-- ING_STR_CFG.ENABLE (05_ingress_and_jitter.md R134) -/
  strEn : Bool := false
  /-- ING_STR_TAIL.TAIL (05_ingress_and_jitter.md R134) -/
  strTail : BitVec 12 := 0
  /-- ING_STR_TAIL.PHASE (05_ingress_and_jitter.md R134) -/
  strPhase : Bool := true
  /-- ING_STR_HEAD (05_ingress_and_jitter.md R134) -/
  strHead : BitVec 12 := 0
  /-- a drop for a full ring since the head last advanced (05_ingress_and_jitter.md R113) -/
  strFullSeen : Bool := false
  /-- ING_STR_LIM_KNOWN: BURST 200, RATE 2,000 (05_ingress_and_jitter.md R134) -/
  limKnown : BitVec 48 := 0x00C8000007D0#48
  /-- ING_STR_LIM_UNKNOWN: BURST 500, RATE 10,000 (05_ingress_and_jitter.md R134) -/
  limUnknown : BitVec 48 := 0x01F400002710#48
  /-- bucket of the Known class (05_ingress_and_jitter.md R112) -/
  known : StrBucket := {}
  /-- bucket of the Unknown class (05_ingress_and_jitter.md R112) -/
  unknown : StrBucket := {}
  /-- bytes in the jitter-buffer pool (05_ingress_and_jitter.md R115) -/
  jbUsed : Nat := 0
  /-- bytes in the packet-buffer pool (05_ingress_and_jitter.md R115) -/
  pktUsed : Nat := 0
  /-- a 100 % episode of the jitter-buffer pool is running (05_ingress_and_jitter.md R115) -/
  jbEpisode : Bool := false
  /-- a 100 % episode of the packet-buffer pool is running (05_ingress_and_jitter.md R115) -/
  pktEpisode : Bool := false
  /-- ING_CNT (05_ingress_and_jitter.md R134) -/
  cnt : Tab (BitVec 32) := []
  /-- packets whose tag verdict is open, oldest first (06_cipher_and_keys.md R148) -/
  inFlight : List RxPacket := []
  deriving DecidableEq, Repr

/-- One key slot. -/
structure Slot where
  /-- TYPE (06_cipher_and_keys.md R137) -/
  ktype : BitVec 4 := 0
  /-- USE: SRTP, host bulk, Face bulk, Duken bulk, derive, image (06_cipher_and_keys.md R137) -/
  usage : BitVec 6 := 0
  /-- OWNER (06_cipher_and_keys.md R137) -/
  owner : BitVec 6 := 0
  /-- ALLOC (06_cipher_and_keys.md R137) -/
  alloc : Bool := false
  /-- PERSIST (06_cipher_and_keys.md R143) -/
  persist : Bool := false
  /-- slot s + 1 of a two-slot key (06_cipher_and_keys.md R137) -/
  upper : Bool := false
  /-- slot s of a two-slot key (06_cipher_and_keys.md R137) -/
  two : Bool := false
  /-- GCM_COUNT (06_cipher_and_keys.md R150) -/
  gcmCount : BitVec 32 := 0
  /-- rekey warning raised (06_cipher_and_keys.md R150) -/
  gcmWarned : Bool := false
  /-- the key value, on the private key bus only (06_cipher_and_keys.md R136) -/
  value : BitVec 256 := 0
  /-- last SAVE_SEQ issued, by requester (06_cipher_and_keys.md R154) -/
  saveSeq : List (Nat × Nat) := []
  deriving DecidableEq, Repr

/-- The CIP block and key store of a die. -/
structure Cip where
  /-- CIP_CTRL.SC_MODE (06_cipher_and_keys.md R155) -/
  scMode : Bool := false
  /-- CIP_STATUS.RNG_OK (06_cipher_and_keys.md R155) -/
  rngOk : Bool := true
  /-- CIP_STATUS.SC_ACTIVE (06_cipher_and_keys.md R155) -/
  scActive : Bool := false
  /-- CIP_EVENT: SOFT, HARD, TAG_FAIL, PREEMPT, RNG (06_cipher_and_keys.md R156) -/
  event : BitVec 5 := 0
  /-- CIP_GUARD.SRTP_LOG2 (06_cipher_and_keys.md R156) -/
  guardSrtp : BitVec 6 := 24
  /-- CIP_GUARD.SRTCP_LOG2 (06_cipher_and_keys.md R156) -/
  guardSrtcp : BitVec 6 := 16
  /-- CIP_GUARD.GCM_LOG2 (06_cipher_and_keys.md R156) -/
  guardGcm : BitVec 6 := 24
  /-- CIP_RX_GRACE (06_cipher_and_keys.md R147) -/
  rxGrace : BitVec 16 := 500
  /-- CIP_LOCK.OWNER (06_cipher_and_keys.md R152) -/
  owner : BitVec 8 := 0xFF#8
  /-- CIP_LOCK.WAITING (06_cipher_and_keys.md R152) -/
  waiting : Bool := false
  /-- CIP_LOCK.LAST_PREEMPTED (06_cipher_and_keys.md R153) -/
  lastPreempted : BitVec 8 := 0xFF#8
  /-- stamp at which the lock was acquired (06_cipher_and_keys.md R153) -/
  heldSince : BitVec 64 := 0
  /-- CIP_LEASE (06_cipher_and_keys.md R153) -/
  lease : BitVec 32 := 1000
  /-- CIP_SAVE_ADDR (06_cipher_and_keys.md R156) -/
  saveAddr : BitVec 48 := 0
  /-- CIP_BLK_CTRL fields MODE to KEY (06_cipher_and_keys.md R156) -/
  ctrl : BitVec 32 := 0
  /-- CIP_BLK_CTRL.BUSY (06_cipher_and_keys.md R156) -/
  busy : Bool := false
  /-- CIP_BLK_SRC (06_cipher_and_keys.md R156) -/
  src : BitVec 48 := 0
  /-- CIP_BLK_DST (06_cipher_and_keys.md R156) -/
  dst : BitVec 48 := 0
  /-- CIP_BLK_LEN.LEN (06_cipher_and_keys.md R156) -/
  len : BitVec 17 := 0
  /-- CIP_BLK_LEN.AAD_LEN (06_cipher_and_keys.md R156) -/
  aadLen : BitVec 17 := 0
  /-- CIP_BLK_AAD (06_cipher_and_keys.md R156) -/
  aad : BitVec 48 := 0
  /-- CIP_BLK_IV (06_cipher_and_keys.md R156) -/
  iv : BitVec 128 := 0
  /-- CIP_BLK_TAG (06_cipher_and_keys.md R156) -/
  tag : BitVec 128 := 0
  /-- CIP_BLK_STATUS.DONE (06_cipher_and_keys.md R156) -/
  done : Bool := false
  /-- CIP_BLK_STATUS.TAG_OK (06_cipher_and_keys.md R156) -/
  tagOk : Bool := false
  /-- CIP_BLK_STATUS.ERR (06_cipher_and_keys.md R156) -/
  err : BitVec 4 := 0
  /-- chaining state between the jobs of one message, 64 bytes (06_cipher_and_keys.md R154) -/
  chain : List (BitVec 8) := []
  /-- CIP_CNT (06_cipher_and_keys.md R156) -/
  cnt : Tab (BitVec 32) := []
  /-- key slots 1 to 4,095 (06_cipher_and_keys.md R136) -/
  slots : Tab Slot := []
  /-- last SAVE_SEQ issued on the die; kept by every reset (log 30) (06_cipher_and_keys.md R154) -/
  saveCtr : Nat := 0
  deriving DecidableEq, Repr

/-- The MIX block of a die. -/
structure Mix where
  /-- MIX_CTRL.ACT_LEVEL (07_audio_mixing.md R179) -/
  actLevel : BitVec 7 := 50
  /-- MIX_CTRL.REL_SHIFT (07_audio_mixing.md R179) -/
  relShift : BitVec 4 := 11
  /-- MIX_EVENT: CLAMP, MISSING, OVERRUN (07_audio_mixing.md R179) -/
  event : BitVec 3 := 0
  /-- MIX_FACE_CAP (07_audio_mixing.md R179) -/
  faceCap : BitVec 32 := 0
  /-- MIX_FACE_USE (07_audio_mixing.md R175) -/
  faceUse : BitVec 32 := 0
  /-- MIX_FACE_PEAK (07_audio_mixing.md R179) -/
  facePeak : BitVec 32 := 0
  /-- MIX_CNT (07_audio_mixing.md R179) -/
  cnt : Tab (BitVec 32) := []
  deriving DecidableEq, Repr

/-- One TDM port. -/
structure TdmPort where
  /-- TDM_PORT_CFG (08_audio_ports.md R194) -/
  cfg : BitVec 36 := 0x700001A08#36
  /-- STATE (08_audio_ports.md R194) -/
  state : TdmState := .stopped
  /-- CFG_BAD (08_audio_ports.md R194) -/
  cfgBad : Bool := false
  /-- a STOP waits for the next MP boundary (08_audio_ports.md R189) -/
  stopReq : Bool := false
  /-- TDM_START_MP (08_audio_ports.md R189) -/
  startMp : BitVec 64 := 0
  /-- TDM_PHASE (08_audio_ports.md R184) -/
  phase : BitVec 32 := 0
  /-- number of the next input frame; once stopped, the frames counted (08_audio_ports.md R189) -/
  frame : Nat := 0
  /-- stamp of the last FSYNC edge (08_audio_ports.md R185) -/
  lastFsync : Option (BitVec 64) := none
  /-- frame that the last FSYNC edge started, once the offset is measured (08_audio_ports.md R184) -/
  edge : Option Nat := none
  /-- frames put out on SDO, or passed by (08_audio_ports.md R189) -/
  sentTo : Nat := 0
  /-- frames that slips have still to drop from the output, or, below 0, to repeat in it (08_audio_ports.md R184) -/
  slipOut : Int := 0
  /-- TDM_IEC.MUTED (08_audio_ports.md R190) -/
  iecMuted : BitVec 16 := 0
  /-- frame of the last preamble, by pair (08_audio_ports.md R190) -/
  iecAt : Tab Nat := []
  /-- frames of the fade-in after unmuting, by pair (08_audio_ports.md R190) -/
  iecFade : Tab Nat := []
  /-- TDM_CNT.UNDERRUN (08_audio_ports.md R192) -/
  underrun : BitVec 16 := 0
  /-- TDM_CNT.OVERRUN (08_audio_ports.md R191) -/
  overrun : BitVec 16 := 0
  /-- TDM_CNT.SLIPS (08_audio_ports.md R184) -/
  slips : BitVec 16 := 0
  /-- TDM_CNT.IEC (08_audio_ports.md R190) -/
  iecCnt : BitVec 16 := 0
  /-- level of SDO: driven, keeper or high impedance (08_audio_ports.md R193) -/
  sdo : Sdo := .keeper
  deriving DecidableEq, Repr

/-- One MP of a group in a TDM ring, or of the output being played. -/
structure TdmBlock where
  /-- MP number (08_audio_ports.md R188) -/
  mp : BitVec 64 := 0
  /-- of a block fetched for output, its bytes in the layout of R187; those of a ring lie in DRAM (08_audio_ports.md R187) -/
  bytes : Tab (BitVec 8) := []
  /-- FRAMES (08_audio_ports.md R188) -/
  frames : Nat := 0
  /-- frames of it have been lost (08_audio_ports.md R191) -/
  incomplete : Bool := false
  /-- the ports that have lost frames of it (08_audio_ports.md R191) -/
  lost : BitVec 8 := 0
  /-- MUTE, by port (08_audio_ports.md R188) -/
  mute : Tab (BitVec 16) := []
  /-- weights of muted and fading pairs: by (frame × 8 + port) × 16 + pair, one more than the weight in 48ths (08_audio_ports.md R190) -/
  gate : Tab Nat := []
  /-- output: the mixer has written the block (08_audio_ports.md R192) -/
  complete : Bool := false
  deriving DecidableEq, Repr

/-- The TDM block of a die. -/
structure Tdm where
  /-- TDM_EVENT: UNDER, OVER, IEC, SLIP, CLK_LOSS, CFG (08_audio_ports.md R194) -/
  event : BitVec 6 := 0
  /-- TDM_GROUP.CLK_PORT (08_audio_ports.md R194) -/
  clkPort : Tab (BitVec 3) := []
  /-- TDM_RING (08_audio_ports.md R194) -/
  ring : Tab (BitVec 48) := []
  /-- ports 0 to 7 (08_audio_ports.md R194) -/
  ports : Tab TdmPort := []
  /-- input rings, by 8 × group + slot (08_audio_ports.md R187) -/
  inRing : Tab TdmBlock := []
  /-- output rings, by 8 × group + slot (08_audio_ports.md R187) -/
  outRing : Tab TdmBlock := []
  /-- by group, the output block fetched last, and at 8 + group the one before (08_audio_ports.md R192) -/
  playing : Tab TdmBlock := []
  /-- descriptor rings of the input rings, by 8 × group + slot, 4 words each (08_audio_ports.md R188) -/
  inDesc : Tab (List (BitVec 64)) := []
  /-- descriptor rings of the output rings (08_audio_ports.md R188) -/
  outDesc : Tab (List (BitVec 64)) := []
  /-- the pins that each port has: BCLK, FSYNC, SDI, SDO (08_audio_ports.md R181) -/
  pins : Tab (BitVec 4) := []
  deriving DecidableEq, Repr

/-- A buffer of the reference pool that holds a picture at one size. -/
structure PicBuf where
  /-- SIZE: 0 full, 1 half, 2 quarter (09_video_decode.md R204) -/
  size : BitVec 2 := 0
  /-- first block slot in the pool (09_video_decode.md R202) -/
  slot : Nat := 0
  /-- BORROWED (09_video_decode.md R205) -/
  borrowed : Bool := false
  /-- REFCNT (09_video_decode.md R204) -/
  refcnt : Nat := 0
  deriving DecidableEq, Repr

/-- A run of block slots of the reference pool that is not in the free area. -/
structure PoolRun where
  /-- first block slot (09_video_decode.md R202) -/
  slot : Nat := 0
  /-- block slots (09_video_decode.md R202) -/
  len : Nat := 0
  /-- OWNER: context handle, or layout handle of an output buffer (09_video_decode.md R204) -/
  owner : BitVec 16 := 0
  /-- SIZE: 0 full, 1 half, 2 quarter (09_video_decode.md R204) -/
  size : BitVec 2 := 0
  /-- reserved, borrowed, kept or canvas (09_video_decode.md R205) -/
  kind : RunKind := .reserved
  deriving DecidableEq, Repr

/-- A picture of a decode context, with the buffers that hold it. -/
structure Pic where
  /-- picture number of its context (09_video_decode.md R204) -/
  pid : Nat := 0
  /-- RTP timestamp (05_ingress_and_jitter.md R128) -/
  ts : BitVec 32 := 0
  /-- width, pixels (09_video_decode.md R214) -/
  width : Nat := 0
  /-- height, pixels (09_video_decode.md R214) -/
  height : Nat := 0
  /-- its buffers, one for each size (09_video_decode.md R202) -/
  bufs : List PicBuf := []
  /-- spatial layer (09_video_decode.md R204) -/
  spatial : BitVec 2 := 0
  /-- temporal layer (09_video_decode.md R204) -/
  temporal : BitVec 2 := 0
  /-- TAINT (09_video_decode.md R209) -/
  taint : Bool := false
  /-- STANDIN (09_video_decode.md R208) -/
  standin : Bool := false
  /-- LATE (09_video_decode.md R206) -/
  late : Bool := false
  /-- it is in the stream's reference set (09_video_decode.md R204) -/
  inRefs : Bool := false
  /-- completed (09_video_decode.md R206) -/
  done : Bool := false
  /-- stamp of completion (10_gallery_and_seam.md R221) -/
  doneAt : BitVec 64 := 0
  /-- stamp of its release to the decoder (09_video_decode.md R206) -/
  released : BitVec 64 := 0
  /-- free value that names its decoded samples and its motion vectors (11_video_encode.md R246) -/
  content : BitVec 64 := 0
  deriving DecidableEq, Repr

/-- One decode context. -/
structure DecCtx where
  /-- STATE: closed, open or moved (09_video_decode.md R214) -/
  state : CtxState := .closed
  /-- leg (09_video_decode.md R197) -/
  leg : BitVec 16 := 0xFFFF#16
  /-- STREAM (09_video_decode.md R197) -/
  stream : BitVec 2 := 0
  /-- AV1 operating point (09_video_decode.md R197) -/
  op : BitVec 5 := 0
  /-- MAX_W (09_video_decode.md R198) -/
  maxW : BitVec 16 := 0
  /-- MAX_H (09_video_decode.md R198) -/
  maxH : BitVec 16 := 0
  /-- MAX_FPS (09_video_decode.md R198) -/
  maxFps : BitVec 8 := 0
  /-- REFS (09_video_decode.md R198) -/
  refs : BitVec 5 := 0
  /-- OUT_HOLD (09_video_decode.md R198) -/
  outHold : Nat := 1
  /-- HALF (09_video_decode.md R198) -/
  half : Bool := false
  /-- QUARTER (09_video_decode.md R198) -/
  quarter : Bool := false
  /-- KF_FIR (09_video_decode.md R211) -/
  fir : Bool := false
  /-- first boundary whose released frames are decoded (09_video_decode.md R198) -/
  startMp : BitVec 64 := 0
  /-- closes at the next boundary (09_video_decode.md R198) -/
  closing : Bool := false
  /-- MOVED_TO (09_video_decode.md R199) -/
  movedTo : BitVec 16 := 0xFFFF#16
  /-- bound fence (10_gallery_and_seam.md R227) -/
  fence : Option Nat := none
  /-- its pictures that a buffer holds, oldest first (09_video_decode.md R202) -/
  pics : List Pic := []
  /-- number of the next picture (09_video_decode.md R204) -/
  nextPid : Nat := 0
  /-- the picture in the stand-in hold of each spatial layer (09_video_decode.md R208) -/
  holds : Tab (Option Nat) := []
  /-- a stand-in has been used since the last refresh (09_video_decode.md R210) -/
  stoodIn : Bool := false
  /-- no new stand-in since the last recovery point SEI (09_video_decode.md R210) -/
  sinceSei : Bool := false
  /-- TAINTED (09_video_decode.md R209) -/
  tainted : Bool := false
  /-- CORES (09_video_decode.md R214) -/
  cores : BitVec 3 := 0
  /-- WIDTH (09_video_decode.md R214) -/
  lastW : BitVec 16 := 0
  /-- HEIGHT (09_video_decode.md R214) -/
  lastH : BitVec 16 := 0
  /-- PROFILE (09_video_decode.md R214) -/
  profile : BitVec 16 := 0
  /-- PICS (09_video_decode.md R214) -/
  picCnt : BitVec 32 := 0
  /-- LATE (09_video_decode.md R214) -/
  lateCnt : BitVec 32 := 0
  /-- STANDIN (09_video_decode.md R214) -/
  standinCnt : BitVec 32 := 0
  /-- TAINT_PICS (09_video_decode.md R214) -/
  taintCnt : BitVec 32 := 0
  /-- BS_ERR (09_video_decode.md R214) -/
  bsErr : BitVec 32 := 0
  /-- UNSUP (09_video_decode.md R214) -/
  unsup : BitVec 32 := 0
  /-- NO_BUF (09_video_decode.md R214) -/
  noBuf : BitVec 32 := 0
  /-- BORROWED (09_video_decode.md R214) -/
  borrowed : BitVec 32 := 0
  /-- KF_SENT (09_video_decode.md R214) -/
  kfSent : BitVec 32 := 0
  /-- KF_SUPPRESSED (09_video_decode.md R214) -/
  kfSuppressed : BitVec 32 := 0
  /-- LAST_REFRESH_MP (09_video_decode.md R214) -/
  lastRefresh : BitVec 64 := 0
  /-- published decode report, 16 words (Table 9.5) (09_video_decode.md R214) -/
  pub : List (BitVec 64) := []
  /-- a reference of the picture in decoding was fetched from a poisoned line (15_memory_and_queues.md R342) -/
  badRef : Bool := false
  deriving DecidableEq, Repr

/-- The VDC block of a die. -/
structure Vdc where
  /-- VDC_EVENT: STANDIN, BS_ERR, UNSUP, NO_BUF, LATE (09_video_decode.md R215) -/
  event : BitVec 5 := 0
  /-- VDC_KF_GAP (09_video_decode.md R211) -/
  kfGap : BitVec 14 := 500
  /-- VDC_POOL_BASE (09_video_decode.md R215) -/
  poolBase : BitVec 48 := 0
  /-- VDC_POOL_SLOTS.TOTAL (09_video_decode.md R215) -/
  poolSlots : BitVec 24 := 0
  /-- the runs of block slots outside the free area (VDC_POOL_FREE) (09_video_decode.md R202) -/
  runs : List PoolRun := []
  /-- pictures of closed contexts that a consumer keeps (09_video_decode.md R205) -/
  kept : List (BitVec 16 × Pic) := []
  /-- VDC_POOL_LOW.LOW (09_video_decode.md R215) -/
  poolLow : BitVec 24 := 0
  /-- admitted pixel rate, pixels/s (VDC_USE.PIX_USE) (09_video_decode.md R200) -/
  pixUse : Nat := 0
  /-- VDC_CNT (09_video_decode.md R215) -/
  cnt : Tab (BitVec 32) := []
  /-- decode contexts 0 to 511 (09_video_decode.md R197) -/
  ctx : Tab DecCtx := []
  deriving DecidableEq, Repr

/-- Where a layer of a canvas was drawn. -/
structure PlacedLayer where
  /-- layer (10_gallery_and_seam.md R220) -/
  index : Nat := 0
  /-- SRC_KIND (10_gallery_and_seam.md R220) -/
  kind : Nat := 0
  /-- free value that names the motion vectors of its picture (11_video_encode.md R246) -/
  content : Option (BitVec 64) := none
  /-- destination column (10_gallery_and_seam.md R220) -/
  dx : Int := 0
  /-- destination row (10_gallery_and_seam.md R220) -/
  dy : Int := 0
  /-- destination width (10_gallery_and_seam.md R220) -/
  dw : Nat := 0
  /-- destination height (10_gallery_and_seam.md R220) -/
  dh : Nat := 0
  /-- crop origin, column in the full-size picture (10_gallery_and_seam.md R220) -/
  ox : Nat := 0
  /-- crop origin, row in the full-size picture (10_gallery_and_seam.md R220) -/
  oy : Nat := 0
  /-- crop width in the full-size picture (10_gallery_and_seam.md R220) -/
  sw : Nat := 0
  /-- crop height in the full-size picture (10_gallery_and_seam.md R220) -/
  sh : Nat := 0
  deriving DecidableEq, Repr

/-- Run-time state of one layout, beside its two table halves. -/
structure Layout where
  /-- function it is allocated to (10_gallery_and_seam.md R228) -/
  alloc : Option Nat := none
  /-- KIND: a Seam layout rather than a Gallery layout (10_gallery_and_seam.md R217) -/
  kind : Bool := false
  /-- Gallery unit (10_gallery_and_seam.md R220) -/
  unit : Bool := false
  /-- half that is live (10_gallery_and_seam.md R217) -/
  live : Bool := false
  /-- GAL_LAYOUT_STAT.PENDING (10_gallery_and_seam.md R240) -/
  pending : Bool := false
  /-- GAL_LAYOUT_STAT.TAINT (10_gallery_and_seam.md R240) -/
  taint : Bool := false
  /-- GAL_LAYOUT_STAT.STRIP (10_gallery_and_seam.md R240) -/
  strip : Bool := false
  /-- GAL_LAYOUT_STAT.HELD (10_gallery_and_seam.md R240) -/
  held : Bool := false
  /-- GAL_LAYOUT_STAT.PICS (10_gallery_and_seam.md R240) -/
  pics : BitVec 32 := 0
  /-- output buffer, 0 to 2, of the last picture (10_gallery_and_seam.md R220) -/
  cur : Nat := 0
  /-- boundary at which the last picture began (10_gallery_and_seam.md R218) -/
  curMp : BitVec 64 := 0
  /-- a picture is being composed (10_gallery_and_seam.md R232) -/
  composing : Bool := false
  /-- the picture being composed is tainted (10_gallery_and_seam.md R226) -/
  newTaint : Bool := false
  /-- admitted pixel rate, pixels/s (10_gallery_and_seam.md R233) -/
  pix : Nat := 0
  /-- admitted class 2 load of a Gallery layout, class 1 load of a Seam layout, bytes/s (10_gallery_and_seam.md R233) -/
  bw : Nat := 0
  /-- encode load reserved for a Seam layout, 0.01 pixel/s (11_video_encode.md R242) -/
  enc : Nat := 0
  /-- analysis load reserved for a Seam layout, 0.01 pixel/s (11_video_encode.md R242) -/
  ana : Nat := 0
  /-- the last output picture was a repeat (10_gallery_and_seam.md R232) -/
  repeated : Bool := false
  /-- by layer: context, picture number and SIZE last drawn (10_gallery_and_seam.md R221) -/
  drawn : Tab (Option (Nat × Nat × Nat)) := []
  /-- layers in strip mode (10_gallery_and_seam.md R231) -/
  inStrip : BitVec 32 := 0
  /-- layers of the picture being composed, lowest first (11_video_encode.md R246) -/
  placing : List PlacedLayer := []
  /-- layers of the last output picture (11_video_encode.md R246) -/
  placed : List PlacedLayer := []
  /-- layers of the output picture before that (11_video_encode.md R246) -/
  before : List PlacedLayer := []
  deriving DecidableEq, Repr

/-- A flip group that waits. -/
structure FlipGroup where
  /-- posting function (10_gallery_and_seam.md R228) -/
  func : Nat := 0
  /-- TAG (10_gallery_and_seam.md R228) -/
  tag : BitVec 16 := 0
  /-- layout handles with their versions (10_gallery_and_seam.md R228) -/
  items : List (BitVec 16 × BitVec 16) := []
  /-- fence conditions (10_gallery_and_seam.md R228) -/
  fences : List (BitVec 8 × BitVec 32) := []
  /-- TRIG_DL (10_gallery_and_seam.md R230) -/
  trigDl : Bool := false
  /-- DEADLINE_MP, 0 none (10_gallery_and_seam.md R230) -/
  deadline : BitVec 64 := 0
  /-- another flip was pending for one of its layouts (10_gallery_and_seam.md R229) -/
  clash : Bool := false
  deriving DecidableEq, Repr

/-- A tile stream of the Seam. -/
structure TileStream where
  /-- Seam layout (10_gallery_and_seam.md R235) -/
  layout : BitVec 16 := 0xFFFF#16
  /-- source leg (10_gallery_and_seam.md R235) -/
  source : BitVec 16 := 0xFFFF#16
  /-- slot size: columns and rows of CTBs (10_gallery_and_seam.md R235) -/
  size : BitVec 32 := 0
  /-- tile picture received for this boundary (10_gallery_and_seam.md R236) -/
  picture : Option TilePic := none
  /-- stamp of the last intra request sent (10_gallery_and_seam.md R238) -/
  lastIntraReq : Option (BitVec 64) := none
  /-- an intra request waits for the gap to end (10_gallery_and_seam.md R238) -/
  merged : Bool := false
  deriving DecidableEq, Repr

/-- The GAL and SEA blocks of a die. -/
structure Gal where
  /-- GAL_CAP.PIX_CAP (10_gallery_and_seam.md R240) -/
  pixCap : BitVec 16 := 900
  /-- admitted rate of unit 0, pixels/s (GAL_USE.PIX0) (10_gallery_and_seam.md R240) -/
  pix0 : Nat := 0
  /-- admitted rate of unit 1, pixels/s (GAL_USE.PIX1) (10_gallery_and_seam.md R240) -/
  pix1 : Nat := 0
  /-- GAL_EVENT: REJECT, STRIP, LAYER_LATE, RATIO, PIC_LATE, CANCEL (10_gallery_and_seam.md R240) -/
  event : BitVec 6 := 0
  /-- GAL_CNT (10_gallery_and_seam.md R240) -/
  cnt : Tab (BitVec 32) := []
  /-- GAL_FENCE (10_gallery_and_seam.md R227) -/
  fence : Tab (BitVec 32) := []
  /-- GAL_COEF as written, by 64 × bank + phase (10_gallery_and_seam.md R240) -/
  coef : Tab (BitVec 60) := []
  /-- stamp of the last write of each coefficient word (10_gallery_and_seam.md R240) -/
  coefAt : Tab (BitVec 64) := []
  /-- coefficients in use by the pictures started so far (10_gallery_and_seam.md R240) -/
  coefUse : Tab (BitVec 60) := []
  /-- layouts 0 to 63 (10_gallery_and_seam.md R217) -/
  layouts : Tab Layout := []
  /-- waiting flip groups, oldest first (10_gallery_and_seam.md R229) -/
  flips : List FlipGroup := []
  /-- SEA_CAP.PIC_CAP (10_gallery_and_seam.md R240) -/
  seaPicCap : BitVec 32 := 48000
  /-- SEA_CAP.SLICE_CAP (10_gallery_and_seam.md R240) -/
  seaSliceCap : BitVec 32 := 4000
  /-- SEA_USE.PICS (10_gallery_and_seam.md R240) -/
  seaPics : Nat := 0
  /-- admitted slices per second (SEA_USE.SLICES) (10_gallery_and_seam.md R240) -/
  seaSlices : Nat := 0
  /-- SEA_EVENT: REFUSED, MISSING, RESTART, GREY (10_gallery_and_seam.md R240) -/
  seaEvent : BitVec 4 := 0
  /-- SEA_INTRA_GAP (10_gallery_and_seam.md R240) -/
  seaGap : BitVec 14 := 500
  /-- SEA_START_WAIT (10_gallery_and_seam.md R240) -/
  seaWait : BitVec 11 := 200
  /-- SEA_CNT (10_gallery_and_seam.md R240) -/
  seaCnt : Tab (BitVec 32) := []
  /-- tile streams (10_gallery_and_seam.md R235) -/
  tiles : List TileStream := []
  deriving DecidableEq, Repr

/-- What the analysis finds for a 16 × 16 block. -/
structure BlockMotion where
  /-- vector, quarter pels (11_video_encode.md R245) -/
  vec : Int × Int := (0, 0)
  /-- inter cost (11_video_encode.md R245) -/
  inter : Nat := 0
  /-- intra cost (11_video_encode.md R245) -/
  intra : Nat := 0
  deriving DecidableEq, Repr

/-- One rate rung of an encode context. -/
structure Rung where
  /-- RATE in use, kb/s (11_video_encode.md R241) -/
  rate : BitVec 24 := 0
  /-- RATE commanded, the bound under FOLLOW (11_video_encode.md R257) -/
  rateCmd : BitVec 24 := 0
  /-- commanded change and the instant of its fetch, on the clock of durations (11_video_encode.md R257) -/
  rateNext : Option (BitVec 24 × BitVec 64) := none
  /-- SCALE s (11_video_encode.md R245) -/
  scale : BitVec 2 := 0
  /-- FOLLOW (11_video_encode.md R257) -/
  follow : BitVec 16 := 0xFFFF#16
  /-- buffer fullness F, bits (11_video_encode.md R254) -/
  full : Int := 0
  /-- remainder of the drain (11_video_encode.md R254) -/
  rem : Nat := 0
  /-- overshoot of the previous picture (11_video_encode.md R254) -/
  debt : Int := 0
  /-- drain of the picture (11_video_encode.md R254) -/
  drain : Nat := 0
  /-- budget of the picture (11_video_encode.md R254) -/
  budget : Int := 0
  /-- cap of the picture (11_video_encode.md R254) -/
  cap : Int := 0
  /-- stamp of the last intra picture (11_video_encode.md R252) -/
  lastIntra : Option (BitVec 64) := none
  /-- the next picture is intra (11_video_encode.md R252) -/
  intraReq : Bool := false
  /-- a request waits for the intra gap to end (11_video_encode.md R252) -/
  merged : Bool := false
  /-- mean QP of the last picture (11_video_encode.md R258) -/
  qp : BitVec 8 := 0
  /-- MP, bits and temporal layer of the pictures of the last second (11_video_encode.md R258) -/
  sent : List (Nat × Nat × Nat) := []
  /-- phase of the temporal pattern (11_video_encode.md R244) -/
  phase : Nat := 0
  /-- the running picture is intra (11_video_encode.md R252) -/
  curIntra : Bool := false
  /-- phase of the running picture (11_video_encode.md R244) -/
  curPhase : Nat := 0
  /-- first late-dry row of the picture (11_video_encode.md R256) -/
  lateFirst : Option Nat := none
  /-- level of its stream, times 10 (11_video_encode.md R243) -/
  level : Nat := 31
  /-- name of its coding history: the pictures coded so far (11_video_encode.md R247) -/
  hist : BitVec 64 := 0
  /-- name of the source of the running picture, at the rung's size (11_video_encode.md R245) -/
  src : BitVec 64 := 0
  /-- vectors of the 16 × 16 blocks of its last picture, in raster order; none of an intra picture (11_video_encode.md R245) -/
  vectors : List (Int × Int) := []
  deriving DecidableEq, Repr

/-- One encode context. -/
structure EncCtx where
  /-- STATE: closed, open or moved (11_video_encode.md R258) -/
  state : CtxState := .closed
  /-- SOURCE: layout or decode context (11_video_encode.md R241) -/
  source : BitVec 16 := 0xFFFF#16
  /-- KIND: 0 Gallery, 1 transcode, 2 Seam tile (11_video_encode.md R241) -/
  kind : BitVec 2 := 0
  /-- Seam tile: source leg (10_gallery_and_seam.md R235) -/
  tileLeg : BitVec 16 := 0xFFFF#16
  /-- CODEC (11_video_encode.md R241) -/
  codec : BitVec 2 := 0
  /-- MAIN10 (11_video_encode.md R241) -/
  main10 : Bool := false
  /-- MODE (11_video_encode.md R244) -/
  mode : BitVec 3 := 0
  /-- FPS (11_video_encode.md R241) -/
  fps : BitVec 8 := 0
  /-- KEY_INT (11_video_encode.md R252) -/
  keyInt : BitVec 8 := 0
  /-- BUF (11_video_encode.md R254) -/
  buf : BitVec 8 := 0
  /-- source width of rung 0 (11_video_encode.md R242) -/
  width : Nat := 0
  /-- source height of rung 0 (11_video_encode.md R242) -/
  height : Nat := 0
  /-- rungs 0 to 3 (11_video_encode.md R241) -/
  rungs : List Rung := []
  /-- admitted coding load, 0.01 pixel/s (11_video_encode.md R242) -/
  loadEnc : Nat := 0
  /-- admitted analysis load, 0.01 pixel/s (11_video_encode.md R242) -/
  loadAna : Nat := 0
  /-- admitted class 1 load, bytes/s (11_video_encode.md R242) -/
  loadBw : Nat := 0
  /-- a picture is being coded (11_video_encode.md R251) -/
  running : Bool := false
  /-- the running picture is a skip picture (11_video_encode.md R251) -/
  skipping : Bool := false
  /-- number of the running picture (11_video_encode.md R251) -/
  number : Nat := 0
  /-- source picture last taken: layout or decode context, and picture number (11_video_encode.md R251) -/
  lastSource : Option (Nat × Nat) := none
  /-- TAINTED (11_video_encode.md R253) -/
  tainted : Bool := false
  /-- the last analysis, by 16 × 16 block in raster order (11_video_encode.md R245) -/
  analysis : List BlockMotion := []
  /-- name of the picture analysed last (11_video_encode.md R246) -/
  anaName : BitVec 64 := 0
  /-- VEN_DRY_GUARD of the running picture, µs (11_video_encode.md R259) -/
  guard : BitVec 16 := 600
  /-- a takeover: the next picture is a skip picture (16_pair_and_wear.md R363) -/
  takeover : Bool := false
  /-- closes at the next picture boundary (11_video_encode.md R241) -/
  closing : Bool := false
  /-- MOVED_TO (11_video_encode.md R258) -/
  movedTo : BitVec 16 := 0xFFFF#16
  /-- PICS (11_video_encode.md R258) -/
  pics : BitVec 32 := 0
  /-- INTRA (11_video_encode.md R258) -/
  intra : BitVec 32 := 0
  /-- SKIP (11_video_encode.md R258) -/
  skip : BitVec 32 := 0
  /-- DRY_PICS (11_video_encode.md R258) -/
  dryPics : BitVec 32 := 0
  /-- DRY_ROWS (11_video_encode.md R258) -/
  dryRows : BitVec 32 := 0
  /-- LATE_DRY (11_video_encode.md R258) -/
  lateDry : BitVec 32 := 0
  /-- OVERSHOOT (11_video_encode.md R258) -/
  overshoot : BitVec 32 := 0
  /-- LAST_OVERSHOOT (11_video_encode.md R258) -/
  lastOvershoot : BitVec 32 := 0
  /-- LAST_INTRA_MP (11_video_encode.md R258) -/
  lastIntraMp : BitVec 64 := 0
  /-- REQ (11_video_encode.md R258) -/
  req : BitVec 32 := 0
  /-- REQ_MERGED (11_video_encode.md R258) -/
  reqMerged : BitVec 32 := 0
  /-- published encode report, 16 words (Table 11.6) (11_video_encode.md R258) -/
  pub : List (BitVec 64) := []
  deriving DecidableEq, Repr

/-- The VEN block of a die. -/
structure Ven where
  /-- VEN_EVENT: DRY, LATE_DRY, SKIP, CHECK (11_video_encode.md R259) -/
  event : BitVec 4 := 0
  /-- VEN_INTRA_GAP (11_video_encode.md R259) -/
  intraGap : BitVec 14 := 500
  /-- VEN_DRY_GUARD (11_video_encode.md R259) -/
  dryGuard : BitVec 16 := 600
  /-- VEN_RC_CFG.CAP_X (11_video_encode.md R259) -/
  capX : BitVec 4 := 4
  /-- admitted coding load, 0.01 pixel/s (VEN_USE.ENC_USE) (11_video_encode.md R242) -/
  encUse : Nat := 0
  /-- admitted analysis load, 0.01 pixel/s (VEN_USE.ANA_USE) (11_video_encode.md R242) -/
  anaUse : Nat := 0
  /-- VEN_CNT (11_video_encode.md R259) -/
  cnt : Tab (BitVec 32) := []
  /-- encode contexts 0 to 255 (11_video_encode.md R241) -/
  ctx : Tab EncCtx := []
  deriving DecidableEq, Repr

/-- A class of a subport in start-time fair queuing. -/
structure Sfq where
  /-- start tag of the class (12_forwarding_and_egress.md R279) -/
  start : BitVec 64 := 0
  /-- finish tag of the class (12_forwarding_and_egress.md R279) -/
  finish : BitVec 64 := 0
  /-- the class is ready (12_forwarding_and_egress.md R279) -/
  ready : Bool := false
  /-- virtual time of its legs (12_forwarding_and_egress.md R279) -/
  v : BitVec 64 := 0
  /-- EGR_CLASS_CFG.STRICT, less its reset value (12_forwarding_and_egress.md R286) -/
  strict : Bool := false
  /-- EGR_CLASS_CFG.WEIGHT (12_forwarding_and_egress.md R286) -/
  weight : BitVec 8 := 1
  deriving DecidableEq, Repr

/-- Egress state of one subport. -/
structure Subport where
  /-- control queue, oldest first (12_forwarding_and_egress.md R278) -/
  control : List TxPacket := []
  /-- virtual time of its weighted classes (12_forwarding_and_egress.md R279) -/
  v : BitVec 64 := 0
  /-- classes 0 to 7 (12_forwarding_and_egress.md R278) -/
  classes : Tab Sfq := []
  /-- packets departed, for the takeover checks (16_pair_and_wear.md R365) -/
  departed : Nat := 0
  /-- it failed its takeover check: packets are dropped at the MAC (16_pair_and_wear.md R365) -/
  failed : Bool := false
  deriving DecidableEq, Repr

/-- The EGR block of a die. -/
structure Egr where
  /-- EGR_CTRL.ECN (12_forwarding_and_egress.md R286) -/
  ecn : BitVec 2 := 0
  /-- EGR_CC_CFG.MIN (12_forwarding_and_egress.md R286) -/
  ccMin : BitVec 24 := 100
  /-- EGR_CC_CFG.START (12_forwarding_and_egress.md R286) -/
  ccStart : BitVec 24 := 1000
  /-- EGR_TIMING in use: CCFB_INT 50, RTCP_INT 500, RTX_HOLD 1,000, MAX_WAIT 200 (12_forwarding_and_egress.md R286) -/
  timing : BitVec 64 := 0x003201F403E800C8#64
  /-- EGR_TIMING as written, in use from the next MP boundary (12_forwarding_and_egress.md R286) -/
  timingNext : BitVec 64 := 0x003201F403E800C8#64
  /-- EGR_EVENT: QUEUE_DROP, WAIT_DROP, NO_FEEDBACK, PAUSED, NO_CTX, HOST_DENIED (12_forwarding_and_egress.md R286) -/
  event : BitVec 6 := 0
  /-- EGR_HOST_LIM.RATE (12_forwarding_and_egress.md R286) -/
  hostRate : BitVec 32 := 10000
  /-- EGR_HOST_LIM.BURST (12_forwarding_and_egress.md R286) -/
  hostBurst : BitVec 16 := 500
  /-- host-frame tokens, 10^-9 frame (12_forwarding_and_egress.md R283) -/
  hostTok : Nat := 0
  /-- stamp of the last update of the host bucket (12_forwarding_and_egress.md R283) -/
  hostLast : BitVec 64 := 0
  /-- host frames over the rate, that wait (12_forwarding_and_egress.md R283) -/
  hostWait : List (Nat × TxPacket) := []
  /-- subports 0 to 7 (12_forwarding_and_egress.md R278) -/
  sub : Tab Subport := []
  /-- EGR_CNT (12_forwarding_and_egress.md R286) -/
  cnt : Tab (BitVec 32) := []
  deriving DecidableEq, Repr

/-- A work descriptor, its words 0 to 7. -/
structure Tub where
  /-- the eight words as enqueued, with SOURCE, ENQ_STAMP and SEQ (13_hoist_dispatch.md R288) -/
  w : List (BitVec 64) := []
  /-- SEQ given by the Tally (13_hoist_dispatch.md R296) -/
  seq : BitVec 16 := 0
  /-- ENQ_STAMP (13_hoist_dispatch.md R288) -/
  stamp : BitVec 64 := 0
  /-- SOURCE (13_hoist_dispatch.md R288) -/
  src : BitVec 8 := 0
  deriving DecidableEq, Repr

/-- What a core hands on for an ordered tub: an enqueue, or a packet submitted to egress (13 R296). -/
inductive HandOff where
  | enq (t : Tub)
  | send (p : TxPacket)
  deriving DecidableEq, Repr

/-- One Tally flow. -/
structure Flow where
  /-- next SEQ (13_hoist_dispatch.md R296) -/
  next : BitVec 16 := 0
  /-- SEQ of the oldest unreleased tub (13_hoist_dispatch.md R296) -/
  oldest : BitVec 16 := 0
  /-- taken and unreleased tubs: SEQ and stamp of the take (13_hoist_dispatch.md R297) -/
  taken : List (BitVec 16 × BitVec 64) := []
  /-- tubs that are done and not released (13_hoist_dispatch.md R296) -/
  done : List (BitVec 16) := []
  /-- tubs that the Tally skipped (13_hoist_dispatch.md R297) -/
  skipped : List (BitVec 16) := []
  /-- held hand-offs, by SEQ, in the order the core made them (13_hoist_dispatch.md R296) -/
  held : List (BitVec 16 × List HandOff) := []
  deriving DecidableEq, Repr

/-- An enqueue that waits for a slot. -/
structure Stall where
  /-- requester ID (13_hoist_dispatch.md R295) -/
  src : BitVec 8 := 0
  /-- the tub (13_hoist_dispatch.md R295) -/
  tub : Tub := {}
  /-- stamp at which it stalled (13_hoist_dispatch.md R295) -/
  since : BitVec 64 := 0
  /-- it is a hand-off that the Tally released, its core waits no longer for it (13_hoist_dispatch.md R296) -/
  released : Bool := false
  deriving DecidableEq, Repr

/-- The HST block of a die. -/
structure Hst where
  /-- HST_EVENT: BUSY, STALL_TMO, TALLY_TMO, REFUSED, TRACE_LOST, REQUEUE (13_hoist_dispatch.md R300) -/
  event : BitVec 6 := 0
  /-- HST_RESERVE (13_hoist_dispatch.md R291) -/
  reserve : BitVec 12 := 256
  /-- HST_STALL_MAX (13_hoist_dispatch.md R295) -/
  stallMax : BitVec 16 := 50
  /-- HST_TALLY_TMO (13_hoist_dispatch.md R297) -/
  tallyTmo : BitVec 16 := 1000
  /-- HST_DEPTH.PEAK by level (13_hoist_dispatch.md R300) -/
  peak : Tab (BitVec 13) := []
  /-- HST_SRC_CFG.STALL by source (13_hoist_dispatch.md R295) -/
  stallCfg : Tab Bool := []
  /-- HST_ENQ words last written (13_hoist_dispatch.md R300) -/
  enq : Tab (BitVec 64) := []
  /-- HST_ENQ_STATUS.RESULT (13_hoist_dispatch.md R300) -/
  result : BitVec 2 := 0
  /-- HST_ENQ_STATUS.TAG (13_hoist_dispatch.md R300) -/
  resTag : BitVec 16 := 0
  /-- HST_HIST by 16 × level + bin (13_hoist_dispatch.md R298) -/
  hist : Tab (BitVec 32) := []
  /-- time between take and DONE in the running MP, by core index, units of 2^-16 ns (13_hoist_dispatch.md R298) -/
  load : Tab Nat := []
  /-- HST_LOAD (13_hoist_dispatch.md R298) -/
  loadPub : Tab (BitVec 10) := []
  /-- HST_TRACE_BASE (13_hoist_dispatch.md R300) -/
  traceBase : BitVec 48 := 0
  /-- HST_TRACE_SIZE (13_hoist_dispatch.md R300) -/
  traceSize : BitVec 24 := 0
  /-- HST_TRACE_WR.NEXT (13_hoist_dispatch.md R300) -/
  traceNext : BitVec 24 := 0
  /-- HST_TRACE_WR.WRAPS (13_hoist_dispatch.md R300) -/
  traceWraps : BitVec 24 := 0
  /-- HST_TRACE_LOST (13_hoist_dispatch.md R299) -/
  traceLost : BitVec 32 := 0
  /-- records waiting in the 64-record buffer, oldest first (13_hoist_dispatch.md R299) -/
  traceBuf : List (List (BitVec 64)) := []
  /-- HST_CNT (13_hoist_dispatch.md R300) -/
  cnt : Tab (BitVec 32) := []
  /-- the ready lists as one pool, in order of acceptance within a level (13_hoist_dispatch.md R291) -/
  ready : List Tub := []
  /-- stalled enqueues, oldest first (13_hoist_dispatch.md R295) -/
  stalls : List Stall := []
  /-- waiting cores, longest first: class, core, levels, stamp (13_hoist_dispatch.md R292) -/
  waits : List (Nat × Nat × BitVec 8 × BitVec 64) := []
  /-- tub held by each core (HST_LOAD index) with the stamp of its take (13_hoist_dispatch.md R294) -/
  held : Tab (Option (Tub × BitVec 64)) := []
  /-- Tally flows 0 to 1,023 (13_hoist_dispatch.md R296) -/
  flows : Tab Flow := []
  deriving DecidableEq, Repr

/-- One DMA channel of a Face core. -/
structure DmaCh where
  /-- a descriptor runs (14_face_cores.md R322) -/
  busy : Bool := false
  /-- ERR (14_face_cores.md R323) -/
  err : Bool := false
  /-- rows done (14_face_cores.md R314) -/
  rows : BitVec 12 := 0
  /-- the four words of the running descriptor (14_face_cores.md R322) -/
  desc : List (BitVec 64) := []
  deriving DecidableEq, Repr

/-- A running LOOP. -/
structure LoopSt where
  /-- first bundle of the kernel (14_face_cores.md R320) -/
  first : BitVec 12 := 0
  /-- LEN (14_face_cores.md R320) -/
  len : BitVec 12 := 0
  /-- count n (14_face_cores.md R320) -/
  count : BitVec 32 := 0
  /-- S (14_face_cores.md R320) -/
  stages : Nat := 1
  /-- ROT (14_face_cores.md R320) -/
  rot : Nat := 1
  /-- index j of the running pass (14_face_cores.md R320) -/
  pass : Nat := 0
  deriving DecidableEq, Repr

/-- Destination of a Face core result: a physical register, an accumulator, a predicate, a control register (14 R312). -/
inductive Dest where
  | none
  | g (n : Nat)
  | acc (n : Nat)
  | pred (n : Nat)
  | ctl (n : Nat)
  deriving DecidableEq, Repr

/-- What a stalled Face core waits for, apart from TAKE (14 R312): ENQ of the tub at a local address with
its result register, WAITD on a channel mask, or a DMA start on a busy channel. -/
inductive StallOp where
  | enq (addr dest : Nat)
  | waitd (mask : BitVec 4)
  | dma (ch : Nat) (desc : List (BitVec 64))
  deriving DecidableEq, Repr

/-- A result in flight: it lands at its cycle. -/
structure Flight where
  /-- cycle from which it is visible (14_face_cores.md R312) -/
  cycle : Nat := 0
  /-- destination (14_face_cores.md R312) -/
  dest : Dest := .none
  /-- value (14_face_cores.md R312) -/
  val : BitVec 80 := 0
  /-- its bundle stalls: its cycle counts from the end of the stall (14_face_cores.md R312) -/
  held : Bool := false
  deriving DecidableEq, Repr

/-- One of the 17 Face cores. -/
structure FaceCore where
  /-- STATE (14_face_cores.md R329) -/
  state : FaceState := .stopped
  /-- ROLE: 0 vendor, 1 customer, 2 spare (14_face_cores.md R302) -/
  role : BitVec 2 := 0
  /-- CAUSE (14_face_cores.md R326) -/
  cause : BitVec 4 := 0
  /-- PC (14_face_cores.md R313) -/
  pc : BitVec 12 := 0
  /-- DIE_FACE_FAULT (14_face_cores.md R326) -/
  fault : BitVec 48 := 0
  /-- DIE_FACE_BUSY (14_face_cores.md R329) -/
  busy : BitVec 64 := 0
  /-- ENTRY (14_face_cores.md R329) -/
  entry : BitVec 12 := 0
  /-- physical registers g0 to g63 (14_face_cores.md R306) -/
  g : Tab (BitVec 64) := []
  /-- accumulators a0 to a3 (14_face_cores.md R307) -/
  a : Tab (BitVec 80) := []
  /-- accumulators as read by any operation but a multiply-accumulate (14_face_cores.md R312) -/
  av : Tab (BitVec 80) := []
  /-- predicates p0 to p7, p0 always 1 (14_face_cores.md R308) -/
  p : BitVec 8 := 1
  /-- LB (14_face_cores.md R306) -/
  lb : BitVec 5 := 0
  /-- LPASS (14_face_cores.md R320) -/
  lpass : BitVec 32 := 0
  /-- FLAGS: SAT, OVF (14_face_cores.md R315) -/
  flags : BitVec 2 := 0
  /-- HTAB (14_face_cores.md R325) -/
  htab : BitVec 64 := 0
  /-- HTAB_LEN (14_face_cores.md R325) -/
  htabLen : BitVec 64 := 0
  /-- CYCLE (14_face_cores.md R308) -/
  cycle : Nat := 0
  /-- results in flight, in issue order (14_face_cores.md R312) -/
  flights : List Flight := []
  /-- running LOOP (14_face_cores.md R320) -/
  loop : Option LoopSt := none
  /-- instruction memory, 4,096 bundles (14_face_cores.md R328) -/
  imem : Tab (BitVec 128) := []
  /-- the bridge's copy as of the last RUN (14_face_cores.md R327) -/
  imemCopy : Tab (BitVec 128) := []
  /-- data memory, 256 KiB (14_face_cores.md R321) -/
  dmem : Mem := []
  /-- a STOP waits for the next bundle boundary (14_face_cores.md R327) -/
  stop : Bool := false
  /-- TAKE in progress: levels, local address, JUMP (14_face_cores.md R325) -/
  take : Option (BitVec 8 × BitVec 18 × Bool) := none
  /-- target of the branch in the bundle that stalls (14_face_cores.md R313) -/
  branch : Option Nat := none
  /-- other stalling operations in progress (14_face_cores.md R312) -/
  stalled : List StallOp := []
  /-- DMA channels 0 to 3 (14_face_cores.md R322) -/
  dma : Tab DmaCh := []
  deriving DecidableEq, Repr

/-- One row of a bank. -/
structure RowCount where
  /-- row (15_memory_and_queues.md R340) -/
  row : BitVec 17 := 0
  /-- activations in the window (15_memory_and_queues.md R340) -/
  count : Nat := 0
  /-- activations by requester (15_memory_and_queues.md R340) -/
  reqs : List (BitVec 8 × Nat) := []
  deriving DecidableEq, Repr

/-- Row-disturbance tracker of one bank. -/
structure Bank where
  /-- activations of every row of the bank in the running window, of which the 16 most activated are what the tracker acts on (15_memory_and_queues.md R340) -/
  rows : List RowCount := []
  /-- throttled requesters with the stamp of their last activation (15_memory_and_queues.md R340) -/
  throttled : List (BitVec 8 × BitVec 64) := []
  deriving DecidableEq, Repr

/-- One internal queue. -/
structure QPrim where
  /-- write pointer, modulo 2 × lines (15_memory_and_queues.md R345) -/
  wr : BitVec 16 := 0
  /-- inverted copy of the write pointer (15_memory_and_queues.md R345) -/
  wrN : BitVec 16 := 0xFFFF#16
  /-- read pointer (15_memory_and_queues.md R345) -/
  rd : BitVec 16 := 0
  /-- inverted copy of the read pointer (15_memory_and_queues.md R345) -/
  rdN : BitVec 16 := 0xFFFF#16
  /-- lines of the ring (15_memory_and_queues.md R345) -/
  lines : Nat := 64
  /-- committed lines with VALID and EOU, oldest first (15_memory_and_queues.md R343) -/
  ring : List (List (BitVec 8) × BitVec 7 × Bool) := []
  /-- bytes of the line being packed (15_memory_and_queues.md R343) -/
  part : List (BitVec 8) := []
  /-- the producer's open unit is discarded to its END (15_memory_and_queues.md R345) -/
  skip : Bool := false
  /-- a DROP waits for the unit's END (15_memory_and_queues.md R344) -/
  dropping : Bool := false
  /-- the producer has begun a unit and not ended it (15_memory_and_queues.md R343) -/
  midUnit : Bool := false
  deriving DecidableEq, Repr

/-- The DRC block of a die. -/
structure Drc where
  /-- training has ended since the last reset of the die (15_memory_and_queues.md R332) -/
  trained : Bool := false
  /-- DRC_STATUS.CH_OK (15_memory_and_queues.md R347) -/
  chOk : BitVec 2 := 0
  /-- DRC_STATUS.SPEED0 (15_memory_and_queues.md R347) -/
  speed0 : BitVec 2 := 3
  /-- DRC_STATUS.SPEED1 (15_memory_and_queues.md R347) -/
  speed1 : BitVec 2 := 3
  /-- DRC_STATUS.RETRAIN (15_memory_and_queues.md R347) -/
  retraining : Bool := false
  /-- DRC_STATUS.HOT (15_memory_and_queues.md R338) -/
  hot : Bool := false
  /-- DRC_GEOM.DEVICE (15_memory_and_queues.md R347) -/
  device : BitVec 2 := 0
  /-- DRC_GEOM.TWO_RANKS (15_memory_and_queues.md R347) -/
  twoRanks : Bool := false
  /-- DRC_GEOM.TWO_CH (15_memory_and_queues.md R347) -/
  twoCh : Bool := false
  /-- DRC_GEOM.GIB (15_memory_and_queues.md R347) -/
  gib : BitVec 8 := 0
  /-- DRC_EVENT: CE, UE, RH, RETRAIN, QRESET, SPEED, HOT (15_memory_and_queues.md R347) -/
  event : BitVec 7 := 0
  /-- DRC_RH_CFG.ACT_MAX (15_memory_and_queues.md R340) -/
  actMax : BitVec 16 := 4096
  /-- DRC_RH_CFG.GAP_NS (15_memory_and_queues.md R340) -/
  gapNs : BitVec 16 := 1000
  /-- DRC_RH_LAST (15_memory_and_queues.md R347) -/
  rhLast : BitVec 33 := 0
  /-- DRC_SCRUB.HOURS (15_memory_and_queues.md R341) -/
  scrubHours : BitVec 8 := 24
  /-- DRC_SCRUB.PASSES (15_memory_and_queues.md R341) -/
  scrubPasses : BitVec 32 := 0
  /-- next line the patrol scrub reads (15_memory_and_queues.md R341) -/
  scrubNext : Nat := 0
  /-- DRC_RETRAIN.PS (15_memory_and_queues.md R339) -/
  retrainPs : BitVec 8 := 10
  /-- stamp of the last retrain (15_memory_and_queues.md R339) -/
  lastRetrain : Option (BitVec 64) := none
  /-- same-bank refreshes issued (15_memory_and_queues.md R338) -/
  refreshes : Nat := 0
  /-- DRC_CE_ADDR (15_memory_and_queues.md R341) -/
  ceAddr : BitVec 40 := 0
  /-- DRC_UE_ADDR (15_memory_and_queues.md R342) -/
  ueAddr : BitVec 40 := 0
  /-- DRC_THROTTLED (15_memory_and_queues.md R340) -/
  throttled : BitVec 256 := 0
  /-- DRC_HASH (15_memory_and_queues.md R335) -/
  hash : Tab (BitVec 37) := []
  /-- DRC_CNT (15_memory_and_queues.md R347) -/
  cnt : Tab (BitVec 32) := []
  /-- trackers, by rank, channel, subchannel and bank (15_memory_and_queues.md R340) -/
  banks : Tab Bank := []
  /-- die offsets of poisoned lines, rising (15_memory_and_queues.md R342) -/
  poison : List Nat := []
  /-- internal queues by ID (15_memory_and_queues.md R345) -/
  queues : Tab QPrim := []
  /-- bytes granted to each class in the running 1 µs window (03_structure_image.md R68) -/
  bwWindow : Tab Nat := []
  /-- requests that wait for the next window, as class and bytes, in their order (03_structure_image.md R68) -/
  bwWait : List (Nat × Nat) := []
  deriving DecidableEq, Repr

/-- The UBH registers of one Ubhan port. -/
structure Ubh where
  /-- UBH_PORT.UP (19_register_map.md R410) -/
  up : Bool := false
  /-- UBH_PORT.LANES (19_register_map.md R410) -/
  lanes : BitVec 5 := 0
  /-- UBH_PORT.SPARES (19_register_map.md R410) -/
  spares : BitVec 2 := 0
  /-- the port takes part in routing (01_architecture.md R14) -/
  routed : Bool := true
  /-- UBH_CNT.RETRY (19_register_map.md R410) -/
  retry : BitVec 32 := 0
  /-- UBH_CNT.REROUTE (19_register_map.md R410) -/
  reroute : BitVec 32 := 0
  deriving DecidableEq, Repr

/-- What a re-seed brings for a leg (16 R358, R352): the state of it and of what its divergence reached, the table entries
by their offset in the aperture, and key slots. -/
structure Reseed where
  legs : List (BitVec 16 × Leg) := []
  confs : List (BitVec 16 × Conf) := []
  decs : List (BitVec 16 × DecCtx) := []
  encs : List (BitVec 16 × EncCtx) := []
  tables : List (Nat × List Byte) := []
  keys : List KeyCopy := []
  deriving DecidableEq, Repr

/-- Pair operation of the package, registers of die 0. -/
structure Pair where
  /-- a PAIR_CFG section is loaded (03_structure_image.md R56) -/
  cfg : Bool := false
  /-- PAIR_CFG.ALIVE_WIRED (16_pair_and_wear.md R350) -/
  aliveWired : Bool := false
  /-- PAIR_CFG.SHADOW_US (16_pair_and_wear.md R355) -/
  shadowUs : Nat := 200
  /-- PAR_STATUS.ROLE (16_pair_and_wear.md R351) -/
  role : Role := .unpaired
  /-- PROTECTED (16_pair_and_wear.md R352) -/
  prot : Bool := false
  /-- PAIR_ALIVE_IN, filtered (PEER_ALIVE) (16_pair_and_wear.md R350) -/
  alive : Bool := false
  /-- PAIR_ALIVE_OUT (16_pair_and_wear.md R350) -/
  aliveOut : Bool := false
  /-- ADIT_UP (16_pair_and_wear.md R369) -/
  aditUp : BitVec 8 := 0
  /-- PAR_CTRL.TAKEOVER_EN (16_pair_and_wear.md R363) -/
  takeoverEn : Bool := true
  /-- SWITCH_REJECT (16_pair_and_wear.md R364) -/
  switchReject : Bool := false
  /-- PAR_SWITCH_MP (16_pair_and_wear.md R364) -/
  switchMp : BitVec 64 := 0
  /-- scheduled switch boundary (16_pair_and_wear.md R364) -/
  switchAt : Option (BitVec 64) := none
  /-- PAR_LAST_T (16_pair_and_wear.md R369) -/
  lastT : BitVec 64 := 0
  /-- PAR_EVENT: ROLE_CHG, PEER_LOST, DIVERGE, TAKEOVER_FAULT, BLOCKED (16_pair_and_wear.md R369) -/
  event : BitVec 5 := 0
  /-- PAIR_ROLE as sampled (20_electrical_package.md R417) -/
  strap : Bool := false
  /-- the peer is lost (16_pair_and_wear.md R362) -/
  peerLost : Bool := false
  /-- takeover boundary T that is set and not reached (16_pair_and_wear.md R363) -/
  takeoverT : Option (BitVec 64) := none
  /-- the data plane runs SHADOW_US late (16_pair_and_wear.md R355) -/
  shadow : Bool := false
  /-- transmitters and SDO are enabled (16_pair_and_wear.md R354) -/
  transmit : Bool := true
  /-- MPs of announcements due (16_pair_and_wear.md R363) -/
  announceDue : List (BitVec 64) := []
  /-- MP of the takeover checks that are due (16_pair_and_wear.md R365) -/
  checkAt : Option (BitVec 64) := none
  /-- ADMIT records without a matching frame, oldest first (16_pair_and_wear.md R357) -/
  ledger : List LedgerRec := []
  /-- received frames without a matching ADMIT record (16_pair_and_wear.md R357) -/
  unmatched : List RxPacket := []
  /-- pending re-seeds: leg and switch MP (16_pair_and_wear.md R358) -/
  reseed : List (BitVec 16 × BitVec 64) := []
  /-- the last heartbeat instant, on the clock of durations (16_pair_and_wear.md R362) -/
  hbAt : Option (BitVec 64) := none
  /-- die and second of digest mismatches of the last 60 s (16_pair_and_wear.md R360) -/
  mismatches : List (Nat × Nat) := []
  /-- SENT records: stream and last picture sent whole (16_pair_and_wear.md R356) -/
  sent : List (BitVec 16 × BitVec 64) := []
  deriving DecidableEq, Repr

/-- The per-die PAR registers. -/
structure Par where
  /-- PAR_HB_MISS (16_pair_and_wear.md R369) -/
  hbMiss : BitVec 32 := 0
  /-- heartbeats missed in a row on this die's link (16_pair_and_wear.md R362) -/
  hbRun : Nat := 0
  /-- stamp of the last heartbeat received (16_pair_and_wear.md R363) -/
  lastHb : BitVec 64 := 0
  /-- PAR_CNT (16_pair_and_wear.md R369) -/
  cnt : Tab (BitVec 32) := []
  /-- digests computed: second, output unit, value (16_pair_and_wear.md R359) -/
  digests : List (Nat × BitVec 16 × BitVec 32) := []
  /-- running CRC of each output unit in the current second (16_pair_and_wear.md R359) -/
  running : List (BitVec 16 × BitVec 32) := []
  /-- output units excluded from the current second's comparison (16_pair_and_wear.md R359) -/
  excluded : List (BitVec 16) := []
  /-- output units excluded from the last whole second's comparison (16_pair_and_wear.md R359) -/
  excludedLast : List (BitVec 16) := []
  /-- last second whose digests all matched with none excluded (16_pair_and_wear.md R352) -/
  matched : Option Nat := none
  /-- ledger records of the running MP (16_pair_and_wear.md R356) -/
  recs : Nat := 0
  /-- the heartbeat of the last instant was missed (16_pair_and_wear.md R362) -/
  missed : Bool := false
  deriving DecidableEq, Repr

/-- One Canary cluster. -/
structure Cluster where
  /-- BIN (16_pair_and_wear.md R369) -/
  bin : BitVec 3 := 7
  /-- WORN (16_pair_and_wear.md R368) -/
  worn : Bool := false
  /-- RETIRED (16_pair_and_wear.md R368) -/
  retired : Bool := false
  /-- SLACK (16_pair_and_wear.md R367) -/
  slack : BitVec 8 := 0
  /-- YEARS_LEFT (16_pair_and_wear.md R369) -/
  years : BitVec 16 := 0
  /-- bin chosen by the last re-plan; the island moves one step per MP (16_pair_and_wear.md R367) -/
  target : BitVec 3 := 7
  deriving DecidableEq, Repr

/-- The CAN block of a die. -/
structure Can where
  /-- CAN_CTRL.AUTO (16_pair_and_wear.md R367) -/
  auto : Bool := true
  /-- REPLANNING (16_pair_and_wear.md R367) -/
  replanning : Bool := false
  /-- stamp at which the re-plan began (16_pair_and_wear.md R367) -/
  replanAt : BitVec 64 := 0
  /-- a package reset ended a re-plan: with AUTO it restarts 1 h after RUNNING (17_power_reset_errors.md R380) -/
  replanDue : Bool := false
  /-- CAN_HOURS (16_pair_and_wear.md R369) -/
  hours : BitVec 32 := 0
  /-- CAN_GUARD (16_pair_and_wear.md R367) -/
  guard : BitVec 8 := 25
  /-- CAN_REPAIR.USED (16_pair_and_wear.md R369) -/
  repairUsed : BitVec 16 := 0
  /-- CAN_REPAIR.FREE (16_pair_and_wear.md R369) -/
  repairFree : BitVec 16 := 0
  /-- clusters 0 to 47 (16_pair_and_wear.md R367) -/
  clusters : Tab Cluster := []
  deriving DecidableEq, Repr

/-- Capacity of a die, sealed in the retention area before it changes. -/
structure Capacity where
  /-- DIE_CAP.LEGS (19_register_map.md R406) -/
  legs : BitVec 11 := 1024
  /-- DIE_CAP.CONFS (19_register_map.md R406) -/
  confs : BitVec 8 := 128
  /-- DIE_CAP.FACE (19_register_map.md R406) -/
  face : BitVec 5 := 16
  /-- DIE_CAP.PACKET (19_register_map.md R406) -/
  packet : BitVec 5 := 16
  /-- DIE_CAP.CODEC (19_register_map.md R406) -/
  codec : BitVec 4 := 8
  /-- DIE_CAP.GALLERY (19_register_map.md R406) -/
  gallery : BitVec 2 := 2
  /-- DIE_CAP.SEAM (19_register_map.md R406) -/
  seam : Bool := true
  /-- DIE_CAP_STATE.DEGRADED (19_register_map.md R406) -/
  degraded : Bool := false
  /-- DIE_CAP_STATE.RETIRED (19_register_map.md R406) -/
  retired : Bool := false
  /-- retired units by their Canary cluster number (16_pair_and_wear.md R366) -/
  units : List Nat := []
  /-- Face cores that have taken the role of a retired one: retired core and spare, in order (16_pair_and_wear.md R366) -/
  took : List (Nat × Nat) := []
  deriving DecidableEq, Repr

/-- The other capacity registers of a die. -/
structure CapReg where
  /-- DIE_CAP_GUAR.LEGS (19_register_map.md R406) -/
  guarLegs : BitVec 11 := 0
  /-- DIE_CAP_GUAR.CONFS (19_register_map.md R406) -/
  guarConfs : BitVec 8 := 0
  /-- DIE_CAP_STATE.SHORT (16_pair_and_wear.md R368) -/
  short : Bool := false
  /-- DIE_CAP_EVENT.CHANGED (19_register_map.md R406) -/
  changed : Bool := false
  /-- DIE_STAGE.BASE, in MiB (19_register_map.md R406) -/
  stageBase : BitVec 17 := 0
  /-- DIE_STAGE.MIB (19_register_map.md R406) -/
  stageMib : BitVec 10 := 0
  /-- DIE_VF_STAGE: FIRST and COUNT (19_register_map.md R406) -/
  vfStage : Tab (BitVec 64) := []
  deriving DecidableEq, Repr

/-- The power and reset registers of a die. -/
structure Pwr where
  /-- DIE_PWR_STATUS.BRACE (17_power_reset_errors.md R373) -/
  brace : Bool := false
  /-- BRACE_ALARM (17_power_reset_errors.md R375) -/
  alarm : Bool := false
  /-- BELOW_WARN (17_power_reset_errors.md R371) -/
  belowWarn : BitVec 8 := 0
  /-- DIE_PWR_EVENT: BRACE, ALARM, SUSTAINED, RAIL, HOT (17_power_reset_errors.md R386) -/
  event : BitVec 5 := 0
  /-- DIE_PWR_TELEM.POWER (17_power_reset_errors.md R376) -/
  power : BitVec 16 := 0
  /-- DIE_PWR_TELEM.TJ (17_power_reset_errors.md R376) -/
  tj : BitVec 16 := 0
  /-- DIE_BRACE_CNT.COUNT (17_power_reset_errors.md R386) -/
  braceCnt : BitVec 32 := 0
  /-- DIE_BRACE_CNT.LAST_NS (17_power_reset_errors.md R386) -/
  lastNs : BitVec 32 := 0
  /-- stamp at which the brace began (17_power_reset_errors.md R373) -/
  braceAt : BitVec 64 := 0
  /-- rail of the brace: VDD_SRAM rather than VDD_CORE (17_power_reset_errors.md R373) -/
  braceRail : Bool := false
  /-- 0x1103 raised for this brace (17_power_reset_errors.md R374) -/
  sustained : Bool := false
  /-- stamps of the brace entries of the last 60 s (17_power_reset_errors.md R375) -/
  recent : List (BitVec 64) := []
  /-- an over-temperature episode runs (17_power_reset_errors.md R372) -/
  hotEpisode : Bool := false
  /-- DIE_RESET_CAUSE.KIND (17_power_reset_errors.md R377) -/
  causeKind : BitVec 3 := 0
  /-- DIE_RESET_CAUSE.COUNT (17_power_reset_errors.md R386) -/
  causeCount : BitVec 24 := 0
  /-- the die is in a DIE or SUPPLY reset (17_power_reset_errors.md R379) -/
  rejoining : Bool := false
  /-- that reset is a SUPPLY reset (17_power_reset_errors.md R379) -/
  rejoinSupply : Bool := false
  deriving DecidableEq, Repr

/-- One error record. -/
structure ErrRec where
  /-- CODE (17_power_reset_errors.md R382) -/
  code : BitVec 16 := 0
  /-- SOURCE (17_power_reset_errors.md R382) -/
  src : BitVec 8 := 0
  /-- DIE (17_power_reset_errors.md R382) -/
  die : BitVec 3 := 0
  /-- PINNED (17_power_reset_errors.md R382) -/
  pinned : Bool := false
  /-- COUNT (17_power_reset_errors.md R382) -/
  count : BitVec 32 := 0
  /-- FIRST_STAMP (17_power_reset_errors.md R382) -/
  first : BitVec 64 := 0
  /-- LAST_STAMP (17_power_reset_errors.md R382) -/
  last : BitVec 64 := 0
  /-- DETAIL (17_power_reset_errors.md R382) -/
  detail : BitVec 64 := 0
  /-- the host has advanced ERR_HEAD past it (17_power_reset_errors.md R383) -/
  read : Bool := false
  /-- order of placement, to tell oldest from newest (17_power_reset_errors.md R383) -/
  order : Nat := 0
  deriving DecidableEq, Repr

/-- The error log and ERR registers of a die. -/
structure Err where
  /-- record slots 0 to 1,023 (17_power_reset_errors.md R382) -/
  ring : Tab (Option ErrRec) := []
  /-- codes that have a record since the last clear (17_power_reset_errors.md R384) -/
  seen : List (BitVec 16) := []
  /-- order of the next record (17_power_reset_errors.md R383) -/
  nextOrder : Nat := 0
  /-- ERR_EVENT.NEW (17_power_reset_errors.md R386) -/
  event : Bool := false
  /-- ERR_TAIL (17_power_reset_errors.md R386) -/
  tail : BitVec 10 := 0
  /-- ERR_HEAD (17_power_reset_errors.md R386) -/
  head : BitVec 10 := 0
  /-- ERR_LOST (17_power_reset_errors.md R384) -/
  lost : BitVec 32 := 0
  /-- ERR_STATUS.LOST (17_power_reset_errors.md R384) -/
  lostSeen : Bool := false
  /-- ERR_IRQ.VECTOR (17_power_reset_errors.md R386) -/
  irqVector : BitVec 11 := 0
  /-- ERR_IRQ.IRQ_EN (17_power_reset_errors.md R386) -/
  irqEn : Bool := false
  /-- ERR_OVF_BASE (17_power_reset_errors.md R386) -/
  ovfBase : BitVec 64 := 0
  /-- ERR_OVF_CFG.LOG2_SIZE (17_power_reset_errors.md R386) -/
  ovfLog2 : BitVec 5 := 10
  /-- ERR_OVF_CFG.ENABLE (17_power_reset_errors.md R386) -/
  ovfEn : Bool := false
  /-- ERR_OVF_TAIL.TAIL (17_power_reset_errors.md R386) -/
  ovfTail : BitVec 16 := 0
  /-- ERR_OVF_TAIL.PHASE (17_power_reset_errors.md R386) -/
  ovfPhase : Bool := true
  /-- ERR_OVF_HEAD (17_power_reset_errors.md R386) -/
  ovfHead : BitVec 16 := 0
  deriving DecidableEq, Repr

/-- One rate limit that acts before the error log. -/
structure RateLimit where
  /-- error code, or a record kind of the stranger queue (17_power_reset_errors.md R382) -/
  code : BitVec 16 := 0
  /-- die (17_power_reset_errors.md R382) -/
  die : Nat := 0
  /-- leg, context, stream or port concerned (17_power_reset_errors.md R382) -/
  obj : BitVec 64 := 0
  /-- stamp of the last report let through (17_power_reset_errors.md R382) -/
  last : BitVec 64 := 0
  deriving DecidableEq, Repr

/-- The UPD block. -/
structure Upd where
  /-- UPD_STATUS.STATE (18_field_update.md R402) -/
  state : UpdState := .idle
  /-- RESULT (18_field_update.md R402) -/
  result : BitVec 4 := 0
  /-- UPD_CTRL.PAIR (18_field_update.md R401) -/
  pair : Bool := false
  /-- PEER_OK (18_field_update.md R402) -/
  peerOk : Bool := false
  /-- UPD_DELTA_ADDR (18_field_update.md R402) -/
  deltaAddr : BitVec 48 := 0
  /-- UPD_DELTA_LEN (18_field_update.md R402) -/
  deltaLen : BitVec 32 := 0
  /-- UPD_ACT_MP (18_field_update.md R402) -/
  actMp : BitVec 64 := 0
  /-- A of the armed activation (18_field_update.md R396) -/
  armedMp : BitVec 64 := 0
  /-- UPD_PROGRESS.NEXT_BLOCK (18_field_update.md R402) -/
  nextBlock : BitVec 24 := 0
  /-- UPD_PROGRESS.TOTAL (18_field_update.md R402) -/
  total : BitVec 24 := 0
  /-- UPD_APPLY_ID (18_field_update.md R402) -/
  applyId : BitVec 64 := 0
  /-- a CANCEL waits for the current block (18_field_update.md R395) -/
  cancelReq : Bool := false
  /-- the PF has written CONFIRM in this trial (18_field_update.md R399) -/
  confirmed : Bool := false
  /-- a lockstep stop since the trial reset (18_field_update.md R399) -/
  lockstepStop : Bool := false
  /-- confirmation window of the running trial, s, from which UPD_CONFIRM_LEFT is read (18_field_update.md R399) -/
  window : BitVec 16 := 0
  /-- a due activation waits for a die to rejoin (18_field_update.md R397) -/
  waitRejoin : Bool := false
  deriving DecidableEq, Repr

/-- The fuses of the package. -/
structure Fuses where
  /-- device ID and number of dies (00_scope.md R2) -/
  variant : Variant := .trv6402
  /-- stepping (00_scope.md R1) -/
  stepping : Stepping := .b0
  /-- DIE_SERIAL (19_register_map.md R406) -/
  serial : BitVec 64 := 0
  /-- SHA-384 digests of vendor key 0 and owner keys 1 to 4 (03_structure_image.md R60) -/
  keyDigest : Tab (BitVec 384) := []
  /-- bit k: key k enrolled (06_cipher_and_keys.md R144) -/
  enrolled : BitVec 5 := 1
  /-- bit k: key k revoked (03_structure_image.md R60) -/
  revoked : BitVec 5 := 0
  /-- fused minimum SVN (18_field_update.md R399) -/
  minSvn : BitVec 32 := 0
  /-- raises used, at most 63 (18_field_update.md R399) -/
  svnRaises : Nat := 0
  /-- ROOT_GEN (06_cipher_and_keys.md R143) -/
  rootGen : BitVec 8 := 0
  /-- CIP_DEV_PUB (06_cipher_and_keys.md R139) -/
  devPub : Tab (BitVec 64) := []
  /-- ING_MAC of die d subport i, by 8d + i (05_ingress_and_jitter.md R134) -/
  macs : Tab (BitVec 48) := []
  deriving DecidableEq, Repr

/-- One boot flash bank. -/
structure Flash where
  /-- pointer sector, journal and image region, less 0xFF (erased) (18_field_update.md R388) -/
  mem : Tab (BitVec 8) := []
  /-- persistent slots sealed in the key areas (06_cipher_and_keys.md R143) -/
  sealed : Tab Slot := []
  /-- root-key generation of the sealed slots (06_cipher_and_keys.md R143) -/
  sealGen : BitVec 8 := 0
  deriving DecidableEq, Repr

end Sys2Proof
end

