-- ==== Sys2Proof/Syntax.lean ====
section
/-! DEFINITION. The commands of the bridge: one constructor for each row of the table of operations and events.
A row carries no bits; its operands are what the world outside supplies with it. -/

namespace Sys2Proof

/-- A command or event of the bridge. -/
inductive Instr where
  /-- MP_BOUNDARY (R28): A mixing-period boundary of device time is reached, and the per-MP work of every block starts. Operands: legs and contexts whose block checks fail, blocks that do not arrive, decodes and encodes that are late, in the MP that begins. -/
  | mpBoundary (f : MpFaults)
  /-- UBHAN_LANE_FAILURE (R14): An Ubhan lane fails; a spare lane replaces it, or the port is taken out of routing. Operands: die and Ubhan port whose lane fails. -/
  | ubhanLaneFailure (die port : Nat)
  /-- SLAVE_TIME_EXCHANGE (R31): Every 1 µs, a slave die exchanges a two-way time message with die 0 and adjusts its rate. Operands: slave die, and the raw stamps: request sent and received, answer sent and received. -/
  | slaveTimeExchange (die : Nat) (t1 t2 t3 t4 : BitVec 64)
  /-- SLAVE_REMEASURE_DONE (R32): After a route change, a slave die finishes re-measuring on the new route and resumes correction. Operands: slave die. -/
  | slaveRemeasureDone (die : Nat)
  /-- SLAVE_OFFSET_ERROR (R32): A slave die's offset has exceeded ±1 ns for 1 s; error 0x0209 is raised and SLAVE_ERR is set. Operands: slave die. -/
  | slaveOffsetError (die : Nat)
  /-- REFERENCE_EDGE (R38): An edge of a PPS or 10 MHz input is captured and judged for a phase step. Operands: source code of Table 2.2 and raw stamp of the edge. -/
  | referenceEdge (src : Nat) (raw : BitVec 64)
  /-- FREQUENCY_WINDOW_END (R38): A frequency window of a reference input ends and is judged against 2 ppm. Operands: source code and measured frequency error, 10^-12. -/
  | frequencyWindowEnd (src : Nat) (ppt : Int)
  /-- REFERENCE_STOP (R38): A reference input's edge watchdog sees no edge for 3 periods and declares a stop. Operands: source code. -/
  | referenceStop (src : Nat)
  /-- REFERENCE_QUALIFIED (R38): A reference input completes 10 s of clean history and becomes qualified. Operands: source code. -/
  | referenceQualified (src : Nat)
  /-- TIM_REF_REARM (R39): A write rearms a source in DISQ_FREQ into QUALIFYING. Operands: value written. -/
  | timRefRearm (mask : BitVec 64)
  /-- PTP_MESSAGE (R35): A PTP frame reaches die 0's Duken core and is processed by the PTP stack and servo. Operands: the PTP message that arrives. -/
  | ptpMessage (m : PtpMsg)
  /-- ANNOUNCE_RECEIPT_TIMEOUT (R40): The PTP announce receipt timeout expires; the source goes to DISQ_STOP with error 0x0201. -/
  | announceReceiptTimeout
  /-- PTP_REQUALIFY (R40): A disqualified PTP source completes 10 s in slave state within the outlier limit and requalifies. -/
  | ptpRequalify
  /-- ESMC_MESSAGE (R36): An ESMC quality message is received on the SyncE port and compared with MIN_QL. Operands: received SSM code. -/
  | esmcMessage (code : BitVec 4)
  /-- ESMC_TIMEOUT (R36): No ESMC message arrives for 5 s, and the port ranks below every level. -/
  | esmcTimeout
  /-- SYNCE_REQUALIFY (R36): A SyncE port completes 10 s at or above MIN_QL with link up and requalifies. -/
  | synceRequalify
  /-- SERVO_LOCK (R41): The offset has stayed within ±500 ps for 60 s, and the servo enters LOCKED. -/
  | servoLock
  /-- STEP_GO_INITIAL (R42): A GO with INITIAL = 1 sets device time to whole milliseconds at the next tick and carries out the armed triggers. -/
  | stepGoInitial
  /-- STEP_GO (R45): A GO with INITIAL = 0 schedules a step of device time at TIM_STEP_MP, or is rejected. -/
  | stepGo
  /-- STEP_APPLY (R45): At the scheduled MP boundary, all dies jump device time by the step; skipped actions run late. -/
  | stepApply
  /-- TIM_SNAP (R55): A write latches device time into TIM_SNAP_SEC and TIM_SNAP_NSF. Operands: die. -/
  | timSnap (die : Nat)
  /-- TIM_TXS_POP (R49): A write removes the oldest entry of a transmit-stamp queue. Operands: die and queue. -/
  | timTxsPop (die q : Nat)
  /-- TRIGGER_ARM (R50): A TIM_TRIG_CTRL write with ARM = 1 arms a trigger, or rejects it or handles it as late. Operands: die, trigger and value written. -/
  | triggerArm (die n : Nat) (v : BitVec 64)
  /-- TRIGGER_DISARM (R50): A TIM_TRIG_CTRL write with ARM = 0 disarms a trigger. Operands: die, trigger and value written. -/
  | triggerDisarm (die n : Nat) (v : BitVec 64)
  /-- TRIGGER_FIRE (R50): An armed trigger reaches its time and starts its target. Operands: die and trigger. -/
  | triggerFire (die n : Nat)
  /-- CAPTURE_EDGE (R52): A capture unit stamps a selected edge into its FIFO, or drops it on overflow. Operands: die, capture unit, raw stamp, direction, and width of the pulse the edge belongs to. -/
  | captureEdge (die unit : Nat) (raw : BitVec 64) (rising : Bool) (widthNs : Nat)
  /-- TIM_CAP_POP (R52): A write removes the oldest entry of a capture FIFO. Operands: die and capture unit. -/
  | timCapPop (die c : Nat)
  /-- TIM_CAP_CFG_WRITE (R52): A write configures a capture unit, empties its FIFO and restarts its divider. Operands: die, capture unit and value written. -/
  | timCapCfgWrite (die c : Nat) (v : BitVec 64)
  /-- TIM_PTP_CFG_WRITE (R55): A write restarts the PTP ports with new settings and disqualifies the PTP source. Operands: value written. -/
  | timPtpCfgWrite (v : BitVec 64)
  /-- PPS_OUT_PULSE (R426): PPS_OUT rises at each whole second of device time and falls WIDTH later. -/
  | ppsOutPulse
  /-- BOOT_LOAD (R62): After reset, die 0's Duken core reads, verifies and distributes the structure image. -/
  | bootLoad
  /-- DRAM_TRAINING_DONE (R332): DRAM training of a die's channels ends, at some speed or with a channel disabled. Operands: die and result of training. -/
  | dramTrainingDone (die : Nat) (r : Training)
  /-- BW_WINDOW (R68): A 1 µs metering window of the DRAM controller starts and grants each class its allocation. Operands: die and the requests of the window in order of arrival: class 0 to 6 and bytes. -/
  | bwWindow (die : Nat) (demand : List (Nat × Nat))
  /-- RESTRUCTURE_GO (R70): A GO write on DIE_RESTRUCT_CTRL starts a restructure of one die, or is refused. Operands: value written to DIE_RESTRUCT_CTRL. -/
  | restructureGo (v : BitVec 64)
  /-- RESTRUCTURE_CHECK_DONE (R71): Checks of the restructure image complete; the image is rejected or accepted, with a CAPACITY check. -/
  | restructureCheckDone
  /-- RESTRUCTURE_DRAIN_START (R71): At t0 + 500, DRAINING is set on the target die. -/
  | restructureDrainStart
  /-- RESTRUCTURE_LATE_CHECK (R71): At A − 2, the restructure aborts LATE if the die still homes work, or its engines are quiesced. -/
  | restructureLateCheck
  /-- RESTRUCTURE_RESUME (R71): At A + 200, MP counting resumes on the die, and the restructure completes DONE. -/
  | restructureResume
  /-- BAR2_TABLE_WRITE (R87): A host write to a table entry is stored, or is discarded if locked or not owned. Operands: function, BAR2 offset and bytes written. -/
  | bar2TableWrite (func : Nat) (off : Nat) (bytes : List (BitVec 8))
  /-- BAR2_STAGING_WRITE (R407): A host access to a staging slice is mapped to die DRAM, or is refused outside the VF's window. Operands: function, BAR2 offset, and bytes written or length read. -/
  | bar2StagingWrite (func : Nat) (off : Nat) (acc : StageAccess)
  /-- TABLE_DOORBELL (R88): A doorbell write is stamped on arrival at the home die and pends for adoption. Operands: function and doorbell value. -/
  | tableDoorbell (func : Nat) (v : BitVec 64)
  /-- ENTRY_ADOPTION (R89): At its MP boundary, a pending entry is checked and adopted, or refused, and a completion is posted. Operands: home die, kind and local index of the pending entry. -/
  | entryAdoption (die : Nat) (isConf : Bool) (idx : Nat)
  /-- SQ_TAIL_WRITE (R92): A write of the command-queue tail makes the bridge fetch the new commands. Operands: function, new tail, and the commands the DMA reads from head to tail. -/
  | sqTailWrite (func : Nat) (tail : BitVec 64) (cmds : List Cmd)
  /-- CQ_HEAD_WRITE (R95): A write of the completion-queue head frees slots and ends deferral. Operands: function and new head. -/
  | cqHeadWrite (func : Nat) (head : BitVec 64)
  /-- ALLOC_LEG (R93): Reserve a closed, unowned leg for the posting function. Operands: the posted command. -/
  | allocLeg (c : Cmd)
  /-- FREE_LEG (R93): Return a closed leg, zero its crypto area and end its alias. Operands: the posted command. -/
  | freeLeg (c : Cmd)
  /-- MIGRATE_LEG (R98): Check and start the move of an open leg to a leg on another die at switch MP S. Operands: the posted command. -/
  | migrateLeg (c : Cmd)
  /-- MIGRATION_STATE_SEND (R98): At the end of MP S − 1, die a produces the leg's last MP and sends its state to die b. Operands: source leg L. -/
  | migrationStateSend (leg : BitVec 16)
  /-- MIGRATION_SWITCH (R98): At boundary S, L′ is adopted, L is closed and aliased, and the migration completes. Operands: source leg L. -/
  | migrationSwitch (leg : BitVec 16)
  /-- REHOME_CONF (R100): Check and start the move of an open conference to another conference entry. Operands: the posted command. -/
  | rehomeConf (c : Cmd)
  /-- CONF_REHOME_SWITCH (R100): At boundary S, C′ takes over C's talker, bus and limiter state, and C becomes an alias. Operands: source conference C. -/
  | confRehomeSwitch (conf : BitVec 16)
  /-- RELEASE_HELD (R93): Adopt every held doorbell of the function at the named MP. Operands: the posted command. -/
  | releaseHeld (c : Cmd)
  /-- NOP (R93): Command that completes after every earlier command of the queue. Operands: the posted command. -/
  | nop (c : Cmd)
  /-- UNKNOWN_OPCODE (R93): A command with an undefined opcode completes INVALID and raises 0x0404. Operands: the posted command. -/
  | unknownOpcode (c : Cmd)
  /-- LEG_CONF_OWNER_WRITE (R97): A PF write of a conference owner is applied, or refused while the conference is open. Operands: writing function, die, conference and value. -/
  | legConfOwnerWrite (func die conf : Nat) (v : BitVec 64)
  /-- QUEUE_CFG_WRITE (R103): A write to LEG_SQ_CFG or LEG_CQ_CFG configures or enables a queue, or resets it when ENABLE is cleared. Operands: function of the queue, which queue, and value written. -/
  | queueCfgWrite (func : Nat) (isCq : Bool) (v : BitVec 64)
  /-- FRAME_RECEIVE (R106): An Ethernet frame is received on a subport, stamped and disposed of by Table 5.2. Operands: die, subport, raw arrival stamp and frame. -/
  | frameReceive (die sub : Nat) (raw : BitVec 64) (f : Frame)
  /-- ING_STR_HEAD_WRITE (R113): The host advances the stranger queue head. Operands: die and value written. -/
  | ingStrHeadWrite (die : Nat) (v : BitVec 64)
  /-- ING_STR_CFG_WRITE (R134): A write configures or enables the stranger ring, or resets it when ENABLE is cleared. Operands: die and value written. -/
  | ingStrCfgWrite (die : Nat) (v : BitVec 64)
  /-- LINK_CHANGE (R134): A subport's link state changes; LINK_CHG is set and 0x050A is raised. Operands: die, subport and new link state. -/
  | linkChange (die sub : Nat) (up : Bool)
  /-- TAG_VERDICT (R148): The SRTP tag verdict of a packet arrives; the provisional plaintext is released or freed. Operands: die, leg whose oldest packet is judged, and verdict. -/
  | tagVerdict (die : Nat) (leg : BitVec 16) (v : Verdict)
  /-- NACK_TIMER (R123): The request timer of a missing sequence number expires, and a NACK is sent. Operands: leg and missing sequence number. -/
  | nackTimer (leg : BitVec 16) (seq : BitVec 16)
  /-- VIDEO_FRAME_TIMEOUT (R128): A video frame is still incomplete one frame interval after release; it is reported missing and its layer is broken. Operands: leg, stream or spatial layer, and timestamp of the frame. -/
  | videoFrameTimeout (leg : BitVec 16) (spatial : BitVec 2) (ts : BitVec 32)
  /-- KEY_ALLOC (R145): Allocate the lowest free slot, or pair of slots, of a die. Operands: the posted command. -/
  | keyAlloc (c : Cmd)
  /-- KEY_FREE (R145): Zero a slot, both slots of a two-slot key, unless it is in use. Operands: the posted command. -/
  | keyFree (c : Cmd)
  /-- KEY_UNWRAP (R139): Unwrap a key blob into a slot under the device key. Operands: the posted command. -/
  | keyUnwrap (c : Cmd)
  /-- KEY_GEN (R145): Generate a private key in a slot and write its public key. Operands: the posted command. -/
  | keyGen (c : Cmd)
  /-- KEY_AGREE (R145): Compute an ECDH shared secret into a slot. Operands: the posted command. -/
  | keyAgree (c : Cmd)
  /-- KEY_DERIVE (R145): Derive a key into an output slot by the TLS PRF or HKDF. Operands: the posted command. -/
  | keyDerive (c : Cmd)
  /-- KEY_FINISHED (R140): Compute TLS Finished verify_data into a buffer. Operands: the posted command. -/
  | keyFinished (c : Cmd)
  /-- KEY_EXPORT_SRTP (R141): Export DTLS-SRTP keying material into TX and RX slots. Operands: the posted command. -/
  | keyExportSrtp (c : Cmd)
  /-- KEY_COPY (R142): Copy a slot with its attributes and GCM count into another slot. Operands: the posted command. -/
  | keyCopy (c : Cmd)
  /-- KEY_REWRAP (R143): Raise ROOT_GEN and reseal every persistent slot. Operands: the posted command. -/
  | keyRewrap (c : Cmd)
  /-- OWNER_ENROLL (R144): Enrol or revoke an owner key by blowing fuses after signature checks. Operands: the posted command. -/
  | ownerEnroll (c : Cmd)
  /-- RX_GRACE_EXPIRY (R147): The previous RX key's grace period ends, and the key is no longer tried. Operands: leg. -/
  | rxGraceExpiry (leg : BitVec 16)
  /-- CIP_LOCK_ACQUIRE (R152): A requester writes its ID to acquire the bulk engine, or sets WAITING. Operands: die and the IDs written in one cycle. -/
  | cipLockAcquire (die : Nat) (ids : List (BitVec 8))
  /-- CIP_LOCK_RELEASE (R152): The holder writes 0xFF to release the bulk engine. Operands: die and writing requester. -/
  | cipLockRelease (die : Nat) (req : BitVec 8)
  /-- LOCK_PREEMPT (R153): The lease of a holder with waiters expires; the holder is preempted and its state saved. Operands: die. -/
  | lockPreempt (die : Nat)
  /-- BULK_JOB_GO (R151): A GO write starts a bulk cipher job, restoring a save record if asked. Operands: die, requester and value written to CIP_BLK_CTRL. -/
  | bulkJobGo (die : Nat) (req : BitVec 8) (v : BitVec 64)
  /-- BULK_JOB_DONE (R154): A bulk job ends; its status is set and a save record is written if asked. Operands: die. -/
  | bulkJobDone (die : Nat)
  /-- RNG_RESEED_FAILURE (R155): Reseeding has failed health tests for 1 s; RNG_OK is cleared and 0x0609 is raised. Operands: die. -/
  | rngReseedFailure (die : Nat)
  /-- SAFE_LOAD (R174): Schedule an entry change whose audio set takes effect at a chosen sample. Operands: the posted command. -/
  | safeLoad (c : Cmd)
  /-- SAFE_LOAD_APPLY (R174): At sample s of MP b, the new audio set takes effect and crossfades start. Operands: home die, kind and local index of the entry. -/
  | safeLoadApply (die : Nat) (isConf : Bool) (idx : Nat)
  /-- TDM_PORT_CFG_WRITE (R194): A port configuration write is applied, or refused if the port runs or the configuration is bad. Operands: die, port and value written. -/
  | tdmPortCfgWrite (die p : Nat) (v : BitVec 64)
  /-- TDM_STOP (R189): A STOP write stops a TDM port at the next MP boundary. Operands: die and port. -/
  | tdmStop (die p : Nat)
  /-- TDM_FSYNC_EDGE (R184): A slave port sees an FSYNC edge; it measures its offset, slips or leaves WAIT_CLK. Operands: die, port and stamp of the edge. -/
  | tdmFsyncEdge (die p : Nat) (raw : BitVec 64)
  /-- TDM_CLOCK_LOSS (R185): A slave port sees no FSYNC for 3 frame periods and enters WAIT_CLK. Operands: die and port. -/
  | tdmClockLoss (die p : Nat)
  /-- TDM_INPUT_FRAME (R187): An input frame is written to the group's ring, or lost if the queue is full. Operands: die, port, slot values of the frame top-aligned in 32 bits, and whether the queue has room. -/
  | tdmInputFrame (die p : Nat) (slots : List (BitVec 32)) (fits : Bool)
  /-- IEC_UNMUTE (R190): A muted pair sees 8,192 frames without a preamble and is faded in. Operands: die, port and channel pair. -/
  | iecUnmute (die p k : Nat)
  /-- TDM_OUTPUT_FETCH (R192): The output DMA fetches a block at its time, or sends zeros on underrun. Operands: die and group. -/
  | tdmOutputFetch (die g : Nat)
  /-- DEC_OPEN (R198): Open a decode context for a leg's stream. Operands: the posted command. -/
  | decOpen (c : Cmd)
  /-- DEC_CLOSE (R198): Close a decode context at the next boundary. Operands: the posted command. -/
  | decClose (c : Cmd)
  /-- DEC_KEYREQ (R211): Request a keyframe for a decode context's stream. Operands: the posted command. -/
  | decKeyreq (c : Cmd)
  /-- VIDEO_FRAME_RELEASE (R206): A decoded-video frame is released at its instant, and its picture decode starts. Operands: decode context and timestamp of the frame. -/
  | videoFrameRelease (ctx : BitVec 16) (ts : BitVec 32)
  /-- PICTURE_DECODE_DONE (R209): A picture completes decoding; marks, taint and the stand-in hold are updated and bound fences advance. Operands: decode context and what decoding found. -/
  | pictureDecodeDone (ctx : BitVec 16) (p : PicInfo)
  /-- PICTURE_LATE (R206): A picture is incomplete one frame interval after release and is marked LATE. Operands: decode context and picture number. -/
  | pictureLate (ctx : BitVec 16) (pid : Nat)
  /-- KEYFRAME_GAP_END (R211): The keyframe limiter gap ends; one request is sent if the context is still tainted. Operands: leg and SSRC. -/
  | keyframeGapEnd (leg : BitVec 16) (ssrc : BitVec 32)
  /-- LAYOUT_ALLOC (R228): Allocate a Gallery or Seam layout on a die. Operands: the posted command. -/
  | layoutAlloc (c : Cmd)
  /-- LAYOUT_FREE (R228): Free a layout. Operands: the posted command. -/
  | layoutFree (c : Cmd)
  /-- FLIP (R228): Post a flip group of layouts and fence conditions. Operands: the posted command. -/
  | flip (c : Cmd)
  /-- FENCE_BIND (R227): Bind or unbind a decode context to a fence. Operands: the posted command. -/
  | fenceBind (c : Cmd)
  /-- FLIP_EVALUATE (R229): At a picture boundary, a flip group waits on fences, commits, fails or is cancelled at its deadline. Operands: die, position of the waiting group, and whether this is the MP boundary DEADLINE_MP alone. -/
  | flipEvaluate (die i : Nat) (atDeadline : Bool)
  /-- GAL_FENCE_WRITE (R227): A fence write takes effect only if it advances the value. Operands: die, fence and value written. -/
  | galFenceWrite (die i : Nat) (v : BitVec 64)
  /-- PICTURE_BOUNDARY (R218): A layout's picture boundary starts composition, splicing and encoding of the next picture. Operands: die and layout, whether the picture being composed is incomplete, and the encode contexts whose source picture fails its block check. -/
  | pictureBoundary (die idx : Nat) (late : Bool) (failed : List (BitVec 16))
  /-- TILE_PICTURE_RECEIVE (R236): A tile picture reaches the Seam and is checked against Table 10.6. Operands: die, tile stream and picture. -/
  | tilePictureReceive (die i : Nat) (t : TilePic)
  /-- SEAM_START_WAIT_EXPIRY (R238): SEA_START_WAIT ends; the IDR is emitted with grey slots. Operands: viewer. -/
  | seamStartWaitExpiry (leg : BitVec 16)
  /-- SEAM_INTRA_GAP_END (R238): A tile stream's intra-request gap ends, and merged requests are sent. Operands: die and tile stream. -/
  | seamIntraGapEnd (die i : Nat)
  /-- ENC_OPEN (R241): Open an encode context. Operands: the posted command. -/
  | encOpen (c : Cmd)
  /-- ENC_CLOSE (R241): Close an encode context at the next picture boundary. Operands: the posted command. -/
  | encClose (c : Cmd)
  /-- ENC_RATE (R257): Change the rate of encode rungs. Operands: the posted command. -/
  | encRate (c : Cmd)
  /-- ENC_KEY (R252): Request an intra picture on rungs of an encode context. Operands: the posted command. -/
  | encKey (c : Cmd)
  /-- LATE_DRY_GUARD (R256): VEN_DRY_GUARD before the next boundary, the row in progress and later rows are coded dry. Operands: encode context, rung, and the row in progress. -/
  | lateDryGuard (ctx : BitVec 16) (rung row : Nat)
  /-- INTRA_GAP_END (R252): A rung's intra gap ends, and merged intra requests apply at the next picture. Operands: encode context and rung. -/
  | intraGapEnd (ctx : BitVec 16) (rung : Nat)
  /-- FEEDBACK_TIMEOUT (R276): No feedback arrives for 2,000 MP while video is sent; the target is halved. Operands: leg. -/
  | feedbackTimeout (leg : BitVec 16)
  /-- RTCP_REPORT_TIMER (R277): A sender report or RFC 8888 report interval ends, and the report is sent. Operands: leg, and the SSRC whose sender report is due or none for an RFC 8888 report. -/
  | rtcpReportTimer (leg : BitVec 16) (ssrc : Option (BitVec 32))
  /-- EGRESS_ENQUEUE (R278): A rewritten packet enters its leg's queue, or is dropped or evicts video. Operands: a rewritten packet. -/
  | egressEnqueue (p : TxPacket)
  /-- PACKET_DEPARTURE (R279): The subport scheduler chooses and transmits the next eligible packet. Operands: die and subport. -/
  | packetDeparture (die sub : Nat)
  /-- WAIT_DROP (R280): A queue head older than MAX_WAIT is dropped. Operands: leg. -/
  | waitDrop (leg : BitVec 16)
  /-- RTX_HOLD_EXPIRY (R273): A held video packet's RTX_HOLD time ends, and it is released from the pool. Operands: leg whose oldest held packet expires. -/
  | rtxHoldExpiry (leg : BitVec 16)
  /-- EGR_SEND (R283): Send a host Ethernet frame through the control queue. Operands: the posted command. -/
  | egrSend (c : Cmd)
  /-- HST_ENQ_WRITE (R300): A PF write of word 7 of HST_ENQ enqueues a host tub. Operands: function, die and value written to word 7. -/
  | hstEnqWrite (func die : Nat) (v : BitVec 64)
  /-- TAKE_DELIVERY (R292): The Hoist writes an eligible tub to a waiting core. Operands: die, class and core. -/
  | takeDelivery (die cls core : Nat)
  /-- STALL_TIMEOUT (R295): A stalled enqueue exceeds HST_STALL_MAX and ends as BUSY. Operands: die and stalled source. -/
  | stallTimeout (die : Nat) (src : BitVec 8)
  /-- TALLY_SKIP (R297): The oldest unreleased tub of a flow times out and is skipped. Operands: die and flow. -/
  | tallySkip (die flow : Nat)
  /-- BUNDLE_ISSUE (R309): A Face core issues a 128-bit bundle of four operations. Operands: die and Face core. -/
  | bundleIssue (die core : Nat)
  /-- DMA_DONE (R322): A DMA descriptor completes its rows and writes its fence. Operands: die, Face core and channel. -/
  | dmaDone (die core ch : Nat)
  /-- VENDOR_CORE_RESTART (R326): The bridge reloads and restarts a faulted vendor core within 1 MP. Operands: die and Face core. -/
  | vendorCoreRestart (die core : Nat)
  /-- RUN (R327): A RUN write starts a stopped or faulted customer core at ENTRY. Operands: die, Face core and value written. -/
  | run (die core : Nat) (v : BitVec 64)
  /-- STOP (R327): A STOP write stops a customer core at its next bundle boundary. Operands: die, Face core and value written. -/
  | stop (die core : Nat) (v : BitVec 64)
  /-- FACE_IMEM_WRITE (R328): A PF write to a core's instruction memory, discarded unless the core is stopped or faulted. Operands: function, die, Face core, byte offset in its instruction memory, and value. -/
  | faceImemWrite (func die core off : Nat) (v : BitVec 64)
  /-- DRAM_ACCESS (R336): A DRAM access opens its row, moves one line with auto-precharge, and corrects ECC or poisons the line. Operands: the access. -/
  | dramAccess (a : DramReq)
  /-- ROW_WINDOW_END (R340): A 32 ms row-disturbance window ends, and throttled requesters are released. Operands: die. -/
  | rowWindowEnd (die : Nat)
  /-- SAME_BANK_REFRESH (R338): A refresh interval ends, and a same-bank refresh is issued. Operands: die. -/
  | sameBankRefresh (die : Nat)
  /-- DRAM_TEMPERATURE_READ (R338): Every 16 ms, device temperatures are read and the refresh rate is doubled or restored. Operands: die and the highest temperature its devices report, 0.001 °C. -/
  | dramTemperatureRead (die : Nat) (milliC : Int)
  /-- RETRAIN_CHECK (R339): Every 100 ms, a subchannel's oscillator is read, and it is retrained if it has drifted. Operands: die, subchannel, oscillator drift since the last training, and temperature change. -/
  | retrainCheck (die sub : Nat) (driftPs : Nat) (dTempMilliC : Int)
  /-- PATROL_SCRUB (R341): The patrol scrub reads lines and corrects errors. Operands: die and what the next line's ECC shows. -/
  | patrolScrub (die : Nat) (e : EccResult)
  /-- QUEUE_WRITE (R343): A narrow write is packed into a queue, and a line commits when full or at END. Operands: die, queue ID, bytes and END mark. -/
  | queueWrite (die q : Nat) (bytes : List (BitVec 8)) (last : Bool)
  /-- DROP (R344): The consumer discards a queue's lines up to the next end of unit. Operands: die and queue ID. -/
  | drop (die q : Nat)
  /-- QUEUE_POINTER_CHECK (R345): Each cycle, a queue checks its duplicated pointers and resets itself on mismatch. Operands: die, queue ID, and the upset that has flipped bits of the pointer copies: write true, write inverted, read true, read inverted, 16 bits each. -/
  | queuePointerCheck (die q : Nat) (upset : BitVec 64)
  /-- PAIR_ROLE_SETTLE (R351): When a structure reaches RUNNING, the unit finds its peer over Adit and settles its role. Operands: what the unit finds over Adit. -/
  | pairRoleSettle (p : PeerSeen)
  /-- PEER_SEARCH_TIMEOUT (R351): No peer is found within 2 s; the unit becomes active or keeps waiting, as its strap says. -/
  | peerSearchTimeout
  /-- LEDGER_RECORD (R356): A standby receives an admission ledger record and applies its decision. Operands: die and record. -/
  | ledgerRecord (die : Nat) (r : LedgerRec)
  /-- LEDGER_FETCH (R357): An admitted packet is absent SHADOW_US/2 after its record; it is fetched, or the leg diverges. Operands: die, ADMIT record, and the packet the active unit supplies. -/
  | ledgerFetch (die : Nat) (r : LedgerRec) (got : Option RxPacket)
  /-- RESEED_INSTALL (R358): At switch MP S, the standby installs re-seeded state for a diverged item. Operands: leg and the state received, none if it has not come. -/
  | reseedInstall (leg : BitVec 16) (r : Option Reseed)
  /-- DIGEST_SEND (R359): The active unit sends its per-second output digests. Operands: die, second, and whether the standby reports every leg in step and its last second matched with none excluded. -/
  | digestSend (die second : Nat) (peerInStep : Bool)
  /-- DIGEST_COMPARE (R360): The standby compares digests, diverges mismatching legs and runs Assay. Operands: die, second, IMAGE_ID, VERSION and digests of the active unit's die, and the clusters that fail the Assay run then. -/
  | digestCompare (die second : Nat) (image : BitVec 64) (version : BitVec 32) (theirs : List (BitVec 16 × BitVec 32)) (failed : List Nat)
  /-- ASSAY_SELF_TEST (R361): An idle engine runs known-answer vectors and is retired on failure. Operands: die, unit by its Canary cluster number (48 + k: its SRAM array), and result. -/
  | assaySelfTest (die unit : Nat) (pass : Bool)
  /-- HEARTBEAT_SEND (R362): At each 250 µs instant, die 0 sends a heartbeat on every Adit link. -/
  | heartbeatSend
  /-- HEARTBEAT_MISS (R362): A heartbeat is not received within 10 µs of its instant; after four on every link the peer is lost. Operands: die whose link misses the heartbeat. -/
  | heartbeatMiss (die : Nat)
  /-- TAKEOVER_BOUNDARY (R363): At T, the shadow delay ends and transmitters and TDM SDO are enabled. -/
  | takeoverBoundary
  /-- ADDRESS_ANNOUNCEMENT (R363): At T, T + 10 ms and T + 20 ms, gratuitous ARP or unsolicited NA is sent for every local address. -/
  | addressAnnouncement
  /-- TAKEOVER_CHECK (R365): At T + 10, the new active unit checks subports, TDM pads and announcements. Operands: running TDM output pads whose readback fails: die and port. -/
  | takeoverCheck (bad : List (Nat × Nat))
  /-- PAIR_ALIVE_IN_CHANGE (R350): The filtered PAIR_ALIVE_IN level changes. Operands: filtered level. -/
  | pairAliveInChange (level : Bool)
  /-- SWITCH (R364): A SWITCH write schedules a planned role switch at PAR_SWITCH_MP, or is rejected. Operands: value written to PAR_CTRL. -/
  | switch (v : BitVec 64)
  /-- PLANNED_SWITCH (R364): At the switch boundary, the old active unit stops transmitting and the standby starts. Operands: switch boundary that the active unit announces over Adit, for a standby. -/
  | plannedSwitch (peerMp : BitVec 64)
  /-- PEER_FALLBACK_NOTICE (R400): A peer announces a fallback on Adit; a unit in trial with the same MAN_SEQ falls back. Operands: MAN_SEQ the peer announces. -/
  | peerFallbackNotice (manSeq : BitVec 32)
  /-- CANARY_MEASURE (R367): Each second, a Canary cluster's slack is measured; a worn cluster is retired. Operands: die, cluster and slack. -/
  | canaryMeasure (die k : Nat) (slack : BitVec 8)
  /-- REPLAN (R367): A REPLAN write, or the yearly AUTO timer, starts a margin re-plan. Operands: die, and whether the yearly timer rather than a write starts it. -/
  | replan (die : Nat) (auto : Bool)
  /-- MARGIN_REPLAN_DONE (R367): The re-plan sweep ends and new bins are chosen, and 0x100D is raised. Operands: die, and by cluster the slack at 105 °C in bins 0 to 7. -/
  | marginReplanDone (die : Nat) (slack : List (Nat × List (BitVec 8)))
  /-- RAIL_WARNING (R371): A rail monitor crosses its warning level; error 0x1105 is raised. Operands: die, row of Table 17.1, and whether the rail is now below warning. -/
  | railWarning (die rail : Nat) (below : Bool)
  /-- BRACE_ENTRY (R373): VDD_CORE or VDD_SRAM falls below warning, and the die enters brace. Operands: die and rail. -/
  | braceEntry (die : Nat) (sram : Bool)
  /-- BRACE_EXIT (R373): Both rails have held above warning for 2 µs; the die leaves brace with 0x1101. Operands: die. -/
  | braceExit (die : Nat)
  /-- BRACE_SUSTAINED (R374): A brace lasts 1 s; error 0x1103 is raised. Operands: die. -/
  | braceSustained (die : Nat)
  /-- JUNCTION_HOT (R372): Junction temperature reaches 100 °C; error 0x1106 is raised once per episode. Operands: die. -/
  | junctionHot (die : Nat)
  /-- POR (R378): Power on VDD_IO resets the package, losing all but fuses and flash. -/
  | por
  /-- PIN_RESET (R416): RESET_N low for at least 10 µs resets the package and samples PAIR_ROLE. Operands: length of the low pulse, and level of PAIR_ROLE at its end. -/
  | pinReset (lowNs : Nat) (role : Bool)
  /-- SOFT (R380): A guarded DIE_RESET.SOFT write resets the package. Operands: writing function and value written to DIE_RESET. -/
  | soft (func : Nat) (v : BitVec 64)
  /-- DIE_GO (R380): A DIE_RESET write with DIE_GO resets die 1 to n − 1. Operands: writing function and value written to DIE_RESET. -/
  | dieGo (func : Nat) (v : BitVec 64)
  /-- LOCKSTEP_STOP (R377): A Duken lockstep stop or watchdog resets the package (die 0) or the die. Operands: die. -/
  | lockstepStop (die : Nat)
  /-- SUPPLY_RESET (R372): A rail at its reset level or a junction at 115 °C resets the die or the package. Operands: die and row of Table 17.1, none for the junction temperature. -/
  | supplyReset (die : Nat) (rail : Option Nat)
  /-- FLR (R380): A function-level reset discards the function's queues and pending commands. Operands: function. -/
  | flr (func : Nat)
  /-- PERST_N (R419): PERST_N assertion takes the PCIe link down, which acts as FLR of every function. -/
  | perstN
  /-- DIE_RESET_REJOIN (R379): A reset die retrains, re-slaves and resumes its legs at an armed MP. Operands: die. -/
  | dieResetRejoin (die : Nat)
  /-- ERR_HEAD_WRITE (R383): The host advances the error-log head, marking records read. Operands: die and value written. -/
  | errHeadWrite (die : Nat) (v : BitVec 64)
  /-- ERR_CLEAR (R384): A write unpins every record and restarts first-since-clear. Operands: die and value written. -/
  | errClear (die : Nat) (v : BitVec 64)
  /-- ERR_OVF_CFG_WRITE (R386): A write configures or enables the overflow ring, or resets it when ENABLE is cleared. Operands: die and value written. -/
  | errOvfCfgWrite (die : Nat) (v : BitVec 64)
  /-- APPLY (R393): Start a journalled delta apply to the inactive bank, or refuse it. -/
  | apply
  /-- APPLY_BLOCK_DONE (R393): One flash block is erased, programmed, verified and journalled, or the apply stops PARTIAL. Operands: result of each readback compare of the block, at most three. -/
  | applyBlockDone (readback : List Bool)
  /-- ACTIVATE (R396): Arm activation of the applied bank at MP A, or refuse it. -/
  | activate
  /-- CANCEL (R395): Stop an apply after its current block, or cancel an armed activation. -/
  | cancel
  /-- CONFIRM (R399): The PF confirms a trial bank. -/
  | confirm
  /-- ACTIVATION_READINESS_CHECK (R396): At A − 1,000, readiness is checked on every unit, and the activation is cancelled on failure. Operands: readiness of the paired unit. -/
  | activationReadinessCheck (peerReady : Bool)
  /-- TRIAL_CONFIRMATION (R399): The trial conditions are met; the pointer drops TRIAL and the SVN may be raised. -/
  | trialConfirmation
  /-- TRIAL_WINDOW_EXPIRY (R399): The confirmation window ends unconfirmed; the bridge falls back to the old bank. -/
  | trialWindowExpiry
  /-- REGISTER_WRITE (R8): A register write without a row of its own sets its field, or is discarded if narrow or in a reserved range. Operands: function, offset in that function's BAR0 (R404 for the PF, R409 for a VF), and access. -/
  | registerWrite (func : Nat) (off : Nat) (acc : RegAccess)
  /-- PTP_SYNC_INTERVAL (R35): At each sync, announce or delay-request interval, the PTP stack on die 0's Duken core transmits its messages for its role. Operands: which interval ends. -/
  | ptpSyncInterval (k : PtpKind)
  /-- ESMC_TRANSMIT (R36): The Duken core sends an ESMC quality message on the selected SyncE port. -/
  | esmcTransmit
  /-- ADIT_TIME_EXCHANGE (R353): Every 1 µs, the standby's die 0 exchanges a two-way time message with the active unit over Adit and steers its servo. Operands: raw stamps of the exchange, as SLAVE_TIME_EXCHANGE. -/
  | aditTimeExchange (t1 t2 t3 t4 : BitVec 64)
  /-- RNG_OK_RETURN (R155): Reseeding passes its health tests again, RNG_OK returns to 1, and KEY_GEN is served again. Operands: die. -/
  | rngOkReturn (die : Nat)
  /-- BRACE_ALARM_CLEAR (R375): The count of braces in the preceding 60 s falls to 8 or fewer, and BRACE_ALARM clears by itself. Operands: die. -/
  | braceAlarmClear (die : Nat)
  /-- JUNCTION_EPISODE_END (R372): The junction temperature falls below 95 °C, which ends the over-temperature episode so that a later 100 °C raises 0x1106 again. Operands: die. -/
  | junctionEpisodeEnd (die : Nat)
  /-- PERST_N_RELEASE (R419): PERST_N is released, and the PCIe link trains within 20 ms. -/
  | perstNRelease
  deriving DecidableEq, Repr

end Sys2Proof
end

