-- ==== Sys2Proof/WellFormed.lean ====
section
/-! DEFINITION. Well-formed commands: the operand ranges that the manual gives. -/

namespace Sys2Proof

/-- A die number: at most eight dies (00 Table 0.1). -/
def okDie (d : Nat) : Bool := decide (d < 8)

/-- A function: the PF or one of 63 VFs (19 R403). -/
def okFunc (f : Nat) : Bool := decide (f < 64)

/-- An index 0 to 7: a subport, a transmit-stamp queue, a capture unit, a TDM port (02 R37, 05 R105). -/
def okSub (i : Nat) : Bool := decide (i < 8)

/-- A trigger of a die (02 R50). -/
def okTrigger (n : Nat) : Bool := decide (n < 16)

/-- A Face core (14 R302). -/
def okCore (c : Nat) : Bool := decide (c < 17)

/-- An Ubhan port (01 R10). -/
def okUbhan (p : Nat) : Bool := decide (p < 3)

/-- A PPS or 10 MHz input: the sources with edges (02 Table 2.2). -/
def okSource (c : Nat) : Bool := decide (2 ≤ c) && decide (c ≤ 5)

/-- A row of the rail monitors (17 Table 17.1). -/
def okRail (r : Nat) : Bool := decide (r < 6)

/-- A leg ID and a conference ID with no bit marked 0 set (04 R77). -/
def okLeg (l : BitVec 16) : Bool := l.extractLsb' 13 3 == 0
def okConf (c : BitVec 16) : Bool := c.extractLsb' 10 6 == 0

/-- A local index of a leg or of a conference (04 R77). -/
def okEntry (isConf : Bool) (i : Nat) : Bool := if isConf then decide (i < 128) else decide (i < 1024)

/-- An offset in BAR2, and one access to it: at most 64 bytes (19 R403, R407). -/
def okBar2 (off : Nat) : Bool := decide (off < 0x100000000)
def okBurst (bytes : List Byte) : Bool := decide (1 ≤ bytes.length) && decide (bytes.length ≤ 64)

/-- An internal queue ID (15 R346). -/
def okQueueId (q : Nat) : Bool := decide (q < 65536)

/-- A posted command: posted by a function (04 R92). -/
def okCmd (c : Cmd) : Bool := okFunc c.func

/-- A requester of register accesses: a function, or the Duken core of the die addressed, 0x60 (06 R151, R152). -/
def okRequester (f : Nat) : Bool := decide (f < 64) || f == 0x60

/-- Whether a command's operands are in the ranges that the manual gives them. -/
def Instr.wf : Instr → Bool
  | .mpBoundary _ => true
  | .ubhanLaneFailure die port => okDie die && okUbhan port
  | .slaveTimeExchange die _ _ _ _ => okDie die
  | .slaveRemeasureDone die => okDie die
  | .slaveOffsetError die => okDie die
  | .referenceEdge src _ => okSource src
  | .frequencyWindowEnd src _ => okSource src
  | .referenceStop src => okSource src
  | .referenceQualified src => okSource src
  | .timRefRearm _ => true
  | .ptpMessage m => decide (m.port < 4)
  | .announceReceiptTimeout => true
  | .ptpRequalify => true
  | .esmcMessage _ => true
  | .esmcTimeout => true
  | .synceRequalify => true
  | .servoLock => true
  | .stepGoInitial => true
  | .stepGo => true
  | .stepApply => true
  | .timSnap die => okDie die
  | .timTxsPop die q => okDie die && okSub q
  | .triggerArm die n _ => okDie die && okTrigger n
  | .triggerDisarm die n _ => okDie die && okTrigger n
  | .triggerFire die n => okDie die && okTrigger n
  | .captureEdge die unit _ _ _ => okDie die && okSub unit
  | .timCapPop die c => okDie die && okSub c
  | .timCapCfgWrite die c _ => okDie die && okSub c
  | .timPtpCfgWrite _ => true
  | .ppsOutPulse => true
  | .bootLoad => true
  | .dramTrainingDone die _ => okDie die
  | .bwWindow die demand => okDie die && decide (demand.length = 7)
  | .restructureGo _ => true
  | .restructureCheckDone => true
  | .restructureDrainStart => true
  | .restructureLateCheck => true
  | .restructureResume => true
  | .bar2TableWrite func off bytes => okFunc func && okBar2 off && okBurst bytes
  | .bar2StagingWrite func off _ => okFunc func && okBar2 off
  | .tableDoorbell func _ => okFunc func
  | .entryAdoption die isConf idx => okDie die && okEntry isConf idx
  | .sqTailWrite func _ _ => okFunc func
  | .cqHeadWrite func _ => okFunc func
  | .allocLeg c => okCmd c
  | .freeLeg c => okCmd c
  | .migrateLeg c => okCmd c
  | .migrationStateSend leg => okLeg leg
  | .migrationSwitch leg => okLeg leg
  | .rehomeConf c => okCmd c
  | .confRehomeSwitch conf => okConf conf
  | .releaseHeld c => okCmd c
  | .nop c => okCmd c
  | .unknownOpcode c => okCmd c
  | .legConfOwnerWrite func die conf _ => okFunc func && okDie die && okEntry true conf
  | .queueCfgWrite func _ _ => okFunc func
  | .frameReceive die sub _ _ => okDie die && okSub sub
  | .ingStrHeadWrite die _ => okDie die
  | .ingStrCfgWrite die _ => okDie die
  | .linkChange die sub _ => okDie die && okSub sub
  | .tagVerdict die leg _ => okDie die && okLeg leg
  | .nackTimer leg _ => okLeg leg
  | .videoFrameTimeout leg _ _ => okLeg leg
  | .keyAlloc c => okCmd c
  | .keyFree c => okCmd c
  | .keyUnwrap c => okCmd c
  | .keyGen c => okCmd c
  | .keyAgree c => okCmd c
  | .keyDerive c => okCmd c
  | .keyFinished c => okCmd c
  | .keyExportSrtp c => okCmd c
  | .keyCopy c => okCmd c
  | .keyRewrap c => okCmd c
  | .ownerEnroll c => okCmd c
  | .rxGraceExpiry leg => okLeg leg
  | .cipLockAcquire die _ => okDie die
  | .cipLockRelease die _ => okDie die
  | .lockPreempt die => okDie die
  | .bulkJobGo die _ _ => okDie die
  | .bulkJobDone die => okDie die
  | .rngReseedFailure die => okDie die
  | .safeLoad c => okCmd c
  | .safeLoadApply die isConf idx => okDie die && okEntry isConf idx
  | .tdmPortCfgWrite die p _ => okDie die && okSub p
  | .tdmStop die p => okDie die && okSub p
  | .tdmFsyncEdge die p _ => okDie die && okSub p
  | .tdmClockLoss die p => okDie die && okSub p
  | .tdmInputFrame die p _ _ => okDie die && okSub p
  | .iecUnmute die p k => okDie die && okSub p && decide (k < 16)
  | .tdmOutputFetch die g => okDie die && okSub g
  | .decOpen c => okCmd c
  | .decClose c => okCmd c
  | .decKeyreq c => okCmd c
  | .videoFrameRelease _ _ => true
  | .pictureDecodeDone _ _ => true
  | .pictureLate _ _ => true
  | .keyframeGapEnd leg _ => okLeg leg
  | .layoutAlloc c => okCmd c
  | .layoutFree c => okCmd c
  | .flip c => okCmd c
  | .fenceBind c => okCmd c
  | .flipEvaluate die _ _ => okDie die
  | .galFenceWrite die i _ => okDie die && decide (i < 256)
  | .pictureBoundary die idx _ _ => okDie die && decide (idx < 64)
  | .tilePictureReceive die _ _ => okDie die
  | .seamStartWaitExpiry leg => okLeg leg
  | .seamIntraGapEnd die _ => okDie die
  | .encOpen c => okCmd c
  | .encClose c => okCmd c
  | .encRate c => okCmd c
  | .encKey c => okCmd c
  | .lateDryGuard _ rung _ => decide (rung < 4)
  | .intraGapEnd _ rung => decide (rung < 4)
  | .feedbackTimeout leg => okLeg leg
  | .rtcpReportTimer leg _ => okLeg leg
  | .egressEnqueue _ => true
  | .packetDeparture die sub => okDie die && okSub sub
  | .waitDrop leg => okLeg leg
  | .rtxHoldExpiry leg => okLeg leg
  | .egrSend c => okCmd c
  | .hstEnqWrite func die _ => okFunc func && okDie die
  | .takeDelivery die cls core => okDie die && decide (cls < 3) && okCore core
  | .stallTimeout die _ => okDie die
  | .tallySkip die flow => okDie die && decide (flow < 1024)
  | .bundleIssue die core => okDie die && okCore core
  | .dmaDone die core ch => okDie die && okCore core && decide (ch < 4)
  | .vendorCoreRestart die core => okDie die && okCore core
  | .run die core _ => okDie die && okCore core
  | .stop die core _ => okDie die && okCore core
  | .faceImemWrite func die core off _ => okFunc func && okDie die && okCore core && decide (off < 0x10000)
  | .dramAccess _ => true
  | .rowWindowEnd die => okDie die
  | .sameBankRefresh die => okDie die
  | .dramTemperatureRead die _ => okDie die
  | .retrainCheck die sub _ _ => okDie die && decide (sub < 4)
  | .patrolScrub die _ => okDie die
  | .queueWrite die q _ _ => okDie die && okQueueId q
  | .drop die q => okDie die && okQueueId q
  | .queuePointerCheck die q _ => okDie die && okQueueId q
  | .pairRoleSettle _ => true
  | .peerSearchTimeout => true
  | .ledgerRecord die _ => okDie die
  | .ledgerFetch die _ _ => okDie die
  | .reseedInstall leg _ => okLeg leg
  | .digestSend die _ _ => okDie die
  | .digestCompare die _ _ _ _ _ => okDie die
  | .assaySelfTest die unit _ => okDie die && decide (unit < 96)
  | .heartbeatSend => true
  | .heartbeatMiss die => okDie die
  | .takeoverBoundary => true
  | .addressAnnouncement => true
  | .takeoverCheck _ => true
  | .pairAliveInChange _ => true
  | .switch _ => true
  | .plannedSwitch _ => true
  | .peerFallbackNotice _ => true
  | .canaryMeasure die k _ => okDie die && decide (k < 48)
  | .replan die _ => okDie die
  | .marginReplanDone die _ => okDie die
  | .railWarning die rail _ => okDie die && okRail rail
  | .braceEntry die _ => okDie die
  | .braceExit die => okDie die
  | .braceSustained die => okDie die
  | .junctionHot die => okDie die
  | .por => true
  | .pinReset _ _ => true
  | .soft func _ => okFunc func
  | .dieGo func _ => okFunc func
  | .lockstepStop die => okDie die
  | .supplyReset die _ => okDie die
  | .flr func => okFunc func
  | .perstN => true
  | .dieResetRejoin die => okDie die
  | .errHeadWrite die _ => okDie die
  | .errClear die _ => okDie die
  | .errOvfCfgWrite die _ => okDie die
  | .apply => true
  | .applyBlockDone readback => decide (readback.length ≤ 3)
  | .activate => true
  | .cancel => true
  | .confirm => true
  | .activationReadinessCheck _ => true
  | .trialConfirmation => true
  | .trialWindowExpiry => true
  | .registerWrite func off _ => okRequester func && decide (off < 0x4000000)
  | .ptpSyncInterval _ => true
  | .esmcTransmit => true
  | .aditTimeExchange _ _ _ _ => true
  | .rngOkReturn die => okDie die
  | .braceAlarmClear die => okDie die
  | .junctionEpisodeEnd die => okDie die
  | .perstNRelease => true

end Sys2Proof
end

