-- ==== Sys2Proof/Decode.lean ====
section
/-! DEFINITION. The words of commands. The table of operations and events gives no row any bits: a command
comes with the operands of its row, not as a word, so no word spells one. -/

namespace Sys2Proof

/-- The command that the low `nbits` bits of a word spell: none, since the table gives no row any bits. -/
def decodeTableWord (_nbits _w : Nat) : Option Instr := none

end Sys2Proof
end

