-- ==== Sys2Proof/Machine/Crc.lean ====
section
/-! DEFINITION. CRC-32C, the check of every carry and block check, of structure sections, of the bank
pointer and of digests (05 R117). -/

namespace Sys2Proof.Machine

/-- One bit of the reflected polynomial 0x1EDC6F41. -/
def crcBit (c : BitVec 32) : BitVec 32 := if c.getLsbD 0 then (c >>> 1) ^^^ 0x82F63B78 else c >>> 1

/-- One byte. -/
def crcByte (c : BitVec 32) (b : Byte) : BitVec 32 :=
  crcBit (crcBit (crcBit (crcBit (crcBit (crcBit (crcBit (crcBit (c ^^^ b.setWidth 32))))))))

/-- The check's start value, its update and its final value. -/
def crcInit : BitVec 32 := 0xFFFFFFFF
def crcUpdate (c : BitVec 32) (bs : List Byte) : BitVec 32 := bs.foldl crcByte c
def crcFinal (c : BitVec 32) : BitVec 32 := ~~~c

/-- CRC-32C of a byte string. -/
def crc32c (bs : List Byte) : BitVec 32 := crcFinal (crcUpdate crcInit bs)

end Sys2Proof.Machine
end

