-- ==== Sys2Proof/Config.lean ====
section
/-! DEFINITION. What the manual leaves to the implementation and the values it does not fix.
Every constant here is opaque: nothing can be proved about its value. -/

namespace Sys2Proof.Config

/-- FREE (log 13): the codec core that runs a decode or encode context, of which the manual says only its role. -/
opaque contextCore : (encode : Bool) → (ctx : BitVec 16) → BitVec 3

/-- FREE VALUE (log 7): the n-th value drawn where the manual fixes none: random numbers, measured
telemetry, results of arithmetic it only bounds, and content coded by standards it only names. -/
opaque freeValue : Nat → BitVec 64

/-- FREE (log 13): the requester IDs 0x90 to 0x9F of the fixed-function engines, of which 13 R289 gives
only the range, by engine: ingress, SRTP, mixer, Gallery, Seam, egress, TDM. -/
opaque engineId : Nat → BitVec 4

/-- FREE (log 2): what the opaque payload of a structure section sets, as numbers by position
(03 R57: the payloads are produced by the compiler and are opaque to software). -/
opaque sectionField : (type : Nat) → (payload : List Byte) → (field : Nat) → Nat

/-- FREE (log 14): whether an ECDSA P-384 signature over a message verifies under the key of a digest
(03 R60, 18 R390, 06 R144). -/
opaque ecdsaOk : (keyDigest : BitVec 384) → (message signature : List Byte) → Bool

/-- FREE (log 14): SHA-384 of a byte string (03 R60, 18 R390). -/
opaque sha384 : List Byte → BitVec 384

/-- FREE (log 14): AES-GCM decryption: the plaintext, or none where the tag does not match
(03 R61, 18 R391, 06 R139, R154). -/
opaque gcmOpen : (key : BitVec 256) → (iv aad ciphertext : List Byte) → (tag : List Byte) → Option (List Byte)

/-- FREE (log 14): AES-GCM encryption: ciphertext and tag (06 R151, R154). -/
opaque gcmSeal : (key : BitVec 256) → (iv aad plaintext : List Byte) → List Byte × List Byte

/-- FREE (log 14): whether the plaintext of a part of TYPE 2, 3 or 5 carries a good vendor signature (18 R391). -/
opaque innerSigned : List Byte → Bool

/-- FREE (log 150): the role of the codec cores that a codec handler is for: 1 decode, 2 encode, 3 analysis (13 R290). -/
opaque codecHandlerRole : Nat → BitVec 2

/-- FREE (log 14): a bulk AES transform in mode CBC, CTR, CFB, OFB or GCM: the output and the chaining state after it, from the
slot's TYPE (AES-128 or AES-256), mode, direction, key, chaining state before it and input (06 R151). -/
opaque aesBulk : (ktype : BitVec 4) → (mode : Nat) → (decrypt : Bool) → (key : BitVec 256) → (chain data : List Byte) → List Byte × List Byte

/-- FREE (log 14): the key that the device key pair and an ephemeral public key derive (06 R139). -/
opaque unwrapKey : (ephemeral salt : List Byte) → BitVec 256

/-- FREE (log 14): the public key of a private key value: P-256 or, with `x`, X25519 (06 R438). -/
opaque publicKey : (x : Bool) → (priv : BitVec 256) → List Byte

/-- FREE (log 14): the device public key x ‖ y that CIP_DEV_PUB shows, by register (06 R156). -/
opaque devicePub : Nat → BitVec 64

/-- FREE (log 14): the ECDH shared secret (06 R438). -/
opaque ecdh : (x : Bool) → (priv : BitVec 256) → (peer : List Byte) → BitVec 256

/-- FREE (log 14): the TLS PRF, HKDF-Extract and HKDF-Expand-Label of KEY_DERIVE, 48 bytes of output
(06 R438). -/
opaque kdf : (op : Nat) → (sha384 : Bool) → (secret : BitVec 512) → (salt : Option (BitVec 512)) → (ctx : List Byte) → BitVec 512

/-- FREE (log 14): TLS Finished verify_data (06 R140). -/
opaque finished : (tls13 sha384 server : Bool) → (secret : BitVec 512) → (hash : List Byte) → List Byte

/-- FREE (log 14): the DTLS-SRTP exporter: the key and salt of the client and of the server (06 R141). -/
opaque exportSrtp : (tls13 sha384 : Bool) → (profile : Nat) → (secret : BitVec 512) → (randoms : List Byte) → BitVec 512 × BitVec 512

/-- FREE (log 14): the fields of an OWNER_ENROLL record, whose layout 06 R144 does not give: index and whether it
revokes; the public key; the signer's key index; the signed bytes; the signature. -/
opaque enrollRecord : List Byte → (Nat × Bool) × List Byte × Nat × List Byte × List Byte

/-- FREE (log 14): the save key of a die under a ROOT_GEN (06 R154). -/
opaque saveKey : (rootGen die : Nat) → BitVec 256

/-- FREE (log 14): SRTP or SRTCP protection of a payload under a key and its salt at an index; `encrypt` false where an SRTCP
packet is authenticated only (06 R146). -/
opaque srtpProtect : (key : BitVec 512) → (xform : Nat) → (rtcp encrypt : Bool) → (ssrc : BitVec 32) → (index : Nat) → List Byte → List Byte

/-- FREE (log 15): by how many ppm the bridge's linear gain differs from the formula, within 0.05 dB: for a compressor by its
parameters, gain state and sample, for a constant gain by its value (07 R165 to R167). -/
opaque gainError : (comp : BitVec 64) → (times : BitVec 33) → (g : Int) → (x : Nat) → Int

/-- FREE (log 15): what PEAK reads for a bus peak that signed Q7.8 dBFS cannot show (07 R178). -/
opaque lowPeak : Nat → BitVec 16

/-- FREE (log 15): what an audio encoder makes of a frame: a value that names the coded bytes and the encoder's next state, by
its configuration, its state and the frame's samples (07 R172, R173). -/
opaque audioCode : (cfg : List Nat) → (st : BitVec 64) → (samples : List (Int × Int)) → BitVec 64

/-- FREE (log 15): the bytes of an Opus frame at a bitrate, by the value that names its content (07 R157). -/
opaque opusBytes : (kbps ms : Nat) → (v : BitVec 64) → Nat

/-- FREE (log 7): the i-th value of a block of samples or of a coded payload that is drawn as one. -/
opaque freeList : BitVec 64 → Nat → BitVec 64

/-- FREE (log 15): sample (x, y) of a plane (0 Y, 1 Cb, 2 Cr) of a decoded picture at an output size (0 full, 1 half,
2 quarter), from the free value that names the picture's content (chapter 09 names the coding standards only). -/
opaque picSample : (content : BitVec 64) → (size plane x y : Nat) → BitVec 10

/-- FREE (log 16): the bits that a coded row of a picture takes (11 R255), by the context's parameters and the rate control of its
rung, the names of its coding history and of its source picture, the row, the vectors of its blocks and the row QP. -/
opaque rowBits : (params : List Int) → (hist src : BitVec 64) → (row : Nat) → (vectors : List (Int × Int)) → (qp : Int) → Nat

/-- FREE (log 16): the bits of a dry row (0) and of a picture's headers (1), the QP base (3), and what a row QP and a row's plan come
to where the formula divides by 0 (4, 5) (11 R255). -/
opaque codingFigure : (kind : Nat) → (params : List Int) → (hist src : BitVec 64) → (row : Nat) → Nat

/-- FREE (log 16): names a picture by the bytes that hold it, and the coding history of a rung after a picture. -/
opaque pictureName : List Byte → BitVec 64
opaque codedHistory : (params : List Int) → (hist src : BitVec 64) → (qps : List Nat) → BitVec 64

/-- FREE (log 148): SATD of a 16 × 16 block of a picture, against its prediction from another picture by a vector in quarter pels, and
as an intra block (11 R245, R246). -/
opaque interSatd : (src ref : BitVec 64) → (bx by_ : Nat) → (vec : Int × Int) → Nat
opaque intraSatd : (src : BitVec 64) → (bx by_ : Nat) → Nat

/-- FREE (log 148): λ(QP), and the bits of the difference between a vector and its neighbours (11 R246). -/
opaque lambda : (qp : Nat) → Nat
opaque vectorBits : (vec : Int × Int) → (near : List (Int × Int)) → Nat

/-- FREE (log 148): the motion vector, in quarter pels, that a received picture's stream codes at a sample; none where it is
intra-coded there (11 Table 11.4). -/
opaque picVector : (content : BitVec 64) → (x y : Nat) → Option (Int × Int)

/-- FREE (log 148): the vector of a skip candidate of a unit of a dry row, and its SAD, by index (11 R255). -/
opaque skipVector : (params : List Int) → (hist src : BitVec 64) → (ux uy idx : Nat) → Option (Int × Int)
opaque skipSad : (params : List Int) → (hist src : BitVec 64) → (ux uy : Nat) → (vec : Int × Int) → Nat

/-- FREE (log 136): the clock identity of the bridge's PTP clock, and its class, accuracy and variance. -/
opaque ptpIdentity : BitVec 64
opaque ptpQuality : BitVec 32

/-- FREE (log 37): the estimated class 3 load of an open leg in B/s, by the content of its half. -/
opaque legBandwidth : (half : List Byte) → Nat

/-- FREE (log 40): whether a use that is no whole number of a register's units reads rounded up; by use and unit. -/
opaque roundUp : (use unit : Nat) → Bool

/-- FREE (log 144): where in the reference pool a new run of block slots lies, by the runs there are (first slot, length) and its
length. -/
opaque poolPlace : (runs : List (Nat × Nat)) → (len : Nat) → Nat

/-- FREE (log 16): the payloads of the RTP packets that carry a coded picture, by the name of the history it leaves and its bits, and
those of a mosaic's access unit, by its slice data (10 R237, 12 R261). -/
opaque codedPackets : (hist : BitVec 64) → (bits : Nat) → List (List Byte)
opaque mosaicPackets : (slices : List (List Byte)) → List (List Byte)

end Sys2Proof.Config
end

