-- ==== Sys2Proof/Machine/State.lean ====
section
/-! DEFINITION. The machine: its dies, its package-wide state, the queue of waiting commands, why a step can
stop, and the state right after reset. -/

namespace Sys2Proof.Machine

/-- Why a step can stop with a fault. The manual gives every command of the table an effect, so no command
of this model raises one. -/
inductive Fault where
  /-- Raised by nothing: every meaning of this model answers a next state. Safe. -/
  | unraised
  deriving DecidableEq, Repr

/-- Why a step can be refused. -/
inductive Refusal where
  /-- Raised by an arm of `exec` whose command has no meaning yet, with the command's mnemonic. Safe. -/
  | notModelled (mnemonic : String)
  deriving DecidableEq, Repr

/-- What the bridge sends out, as the outside sees it (MODEL, log 11). -/
inductive Out where
  /-- A completion written to a slot of a function's completion queue, with PHASE (04 R94). -/
  | completion (func : Nat) (slot : BitVec 12) (phase : Bool) (c : Completion)
  /-- An MSI-X interrupt (04 R102, 05 R134, 17 R386). -/
  | msix (func : Nat) (vector : BitVec 11)
  /-- A frame that departs from a subport, with its departure stamp (12 R281). -/
  | frame (die sub : Nat) (stamp : BitVec 64) (p : TxPacket)
  /-- A stranger record (05 R111): slot, PHASE, reason, subport, arrival, leg, SSRC, SKIPPED, the stored
  frame, TRUNC and FRAME_LEN. -/
  | stranger (die : Nat) (slot : BitVec 12) (phase : Bool) (reason : BitVec 4) (sub : Nat)
      (arrival : BitVec 64) (leg : BitVec 16) (ssrc skipped : BitVec 32) (raw : List Byte) (trunc : Bool) (frameLen : Nat)
  /-- An error record moved to a die's overflow ring (17 R385). -/
  | errRecord (die : Nat) (slot : BitVec 16) (phase : Bool) (r : ErrRec)
  /-- A frame that a TDM port drives (08 R192). -/
  | tdmFrame (die port first delay : Nat) (slots : List (BitVec 32))
  | tdmClock (die port first count : Nat) (fsync : List Bool)
  /-- An edge of PPS_OUT, driven at a stamp (20 R426). -/
  | pps (level : Bool) (at_ : BitVec 64)
  /-- A ledger record sent to the standby over a die's Adit link (16 R356). -/
  | ledger (die : Nat) (r : LedgerRec)
  /-- Digests sent to the standby (16 R359). -/
  | digests (die second : Nat) (image : BitVec 64) (version : BitVec 32) (d : List (BitVec 16 × BitVec 32))
  /-- A heartbeat sent on a die's Adit link, with its stamp (16 R362). -/
  | heartbeat (die : Nat) (at_ : BitVec 64)
  /-- A request to the paired unit over Adit: kind and argument (16 R357, R358, R364, 18 R400). -/
  | peer (kind : Nat) (arg : BitVec 64)
  /-- An edge of 10M_OUT, driven at a stamp (02 R37). -/
  | tenM (level : Bool) (at_ : BitVec 64)
  /-- A poisoned PCIe completion, with the EP bit, to a function (15 R342). -/
  | poisoned (func : Nat)
  /-- A line that the consumer of an internal queue reads, with its tag VALID and EOU (15 R343). -/
  | queueLine (die q : Nat) (bytes : List Byte) (valid : BitVec 7) (eou : Bool)
  /-- An access unit of a viewer's mosaic: whether it is an IDR picture, its taint, its parameter sets where they have changed, and its
  slices in tile-scan order (10 R237, R238). -/
  | mosaic (leg : BitVec 16) (idr tainted : Bool) (sets : Option MosaicSets) (slices : List MosaicSlice)
  deriving DecidableEq, Repr

/-- One compute die. -/
structure Die where
  /-- device time (02_device_time.md R55) -/
  tim : Tim := {}
  /-- structure (03_structure_image.md R76) -/
  str : StructReg := {}
  /-- LEG block (04_legs_and_tables.md R102) -/
  lblk : LegBlk := {}
  /-- legs by local index (04_legs_and_tables.md R77) -/
  legs : Tab Leg := []
  /-- conferences by local index (04_legs_and_tables.md R77) -/
  confs : Tab Conf := []
  /-- ingress (05_ingress_and_jitter.md R134) -/
  ing : Ing := {}
  /-- ciphers and key store (06_cipher_and_keys.md R156) -/
  cip : Cip := {}
  /-- mixing (07_audio_mixing.md R179) -/
  mix : Mix := {}
  /-- TDM ports (08_audio_ports.md R194) -/
  tdm : Tdm := {}
  /-- video decoding (09_video_decode.md R215) -/
  vdc : Vdc := {}
  /-- Gallery and Seam (10_gallery_and_seam.md R240) -/
  gal : Gal := {}
  /-- video encoding (11_video_encode.md R259) -/
  ven : Ven := {}
  /-- egress (12_forwarding_and_egress.md R286) -/
  egr : Egr := {}
  /-- Hoist (13_hoist_dispatch.md R300) -/
  hst : Hst := {}
  /-- Face cores 0 to 16 (14_face_cores.md R302) -/
  face : Tab FaceCore := []
  /-- DRAM controller and queues (15_memory_and_queues.md R347) -/
  drc : Drc := {}
  /-- Ubhan ports 0 to 2 (19_register_map.md R410) -/
  ubh : Tab Ubh := []
  /-- pair, per die (16_pair_and_wear.md R369) -/
  par : Par := {}
  /-- Canaries (16_pair_and_wear.md R369) -/
  can : Can := {}
  /-- capacity (19_register_map.md R406) -/
  cap : Capacity := {}
  /-- other capacity registers (19_register_map.md R406) -/
  capr : CapReg := {}
  /-- power and reset (17_power_reset_errors.md R386) -/
  pwr : Pwr := {}
  /-- error log (17_power_reset_errors.md R386) -/
  err : Err := {}
  /-- device DRAM by die offset (15_memory_and_queues.md R333) -/
  dram : Mem := []
  /-- MP counting runs for the data plane (03_structure_image.md R62) -/
  counting : Bool := false
  deriving DecidableEq, Repr

/-- The whole machine. -/
structure State where
  /-- MODEL: commands that wait, first in, first out (the model's own field) -/
  pending : List Instr := []
  /-- fuses (03_structure_image.md R60) -/
  fuses : Fuses := {}
  /-- boot flash banks 0 and 1 (18_field_update.md R388) -/
  flash : Tab Flash := []
  /-- the package's dies, die 0 first (01_architecture.md R10) -/
  dies : List Die := []
  /-- die 0's servo (02_device_time.md R41) -/
  servo : Servo := {}
  /-- restructure, die 0 (03_structure_image.md R70) -/
  restr : Restruct := {}
  /-- BAR2 table aperture by offset: tables and layouts (04_legs_and_tables.md R78) -/
  tables : Mem := []
  /-- queues of functions 0 to 63 (04_legs_and_tables.md R92) -/
  queues : Tab FuncQueue := []
  /-- doorbells that name no entry and await their boundary: whether a conference, ID, doorbell (04_legs_and_tables.md R89) -/
  badBells : List (Bool × BitVec 16 × Doorbell) := []
  /-- moves in progress (04_legs_and_tables.md R98) -/
  moves : List Migration := []
  /-- pair operation (16_pair_and_wear.md R349) -/
  pair : Pair := {}
  /-- field update (18_field_update.md R402) -/
  upd : Upd := {}
  /-- last MP boundary processed (02_device_time.md R28) -/
  lastMp : Option Nat := none
  /-- MODEL: the boundary whose end-of-MP work is done (07_audio_mixing.md R159) -/
  endedMp : Option Nat := none
  /-- MPs by which steps have moved the grid of sent frames, modulo 120 (02_device_time.md R46) -/
  frameShift : Nat := 0
  /-- MODEL: legs whose block of the running MP does not arrive at the mix boundary (07_audio_mixing.md R177) -/
  absentBlocks : List (BitVec 16) := []
  /-- MODEL: legs whose decode of the running MP overruns its deadline (07_audio_mixing.md R177) -/
  lateDecodes : List (BitVec 16) := []
  /-- MODEL: listeners whose encode is not complete in its slot of the running MP (07_audio_mixing.md R177) -/
  lateEncodes : List (BitVec 16) := []
  /-- MODEL: legs whose frame of the running MP fails C2 at its decoder (05_ingress_and_jitter.md R118) -/
  c2Faults : List (BitVec 16) := []
  /-- MODEL: legs whose decoded block of the running MP fails its check at the mixer (05_ingress_and_jitter.md R118) -/
  audioFaults : List (BitVec 16) := []
  /-- the Duken core's own timer: time since the package reset, 2^-16 ns (18_field_update.md R399) -/
  uptime : Nat := 0
  /-- the other bank has been tried at this boot (03_structure_image.md R64) -/
  bootSecond : Bool := false
  /-- rank in R418 of the package reset in progress, from its cause to boot step 1 (20_electrical_package.md R418) -/
  inReset : Option Nat := none
  /-- the PCIe link is up (20_electrical_package.md R419) -/
  linkUp : Bool := false
  /-- last step of Table 3.4 carried out (03_structure_image.md R62) -/
  bootStep : Nat := 0
  /-- the checked image that waits for DRAM training (step 5 of Table 3.4) (03_structure_image.md R62) -/
  bootImage : Option ImageDef := none
  /-- rate limits of error reports and records (17_power_reset_errors.md R382) -/
  limits : List RateLimit := []
  /-- stamp at which the last PPS_OUT pulse falls; PPS_OUT is high until then (20_electrical_package.md R426) -/
  pps : Option (BitVec 64) := none
  /-- MODEL: data returned to the requester by the last read (the model's own field) -/
  readData : List (BitVec 8) := []
  /-- MODEL: what the block has sent out, newest first (the model's own field) -/
  out : List Out := []
  /-- MODEL: counter of the free values drawn (the model's own field) -/
  free : Nat := 0
  deriving DecidableEq, Repr

/-- How many dies a part has (00 Table 0.1). -/
def variantDies : Variant → Nat
  | .trv6402 => 2
  | .trv6404 => 4
  | .trv6408 => 8

/-- The machine right after reset: every die and every package-wide register at its reset value, nothing in
memory, nothing pending (log 1, 3, 8). -/
def State.reset : State := { dies := List.replicate (variantDies .trv6402) {} }

end Sys2Proof.Machine
end

