-- ==== Sys2Proof/Machine/Ops.lean ====
section
/-! DEFINITION. The named operations over the machine's tables, memory, time, event bits, error log,
completions and outputs, of which every command's meaning is made. -/

namespace Sys2Proof.Machine

/-! ## Tables and memory

A table lists the entries that differ from its default value, indexes strictly rising. -/

/-- The entry at an index: the default where none is listed. -/
def tget {α : Type} (d : α) : Tab α → Nat → α
  | [], _ => d
  | (k, v) :: t, i => if i = k then v else if i < k then d else tget d t i

/-- Removes an entry, which then reads as the default. -/
def tdel {α : Type} : Tab α → Nat → Tab α
  | [], _ => []
  | (k, v) :: t, i => if i = k then t else if i < k then (k, v) :: t else (k, v) :: tdel t i

/-- Lists an entry whatever its value. -/
def tins {α : Type} : Tab α → Nat → α → Tab α
  | [], i, x => [(i, x)]
  | (k, v) :: t, i, x =>
    if i = k then (i, x) :: t else if i < k then (i, x) :: (k, v) :: t else (k, v) :: tins t i x

/-- Writes an entry, keeping the canonical form: the default value removes it. -/
def tset {α : Type} [DecidableEq α] (d : α) (t : Tab α) (i : Nat) (x : α) : Tab α :=
  if x = d then tdel t i else tins t i x

/-- Changes an entry. -/
def tmod {α : Type} [DecidableEq α] (d : α) (t : Tab α) (i : Nat) (f : α → α) : Tab α :=
  tset d t i (f (tget d t i))

/-- The canonical form of a table: indexes strictly rising above `lo`, no default entry. -/
def tabWfFrom {α : Type} [DecidableEq α] (d : α) : Option Nat → Tab α → Bool
  | _, [] => true
  | lo, (k, v) :: t =>
    (match lo with | none => true | some l => decide (l < k)) && decide (v ≠ d) && tabWfFrom d (some k) t

/-- The canonical form of a table. -/
def tabWf {α : Type} [DecidableEq α] (d : α) (t : Tab α) : Bool := tabWfFrom d none t

/-- Counts one up, wrapping, entry `n` of a bank of counters. -/
def bump {w : Nat} (t : Tab (BitVec w)) (n : Nat) : Tab (BitVec w) := tmod 0 t n (· + 1)

/-- The byte at an address: 0 where nothing has been written (log 8). -/
def rdByte (m : Mem) (a : Nat) : Byte := tget 0 m a

/-- Stores one byte. -/
def wrByte (m : Mem) (a : Nat) (b : Byte) : Mem := tset 0 m a b

/-- `n` bytes from an address. -/
def rdBytes (m : Mem) (a : Nat) : Nat → List Byte
  | 0 => []
  | n + 1 => rdByte m a :: rdBytes m (a + 1) n

/-- Stores bytes from an address. -/
def wrBytes (m : Mem) (a : Nat) : List Byte → Mem
  | [] => m
  | b :: bs => wrBytes (wrByte m a b) (a + 1) bs

/-- The number that bytes spell, the first byte lowest (04 R78). -/
def leNat : List Byte → Nat
  | [] => 0
  | b :: bs => b.toNat + 256 * leNat bs

/-- The number that bytes spell, the first byte highest. -/
def beNat (bs : List Byte) : Nat := bs.foldl (fun n b => 256 * n + b.toNat) 0

/-- `n` bytes of a number, lowest first. -/
def leBytes (v : Nat) : Nat → List Byte
  | 0 => []
  | n + 1 => BitVec.ofNat 8 v :: leBytes (v / 256) n

/-- The 64-bit little-endian word at an address. -/
def rd64 (m : Mem) (a : Nat) : Word := BitVec.ofNat 64 (leNat (rdBytes m a 8))

/-- Stores a 64-bit word, little-endian. -/
def wr64 (m : Mem) (a : Nat) (v : Word) : Mem := wrBytes m a (leBytes v.toNat 8)

/-- Removes everything a memory lists in [lo, lo + len): it then reads as never written. -/
def wipe {α : Type} (m : Tab α) (lo len : Nat) : Tab α :=
  m.filter fun e => decide (e.1 < lo) || decide (lo + len ≤ e.1)

/-! ## Numbers -/

/-- A number held within [lo, hi]. -/
def clampN (lo hi x : Nat) : Nat := max lo (min hi x)

/-- An integer held within [lo, hi]. -/
def clampI (lo hi x : Int) : Int := max lo (min hi x)

/-- A word of `w` bits, as the field [lo + w − 1 : lo]. -/
def fld (v : Word) (lo w : Nat) : BitVec w := v.extractLsb' lo w

/-- A field as a number. -/
def fldN (v : Word) (lo w : Nat) : Nat := (v.extractLsb' lo w).toNat

/-- A one-bit field. -/
def bit (v : Word) (i : Nat) : Bool := v.getLsbD i

/-- A field placed at a bit of a 64-bit register. -/
def put {w : Nat} (f : BitVec w) (lo : Nat) : Word := f.setWidth 64 <<< lo

/-- A number as a field of `w` bits, placed at a bit of a 64-bit register. -/
def putN (w n lo : Nat) : Word := put (BitVec.ofNat w n) lo

/-- A flag placed at a bit of a 64-bit register. -/
def putB (b : Bool) (lo : Nat) : Word := if b then 1 <<< lo else 0

/-- One more, saturating. -/
def satInc {w : Nat} (v : BitVec w) : BitVec w := if v = BitVec.allOnes w then v else v + 1

/-- An integer as a two's complement field of `w` bits, saturating. -/
def satField (w : Nat) (x : Int) : BitVec w :=
  BitVec.ofInt w (clampI (-(2 ^ (w - 1) - 1)) (2 ^ (w - 1) - 1) x)

/-- The signed difference of two event stamps (02 R26). -/
def stampDiff (a b : BitVec 64) : Int := (a - b).toInt

/-- Whether stamp `a` is before stamp `b` (02 R26). -/
def stampBefore (a b : BitVec 64) : Bool := decide (stampDiff a b < 0)

/-- Insertion into a list sorted by `le`, behind equals. -/
def insertBy {α : Type} (le : α → α → Bool) (x : α) : List α → List α
  | [] => [x]
  | y :: ys => if le y x then y :: insertBy le x ys else x :: y :: ys

/-- A list sorted by `le`, equals in their order. -/
def sortBy {α : Type} (le : α → α → Bool) (l : List α) : List α :=
  l.foldl (fun acc x => insertBy le x acc) []

/-- The first index below `n`, counting up from `i`, that a test admits. -/
def findIdx (p : Nat → Bool) : (fuel i : Nat) → Option Nat
  | 0, _ => none
  | n + 1, i => if p i then some i else findIdx p n (i + 1)

/-- An operation carried out for each element of a list, in order. -/
def forAll {α σ : Type} (l : List α) (f : α → σ → σ) (s : σ) : σ := l.foldl (fun s a => f a s) s

/-! ## Dies and time -/

/-- Die `d`; a die that the package does not have reads as one at reset. -/
def State.die (s : State) (d : Nat) : Die := s.dies.getD d {}

/-- Changes die `d`; nothing where the package has no such die. -/
def State.modDie (s : State) (d : Nat) (f : Die → Die) : State := { s with dies := s.dies.modify d f }

/-- Structure state NONE on a die: only its DIE, ERR and UPD blocks work; the registers of the others read 0 and ignore
writes (03 R64). -/
def State.off (s : State) (d : Nat) : Bool := (s.die d).str.state == .none

/-- How many dies the package has. -/
def State.nDies (s : State) : Nat := s.dies.length

/-- Whether the package has die `d`. -/
def State.hasDie (s : State) (d : Nat) : Bool := decide (d < s.dies.length)

/-- Changes every die. -/
def State.mapDies (s : State) (f : Nat → Die → Die) : State := { s with dies := s.dies.mapIdx f }

/-- The numbers of the dies. -/
def State.dieList (s : State) : List Nat := List.range s.dies.length

/-- 2^-16 ns units in one ns, 1 µs and one MP (02 R24, R28). -/
def unitsNs : Nat := 65536
def unitsUs : Nat := 65536 * 1000
def unitsMp : Nat := 65536 * 1000000
def unitsSec : Nat := 65536 * 1000000000

/-- The largest device time plus one unit: SEC is 48 bits wide (02 R24). -/
def timeModulus : Nat := 2 ^ 48 * unitsSec

/-- The event stamp of an instant of device time (02 R25). -/
def stampOf (t : Nat) : BitVec 64 := BitVec.ofNat 64 t

/-- Device time of die `d`. -/
def State.time (s : State) (d : Nat) : Nat := (s.die d).tim.time

/-- The current event stamp of die `d` (TIM_STAMP_NOW). -/
def State.now (s : State) (d : Nat) : BitVec 64 := stampOf (s.time d)

/-- A clock of durations, which no step or setting of device time moves (02 R46; log 22). -/
def State.clk (s : State) : BitVec 64 := stampOf s.uptime

/-- The MP number of device time on die `d` (02 R28, TIM_MP_NOW). -/
def State.mpNo (s : State) (d : Nat) : Nat := s.time d / unitsMp

/-- The event stamp of the boundary at which MP `m` begins (02 R28). -/
def mpStamp (m : Nat) : BitVec 64 := stampOf (unitsMp * m)

/-- The rate of a time base in 2^-40 of the nominal rate, its correction included (02 R30). -/
def rateOf (t : Tim) : Nat := (2 ^ 40 + t.freqAdj.toInt).toNat

/-- What `n` units of the nominal rate move a time base, at its own rate; what stays below 2^-16 ns accumulates (02 R30). -/
def passTim (n : Nat) (t : Tim) : Tim :=
  let sum := t.acc + n * rateOf t
  { t with time := (t.time + sum / 2 ^ 40) % timeModulus, acc := sum % 2 ^ 40 }

/-- Time passes: `n` units of the nominal rate, in which every die's time base moves at its own rate (02 R30; log 4). -/
def State.advance (s : State) (n : Nat) : State :=
  let s := s.mapDies fun _ d => { d with tim := passTim n d.tim }
  { s with uptime := s.uptime + n }

/-- The units of the nominal rate after which a time base reads `due` or more; 0 where it does already. -/
def unitsTo (t : Tim) (due : Nat) : Nat :=
  if due ≤ t.time then 0 else ((due - t.time) * 2 ^ 40 - t.acc + (rateOf t - 1)) / rateOf t

/-- A time base that has just passed `due` by a part of what it gains per unit is at `due`; the part stays accumulated. -/
def atDue (due : Nat) (t : Tim) : Tim :=
  if due < t.time then { t with time := due, acc := t.acc + (t.time - due) * 2 ^ 40 } else t

/-- Time passes until die `d` stands at the instant `t`, where that lies ahead (log 4). -/
def State.advanceTo (s : State) (d : Nat) (t : Nat) : State :=
  if t ≤ s.time d then s
  else (s.advance (unitsTo (s.die d).tim t)).modDie d fun x => { x with tim := atDue t x.tim }

/-- Time passes until die `d` reads the stamp `t`, where R26 puts that ahead (log 4). -/
def State.advanceToStamp (s : State) (d : Nat) (t : BitVec 64) : State :=
  s.advanceTo d (s.time d + (stampDiff t (s.now d)).toNat)

/-- Whether the unit is in a pair and takes no commands of its own: a standby, or a unit that joins (16 R354). -/
def standsBy (s : State) : Bool := s.pair.role == .standby || s.pair.role == .joining

/-! ## Free values and outputs -/

/-- Draws the next free value (log 7). -/
def draw (s : State) : BitVec 64 × State := (Config.freeValue s.free, { s with free := s.free + 1 })

/-- Sends something out (log 11). -/
def emit (o : Out) (s : State) : State := { s with out := o :: s.out }

/-- An active unit of a pair streams a decision to the standby over a die's Adit link (16 R356). -/
def ledger (d : Nat) (r : LedgerRec) (s : State) : State :=
  if s.pair.role = .active && !s.pair.peerLost then
    emit (.ledger d r) <| s.modDie d fun x => { x with par := { x.par with recs := x.par.recs + 1, cnt := bump x.par.cnt 0 } }
  else s

/-- The value of the oldest RANDOM record received. -/
def ledgerRandom (l : List LedgerRec) : Option (BitVec 64) :=
  l.findSome? fun r => match r with | .random v => some v | _ => none

/-- Draws a value that the ledger carries to the standby, which uses it in place of its own (16 R356 kind 8). -/
def drawLedger (d : Nat) (s : State) : BitVec 64 × State :=
  match ledgerRandom s.pair.ledger with
  | some v => (v, { s with pair := { s.pair with ledger := s.pair.ledger.erase (.random v) } })
  | none =>
    let (v, s) := draw s
    (v, ledger d (.random v) s)

/-- Requester ID of the Duken core (13 R289) and SOURCE of its own checks (17 R382). -/
def duken : Byte := 0x60
def dukenCheck : Byte := 0xFF

/-- Requester ID of a host function, or of a Duken core, which accesses registers as 0x60 (06 R152). -/
def hostReq (f : Nat) : Byte := if f = 0x60 then 0x60 else BitVec.ofNat 8 (f % 64)

/-- Requester IDs of Face core, packet core and codec core `c` (13 R289). -/
def faceReq (c : Nat) : Byte := BitVec.ofNat 8 (0x40 + c)
def packetReq (c : Nat) : Byte := BitVec.ofNat 8 (0x70 + c)
def codecReq (c : Nat) : Byte := BitVec.ofNat 8 (0x88 + c)

/-- Requester ID of a fixed-function engine: 0 ingress, 1 SRTP, 2 mixer, 3 Gallery, 4 Seam, 5 egress,
6 TDM (13 R289; log 13). -/
def engineReq (e : Nat) : Byte := 0x90#8 ||| (Config.engineId e).setWidth 8

/-! ## The error log -/

/-- Whether a slot is free: no record, or a read, unpinned one (17 R383). -/
def slotFree : Option ErrRec → Bool
  | none => true
  | some r => r.read && !r.pinned

/-- Whether a slot's record is unread and unpinned (17 R383). -/
def slotOpen : Option ErrRec → Bool
  | none => false
  | some r => !r.read && !r.pinned

/-- The first slot from `i` on, in ring order, that holds no pinned record (17 R383). -/
def skipPinned (ring : Tab (Option ErrRec)) : (fuel i : Nat) → Nat
  | 0, i => i
  | n + 1, i =>
    match tget none ring i with
    | some r => if r.pinned then skipPinned ring n ((i + 1) % 1024) else i
    | none => i

/-- Among the unread unpinned records that a test admits, the slot whose record is best by placement order. -/
def pickSlot (newest : Bool) (p : ErrRec → Bool) (ring : Tab (Option ErrRec)) : Option (Nat × ErrRec) :=
  ring.foldl (init := none) fun best (i, e) =>
    match e with
    | none => best
    | some r =>
      if slotOpen e && p r then
        match best with
        | none => some (i, r)
        | some (_, b) => if (if newest then b.order < r.order else r.order < b.order) then some (i, r) else best
      else best

/-- Moves a displaced record to the overflow ring of the host, or loses it (17 R383, R385). -/
def displace (d : Nat) (o : ErrRec) (s : State) : State :=
  let e := (s.die d).err
  let size := 2 ^ e.ovfLog2.toNat
  let full := decide ((e.ovfTail.toNat + 1) % size = e.ovfHead.toNat % size)
  if e.ovfEn && !full then
    let t := e.ovfTail.toNat + 1
    emit (.errRecord d e.ovfTail e.ovfPhase o) <| s.modDie d fun x => { x with err := { x.err with
      ovfTail := BitVec.ofNat 16 (t % size), ovfPhase := if t = size then !e.ovfPhase else e.ovfPhase } }
  else
    s.modDie d fun x => { x with err := { x.err with lost := x.err.lost + 1, lostSeen := true } }

/-- Sends the error interrupt of a die where it is enabled (17 R386). -/
def errIrq (d : Nat) (s : State) : State :=
  let e := (s.die d).err
  if e.irqEn then emit (.msix 0 e.irqVector) s else s

/-- Places a new record: in the free slot at ERR_TAIL, or in the slot of a displaced record (17 R383). -/
def newRecord (d : Nat) (r : ErrRec) (s : State) : State :=
  let e := (s.die d).err
  let put (i head tail : Nat) (s : State) : State :=
    errIrq d <| s.modDie d fun x =>
      let ring := tins x.err.ring i (some { r with order := x.err.nextOrder })
      { x with err := { x.err with ring := ring, nextOrder := x.err.nextOrder + 1, event := true,
                                   head := BitVec.ofNat 10 head,
                                   tail := BitVec.ofNat 10 (skipPinned ring 1024 tail),
                                   seen := if r.pinned then r.code :: x.err.seen else x.err.seen } }
  let t := e.tail.toNat
  if slotFree (tget none e.ring t) then put t e.head.toNat ((t + 1) % 1024) s
  else match pickSlot false (fun _ => true) e.ring with
    | some (i, o) =>
      if i = e.head.toNat then put i ((i + 1) % 1024) ((i + 1) % 1024) (displace d o s)
      else put i e.head.toNat t (displace d o s)
    | none => s.modDie d fun x => { x with err := { x.err with lost := x.err.lost + 1, lostSeen := true } }

/-- Places a report in the log of die `d`: a pinned, a coalesced or a new record (17 R383). -/
def raiseFrom (d : Nat) (src : Byte) (code : BitVec 16) (detail : BitVec 64) (s : State) : State :=
  let e := (s.die d).err
  let now := s.now d
  let rec0 : ErrRec := { code := code, src := src, die := BitVec.ofNat 3 d, pinned := true, count := 1,
                         first := now, last := now, detail := detail, read := false, order := 0 }
  if !s.hasDie d then s
  else if !e.seen.contains code then newRecord d rec0 s
  else match pickSlot true (fun r => r.code == code && r.src == src) e.ring with
    | some (i, r) =>
      s.modDie d fun x => { x with err := { x.err with
        ring := tins x.err.ring i (some { r with count := satInc r.count, last := now, detail := detail }) } }
    | none => newRecord d { rec0 with pinned := false } s

/-- A report by the Duken core's own checks (17 R382). -/
def raise (d : Nat) (code : BitVec 16) (detail : BitVec 64) (s : State) : State :=
  raiseFrom d dukenCheck code detail s

/-- A report of which the manual gives no code: the code is a free value (log 7, 19). -/
def raiseFree (d : Nat) (src : Byte) (detail : BitVec 64) (s : State) : State :=
  let (v, s) := draw s
  raiseFrom d src (v.setWidth 16) detail s

/-- A report whose detail the manual does not give: it is a free value (log 7, 19). -/
def raiseAny (d : Nat) (src : Byte) (code : BitVec 16) (s : State) : State :=
  let (v, s) := draw s
  raiseFrom d src code v s

/-- Whether a rate limit of one per second lets an event of an object through at this instant. -/
def rateOk (d : Nat) (code : BitVec 16) (obj : BitVec 64) (s : State) : Bool :=
  !s.limits.any fun l => l.code == code && l.die == d && l.obj == obj &&
    decide (stampDiff s.clk l.last < (unitsSec : Int))

/-- Notes the event that a rate limit has let through. -/
def rateNote (d : Nat) (code : BitVec 16) (obj : BitVec 64) (s : State) : State :=
  { s with limits := { code := code, die := d, obj := obj, last := s.clk } ::
      s.limits.filter fun l => !(l.code == code && l.die == d && l.obj == obj) }

/-- A report at most once per second and object (17 R382). -/
def raiseOnce (d : Nat) (src : Byte) (code : BitVec 16) (obj detail : BitVec 64) (s : State) : State :=
  if rateOk d code obj s then rateNote d code obj (raiseFrom d src code detail s) else s

/-- The same at most once per second and object. -/
def raiseAnyOnce (d : Nat) (src : Byte) (code : BitVec 16) (obj : BitVec 64) (s : State) : State :=
  if rateOk d code obj s then rateNote d code obj (raiseAny d src code s) else s

/-! ## Completions -/

/-- The queues of a function. -/
def State.fq (s : State) (f : Nat) : FuncQueue := tget {} s.queues f

/-- Changes the queues of a function. -/
def State.modFq (s : State) (f : Nat) (g : FuncQueue → FuncQueue) : State :=
  { s with queues := tmod {} s.queues f g }

/-- Entries of a queue of LOG2_SIZE `n`. -/
def qSize (n : BitVec 4) : Nat := 2 ^ n.toNat

/-- Whether the completion queue of a function is full (04 R95). -/
def cqFull (q : FuncQueue) : Bool :=
  decide ((q.cqTail.toNat + 1) % qSize q.cqLog2 = q.cqHead.toNat % qSize q.cqLog2)

/-- Writes a completion into the next slot of a function's completion queue (04 R94). -/
def writeCq (f : Nat) (c : Completion) (s : State) : State :=
  let q := s.fq f
  let t := q.cqTail.toNat + 1
  let s := emit (.completion f q.cqTail q.cqPhase c) <| s.modFq f fun q => { q with
    cqTail := BitVec.ofNat 12 (t % qSize q.cqLog2),
    cqPhase := if t = qSize q.cqLog2 then !q.cqPhase else q.cqPhase }
  if q.cqIrq then emit (.msix f q.cqVector) s else s

/-- Posts a completion: to a free slot, or to the waiting ones of a full queue; none is lost (04 R95), but a
disabled queue discards it (04 R103). -/
def postCompletion (f : Nat) (c : Completion) (s : State) : State :=
  let q := s.fq f
  if !q.cqEn then s
  else if cqFull q || !q.waiting.isEmpty then s.modFq f fun q => { q with waiting := q.waiting ++ [c] }
  else writeCq f c s

/-- Writes waiting completions while slots are free. -/
def drainCq (f : Nat) : (fuel : Nat) → State → State
  | 0, s => s
  | n + 1, s =>
    let q := s.fq f
    match q.waiting with
    | [] => s
    | c :: cs => if cqFull q then s else drainCq f n (writeCq f c (s.modFq f fun q => { q with waiting := cs }))

/-- The MP number of die 0 as a completion carries it (02 R28). -/
def mpField (s : State) : BitVec 64 := BitVec.ofNat 64 (s.mpNo 0)

/-! ## Posted commands -/

/-- OPCODE, TAG and the first argument of a command (04 R93). -/
def opOf (c : Cmd) : BitVec 8 := fld c.w0 0 8
def tagOf (c : Cmd) : BitVec 16 := fld c.w0 48 16
def argOf (c : Cmd) : BitVec 16 := fld c.w1 0 16

/-- How a command ends: at once with a status, RESULT_ID, OLD_ID, VERSION; or later. -/
inductive Reply where
  | done (status : BitVec 8) (resultId oldId version : BitVec 16)
  | later
  deriving DecidableEq, Repr

/-- A status alone. -/
def Reply.st (status : BitVec 8) : Reply := .done status 0 0 0

/-- The NOPs that now stand first among the running commands of a function complete (04 R92, R93). -/
def drainNops (f : Nat) : (fuel : Nat) → State → State
  | 0, s => s
  | n + 1, s =>
    match (s.fq f).running with
    | (t, true) :: rest =>
      drainNops f n (postCompletion f { id := 0, status := 0, tag := t, mp := mpField s }
        (s.modFq f fun q => { q with running := rest }))
    | _ => s

/-- Ends the running command of a function that bears a tag: it leaves the list and its completion is
posted, then every NOP that no earlier command holds back (04 R92, R94). -/
def finishCmd (f : Nat) (c : Completion) (s : State) : State :=
  let s := s.modFq f fun q => { q with running := q.running.erase (c.tag, false) }
  let s := postCompletion f c s
  drainNops f ((s.fq f).running.length) s

/-- Whether a posted command starts: it stands first among its function's fetched commands, and its OPCODE is `op`
(04 R92, R93). -/
def startable (op : BitVec 8) (c : Cmd) (s : State) : Bool := (s.fq c.func).fetched.head? == some c && opOf c == op

/-- Starts the posted command of OPCODE `op` where it is its queue's next one; else nothing starts (log 47). It leaves the
fetched ones; a standby answers STANDBY (16 R354); otherwise `body` runs, and where it answers at once its completion is
posted with the MP of this instant (04 R94). -/
def runCmd (op : BitVec 8) (c : Cmd) (body : State → Reply × State) (s : State) : State :=
  if !startable op c s then s else
  let s := s.modFq c.func fun q => { q with fetched := q.fetched.erase c, running := q.running ++ [(tagOf c, false)] }
  let fin (status : BitVec 8) (r o v : BitVec 16) (s : State) : State :=
    finishCmd c.func { id := argOf c, kind := 2, status := status, version := v, tag := tagOf c,
                       mp := mpField s, resultId := r, oldId := o } s
  if standsBy s then fin 0x13 0 0 0 s
  else match body s with
    | (.done st r o v, s') => fin st r o v s'
    | (.later, s') => s'

end Sys2Proof.Machine
end

