-- ==== Sys2Proof/Machine/Operands.lean ====
section
/-! DEFINITION. Operand forms: identifiers, addresses, table entries read from the table aperture, and the
words of published records. -/

namespace Sys2Proof.Machine

/-! ## Identifiers (04 R77) -/

/-- "None" in a leg or conference ID field. -/
def noId : BitVec 16 := 0xFFFF

/-- Home die and local index of a leg ID. -/
def legDie (l : BitVec 16) : Nat := (l.extractLsb' 10 3).toNat
def legIdx (l : BitVec 16) : Nat := (l.extractLsb' 0 10).toNat

/-- The leg ID of a local index of a die. -/
def legId (d i : Nat) : BitVec 16 := BitVec.ofNat 16 (1024 * d + i)

/-- Home die and local index of a conference ID. -/
def confDie (c : BitVec 16) : Nat := (c.extractLsb' 7 3).toNat
def confIdx (c : BitVec 16) : Nat := (c.extractLsb' 0 7).toNat

/-- The conference ID of a local index of a die. -/
def confId (d i : Nat) : BitVec 16 := BitVec.ofNat 16 (128 * d + i)

/-- Whether an identifier is valid: no bit marked 0 set, no die beyond the package's last. -/
def legIdOk (s : State) (l : BitVec 16) : Bool := l.extractLsb' 13 3 == 0 && s.hasDie (legDie l)
def confIdOk (s : State) (c : BitVec 16) : Bool := c.extractLsb' 10 6 == 0 && s.hasDie (confDie c)

/-- Die and slot of a key slot handle; slot 0 means "no key". -/
def keyDie (k : BitVec 16) : Nat := (k.extractLsb' 12 3).toNat
def keySlot (k : BitVec 16) : Nat := (k.extractLsb' 0 12).toNat
def keyHandle (d i : Nat) : BitVec 16 := BitVec.ofNat 16 (4096 * d + i)
def keyHandleOk (s : State) (k : BitVec 16) : Bool := !k.getLsbD 15 && s.hasDie (keyDie k) && keySlot k != 0

/-! ## Run-time state of legs and conferences -/

/-- The run-time state of a leg. -/
def State.leg (s : State) (l : BitVec 16) : Leg := tget {} (s.die (legDie l)).legs (legIdx l)

/-- Changes the run-time state of a leg. -/
def State.modLeg (s : State) (l : BitVec 16) (f : Leg → Leg) : State :=
  s.modDie (legDie l) fun d => { d with legs := tmod {} d.legs (legIdx l) f }

/-- The run-time state of a conference. -/
def State.conf (s : State) (c : BitVec 16) : Conf := tget {} (s.die (confDie c)).confs (confIdx c)

/-- Changes the run-time state of a conference. -/
def State.modConf (s : State) (c : BitVec 16) (f : Conf → Conf) : State :=
  s.modDie (confDie c) fun d => { d with confs := tmod {} d.confs (confIdx c) f }

/-! ## The table aperture (04 R78, 19 R407) -/

/-- BAR2 offset of half `h` of a leg or conference entry. -/
def legHalfAt (l : BitVec 16) (h : Bool) : Nat := 512 * l.toNat + if h then 256 else 0
def confHalfAt (c : BitVec 16) (h : Bool) : Nat := 0x400000 + 256 * c.toNat + if h then 128 else 0

/-- BAR2 offset of a subscription entry. -/
def subAt (d i : Nat) : Nat := 0x1000000 + 0x200000 * d + i * 32

/-- A leg entry half, Table 4.3 (04 R80). -/
structure LegHalf where
  version : BitVec 16
  enable : Bool
  rxEn : Bool
  txEn : Bool
  audio : Bool
  video : Bool
  conf : BitVec 16
  talkEn : Bool
  listenEn : Bool
  levelExt : BitVec 4
  remoteAddr : BitVec 128
  remotePort : BitVec 16
  localPort : BitVec 16
  ethIdx : Nat
  ethDie : Nat
  localAddr : Nat
  vlanId : BitVec 12
  pcp : BitVec 3
  vlanEn : Bool
  rxSsrcA : BitVec 32
  txSsrcA : BitVec 32
  rxSsrcV0 : BitVec 32
  rxSsrcV1 : BitVec 32
  rxSsrcV2 : BitVec 32
  txSsrcV : BitVec 32
  rxSsrcRtx : BitVec 32
  txSsrcRtx : BitVec 32
  rxAc : Nat
  txAc : Nat
  rxApt : BitVec 7
  txApt : BitVec 7
  stereo : Bool
  txFrame : Nat
  txAbr : Nat
  complexity : Nat
  inbandFec : Bool
  dtx : Bool
  rxVc : Nat
  txVc : Nat
  rxVpt : BitVec 7
  txVpt : BitVec 7
  rtxPt : BitVec 7
  seamOk : Bool
  maxPix : Nat
  maxFps : Nat
  rxKey : BitVec 16
  txKey : BitVec 16
  xform : Nat
  cutThrough : Bool
  srtcpEnc : Bool
  jbMin : Nat
  jbMax : Nat
  jbInit : Nat
  jbFixed : Bool
  nackMax : Nat
  inRate : Nat
  inBurst : Nat
  inMark : Bool
  outRate : Nat
  outBurst : Nat
  cls : Nat
  targetRate : Nat
  rateHost : Bool
  subHead : Nat
  subEn : Bool
  comp : BitVec 64
  times : BitVec 33
  inGain : BitVec 16
  mute : Bool
  cookie : BitVec 64
  reservedOk : Bool
  deriving DecidableEq, Repr

/-- The 16 bytes of an address, byte 0 highest (04 R78). -/
def rdAddr (m : Mem) (a : Nat) : BitVec 128 := BitVec.ofNat 128 (beNat (rdBytes m a 16))

/-- Whether every bit of a word outside a mask is 0. -/
def only (w mask : Word) : Bool := w &&& ~~~mask == 0

/-- Whether `n` words from an offset are all 0. -/
def zeroWords (m : Mem) (a : Nat) : Nat → Bool
  | 0 => true
  | n + 1 => rd64 m a == 0 && zeroWords m (a + 8) n

/-- The leg entry half at an offset. -/
def rdLegHalf (m : Mem) (a : Nat) : LegHalf :=
  let w (o : Nat) : Word := rd64 m (a + o)
  { version := fld (w 0x00) 0 16, enable := bit (w 0x00) 16, rxEn := bit (w 0x00) 17, txEn := bit (w 0x00) 18,
    audio := bit (w 0x00) 19, video := bit (w 0x00) 20, conf := fld (w 0x00) 32 16,
    talkEn := bit (w 0x08) 0, listenEn := bit (w 0x08) 1, levelExt := fld (w 0x08) 8 4,
    remoteAddr := rdAddr m (a + 0x10),
    remotePort := fld (w 0x20) 0 16, localPort := fld (w 0x20) 16 16, ethIdx := fldN (w 0x20) 32 3,
    ethDie := fldN (w 0x20) 35 3, localAddr := fldN (w 0x20) 40 4, vlanId := fld (w 0x20) 48 12,
    pcp := fld (w 0x20) 60 3, vlanEn := bit (w 0x20) 63,
    rxSsrcA := fld (w 0x28) 0 32, txSsrcA := fld (w 0x28) 32 32,
    rxSsrcV0 := fld (w 0x30) 0 32, rxSsrcV1 := fld (w 0x30) 32 32,
    rxSsrcV2 := fld (w 0x38) 0 32, txSsrcV := fld (w 0x38) 32 32,
    rxSsrcRtx := fld (w 0x40) 0 32, txSsrcRtx := fld (w 0x40) 32 32,
    rxAc := fldN (w 0x48) 0 4, txAc := fldN (w 0x48) 4 4, rxApt := fld (w 0x48) 8 7, txApt := fld (w 0x48) 16 7,
    stereo := bit (w 0x48) 23, txFrame := fldN (w 0x48) 24 8, txAbr := fldN (w 0x48) 32 16,
    complexity := fldN (w 0x48) 48 4, inbandFec := bit (w 0x48) 52, dtx := bit (w 0x48) 53,
    rxVc := fldN (w 0x50) 0 4, txVc := fldN (w 0x50) 4 4, rxVpt := fld (w 0x50) 8 7, txVpt := fld (w 0x50) 16 7,
    rtxPt := fld (w 0x50) 24 7, seamOk := bit (w 0x50) 31, maxPix := fldN (w 0x50) 32 16,
    maxFps := fldN (w 0x50) 48 8,
    rxKey := fld (w 0x58) 0 16, txKey := fld (w 0x58) 16 16, xform := fldN (w 0x58) 32 4,
    cutThrough := bit (w 0x58) 36, srtcpEnc := bit (w 0x58) 37,
    jbMin := fldN (w 0x60) 0 8, jbMax := fldN (w 0x60) 8 8, jbInit := fldN (w 0x60) 16 8,
    jbFixed := bit (w 0x60) 24, nackMax := fldN (w 0x60) 32 8,
    inRate := fldN (w 0x68) 0 32, inBurst := fldN (w 0x68) 32 24, inMark := bit (w 0x68) 56,
    outRate := fldN (w 0x70) 0 32, outBurst := fldN (w 0x70) 32 24, cls := fldN (w 0x70) 56 3,
    targetRate := fldN (w 0x78) 0 32, rateHost := bit (w 0x78) 32,
    subHead := fldN (w 0x80) 0 16, subEn := bit (w 0x80) 16,
    comp := w 0x88, times := fld (w 0x90) 0 33, inGain := fld (w 0x98) 0 16, mute := bit (w 0x98) 16,
    cookie := w 0xF8,
    reservedOk := only (w 0x00) 0x0000FFFF001FFFFF && only (w 0x08) 0x0000000000000F03 &&
      only (w 0x20) 0xFFFF0F3FFFFFFFFF && only (w 0x48) 0x003FFFFFFFFF7FFF && only (w 0x50) 0x00FFFFFFFF7F7FFF &&
      only (w 0x58) 0x0000003FFFFFFFFF && only (w 0x60) 0x000000FF01FFFFFF && only (w 0x68) 0x01FFFFFFFFFFFFFF &&
      only (w 0x70) 0x07FFFFFFFFFFFFFF && only (w 0x78) 0x00000001FFFFFFFF && only (w 0x80) 0x000000000001FFFF &&
      only (w 0x90) 0x00000001FFFFFFFF && only (w 0x98) 0x000000000001FFFF && zeroWords m (a + 0xA0) 11 }

/-- Half `h` of a leg's entry. -/
def State.legHalf (s : State) (l : BitVec 16) (h : Bool) : LegHalf := rdLegHalf s.tables (legHalfAt l h)

/-- The live half of a leg's entry (04 R89). -/
def State.legLive (s : State) (l : BitVec 16) : LegHalf := s.legHalf l (s.leg l).live

/-- Whether a leg is open: its live half has ENABLE. -/
def State.legOpen (s : State) (l : BitVec 16) : Bool := legIdOk s l && (s.legLive l).enable

/-- A conference entry half, Table 4.4 (04 R82). -/
structure ConfHalf where
  version : BitVec 16
  enable : Bool
  k : Nat
  galLayout : BitVec 16
  seamLayout : BitVec 16
  ceiling : BitVec 16
  pinned : List (BitVec 16)
  routes : List (BitVec 32)
  cookie : BitVec 64
  reservedOk : Bool
  deriving DecidableEq, Repr

/-- The conference entry half at an offset. -/
def rdConfHalf (m : Mem) (a : Nat) : ConfHalf :=
  let w (o : Nat) : Word := rd64 m (a + o)
  { version := fld (w 0) 0 16, enable := bit (w 0) 16, k := fldN (w 0) 17 6, galLayout := fld (w 0) 32 16,
    seamLayout := fld (w 0) 48 16, ceiling := fld (w 8) 0 16,
    pinned := (List.range 8).map fun i => fld (w (0x10 + 8 * (i / 4))) (16 * (i % 4)) 16,
    routes := (List.range 8).map fun i => fld (w (0x20 + 8 * (i / 2))) (32 * (i % 2)) 32,
    cookie := w 0x78,
    reservedOk := only (w 0) 0xFFFFFFFF007FFFFF && only (w 8) 0xFFFF && zeroWords m (a + 0x40) 7 }

/-- Half `h` of a conference's entry, and the live one. -/
def State.confHalf (s : State) (c : BitVec 16) (h : Bool) : ConfHalf := rdConfHalf s.tables (confHalfAt c h)
def State.confLive (s : State) (c : BitVec 16) : ConfHalf := s.confHalf c (s.conf c).live

/-- Whether a conference is open. -/
def State.confOpen (s : State) (c : BitVec 16) : Bool := confIdOk s c && (s.confLive c).enable

/-- A TDM route word, Table 4.5 (04 R82). -/
structure Route where
  die : Nat
  port : Nat
  chFirst : Nat
  chCount : Nat
  out : Bool
  en : Bool
  xfade : Bool
  minusOwn : Bool
  deriving DecidableEq, Repr

/-- A TDM route word read; `chCount` counts the channels. -/
def rdRoute (r : BitVec 32) : Route :=
  { die := (r.extractLsb' 0 3).toNat, port := (r.extractLsb' 3 3).toNat, chFirst := (r.extractLsb' 6 5).toNat,
    chCount := (r.extractLsb' 11 5).toNat + 1, out := r.getLsbD 16, en := r.getLsbD 17, xfade := r.getLsbD 18,
    minusOwn := r.getLsbD 19 }

/-- A subscription entry, Table 4.6, with its forwarding state, Table 12.1 (04 R84, 12 R265). -/
structure SubEntry where
  receiver : BitVec 16
  source : BitVec 16
  kind : Nat
  maxS : Nat
  maxT : Nat
  priority : Nat
  last : Bool
  valid : Bool
  next : Nat
  outSsrc : BitVec 32
  outPt : BitVec 7
  ssrcRw : Bool
  ptRw : Bool
  curS : Nat
  curT : Nat
  wantS : Nat
  wantT : Nat
  active : Bool
  wait : Bool
  paused : Bool
  nextSeq : BitVec 16
  tsDelta : BitVec 32
  upHold : Nat
  fwdPkts : BitVec 32
  reservedOk : Bool
  deriving DecidableEq, Repr

/-- The subscription entry at an offset. -/
def rdSub (m : Mem) (a : Nat) : SubEntry :=
  let w0 := rd64 m a
  let w1 := rd64 m (a + 8)
  let w2 := rd64 m (a + 16)
  let w3 := rd64 m (a + 24)
  { receiver := fld w0 0 16, source := fld w0 16 16, kind := fldN w0 32 2, maxS := fldN w0 36 2, maxT := fldN w0 38 2,
    priority := fldN w0 40 3, last := bit w0 43, valid := bit w0 47, next := fldN w0 48 16,
    outSsrc := fld w1 0 32, outPt := fld w1 32 7, ssrcRw := bit w1 40, ptRw := bit w1 41,
    curS := fldN w2 0 2, curT := fldN w2 2 2, wantS := fldN w2 4 2, wantT := fldN w2 6 2, active := bit w2 8,
    wait := bit w2 9, paused := bit w2 10, nextSeq := fld w2 16 16, tsDelta := fld w2 32 32,
    upHold := fldN w3 0 16, fwdPkts := fld w3 32 32,
    reservedOk := only w0 0xFFFF8FF3FFFFFFFF && only w1 0x0000037FFFFFFFFF }

/-- The two STATE words of a subscription entry (12 R265, Table 12.1). -/
def subState (e : SubEntry) : Word × Word :=
  (put (BitVec.ofNat 2 e.curS) 0 ||| put (BitVec.ofNat 2 e.curT) 2 ||| put (BitVec.ofNat 2 e.wantS) 4 |||
    put (BitVec.ofNat 2 e.wantT) 6 ||| putB e.active 8 ||| putB e.wait 9 ||| putB e.paused 10 |||
    put e.nextSeq 16 ||| put e.tsDelta 32,
   put (BitVec.ofNat 16 e.upHold) 0 ||| put e.fwdPkts 32)

/-- Entry `i` of the subscription table of die `d`. -/
def State.sub (s : State) (d i : Nat) : SubEntry := rdSub s.tables (subAt d i)

/-- Writes back the forwarding state of an entry. -/
def State.putSub (s : State) (d i : Nat) (e : SubEntry) : State :=
  let (a, b) := subState e
  { s with tables := wr64 (wr64 s.tables (subAt d i + 16) a) (subAt d i + 24) b }

/-- The indexes of a list from `i` on, up to its LAST entry, at most `fuel` of them; none where the list does
not end by then (04 R84). -/
def subChain (s : State) (d : Nat) : (fuel i : Nat) → Option (List Nat)
  | 0, _ => none
  | n + 1, i =>
    if (s.sub d i).last then some [i] else (subChain s d n (s.sub d i).next).map (i :: ·)

/-- The subscription list of a leg half, as indexes of its home die's table; empty without SUB_EN. -/
def subList (s : State) (l : BitVec 16) (h : LegHalf) : List Nat :=
  if h.subEn then (subChain s (legDie l) 1024 h.subHead).getD [] else []

/-- The local leg indexes of a die that have ever been used, and the same as leg IDs. -/
def State.legsOf (s : State) (d : Nat) : List (BitVec 16) :=
  (s.die d).legs.map fun e => legId d e.1

/-- The open legs of a die, and of the package. -/
def State.openLegs (s : State) (d : Nat) : List (BitVec 16) := (s.legsOf d).filter s.legOpen
def State.allOpenLegs (s : State) : List (BitVec 16) := s.dieList.flatMap s.openLegs

/-- The open conferences of a die, and of the package. -/
def State.openConfs (s : State) (d : Nat) : List (BitVec 16) :=
  ((s.die d).confs.map fun e => confId d e.1).filter s.confOpen
def State.allOpenConfs (s : State) : List (BitVec 16) := s.dieList.flatMap s.openConfs

/-- The conference that a leg's live half names, through an alias where that conference has moved (04 R100). -/
def State.confOf (s : State) (l : BitVec 16) : BitVec 16 :=
  let c := (s.legLive l).conf
  ((s.conf c).aliasOf).getD c

/-- The legs that belong to a conference: open, with a live half that names it (04 R83). -/
def State.members (s : State) (c : BitVec 16) : List (BitVec 16) :=
  s.allOpenLegs.filter fun l => s.confOf l == c

/-! ## Functions -/

/-- Whether a function is the PF. -/
def isPf (f : Nat) : Bool := f == 0

/-- Whether a function owns a leg or a conference; the PF owns all (04 R96). -/
def ownsLeg (s : State) (f : Nat) (l : BitVec 16) : Bool := isPf f || (s.leg l).alloc == some f
def confOwnerOf (s : State) (c : BitVec 16) : Nat := (tget 0 (s.die (confDie c)).lblk.confOwner (confIdx c)).toNat
def ownsConf (s : State) (f : Nat) (c : BitVec 16) : Bool := isPf f || confOwnerOf s c == f

/-! ## Staging slices (19 R407) -/

/-- The staging slice and slice offset of a BAR2 offset. -/
def stageOf (off : Nat) : Option (Nat × Nat) :=
  if off < 0x2000000 then none
  else if (off - 0x2000000) / 0x1FC00000 < 8 then
    some ((off - 0x2000000) / 0x1FC00000, (off - 0x2000000) % 0x1FC00000)
  else none

/-- Whether a slice offset lies in the staging region of a die; in structure state NONE the first 128 MiB of
slice 0 alone (18 R401). -/
def stageIn (s : State) (d o : Nat) : Bool :=
  if (s.die 0).str.state = .none then d == 0 && decide (o < 0x8000000)
  else s.hasDie d && decide (o < 0x100000 * (s.die d).capr.stageMib.toNat)

/-- Whether a function may touch a slice offset: the PF all, a VF its window (19 R407). -/
def stageMay (s : State) (f o : Nat) : Bool :=
  if isPf f then true
  else
    let w := tget 0 (s.die 0).capr.vfStage f
    let first := fldN w 0 12
    let count := fldN w 16 12
    decide (0x100000 * first ≤ o) && decide (o < 0x100000 * (first + count))

/-- Whether a range of BAR2 lies whole in one staging slice that a function may touch. -/
def bufferOk (s : State) (f off len : Nat) : Bool :=
  match stageOf off with
  | none => false
  | some (d, o) => stageIn s d (o + len - 1) && stageMay s f o && stageMay s f (o + len - 1)

/-- The die offset in device DRAM of a slice offset. -/
def stageAddr (s : State) (d o : Nat) : Nat := 0x100000 * (s.die d).capr.stageBase.toNat + o

/-- The bytes of a buffer that a command names. -/
def rdBuffer (s : State) (off len : Nat) : List Byte :=
  match stageOf off with
  | none => []
  | some (d, o) => rdBytes (s.die d).dram (stageAddr s d o) len

/-! ## Device DRAM addresses (15 R333) -/

/-- Die and die offset of a device DRAM address. -/
def devDie (a : Nat) : Nat := a / 2 ^ 37 % 8
def devOff (a : Nat) : Nat := a % 2 ^ 37

/-- The device DRAM address of a die offset. -/
def devAddr (d o : Nat) : Nat := 2 ^ 37 * d + o

/-- Trained capacity of a die, in bytes. -/
def trainedBytes (c : Drc) : Nat := 2 ^ 30 * c.gib.toNat

/-- Whether `n` bytes from a device DRAM address lie within a die's trained capacity. -/
def devOk (s : State) (a n : Nat) : Bool :=
  decide (a < 2 ^ 40) && s.hasDie (devDie a) && decide (devOff a + n ≤ trainedBytes (s.die (devDie a)).drc)

/-- An access beyond the trained capacity is refused: DRC_CNT 7 and error 0x0F08 with the line (15 R333). -/
def devRefused (a : Nat) (req : Byte) (s : State) : State :=
  let d := if s.hasDie (devDie a) then devDie a else 0
  raiseFrom d req 0x0F08 (BitVec.ofNat 64 (a / 64 * 64)) (s.modDie d fun x => { x with drc := { x.drc with cnt := bump x.drc.cnt 7 } })

/-- The bytes at a device DRAM address; a poisoned line, of which nothing is used, beyond the capacity. -/
def devRd (s : State) (a n : Nat) : List Byte :=
  if devOk s a n then rdBytes (s.die (devDie a)).dram (devOff a) n else List.replicate n 0

/-- Stores bytes at a device DRAM address; a line written whole is no longer poisoned (15 R342); beyond the capacity the
bytes are discarded. -/
def devWr (req : Byte) (a : Nat) (bs : List Byte) (s : State) : State :=
  let o := devOff a
  if devOk s a bs.length then s.modDie (devDie a) fun x => { x with
    dram := wrBytes x.dram o bs
    drc := { x.drc with poison := x.drc.poison.filter fun l => decide (l < o) || decide (o + bs.length < l + 64) } }
  else devRefused a req s

end Sys2Proof.Machine
end

