-- ==== Sys2Proof/Machine/Flags.lean ====
section
/-! DEFINITION. Flags: the event bits that each block sets, the counters it counts, and the update of a
W1C field by a write (00 Table 0.2). -/

namespace Sys2Proof.Machine

/-- A W1C field after a write: each 1 clears the bit (00 R8). -/
def w1c {w : Nat} (old v : BitVec w) : BitVec w := old &&& ~~~v

/-- An event field with bit `i` set. -/
def setEv {w : Nat} (e : BitVec w) (i : Nat) : BitVec w := e ||| (1#w <<< i)

/-- Sets bit `i` of TIM_EVENT on die `d` (02 R55). -/
def timEv (d i : Nat) (s : State) : State :=
  s.modDie d fun x => { x with tim := { x.tim with event := setEv x.tim.event i } }

/-- Sets bit `i` of ING_EVENT on die `d` (05 R134). -/
def ingEv (d i : Nat) (s : State) : State :=
  s.modDie d fun x => { x with ing := { x.ing with event := setEv x.ing.event i } }

/-- Sets bit `i` of CIP_EVENT on die `d` (06 R156). -/
def cipEv (d i : Nat) (s : State) : State :=
  s.modDie d fun x => { x with cip := { x.cip with event := setEv x.cip.event i } }

/-- Sets bit `i` of MIX_EVENT on die `d` (07 R179). -/
def mixEv (d i : Nat) (s : State) : State :=
  s.modDie d fun x => { x with mix := { x.mix with event := setEv x.mix.event i } }

/-- Sets bit `i` of TDM_EVENT on die `d` (08 R194). -/
def tdmEv (d i : Nat) (s : State) : State :=
  s.modDie d fun x => { x with tdm := { x.tdm with event := setEv x.tdm.event i } }

/-- Sets bit `i` of VDC_EVENT on die `d` (09 R215). -/
def vdcEv (d i : Nat) (s : State) : State :=
  s.modDie d fun x => { x with vdc := { x.vdc with event := setEv x.vdc.event i } }

/-- Sets bit `i` of GAL_EVENT on die `d` (10 R240). -/
def galEv (d i : Nat) (s : State) : State :=
  s.modDie d fun x => { x with gal := { x.gal with event := setEv x.gal.event i } }

/-- Sets bit `i` of VEN_EVENT on die `d` (11 R259). -/
def venEv (d i : Nat) (s : State) : State :=
  s.modDie d fun x => { x with ven := { x.ven with event := setEv x.ven.event i } }

/-- Sets bit `i` of EGR_EVENT on die `d` (12 R286). -/
def egrEv (d i : Nat) (s : State) : State :=
  s.modDie d fun x => { x with egr := { x.egr with event := setEv x.egr.event i } }

/-- Sets bit `i` of HST_EVENT on die `d` (13 R300). -/
def hstEv (d i : Nat) (s : State) : State :=
  s.modDie d fun x => { x with hst := { x.hst with event := setEv x.hst.event i } }

/-- Sets bit `i` of DRC_EVENT on die `d` (15 R347). -/
def drcEv (d i : Nat) (s : State) : State :=
  s.modDie d fun x => { x with drc := { x.drc with event := setEv x.drc.event i } }

/-- Sets bit `i` of DIE_PWR_EVENT on die `d` (17 R386). -/
def pwrEv (d i : Nat) (s : State) : State :=
  s.modDie d fun x => { x with pwr := { x.pwr with event := setEv x.pwr.event i } }

/-- Sets bit `i` of SEA_EVENT on die `d` (10 R240). -/
def seaEv (d i : Nat) (s : State) : State :=
  s.modDie d fun x => { x with gal := { x.gal with seaEvent := setEv x.gal.seaEvent i } }

/-- Sets bit `i` of PAR_EVENT (16 R369). -/
def parEv (i : Nat) (s : State) : State := { s with pair := { s.pair with event := setEv s.pair.event i } }

/-- Sets CHANGED of DIE_CAP_EVENT on die `d` (19 R406). -/
def capEv (d : Nat) (s : State) : State :=
  s.modDie d fun x => { x with capr := { x.capr with changed := true } }

/-- Counts one up in ING_CNT[n] of die `d` (05 R134). -/
def ingCnt (d n : Nat) (s : State) : State :=
  s.modDie d fun x => { x with ing := { x.ing with cnt := bump x.ing.cnt n } }

/-- Counts `k` up in ING_CNT[n] of die `d`. -/
def ingCntN (d n k : Nat) (s : State) : State :=
  s.modDie d fun x => { x with ing := { x.ing with cnt := if k = 0 then x.ing.cnt else tmod 0 x.ing.cnt n (· + BitVec.ofNat 32 k) } }

/-- Counts one up in CIP_CNT[n] of die `d` (06 R156). -/
def cipCnt (d n : Nat) (s : State) : State :=
  s.modDie d fun x => { x with cip := { x.cip with cnt := bump x.cip.cnt n } }

/-- Counts one up in MIX_CNT[n] of die `d` (07 R179). -/
def mixCnt (d n : Nat) (s : State) : State :=
  s.modDie d fun x => { x with mix := { x.mix with cnt := bump x.mix.cnt n } }

/-- Counts one up in VDC_CNT[n] of die `d` (09 R215). -/
def vdcCnt (d n : Nat) (s : State) : State :=
  s.modDie d fun x => { x with vdc := { x.vdc with cnt := bump x.vdc.cnt n } }

/-- Counts one up in GAL_CNT[n] of die `d` (10 R240). -/
def galCnt (d n : Nat) (s : State) : State :=
  s.modDie d fun x => { x with gal := { x.gal with cnt := bump x.gal.cnt n } }

/-- Counts one up in VEN_CNT[n] of die `d` (11 R259). -/
def venCnt (d n : Nat) (s : State) : State :=
  s.modDie d fun x => { x with ven := { x.ven with cnt := bump x.ven.cnt n } }

/-- Counts one up in EGR_CNT[n] of die `d` (12 R286). -/
def egrCnt (d n : Nat) (s : State) : State :=
  s.modDie d fun x => { x with egr := { x.egr with cnt := bump x.egr.cnt n } }

/-- Counts one up in HST_CNT[n] of die `d` (13 R300). -/
def hstCnt (d n : Nat) (s : State) : State :=
  s.modDie d fun x => { x with hst := { x.hst with cnt := bump x.hst.cnt n } }

/-- Counts one up in DRC_CNT[n] of die `d` (15 R347). -/
def drcCnt (d n : Nat) (s : State) : State :=
  s.modDie d fun x => { x with drc := { x.drc with cnt := bump x.drc.cnt n } }

/-- Counts one up in PAR_CNT[n] of die `d` (16 R369). -/
def parCnt (d n : Nat) (s : State) : State :=
  s.modDie d fun x => { x with par := { x.par with cnt := bump x.par.cnt n } }

/-- Counts one up in SEA_CNT[n] of die `d` (10 R240). -/
def seaCnt (d n : Nat) (s : State) : State :=
  s.modDie d fun x => { x with gal := { x.gal with seaCnt := bump x.gal.seaCnt n } }

/-! ## Digests of a pair (16 R359) -/

/-- The output units of digests: a leg's sent streams, a viewer of a Seam, a TDM output port. -/
def legUnit (l : BitVec 16) : BitVec 16 := l
def seamUnit (l : BitVec 16) : BitVec 16 := l ||| 0x4000
def tdmUnit (p : Nat) : BitVec 16 := 0x8000#16 ||| BitVec.ofNat 16 p

/-- Bytes join the running digest of an output unit; a unit without a pair computes none. -/
def digestBytes (d : Nat) (u : BitVec 16) (bs : List Byte) (s : State) : State :=
  if s.pair.role = .unpaired then s
  else s.modDie d fun x =>
    let old := ((x.par.running.find? (·.1 == u)).map (·.2)).getD crcInit
    { x with par := { x.par with running := (u, crcUpdate old bs) :: x.par.running.filter (·.1 != u) } }

/-- Output units are left out of the running second's comparison. -/
def excludeUnits (d : Nat) (us : List (BitVec 16)) (s : State) : State :=
  if s.pair.role = .unpaired then s
  else s.modDie d fun x => { x with par := { x.par with
    excluded := us.foldl (fun l u => if l.contains u then l else u :: l) x.par.excluded } }

/-- A leg's output units: its sent streams and its mosaic. -/
def excludeLeg (l : BitVec 16) (s : State) : State := excludeUnits (legDie l) [legUnit l, seamUnit l] s

/-- Changes the receive side, the send side, the jitter buffer, the audio state, the crypto area of a leg. -/
def State.modRx (s : State) (l : BitVec 16) (f : LegRx → LegRx) : State := s.modLeg l fun x => { x with rx := f x.rx }
def State.modTx (s : State) (l : BitVec 16) (f : LegTx → LegTx) : State := s.modLeg l fun x => { x with tx := f x.tx }
def State.modJb (s : State) (l : BitVec 16) (f : Jb → Jb) : State := s.modLeg l fun x => { x with jb := f x.jb }
def State.modAud (s : State) (l : BitVec 16) (f : LegAudio → LegAudio) : State := s.modLeg l fun x => { x with aud := f x.aud }
def State.modCry (s : State) (l : BitVec 16) (f : Crypto → Crypto) : State := s.modLeg l fun x => { x with cry := f x.cry }

end Sys2Proof.Machine
end

