-- ==== Sys2Proof/Machine/Crypt.lean ====
section
/-! DEFINITION. SRTP and SRTCP on the packet path: protection with its counter guards, replay windows, and what an
adoption does to a leg's crypto area (06 R146 to R150, R437). -/

namespace Sys2Proof.Machine

/-! ## Slots (06 R136, R137) -/

/-- Slot `i` of die `d`, and its change. -/
def State.slot (s : State) (d i : Nat) : Slot := tget {} (s.die d).cip.slots i
def State.modSlot (s : State) (d i : Nat) (f : Slot → Slot) : State :=
  s.modDie d fun x => { x with cip := { x.cip with slots := tmod {} x.cip.slots i f } }

/-- The slot that a handle names. -/
def slotOf (s : State) (k : BitVec 16) : Slot := s.slot (keyDie k) (keySlot k)

/-- The value of a key: both halves of a two-slot one. -/
def keyValue (s : State) (k : BitVec 16) : BitVec 512 :=
  let x := slotOf s k
  let hi : BitVec 256 := if x.two then (s.slot (keyDie k) (keySlot k + 1)).value else 0
  x.value.setWidth 512 ||| (hi.setWidth 512 <<< 256)

/-! ## Sending (06 R146, R150) -/

/-- The bytes that a transform adds to an SRTP packet: its tag (06 R80 of Table 4.3). -/
def xformTag (x : Nat) : Nat :=
  if x = 1 || x = 3 then 10 else if x = 2 || x = 4 then 4 else if x = 5 || x = 6 then 16 else 0

/-- The index of a sequence number that lies nearest to an index already used (RFC 3711). -/
def nearIndex (last : Nat) (seq : BitVec 16) : Nat :=
  ((last : Int) + (seq - BitVec.ofNat 16 last).toInt).toNat

/-- The guards of a sent packet (06 Table 6.4): limit, margin and counter of an index or of the packet count. -/
structure Guard where
  limit : Nat
  margin : Nat
  count : Nat
  warned : Bool
  deriving DecidableEq, Repr

/-- Whether a guarded counter stands at its hard limit, and whether it first comes within its margin. -/
def guardHard (g : Guard) : Bool := decide (g.limit ≤ g.count)
def guardSoft (g : Guard) : Bool := !g.warned && decide (g.limit ≤ g.count + 2 ^ g.margin)

/-- The packet is dropped before encryption: CIP_CNT 2, HARD and error 0x0604 with the leg (06 R150). -/
def guardDrop (l : BitVec 16) (s : State) : State :=
  let d := legDie l
  raiseFrom d (engineReq 1) 0x0604 (l.setWidth 64) (cipEv d 1 (cipCnt d 2 s))

/-- A rekey warning: SOFT and error 0x0603 with the leg. -/
def guardWarn (b : Bool) (l : BitVec 16) (s : State) : State :=
  let d := legDie l
  if b then raiseFrom d (engineReq 1) 0x0603 (l.setWidth 64) (cipEv d 0 s) else s

/-- Protects an RTP packet of a leg: the payload and the index used, or none where a counter is at its limit. A leg
with XFORM 0 sends it as it is. -/
def protectRtp (l : BitVec 16) (ssrc : BitVec 32) (seq : BitVec 16) (payload : List Byte) (s : State) :
    Option (List Byte × Nat) × State :=
  let h := s.legLive l
  let c := (s.leg l).cry
  let g := (s.die (legDie l)).cip
  if h.xform = 0 then (some (payload, 0), s)
  else
    let t := (c.tx.find? (·.ssrc == ssrc)).getD { ssrc := ssrc, index := seq.toNat }
    let idx := nearIndex t.index seq
    let gi : Guard := { limit := 2 ^ 48 - 1, margin := g.guardSrtp.toNat, count := idx, warned := t.warned }
    let gk : Guard := { limit := 2 ^ 48, margin := g.guardSrtp.toNat, count := c.keyPkts, warned := c.keyWarned }
    if guardHard gi || guardHard gk then (none, guardDrop l s)
    else
      let t' : TxCtx := { t with index := max t.index idx, warned := t.warned || guardSoft gi,
                                 stored := max t.index idx / 256 * 256 }
      let s := s.modCry l fun c => { c with
        tx := t' :: c.tx.filter (·.ssrc != ssrc), keyPkts := c.keyPkts + 1, keyWarned := c.keyWarned || guardSoft gk }
      let s := guardWarn (guardSoft gi) l (guardWarn (guardSoft gk) l s)
      (some (Config.srtpProtect (keyValue s h.txKey) h.xform false true ssrc idx payload, idx), s)

/-- Protects an RTCP packet of a leg under its SRTCP index: encrypted with the E flag, or with SRTCP_ENC 0 authenticated only
(06 R146). -/
def protectRtcp (l : BitVec 16) (ssrc : BitVec 32) (payload : List Byte) (s : State) : Option (List Byte × Nat) × State :=
  let h := s.legLive l
  let c := (s.leg l).cry
  let g := (s.die (legDie l)).cip
  if h.xform = 0 then (some (payload, 0), s)
  else
    let gi : Guard := { limit := 2 ^ 31 - 1, margin := g.guardSrtcp.toNat, count := c.srtcpIndex, warned := c.srtcpWarned }
    if guardHard gi then (none, guardDrop l s)
    else
      let s := s.modCry l fun c => { c with
        srtcpIndex := c.srtcpIndex + 1, srtcpStored := (c.srtcpIndex + 1) / 256 * 256, srtcpWarned := c.srtcpWarned || guardSoft gi }
      let s := guardWarn (guardSoft gi) l s
      (some (Config.srtpProtect (keyValue s h.txKey) h.xform true h.srtcpEnc ssrc c.srtcpIndex payload, c.srtcpIndex), s)

/-! ## Receiving (06 R147) -/

/-- The replay window of a received SSRC, or of the leg's SRTCP. -/
def rxWin (c : Crypto) (rtcp : Bool) (ssrc : BitVec 32) : RxWin :=
  if rtcp then c.rtcpWin else (c.win.find? (·.ssrc == ssrc)).getD { ssrc := ssrc }

/-- The index that the sequence number of a received RTP packet stands for, as RFC 3711 estimates it from the highest
index accepted (06 R147). -/
def estIndex (w : RxWin) (seq : BitVec 16) : Nat :=
  match w.high with
  | none => seq.toNat
  | some h =>
    let sl := h % 65536
    let roc := h / 65536
    let v := if sl < 32768 then (if 32768 + sl < seq.toNat then (roc + 2 ^ 32 - 1) % 2 ^ 32 else roc)
      else if seq.toNat + 32768 < sl then roc + 1 else roc
    65536 * v + seq.toNat

/-- Whether a packet is refused: its index is marked, lies more than 1,023 below the highest, or exceeds
2^48 − 1. -/
def replayed (w : RxWin) (idx : Nat) : Bool :=
  w.seen.contains idx || decide (2 ^ 48 ≤ idx) || (match w.high with | some h => decide (idx + 1023 < h) | none => false)

/-- The window after a packet is accepted. -/
def acceptIndex (w : RxWin) (idx : Nat) : RxWin :=
  let h := match w.high with | some h => max h idx | none => idx
  { w with high := some h, seen := (idx :: w.seen).filter fun i => decide (h ≤ i + 1023) }

/-- Notes an accepted packet. -/
def noteIndex (l : BitVec 16) (rtcp : Bool) (ssrc : BitVec 32) (idx : Nat) (s : State) : State :=
  s.modCry l fun c =>
    let w := acceptIndex (rxWin c rtcp ssrc) idx
    if rtcp then { c with rtcpWin := w } else { c with win := w :: c.win.filter (·.ssrc != ssrc) }

/-- RX_GRACE_EXPIRY: the previous key is dropped and the replay windows restart (06 R147, R437). -/
def execRxGraceExpiry (leg : BitVec 16) (s : State) : Host.Outcome State Fault Refusal :=
  match (s.leg leg).cry.grace with
  | some (_, t) =>
    let s := s.advance (stampDiff t s.clk).toNat
    .next (s.modCry leg fun c => { c with grace := none, win := [], rtcpWin := {} })
  | none => .next s

/-! ## Adoption (06 R147, R437, Table 6.4) -/

/-- The crypto area after an open half is adopted: a changed TX SSRC restarts its index, a changed TX_SSRC_A the
SRTCP index, a changed TX_KEY the packet count and the warnings, which are given once per key; a changed RX_KEY starts the grace of the previous one, or restarts
the windows; a changed RX SSRC restarts its window. The first adoption after ALLOC_LEG changes every one. -/
def adoptedCrypto (h : LegHalf) (graceEnd : Option (BitVec 64)) (c : Crypto) : Crypto :=
  let own := [h.txSsrcA, h.txSsrcV, h.txSsrcRtx]
  let changed := if c.fresh then own ++ c.own else
    ((own.zip c.own).filter fun e => e.1 != e.2).flatMap fun e => [e.1, e.2]
  let newA := c.fresh || c.own.head? != some h.txSsrcA
  let newTx := c.fresh || c.txKey != h.txKey
  let newRx := c.rxKey != h.rxKey
  let grace := if newRx && keySlot c.rxKey != 0 then graceEnd.map fun t => (c.rxKey, t) else if newRx then none else c.grace
  let rx := [h.rxSsrcA, h.rxSsrcV0, h.rxSsrcV1, h.rxSsrcV2, h.rxSsrcRtx]
  let wipeWin := newRx && grace.isNone
  { c with
    tx := (c.tx.filter fun t => !changed.contains t.ssrc).map fun t => if newTx then { t with warned := false } else t
    srtcpIndex := if newA then 0 else c.srtcpIndex
    srtcpStored := if newA then 0 else c.srtcpStored
    srtcpWarned := if newA || newTx then false else c.srtcpWarned
    keyPkts := if newTx then 0 else c.keyPkts
    keyWarned := if newTx then false else c.keyWarned
    txKey := h.txKey, rxKey := h.rxKey
    win := if wipeWin then [] else c.win.filter fun w => rx.contains w.ssrc
    rtcpWin := if wipeWin then {} else c.rtcpWin
    grace := grace, fresh := false, own := own }

end Sys2Proof.Machine
end

