-- ==== Sys2Proof/Machine/Route.lean ====
section
/-! DEFINITION. The Ubhan links and the routes over them (chapter 01). The transit of a frame is not modelled: what one die
sends another is there at once, so frames arrive in the order they were sent (01 R12, R13; log 132). -/

namespace Sys2Proof.Machine

/-- The die at the far end of a port; the port has the same number there (Table 1.1, 01 R11). -/
def ubhFar (v : Variant) (d p : Nat) : Nat :=
  match v with | .trv6402 => d ^^^ 1 | .trv6404 => d ^^^ (p + 1) | .trv6408 => d ^^^ (2 ^ p)

/-- The far end of a port of the package. -/
def ubhPeer (s : State) (d p : Nat) : Nat := ubhFar s.fuses.variant d p

/-- Whether the link at a port takes part in routing at both its ends (01 R14). -/
def linkUp (s : State) (d p : Nat) : Bool :=
  (tget ({} : Ubh) (s.die d).ubh p).routed && (tget ({} : Ubh) (s.die (ubhPeer s d p)).ubh p).routed

/-- The ports by which traffic crosses from a die, each as a die and its port: the bonded ports of one link together. -/
abbrev Hop := List (Nat × Nat)

/-- On the TRV-6402 a hop crosses whichever of the bonded ports remain (01 R14). -/
def bondedHop (s : State) (d : Nat) : Option (List Hop) :=
  let up := (List.range 3).filter fun p => linkUp s d p
  if up.isEmpty then none else some [up.map fun p => (d, p)]

/-- On the TRV-6404 a hop crosses its own link, or goes through the third die of lowest number whose links to both ends are
up (01 R14). -/
def meshHop (s : State) (d e : Nat) : Option (List Hop) :=
  let port (a b : Nat) : Nat := (a ^^^ b) - 1
  if linkUp s d (port d e) then some [[(d, port d e)]]
  else ((List.range 4).find? fun k => k != d && k != e && linkUp s d (port d k) && linkUp s k (port k e)).map fun k =>
    [[(d, port d k)], [(k, port k e)]]

/-- On the TRV-6408 a hop crosses its own link, or goes x → x XOR 2^q → x XOR 2^q XOR 2^p → x XOR 2^p, q the lowest
dimension other than p for which all three links are up (01 R14). -/
def cubeHop (s : State) (d p : Nat) : Option (List Hop) :=
  if linkUp s d p then some [[(d, p)]]
  else ((List.range 3).find? fun q =>
      q != p && linkUp s d q && linkUp s (d ^^^ 2 ^ q) p && linkUp s (d ^^^ 2 ^ q ^^^ 2 ^ p) q).map fun q =>
    [[(d, q)], [(d ^^^ 2 ^ q, p)], [(d ^^^ 2 ^ q ^^^ 2 ^ p, q)]]

/-- The hops over the dimensions of a cube, in which the numbers differ, from the lowest bit to the highest. -/
def cubeRoute (s : State) : (dims : List Nat) → (d : Nat) → Option (List Hop)
  | [], _ => some []
  | p :: rest, d =>
    match cubeHop s d p, cubeRoute s rest (d ^^^ 2 ^ p) with
    | some a, some b => some (a ++ b)
    | _, _ => none

/-- The one route of traffic from die `d` to die `e`; none where no link is left for a hop, of which the manual says nothing
(01 R12, R14). -/
def route (s : State) (d e : Nat) : Option (List Hop) :=
  if d = e then some []
  else match s.fuses.variant with
    | .trv6402 => bondedHop s d
    | .trv6404 => meshHop s d e
    | .trv6408 => cubeRoute s ((List.range 3).filter fun p => (d ^^^ e).testBit p) d

/-- Hops between two dies, 22 ns each (01 R13). -/
def routeHops (s : State) (d e : Nat) : Option Nat := (route s d e).map List.length

/-- The port by which traffic from `d` leaves for `e`, and the port of `e` by which it arrives; of bonded ports the lowest. -/
def leavingPort (s : State) (d e : Nat) : Option Nat :=
  (route s d e).bind fun r => r.head?.bind fun h => h.head?.map (·.2)
def arrivingPort (s : State) (d e : Nat) : Option Nat :=
  (route s d e).bind fun r => r.getLast?.bind fun h => h.head?.map (·.2)

/-- The ordered pairs of dies of the package. -/
def diePairs (s : State) : List (Nat × Nat) :=
  (s.dieList.flatMap fun d => s.dieList.map fun e => (d, e)).filter fun e => e.1 != e.2

/-- Whether a route leaves die `d` by its port `p` somewhere on its way. -/
def uses (r : Option (List Hop)) (d p : Nat) : Bool :=
  match r with | some hops => hops.any fun h => h.contains (d, p) | none => false

/-- Routes that crossed port `p` of die `d` in `s` and no longer do in `t` (UBH_CNT.REROUTE; log 132). -/
def movedOff (s t : State) (d p : Nat) : Nat :=
  ((diePairs s).filter fun e => uses (route s e.1 e.2) d p && !uses (route t e.1 e.2) d p).length

/-- The links of a die train: a port in routing has all its lanes (19 R410; log 132). -/
def trainLinks (x : Die) : Die :=
  { x with ubh := (List.range 3).foldl (fun t p => tmod {} t p fun u =>
      { u with up := u.routed, lanes := if u.routed then 16 else 0 }) x.ubh }

end Sys2Proof.Machine
end

