-- ==== Sys2Proof/Machine/Structure.lean ====
section
/-! DEFINITION. The structure image: its checks in the order of Table 3.6, and what its sections set on a
die (chapter 03). -/

namespace Sys2Proof.Machine

/-! ## Reading an image -/

/-- `n` bytes of a byte string from an offset, and the little-endian number there. -/
def sliceOf (bs : List Byte) (o n : Nat) : List Byte := (bs.drop o).take n
def leAt (bs : List Byte) (o n : Nat) : Nat := leNat (sliceOf bs o n)

/-- Device ID, stepping bit and number of dies of the part (00 R1, R2). -/
def deviceId : Variant → Nat
  | .trv6402 => 0x6402
  | .trv6404 => 0x6404
  | .trv6408 => 0x6408
def steppingBit : Stepping → Nat
  | .a0 => 0
  | .b0 => 1

/-- Whether the bytes of a range are all 0. -/
def zeroAt (bs : List Byte) (o n : Nat) : Bool := (sliceOf bs o n).all (· == 0)

/-- One section as stored: type, die, payload, stored CRC and whether its padding and reserved bytes are 0
(03 R59). -/
structure Section where
  type : Nat
  die : Nat
  payload : List Byte
  crc : Nat
  clean : Bool
  deriving DecidableEq, Repr

/-- The sections from an offset on, as many as the header counts. -/
def rdSections (bs : List Byte) : (count o : Nat) → List Section × Nat
  | 0, o => ([], o)
  | n + 1, o =>
    let len := leAt bs (o + 4) 4
    let padded := (len + 7) / 8 * 8
    let sec : Section := { type := leAt bs o 2, die := leAt bs (o + 2) 1, payload := sliceOf bs (o + 16) len,
                           crc := leAt bs (o + 8) 4,
                           clean := zeroAt bs (o + 3) 1 && zeroAt bs (o + 12) 4 &&
                             zeroAt bs (o + 16 + len) (padded - len) && decide (o + 16 + padded ≤ bs.length) }
    let (rest, e) := rdSections bs n (o + 16 + padded)
    (sec :: rest, e)

/-- The payload of a section of an image, for a die or (0xFF) for the device. -/
def secOf (img : ImageDef) (type die : Nat) : Option (List Byte) :=
  (img.sections.find? fun e => e.1 == type && e.2.1 == die).map (·.2.2)

/-- Field `i` of a section whose payload the manual leaves opaque (03 R57; log 2). -/
def secField (img : ImageDef) (type die i : Nat) : Nat :=
  match secOf img type die with
  | some p => Config.sectionField type p i
  | none => 0

/-- Entry `c` of BW_BUDGET, and MODE of HOIST_OBS (03 R65, R69). -/
def bwEntry (img : ImageDef) (die c : Nat) : Nat := leAt ((secOf img 6 die).getD []) (2 * c) 2
def hoistMode (img : ImageDef) (die : Nat) : Nat := leAt ((secOf img 10 die).getD []) 0 8

/-- Units of 100 MB/s that a channel in use contributes, by its speed code (03 R66). -/
def chanUnits (speed : BitVec 2) : Nat :=
  if speed = 0 then 330 else if speed = 1 then 288 else if speed = 2 then 247 else 0

/-- The sustained figure of a die, in units of 100 MB/s (03 R66). -/
def sustained (c : Drc) : Nat :=
  (if c.chOk.getLsbD 0 then chanUnits c.speed0 else 0) + (if c.chOk.getLsbD 1 then chanUnits c.speed1 else 0)

/-! ## Field indexes of the opaque sections (log 2)

DIE_ROLE: 0 conferences, 1 guaranteed legs, 2 guaranteed conferences. FACE_SPLIT: 0 vendor, 1 customer.
FABRIC: 0 is nonzero for a route to a core of another role. DRAM_PART: 0 pool base, 1 pool slots, 2 jitter-buffer pool,
3 packet-buffer pool, 4 and 5 Face DMA base and length, 6 and 7 trace ring, 8 and 9 staging base and size in
MiB, 10 nonzero for an overlap, 11 end of the last partition, 12 to 19 TDM ring bases, 20 to 27 hash masks.
CLOCK_PLAN: 0 spread enables, 1 reference priorities, 2 TIM_PTP_CFG fields. ETH_SPLIT: 0 and 1 modes, 2 Adit mask,
3 to 10 FEC. TDM_PINS: 0 to 7 CLK_PORT, 8 to 15 the pins of each port (BCLK, FSYNC, SDI, SDO). DELAY_TABLE: 3k to 3k + 2. PAIR_CFG: 0 ALIVE_WIRED, 1 SHADOW_US. -/

/-! ## Checks of an image (03 R75) -/

/-- The masks of DRC_HASH follow their rules (15 R335): each holds its home bit, no other home bit, and
nothing at or above the capacity. -/
def homeBits (c : Drc) : List (Option Nat) :=
  let ch := if c.twoCh then 1 else 0
  let rowBits := if c.device = 1 || c.device = 3 then 17 else 16
  let col := if c.device = 2 || c.device = 3 then 7 else 6
  [if c.twoCh then some 6 else none, some (6 + ch), some (7 + ch), some (8 + ch), some (9 + ch), some (10 + ch),
   some (11 + ch), if c.twoRanks then some (12 + ch + col + rowBits) else none]

/-- One past the highest address bit of a die's capacity. -/
def topBit (c : Drc) : Nat :=
  let ch := if c.twoCh then 1 else 0
  let rowBits := if c.device = 1 || c.device = 3 then 17 else 16
  let col := if c.device = 2 || c.device = 3 then 7 else 6
  12 + ch + col + rowBits + if c.twoRanks then 1 else 0

/-- Whether mask `o` is allowed. -/
def hashMaskOk (c : Drc) (o : Nat) (mask : Nat) : Bool :=
  let homes := homeBits c
  match homes.getD o none with
  | none => mask == 0
  | some h =>
    mask.testBit h && decide (mask < 2 ^ topBit c) && mask % 64 == 0 &&
      (List.range 8).all fun p => p == o || match homes.getD p none with
        | none => true
        | some b => !mask.testBit b

/-- The first section of one die whose content check 0x0308 refuses, by its type: DIE_ROLE over 128 conferences, FACE_SPLIT
over 16, a fabric route to a core of another role, or partitions or hash masks that do not fit the trained channels. -/
def badContent (img : ImageDef) (die : Nat) (c : Drc) : Option Nat :=
  let part := secField img 5 die
  if 128 < secField img 1 die 0 then some 1
  else if 16 < secField img 3 die 0 + secField img 3 die 1 then some 3
  else if secField img 4 die 0 ≠ 0 then some 4
  else if part 10 != 0 || decide (trainedBytes c < part 11) || !((List.range 8).all fun o => hashMaskOk c o (part (20 + o))) then some 5
  else none

/-- The first section of one die that check 0x0309 refuses, by its type: the sum of BW_BUDGET, or HOIST_OBS in conflict with
class 6. DESIGN CHOICE (log 135): non-zero bits [15:12] of a BW_BUDGET entry, and non-zero bits [63:1] of HOIST_OBS, for which
Table 3.6 names no code, are refused here. -/
def badBudget (img : ImageDef) (die : Nat) (c : Drc) : Option Nat :=
  let sum := (List.range 8).foldl (fun n k => n + bwEntry img die k % 4096) 0
  let clean := (List.range 8).all fun k => bwEntry img die k < 4096
  let mode := hoistMode img die
  if sustained c < sum || !clean then some 6
  else if 1 < mode || (mode == 1 && (bwEntry img die 6 == 0 || secField img 5 die 7 == 0)) || (mode == 0 && bwEntry img die 6 != 0) then some 10
  else none

/-- The index of the first section that does not stand behind its predecessor in ascending order of type, and within a type
of die: out of order or a duplicate. -/
def badOrder (secs : List Section) : Option Nat :=
  findIdx (fun i => match secs[i]?, secs[i + 1]? with
    | some a, some b => !(decide (a.type < b.type) || (a.type == b.type && decide (a.die < b.die)))
    | _, _ => false) secs.length 0 |>.map (· + 1)

/-- The first section whose CRC or form fails, by index. DESIGN CHOICE (log 135): a reserved byte of a section header or a
byte of padding that is not 0, a BW_BUDGET or HOIST_OBS payload of another length than 16 or 8 bytes, and a DIE field that
names no die of the image (or other than 0xFF for PAIR_CFG), for which Table 3.6 names no code, are refused here, as 0x0307. -/
def badSection (restruct : Option Nat) (n : Nat) (secs : List Section) : Option Nat :=
  findIdx (fun i => match secs[i]? with
    | none => false
    | some x => x.crc != (crc32c x.payload).toNat || !x.clean || x.type == 0 || decide (12 < x.type) ||
        (x.type == 6 && x.payload.length != 16) || (x.type == 10 && x.payload.length != 8) ||
        (match restruct with
          | some d => x.die != d
          | none => if x.type = 12 then x.die != 255 else decide (n ≤ x.die))) secs.length 0

/-- Whether an image holds each required section for each die it describes (03 R56, R70). -/
def presenceOk (restruct : Option Nat) (n : Nat) (secs : List Section) : Bool :=
  let dies := match restruct with | some d => [d] | none => List.range n
  dies.all fun d => (List.range 10).all fun t => secs.any fun x => x.type == t + 1 && x.die == d

/-- The decrypted bytes of an image after its header and before its signature; none where the key slot is
empty or not persistent (06 R143), or the tag does not match (03 R61). DESIGN CHOICE (log 135): neither R61 nor Table 3.6 asks
for a TYPE or USE of the slot, so any TYPE but 0 is taken. -/
def imagePlain (s : State) (bs : List Byte) (len : Nat) : Option (List Byte) :=
  let body := sliceOf bs 256 (len - 96 - 256)
  if !(leAt bs 6 2).testBit 0 then some body
  else
    let h : BitVec 16 := BitVec.ofNat 16 (leAt bs 0x24 2)
    let slot := tget {} (s.die 0).cip.slots (keySlot h)
    if !keyHandleOk s h || keyDie h != 0 || slot.ktype == 0 || !slot.persist then none
    else
      let aad := sliceOf bs 0 0x34 ++ List.replicate 16 0 ++ sliceOf bs 0x44 188
      Config.gcmOpen slot.value (sliceOf bs 0x28 12) aad body (sliceOf bs 0x34 16)

/-- Whether a signer's key is present, unrevoked and verifies a signature (03 R60). -/
def signedBy (s : State) (signer : Nat) (msg sig : List Byte) : Bool :=
  decide (signer < 5) && s.fuses.enrolled.getLsbD signer && !s.fuses.revoked.getLsbD signer &&
    Config.ecdsaOk (tget 0 s.fuses.keyDigest signer) msg sig

/-- The type of the first section of a restructure image in which a field differs that must equal the running structure's:
reference priorities, the Adit subport, delay entries 8 to 17 (03 R70). -/
def restructDiffers (s : State) (d : Nat) (img : ImageDef) : Option Nat :=
  let cur : ImageDef := { sections := (s.die d).str.sections.map fun e => (e.1, d, e.2) }
  if secField img 7 d 1 ≠ secField cur 7 d 1 then some 7
  else if secField img 8 d 2 ≠ secField cur 8 d 2 then some 8
  else if (List.range 30).all fun i => secField img 11 d (24 + i) == secField cur 11 d (24 + i) then none
  else some 11

/-- The index of the section of a type and die, 0 where the image has none. -/
def sectionIdx (img : ImageDef) (type d : Nat) : Nat := (img.sections.findIdx? fun e => e.1 == type && e.2.1 == d).getD 0

/-- The checks of Table 3.6 up to the sections' form, in order: an image, or the code and section index of
the first failure, 0 where it concerns no one section. `restruct` names the die of a restructure image (03 R63, R75).
DESIGN CHOICE (log 135): Table 3.6 names no code for SECTIONS outside 1 to 255 or for KEY_HANDLE, IV or TAG not 0 with ENC = 0,
refused as 0x0301, for a LENGTH too short for header and signature, refused as 0x0303, or for sections that end before or
behind the signature, refused as 0x0307. -/
def checkImage (s : State) (restruct : Option Nat) (bs : List Byte) : Except (BitVec 16 × Nat) ImageDef :=
  let n := s.nDies
  let flags := leAt bs 6 2
  let enc := flags.testBit 0
  let len := leAt bs 0x20 4
  let mask := leAt bs 0x0E 1
  if sliceOf bs 0 4 != [0x50, 0x52, 0x4E, 0x4F] || leAt bs 4 2 != 1 || decide (3 < flags) || !zeroAt bs 0x26 2 ||
     !zeroAt bs 0x44 188 || decide (3 < leAt bs 0x0A 2) || leAt bs 0x0C 2 == 0 || decide (255 < leAt bs 0x0C 2) ||
     (!enc && (!zeroAt bs 0x24 2 || !zeroAt bs 0x28 28)) then .error (0x0301, 0)
  else if leAt bs 8 2 != deviceId s.fuses.variant ||
     !(leAt bs 0x0A 2).testBit (steppingBit s.fuses.stepping) then .error (0x0302, 0)
  else if decide (0x1000000 < len) || decide (bs.length < len) || decide (len < 352) ||
     (match restruct with
      | none => mask != 2 ^ n - 1 || flags.testBit 1
      | some d => mask != 2 ^ d || !flags.testBit 1) then .error (0x0303, 0)
  else if !signedBy s (leAt bs 0x0F 1) (sliceOf bs 0 (len - 96)) (sliceOf bs (len - 96) 96) then .error (0x0304, 0)
  else if leAt bs 0x1C 4 < s.fuses.minSvn.toNat then .error (0x0305, 0)
  else match imagePlain s bs len with
    | none => .error (0x0306, 0)
    | some body =>
      let (secs, stop) := rdSections body (leAt bs 0x0C 2) 0
      match badSection restruct n secs, badOrder secs with
      | some i, some j => .error (0x0307, min i j)
      | some i, none | none, some i => .error (0x0307, i)
      | none, none =>
        if !presenceOk restruct n secs || stop != body.length then .error (0x0307, 0)
        else .ok { imageId := BitVec.ofNat 64 (leAt bs 0x10 8), version := BitVec.ofNat 32 (leAt bs 0x18 4),
                   svn := BitVec.ofNat 32 (leAt bs 0x1C 4), sections := secs.map fun x => (x.type, x.die, x.payload) }

/-- The semantic checks of an image over its dies, with the index of the section concerned: 0x0308 on every die before
0x0309 on any (03 R75). -/
def checkAllDies (s : State) (img : ImageDef) (dies : List Nat) : Option (BitVec 16 × Nat) :=
  let first (code : BitVec 16) (check : ImageDef → Nat → Drc → Option Nat) : Option (BitVec 16 × Nat) :=
    dies.findSome? fun d => (check img d (s.die d).drc).map fun t => (code, sectionIdx img t d)
  match first 0x0308 badContent with
  | some e => some e
  | none => first 0x0309 badBudget

/-! ## What a structure sets on a die -/

/-- Roles of the 17 Face cores: in ascending number first the vendor and then the customer cores, the rest spares
(14 R302; log 17); a spare that has taken a retired core's role keeps it (16 R366). -/
def faceRoles (v c : Nat) (took : List (Nat × Nat)) : List (BitVec 2) :=
  took.foldl (fun (r : List (BitVec 2)) e => (r.set e.2 (r.getD e.1 2)).set e.1 2)
    ((List.range 17).map fun (i : Nat) => if i < v then 0 else if i < v + c then 1 else 2)

/-- A Face core as a structure load leaves it: both memories 0 (14 R308), a vendor core running, a customer
or spare core stopped (14 R329). -/
def loadFace (role : BitVec 2) (retired : Bool) : FaceCore :=
  { role := role, state := if retired then .retired else if role = 0 then .running else .stopped }

/-- The subports that exist in the two ports' modes, Table 5.1 (05 R105). -/
def presentMask (m0 m1 : BitVec 2) : BitVec 8 :=
  let one (m : BitVec 2) : BitVec 8 := if m = 0 then 1 else if m = 1 then 3 else 15
  one m0 ||| (one m1 <<< 4)

/-- The delay table that a DELAY_TABLE section gives; absent entries load as 0 (03 R56). -/
def sectionDelays (img : ImageDef) (d : Nat) : Tab DlyEntry :=
  (List.range 21).foldl (fun t k => tset {} t k
    { txFix := BitVec.ofNat 32 (secField img 11 d (3 * k)), rxFix := BitVec.ofNat 32 (secField img 11 d (3 * k + 1)),
      cable := BitVec.ofNat 40 (secField img 11 d (3 * k + 2)) }) []

/-- A table of numbers given by a section. -/
def sectionTab {w : Nat} (n : Nat) (f : Nat → Nat) : Tab (BitVec w) :=
  (List.range n).foldl (fun t i => tset 0 t i (BitVec.ofNat w (f i))) []

/-- The units of a die's Canary cluster numbers that are retired Face cores (16 R367). -/
def retiredFaces (c : Capacity) : List Nat := c.units.filter (· < 17)

/-- The sections of a structure applied to a die whose engines are quiet: the registers "from image", the
tables' run-time state emptied, both Face memories zeroed, the DRAM partitions re-initialised (03 R79, R71,
14 R308). The time base, the ports' links and the error log run on. -/
def applySections (img : ImageDef) (d : Nat) (x : Die) : Die :=
  let part := secField img 5 d
  let face := secField img 3 d
  let v := face 0
  let m0 : BitVec 2 := BitVec.ofNat 2 (secField img 8 d 0)
  let m1 : BitVec 2 := BitVec.ofNat 2 (secField img 8 d 1)
  let roles := faceRoles v (face 1) x.cap.took
  let dly := sectionDelays img d
  { x with
    tim := { x.tim with dly := dly, dlyNext := dly }
    str := { x.str with
      id := img.imageId, ver := put img.version 0 ||| put img.svn 32, state := .loaded,
      hoistTrace := hoistMode img d == 1, bwAlloc := sectionTab 8 (bwEntry img d), bwUse := [], bwOver := [],
      bwMoved := [], bwAdmitted := [], codecRole := sectionTab 8 (secField img 2 d),
      faceVendor := v, faceCustomer := face 1, homeConfs := secField img 1 d 0,
      spread := BitVec.ofNat 32 (secField img 7 d 0),
      sections := (img.sections.filter fun e => e.2.1 == d || (d == 0 && e.2.1 == 255)).map fun e => (e.1, e.2.2),
      faceDmaBase := part 4, faceDmaLen := part 5, jbPool := part 2, pktPool := part 3 }
    legs := [], confs := [], lblk := { x.lblk with cache := [] }
    ing := { x.ing with mode0 := m0, mode1 := m1, adit := BitVec.ofNat 8 (secField img 8 d 2), present := presentMask m0 m1,
                        eth := (List.range 8).foldl (fun t i => tmod {} t i fun e =>
                          { e with fec := BitVec.ofNat 2 (secField img 8 d (3 + i)) }) x.ing.eth,
                        jbUsed := 0, pktUsed := 0, jbEpisode := false, pktEpisode := false, inFlight := [] }
    mix := { x.mix with faceCap := BitVec.ofNat 32 (135000 * v), faceUse := 0 }
    tdm := { x.tdm with clkPort := sectionTab 8 (secField img 9 d), ring := sectionTab 8 (fun g => part (12 + g) / 64 * 64),
                        pins := sectionTab 8 (fun p => secField img 9 d (8 + p)),
                        inRing := [], outRing := [], playing := [], inDesc := [], outDesc := [] }
    vdc := { x.vdc with poolBase := BitVec.ofNat 48 (part 0 / 8192 * 8192), poolSlots := BitVec.ofNat 24 (part 1),
                        poolLow := BitVec.ofNat 24 (part 1), runs := [], kept := [], pixUse := 0, ctx := [] }
    gal := { x.gal with layouts := [], flips := [], tiles := [], pix0 := 0, pix1 := 0, seaPics := 0, seaSlices := 0 }
    ven := { x.ven with ctx := [], encUse := 0, anaUse := 0 }
    egr := { x.egr with sub := [], hostWait := [] }
    hst := { x.hst with traceBase := BitVec.ofNat 48 (part 6 / 32 * 32), traceSize := BitVec.ofNat 24 (part 7), traceNext := 0,
                        traceWraps := 0, traceBuf := [], ready := [], stalls := [], waits := [], held := [],
                        flows := [] }
    face := (List.range 17).foldl (fun t i => tset {} t i
      (loadFace (roles.getD i 2) ((retiredFaces x.cap).contains i))) []
    drc := { x.drc with hash := sectionTab 8 (fun o => part (20 + o)) }
    dram := x.dram.filter fun e => decide (0x100000 * part 8 ≤ e.1) && decide (e.1 < 0x100000 * (part 8 + part 9))
    capr := { x.capr with guarLegs := BitVec.ofNat 11 (secField img 1 d 1), guarConfs := BitVec.ofNat 8 (secField img 1 d 2),
                          changed := true, stageBase := BitVec.ofNat 17 (part 8), stageMib := BitVec.ofNat 10 (part 9) } }

/-- The ranges of the table aperture that a structure load zeroes: a die's legs, conferences, layouts and
subscriptions, with the layouts (03 R79, 10 R217). -/
def wipeTables (d : Nat) (m : Mem) : Mem :=
  wipe (wipe (wipe (wipe m (0x80000 * d) 0x80000) (0x400000 + 0x8000 * d) 0x8000) (0xC00000 + 0x80000 * d) 0x80000)
    (subAt d 0) 0x200000

/-- A structure loaded on die `d`. -/
def loadDie (img : ImageDef) (d : Nat) (s : State) : State :=
  let s := s.modDie d (applySections img d)
  { s with tables := wipeTables d s.tables }

/-- The servo's and the PTP stack's registers "from image", which a boot image sets; a restructure of die 0 leaves them
running (02 Table 2.13, R34, 03 R73). -/
def loadServo (img : ImageDef) (s : State) : State :=
  { s with servo := { s.servo with
      srcPrio := BitVec.ofNat 24 (secField img 7 0 1),
      ptpCfg := (s.servo.ptpCfg &&& 0xFFFFFFFFFF0000C8) ||| (BitVec.ofNat 64 (secField img 7 0 2) &&& 0x0000000000FFFF37) } }

/-- The device section of a boot image: the pair's parameters; absent, the bridge runs unpaired (03 R56). -/
def loadPair (img : ImageDef) (s : State) : State :=
  { s with pair := { s.pair with
      cfg := (secOf img 12 255).isSome
      aliveWired := secField img 12 255 0 != 0
      shadowUs := clampN 50 500 (if secField img 12 255 1 = 0 then 200 else secField img 12 255 1)
      transmit := (secOf img 12 255).isNone } }

/-- A rejection is logged with its code and the section index, and LAST_ERR shows it (03 R63, R76). -/
def rejectImage (d : Nat) (code : BitVec 16) (idx : Nat) (s : State) : State :=
  raise d code (BitVec.ofNat 64 idx) <|
    s.modDie d fun x => { x with str := { x.str with lastErr := code } }

/-- The trigger that the lead Duken core arms for MP counting and structure activation (03 R62; log 18). -/
def leadTrigger : Nat := 15

/-- Arms the lead trigger of a die for a target at an MP boundary. -/
def armLead (d : Nat) (target : BitVec 3) (mp : Nat) (s : State) : State :=
  let t : Trigger := { time := mpStamp mp, armed := some (mpStamp mp), target := target }
  s.modDie d fun x => { x with tim := { x.tim with trig := tset {} x.tim.trig leadTrigger t } }

/-- Once time is set and every die is LOADED, target 2 is armed on every die for one boundary at least 2 MP
ahead (03 R62 step 8). -/
def armMpStart (s : State) : State :=
  if s.servo.timeSet && s.dieList.all (fun d => (s.die d).str.state == .loaded) then
    forAll s.dieList (fun d s => armLead d 2 (s.mpNo 0 + 2) s) { s with bootStep := 8 }
  else s

end Sys2Proof.Machine
end

