-- ==== Sys2Proof/Machine/Reset.lean ====
section
/-! DEFINITION. The reset kinds of Table 17.2, what each keeps (Table 17.3), and what it does to a multi-step
operation in progress (Table 17.4). -/

namespace Sys2Proof.Machine

/-! ## Package resets -/

/-- The error log as a reset that keeps it leaves it (17 R386): its records and the registers that describe
it; the other ERR registers return to their reset values. -/
def keepLog (e : Err) : Err :=
  { ring := e.ring, seen := e.seen, nextOrder := e.nextOrder, tail := e.tail, head := e.head, lost := e.lost,
    lostSeen := e.lostSeen }

/-- RWS fields of the power block kept, KIND and COUNT noted (17 R377, R386). -/
def keepPwr (kind : BitVec 3) (p : Pwr) : Pwr :=
  { braceCnt := p.braceCnt, lastNs := p.lastNs, causeKind := kind, causeCount := p.causeCount + 1 }

/-- What the retention area of the boot flash gives a die at boot (16 R366, 01 R14): capacity, wear, and
the Ubhan ports' spare lanes and routing; and the last SAVE_SEQ issued, so that no save record is accepted twice (log 30). -/
def keepFlash (fuses : Fuses) (d : Nat) (x : Die) : Die :=
  { cap := x.cap
    can := { replanDue := x.can.replanning || x.can.replanDue, hours := x.can.hours, repairUsed := x.can.repairUsed, repairFree := x.can.repairFree,
             clusters := x.can.clusters.map fun e => (e.1, { e.2 with slack := 0, target := e.2.bin }) }
    cip := { saveCtr := x.cip.saveCtr }
    ubh := x.ubh.map fun e => (e.1, { spares := e.2.spares, routed := e.2.routed })
    ing := { eth := (List.range 8).foldl (fun t i => tset {} t i
               { mac := tget 0 fuses.macs (8 * d + i) }) [] }
    capr := { short := false }
    pwr := { causeCount := 0 }
    counting := false }

/-- Die `d` after a package reset of a kind; POR and PIN also lose the error log and the RWS fields. -/
def resetDie (kind : BitVec 3) (fuses : Fuses) (d : Nat) (x : Die) : Die :=
  let y := keepFlash fuses d x
  if kind = 0 || kind = 1 then { y with pwr := { y.pwr with causeKind := kind } }
  else { y with err := keepLog x.err, pwr := keepPwr kind x.pwr }

/-- Field update across a package reset: an apply stops as PARTIAL; an armed activation is no longer armed;
RESULT is kept but at POR and PIN (18 R394, R402, 17 Table 17.4). -/
def resetUpd (kind : BitVec 3) (u : Upd) : Upd :=
  { state := match u.state with
      | .applying => .partly
      | .armed => .applied
      | st => st
    result := if kind = 0 || kind = 1 then 0 else u.result
    nextBlock := u.nextBlock, total := u.total, applyId := u.applyId }

/-- The rank of a package reset in the order of R418. -/
def packageRank (kind : BitVec 3) : Nat :=
  if kind = 0 then 0 else if kind = 1 then 1 else if kind = 3 then 2 else 3

/-- A package reset of a kind (17 R378): what Table 17.3 says it keeps stays, everything else returns to its
reset value, device time restarts at 0, and every die writes error 0x1104 with the kind. It is absorbed by
one of higher or equal order in progress (20 R418). -/
def packageReset (kind : BitVec 3) (s : State) : State :=
  if (match s.inReset with | some r => decide (r ≤ packageRank kind) | none => false) then s
  else
    let t : State :=
      { pending := s.pending, fuses := s.fuses, flash := s.flash,
        dies := s.dies.mapIdx (resetDie kind s.fuses),
        pair := { strap := s.pair.strap, lastT := if kind = 0 || kind = 1 then 0 else s.pair.lastT, alive := s.pair.alive },
        upd := resetUpd kind s.upd, inReset := some (packageRank kind), linkUp := s.linkUp,
        readData := s.readData, out := s.out, free := s.free }
    forAll t.dieList (fun d => raise d 0x1104 (kind.setWidth 64)) t

/-! ## Ending commands and moves -/

/-- Removes a move and ends its command with a status: to the posting function, or with KIND 3 and TAG 0
where the bridge started it (04 R94, R98). -/
def endMove (m : Migration) (status : BitVec 8) (version : BitVec 16) (cookie : BitVec 64) (s : State) : State :=
  let s := { s with moves := s.moves.erase m }
  let c : Completion := { id := m.src, kind := if m.byBridge then 3 else 2, status := status, version := version,
                          tag := if m.byBridge then 0 else m.tag, mp := mpField s,
                          resultId := m.dst, oldId := m.src, cookie := cookie }
  if m.byBridge then postCompletion 0 c s else finishCmd m.func c s

/-- Locks or unlocks the two entries of a move (04 R98). -/
def lockMove (m : Migration) (b : Bool) (s : State) : State :=
  if m.isConf then (s.modConf m.src fun x => { x with locked := b }).modConf m.dst fun x => { x with locked := b }
  else (s.modLeg m.src fun x => { x with locked := b }).modLeg m.dst fun x => { x with locked := b }

/-- Home dies of the two entries of a move. -/
def moveDies (m : Migration) : List Nat :=
  if m.isConf then [confDie m.src, confDie m.dst] else [legDie m.src, legDie m.dst]

/-- Moves to or from a die end with RESET; the source stays where it is (17 Table 17.4). -/
def resetMoves (d : Nat) (s : State) : State :=
  forAll (s.moves.filter fun m => (moveDies m).contains d) (fun m s => endMove m 0x14 0 0 (lockMove m false s)) s

/-! ## Die resets -/

/-- A sent SSRC's index, and the SRTCP index, after a restart from their stored values (17 R379). -/
def resumeCrypto (c : Crypto) : Crypto :=
  { c with tx := c.tx.map (fun t => { t with index := t.stored + 256 }), srtcpIndex := c.srtcpStored + 256 }

/-- A leg's state in DRAM after a die reset: it resumes from its live half, its jitter buffer re-anchors,
codec and dynamics state start fresh (17 R379). -/
def resumeLeg (l : Leg) : Leg :=
  { l with jb := {}, aud := { set := l.aud.set }, cry := resumeCrypto l.cry, vframes := [],
           tx := { l.tx with queue := [], held := [], frameAcc := [], ownEnc := false, encSt := 0 } }

/-- A conference's state after a die reset: limiter and buses start fresh (17 R379). -/
def resumeConf (c : Conf) : Conf :=
  { c with lim := [], encs := [], held := none, next := none, fades := [], outFades := [], talkers := [], departing := [] }

/-- The structure that a die ran, as an image, to start it again. -/
def runningImage (d : Nat) (x : Die) : ImageDef :=
  { imageId := x.str.id, version := x.str.ver.setWidth 32, svn := (x.str.ver >>> 32).setWidth 32,
    sections := x.str.sections.map fun e => (e.1, if e.1 = 12 then 255 else d, e.2) }

/-- Die `d` (not die 0) after a die reset: registers at their reset values, RWS fields and the error log
kept, the structure it ran set again, and, unless the supply failed, the state in DRAM and the key slots
kept (17 R378, R379). -/
def dieResetDie (supply : Bool) (fuses : Fuses) (d : Nat) (x : Die) : Die :=
  let y := keepFlash fuses d x
  let y := { y with can := { y.can with replanning := x.can.replanning, replanAt := x.can.replanAt, replanDue := x.can.replanDue } }
  let img := runningImage d x
  let y := if x.str.state = .none then y else applySections img d y
  let y := { y with
    err := keepLog x.err, pwr := { keepPwr (if supply then 3 else 4) x.pwr with rejoining := true, rejoinSupply := supply },
    tim := { y.tim with time := x.tim.time },
    str := { y.str with state := .none, bank := x.str.bank, bwAdmitted := if supply then [] else x.str.bwAdmitted } }
  let y := trainLinks y
  if supply then { y with dram := [] }
  else { y with
    dram := x.dram, legs := x.legs.map fun e => (e.1, resumeLeg e.2), confs := x.confs.map fun e => (e.1, resumeConf e.2),
    cip := { y.cip with slots := x.cip.slots }, drc := { y.drc with poison := x.drc.poison },
    vdc := { x.vdc with event := 0, cnt := [], kfGap := y.vdc.kfGap },
    ven := { x.ven with event := 0, cnt := [], intraGap := y.ven.intraGap, dryGuard := y.ven.dryGuard, capX := y.ven.capX },
    gal := { x.gal with
      event := 0, seaEvent := 0, cnt := [], seaCnt := [], fence := [], coef := [], coefAt := [], coefUse := [],
      seaGap := y.gal.seaGap, seaWait := y.gal.seaWait } }

/-- The entries lost in a SUPPLY reset of a die: one completion of KIND 4 for each open leg and conference,
and error 0x1107 with their number (17 R379). -/
def lossReports (d : Nat) (s : State) : State :=
  let ids := s.openLegs d ++ s.openConfs d
  let s := forAll ids (fun i s => postCompletion 0 { id := i, kind := 4, status := 0x14, mp := mpField s } s) s
  raise d 0x1107 (BitVec.ofNat 64 ids.length) s

/-- A restructure of a die that is reset: before step 7 it is aborted with RESULT 7; from step 7 its 200 MP
count again from the restart (17 Table 17.4). -/
def resetRestruct (d : Nat) (s : State) : State :=
  let r := s.restr
  if r.busy && r.die.toNat = d then
    if r.step < 7 then
      { s with restr := { r with busy := false, result := 7, step := 0, image := none } }.modDie d fun x =>
        { x with str := { x.str with draining := false } }
    else { s with restr := { r with act := BitVec.ofNat 64 (s.mpNo 0) } }
  else s

/-- The copies of the bus limiters, and the shared encoders, that die `d` ran for conferences of other dies start fresh. -/
def resetCopies (d : Nat) (s : State) : State :=
  s.mapDies fun _ x => { x with confs := x.confs.map fun e => (e.1, { e.2 with
    lim := tset {} e.2.lim d {}, encs := e.2.encs.filter fun k => k.1.1 != d,
    held := e.2.held.map fun h => { h with gains := tset [] h.gains d [] } }) }

/-- A die reset of die `d`, 1 to n − 1 (17 R378 to R380); absorbed during a package reset, or during a
SUPPLY reset of the die (20 R418). -/
def dieReset (supply : Bool) (d : Nat) (s : State) : State :=
  let p := (s.die d).pwr
  if s.inReset.isSome || !s.hasDie d || d = 0 || (p.rejoining && (p.rejoinSupply || !supply)) then s
  else
    let s := resetRestruct d (resetMoves d s)
    let s := if supply then lossReports d s else s
    let s := resetCopies d (s.modDie d (dieResetDie supply s.fuses d))
    let s := if supply then { s with tables := wipeTables d s.tables } else s
    let s := if s.pair.cfg then s.modDie d fun x => { x with legs := x.legs.map fun e => (e.1, { e.2 with diverged := true }) } else s
    raise d 0x1104 (if supply then 3 else 4) s

/-! ## Function-level reset -/

/-- An FLR of function `f`: its unfetched commands and its doorbells not yet adopted go, without
completions; its queues return to reset; commands already started run on (17 R380). -/
def flrOne (f : Nat) (s : State) : State :=
  let keepDb (db : Option Doorbell) : Option Doorbell := db.filter fun x => x.func != f
  let s := { s with queues := tset {} s.queues f { running := (s.fq f).running }
                    badBells := s.badBells.filter fun e => e.2.2.func != f }
  s.mapDies fun _ x => { x with
    legs := x.legs.map fun e => (e.1, { e.2 with db := keepDb e.2.db, busyDbs := e.2.busyDbs.filter fun b => b.func != f }),
    confs := x.confs.map fun e => (e.1, { e.2 with db := keepDb e.2.db, busyDbs := e.2.busyDbs.filter fun b => b.func != f }) }

/-! ## Commands -/

/-- POR: power applied to VDD_IO (17 R377). PAIR_ROLE as sampled at the release of RESET_N is not an operand
of the row: its level is a free value (20 R417; log 7). -/
def execPor (s : State) : Host.Outcome State Fault Refusal :=
  let (v, s) := draw s
  .next (packageReset 0 { s with pair := { s.pair with strap := v.getLsbD 0 } })

/-- PIN_RESET: a low pulse on RESET_N: ignored below 100 ns, a reset from 10 µs on, and between these it may
or may not cause one, as a free value decides (20 R416). PAIR_ROLE is sampled at its end (20 R417). -/
def execPinReset (lowNs : Nat) (role : Bool) (s : State) : Host.Outcome State Fault Refusal :=
  let pin (s : State) : State :=
    let s := packageReset 1 s
    { s with pair := { s.pair with strap := role } }
  if lowNs < 100 then .next s
  else if 10000 ≤ lowNs then .next (pin s)
  else
    let (v, s) := draw s
    .next (if v.getLsbD 0 then pin s else s)

/-- A write of DIE_RESET (17 R380): SOFT with its key, or DIE_GO with a die from 1 to n − 1; any other write
is discarded and logged. Only the PF reaches the register. -/
def writeDieReset (func : Nat) (v : Word) (s : State) : State :=
  if !isPf func then raiseAny 0 (hostReq func) 0x1301 s
  else if bit v 0 then
    if fldN v 16 16 = 0x5AFE then packageReset 2 s else raiseFree 0 (hostReq func) 0x328 s
  else if bit v 1 && decide (0 < fldN v 2 3) && s.hasDie (fldN v 2 3) then dieReset false (fldN v 2 3) s
  else raiseFree 0 (hostReq func) 0x328 s

/-- SOFT: a write of DIE_RESET with SOFT = 1 (17 R380). -/
def execSoft (func : Nat) (v : Word) (s : State) : Host.Outcome State Fault Refusal :=
  .next (writeDieReset func v s)

/-- DIE_GO: a write of DIE_RESET with DIE_GO = 1 (17 R380). -/
def execDieGo (func : Nat) (v : Word) (s : State) : Host.Outcome State Fault Refusal :=
  .next (writeDieReset func v s)

/-- LOCKSTEP_STOP: a lockstep stop or watchdog of a die's Duken core: a SOFT reset of the package for die 0
(01 R20), else a DIE reset of that die (17 R377). It also bars a trial's confirmation (18 R399). -/
def execLockstepStop (die : Nat) (s : State) : Host.Outcome State Fault Refusal :=
  let s := { s with upd := { s.upd with lockstepStop := true } }
  .next (if die = 0 then packageReset 2 s else dieReset false die s)

/-- SUPPLY_RESET: a rail at or below its reset level, or a junction at 115 °C (17 R372): of the package for a
package rail or die 0, else of the die. During brace the record of its end is written first (17 R373). -/
def execSupplyReset (die : Nat) (rail : Option Nat) (s : State) : Host.Outcome State Fault Refusal :=
  let p := (s.die die).pwr
  let ns := (stampDiff s.clk p.braceAt).toNat / unitsNs
  let s := if p.brace then raise die 0x1101
      (1 <<< 63 ||| (BitVec.ofNat 64 ns &&& 0xFFFFFFFFFF) ||| putB p.braceRail 40)
      (s.modDie die fun x => { x with pwr := { x.pwr with brace := false, lastNs := BitVec.ofNat 32 (min ns (2 ^ 32 - 1)) } }) else s
  .next (if die = 0 || rail = some 5 then packageReset 3 s else dieReset true die s)

/-- FLR of a function (17 R380); absorbed during a package reset (20 R418). -/
def execFlr (func : Nat) (s : State) : Host.Outcome State Fault Refusal :=
  .next (if s.inReset.isSome then s else flrOne func s)

/-- PERST_N: its assertion takes the PCIe link down, which acts as FLR of every function (20 R419). -/
def execPerstN (s : State) : Host.Outcome State Fault Refusal :=
  let s := { s with linkUp := false }
  .next (if s.inReset.isSome then s else forAll (List.range 64) flrOne s)

/-- PERST_N_RELEASE: the link trains within 20 ms (20 R419). -/
def execPerstNRelease (s : State) : Host.Outcome State Fault Refusal :=
  .next { s with linkUp := true }

end Sys2Proof.Machine
end

