-- ==== Sys2Proof/Machine/Boot.lean ====
section
/-! DEFINITION. The boot flash, the bank pointer, the boot load of the structure image, DRAM training, and the
activation and restructure of a die (chapters 03 and 18). -/

namespace Sys2Proof.Machine

/-! ## Boot flash (18 R388) -/

/-- Bytes of a bank from an offset; an erased byte reads 0xFF (log 9). -/
def rdFlash (s : State) (b a : Nat) : (n : Nat) → List Byte
  | 0 => []
  | n + 1 => tget 0xFF (tget {} s.flash b).mem a :: rdFlash s b (a + 1) n

/-- Little-endian number in a bank. -/
def leFlash (s : State) (b a n : Nat) : Nat := leNat (rdFlash s b a n)

/-- Bytes programmed into an erased range. -/
def progMem (m : Tab Byte) (a : Nat) : List Byte → Tab Byte
  | [] => m
  | b :: bs => progMem (tset 0xFF m a b) (a + 1) bs

/-- Changes the contents of a bank. -/
def modFlash (b : Nat) (f : Tab Byte → Tab Byte) (s : State) : State :=
  { s with flash := tmod {} s.flash b fun x => { x with mem := f x.mem } }

/-- Erases a range of a bank and programs bytes at its start. -/
def eraseProg (b a len : Nat) (bs : List Byte) (s : State) : State :=
  modFlash b (fun m => progMem (wipe m a len) a bs) s

/-! ## The bank pointer (18 R389) -/

/-- A bank-pointer record: its sequence, bank, flags and window. -/
structure BankPtr where
  seq : Nat := 0
  bank : Nat := 0
  trial : Bool := false
  tried : Bool := false
  window : Nat := 0
  deriving DecidableEq, Repr

/-- The copy of the record in a bank's pointer sector, where MAGIC and CRC are correct. -/
def ptrCopy (s : State) (b : Nat) : Option BankPtr :=
  let bs := rdFlash s b 0 32
  if sliceOf bs 0 4 == [0x54, 0x42, 0x50, 0x52] && leAt bs 0x18 4 == (crc32c (sliceOf bs 0 0x18)).toNat then
    let fl := leAt bs 8 1
    some { seq := leAt bs 4 4, bank := fl % 2, trial := fl.testBit 1, tried := fl.testBit 2, window := leAt bs 0x0C 4 }
  else none

/-- The record that names the bank to boot: the valid copy with the higher SEQ, else bank 0. -/
def bankPtr (s : State) : BankPtr :=
  match ptrCopy s 0, ptrCopy s 1 with
  | some a, some b => if a.seq < b.seq then b else a
  | some a, none => a
  | none, some b => b
  | none, none => {}

/-- The bank that runs; with no structure, the bank that the pointer names. -/
def runBank (s : State) : Nat :=
  if (s.die 0).str.state = .none then (bankPtr s).bank else if (s.die 0).str.bank then 1 else 0

/-- The bytes of a record. -/
def ptrBytes (p : BankPtr) : List Byte :=
  let body := [0x54, 0x42, 0x50, 0x52] ++ leBytes p.seq 4 ++
    leBytes (p.bank + (if p.trial then 2 else 0) + (if p.tried then 4 else 0)) 4 ++ leBytes p.window 4 ++ leBytes 0 8
  body ++ leBytes (crc32c body).toNat 4 ++ leBytes 0 4

/-- Writes a record with the next SEQ to copy 0 and then to copy 1. -/
def writePtr (p : BankPtr) (s : State) : State :=
  let bs := ptrBytes { p with seq := ((bankPtr s).seq + 1) % 2 ^ 32 }
  eraseProg 1 0 0x10000 bs (eraseProg 0 0 0x10000 bs s)

/-! ## The manifest (18 R390, R391) -/

/-- Offset of a bank's manifest, and of its entry `i`. -/
def manAt : Nat := 0x80000
def manEntryAt (i : Nat) : Nat := manAt + 0x20 + 96 * i

/-- MAN_SEQ of a bank, 0 if it holds no manifest. -/
def manSeq (s : State) (b : Nat) : Nat :=
  if rdFlash s b manAt 4 == [0x54, 0x4D, 0x41, 0x4E] then leFlash s b (manAt + 0x10) 4 else 0

/-- Flags and confirmation window of a bank's manifest. -/
def manFlag (s : State) (b i : Nat) : Bool := (leFlash s b (manAt + 6) 2).testBit i
def manWindow (s : State) (b : Nat) : Nat := leFlash s b (manAt + 0x18) 2
def manSvn (s : State) (b : Nat) : Nat := leFlash s b (manAt + 0x14) 4

/-- The stored bytes of part `i`. -/
def partBytes (s : State) (b i : Nat) : List Byte :=
  rdFlash s b (leFlash s b (manEntryAt i + 8) 4) (leFlash s b (manEntryAt i + 12) 4)

/-- Whether a part is sealed as R391 says: a structure image has ENC = 1; any other part's tag matches under its persistent key,
and TYPE 2, 3 and 5 carry a good vendor signature inside. DEDUCED (log 150): an image without ENC has no tag, and fails here. -/
def partTagOk (s : State) (b i : Nat) : Bool :=
  let h : BitVec 16 := BitVec.ofNat 16 (leFlash s b (manEntryAt i + 0x10) 2)
  let slot := tget {} (s.die 0).cip.slots (keySlot h)
  let type := leFlash s b (manEntryAt i) 1
  if type = 1 then (leAt (partBytes s b i) 6 2).testBit 0
  else slot.persist && (match Config.gcmOpen slot.value (rdFlash s b (manEntryAt i + 0x14) 12) [] (partBytes s b i)
      (rdFlash s b (manEntryAt i + 0x20) 16) with
    | none => false
    | some plain => type = 4 || Config.innerSigned plain)

/-- The first failed check of a bank's manifest and parts, as the TYPE of the part concerned, 0 for the
manifest itself (18 R398). -/
def checkManifest (s : State) (b : Nat) : Option Nat :=
  let n := leFlash s b (manAt + 0x0C) 1
  let types := (List.range n).map fun i => leFlash s b (manEntryAt i) 1
  if rdFlash s b manAt 4 != [0x54, 0x4D, 0x41, 0x4E] || leFlash s b (manAt + 4) 2 != 1 ||
     leFlash s b (manAt + 8) 2 != deviceId s.fuses.variant ||
     !(leFlash s b (manAt + 0x0A) 2).testBit (steppingBit s.fuses.stepping) || decide (n < 2) || decide (5 < n) ||
     !(types.contains 1 && types.contains 2 && decide types.Nodup) then some 0
  else if !signedBy s (leFlash s b (manAt + 0x0D) 1) (rdFlash s b manAt 0x200) (rdFlash s b (manAt + 0x200) 96) then some 0
  else if manSvn s b < s.fuses.minSvn.toNat then some 0
  else match (List.range n).find? fun i =>
      Config.sha384 (partBytes s b i) != BitVec.ofNat 384 (beNat (rdFlash s b (manEntryAt i + 0x30) 48)) with
    | some i => some (types.getD i 0)
    | none => ((List.range n).find? fun i => !partTagOk s b i).map fun i => types.getD i 0

/-- The structure image of a bank: the bytes of its part of TYPE 1. -/
def imageBytes (s : State) (b : Nat) : List Byte :=
  match (List.range 5).find? fun i => leFlash s b (manEntryAt i) 1 == 1 with
  | some i => partBytes s b i
  | none => []

/-! ## Boot load (03 R62 to R64) -/

/-- The image of a bank, or the error and detail of the first failed check of manifest, parts and image. -/
def checkBank (s : State) (b : Nat) : Except (BitVec 16 × Nat) ImageDef :=
  match checkManifest s b with
  | some t => .error (0x1204, t)
  | none => checkImage s none (imageBytes s b)

/-- A boot image rejected: logged on die 0, LAST_ERR of every die shows an image check's code (03 R63, R76). -/
def rejectBoot (e : BitVec 16 × Nat) (s : State) : State :=
  raise 0 e.1 (BitVec.ofNat 64 e.2) <|
    if e.1 = 0x1204 then s else s.mapDies fun _ x => { x with str := { x.str with lastErr := e.1 } }

/-- Fallback to the old bank (18 R399, R400): the pointer names it with TRIAL = 0, a SOFT reset, RESULT
FELL_BACK, error 0x1205, and an announcement on the Adit links. -/
def fallBack (s : State) : State :=
  let p := bankPtr s
  let seq := manSeq s p.bank
  let s := writePtr { bank := 1 - p.bank } s
  let s := packageReset 2 { s with upd := { s.upd with state := .applied, window := 0 } }
  let s := { s with upd := { s.upd with result := 4 } }
  emit (.peer 3 (BitVec.ofNat 64 seq)) (raiseAny 0 dukenCheck 0x1205 s)

/-! ## MP counting and structure activation -/

/-- Target 2 on a die: MP counting starts, the structure is RUNNING (03 R62 step 9, R71 step 8). No MP starts while TIME_SET
is 0 (02 R42). -/
def startMp (d : Nat) (s : State) : State :=
  if !s.servo.timeSet then s
  else s.modDie d fun x => if x.str.state = .none then x else
    { x with counting := true, str := { x.str with state := .running, runAt := if x.str.state = .running then x.str.runAt else s.now d } }

/-- Target 5 on a die whose engines are quiet: the new sections of its restructure are applied, and target 2 is armed for
A + 200 (03 R71 steps 7 and 8). -/
def activateStructure (d : Nat) (s : State) : State :=
  match s.restr.image with
  | some img =>
    if s.restr.busy && s.restr.die.toNat = d && s.restr.step = 6 then
      let s := loadDie img d s
      let s := s.modDie d fun x => { x with counting := false, str := { x.str with draining := true } }
      let s := { s with restr := { s.restr with step := 7, act := BitVec.ofNat 64 (s.mpNo 0) } }
      armLead d 2 (s.mpNo 0 + 200) s
    else s
  | none => s

/-! ## Restructuring one die (03 R70, R71) -/

/-- Closed and unowned legs of a die below its capacity, and the same of conferences (03 R71). -/
def freeLegs (s : State) (d : Nat) : Nat :=
  (s.die d).cap.legs.toNat - ((s.die d).legs.filter fun e => e.1 < (s.die d).cap.legs.toNat &&
    (e.2.alloc.isSome || s.legOpen (legId d e.1))).length
def freeConfs (s : State) (d : Nat) : Nat := (s.die d).cap.confs.toNat - (s.openConfs d).length

/-- A restructure ends with a result; the die takes new legs again (03 R72). -/
def endRestruct (result : BitVec 3) (s : State) : State :=
  let d := s.restr.die.toNat
  { s with restr := { s.restr with busy := false, result := result, step := 0, image := none } }.modDie d fun x =>
    { x with str := { x.str with draining := false } }

/-- RESTRUCTURE_GO: a write of DIE_RESTRUCT_CTRL with GO = 1. Refused with GO_BUSY, and nothing else changed, while one is in
progress or an update is ARMED; refused as EARLY where A lies less than 1,000 MP ahead; an accepted one clears GO_BUSY (03 R70,
R71). -/
def execRestructureGo (v : Word) (s : State) : Host.Outcome State Fault Refusal :=
  let t0 := s.mpNo 0
  let r := s.restr
  if r.busy || s.upd.state = .armed then .next { s with restr := { r with goBusy := true } }
  else if r.mp.toNat < t0 + 1000 then .next { s with restr := { r with dieReg := fld v 0 3, result := 6 } }
  else .next { s with restr := { r with
    dieReg := fld v 0 3, die := fld v 0 3, goBusy := false, t0 := BitVec.ofNat 64 t0, act := r.mp,
    busy := true, result := 0, step := 1, image := none } }

/-- RESTRUCTURE_CHECK_DONE: the staged image is checked as at boot, then against the running structure, then
for room for the die's legs and conferences on the others (03 R71 step 2). -/
def execRestructureCheckDone (s : State) : Host.Outcome State Fault Refusal :=
  let r := s.restr
  let d := r.die.toNat
  if !r.busy || r.step ≠ 1 then .next s
  else
    let len := leNat (rdBuffer s (r.addr.toNat + 0x20) 4)
    let bs := rdBuffer s r.addr.toNat (min len 0x1000000)
    let checked : Except (BitVec 16 × Nat) ImageDef :=
      match if s.hasDie d then checkImage s (some d) bs else .error (0x0303, 0) with
      | .error e => .error e
      | .ok img => match checkAllDies s img [d] with
        | some e => .error e
        | none => match restructDiffers s d img with
          | some t => .error (0x030A, sectionIdx img t d)
          | none => .ok img
    match checked with
    | .error e =>
      let s := s.modDie d fun x => { x with str := { x.str with lastErr := e.1 } }
      .next (endRestruct 2 (raise 0 e.1 (BitVec.ofNat 64 e.2) s))
    | .ok img =>
      let others := s.dieList.filter (· ≠ d)
      let room (f : State → Nat → Nat) : Nat := (others.map (f s)).foldl (· + ·) 0
      if room freeLegs < (s.openLegs d).length || room freeConfs < (s.openConfs d).length then .next (endRestruct 3 s)
      else .next { s with restr := { s.restr with step := 2, image := some img } }

/-- RESTRUCTURE_DRAIN_START: at t0 + 500, DRAINING is set on the die (03 R71 step 3). -/
def execRestructureDrainStart (s : State) : Host.Outcome State Fault Refusal :=
  let r := s.restr
  if !r.busy || r.step ≠ 2 then .next s
  else
    let s := s.advanceToStamp 0 (mpStamp (r.t0.toNat + 500))
    .next <| { s with restr := { r with step := 3 } }.modDie r.die.toNat fun x =>
      { x with str := { x.str with draining := true } }

/-- RESTRUCTURE_LATE_CHECK: at A − 2 the restructure is aborted LATE if the die still homes a leg or a
conference; otherwise its engines quiesce and target 5 is armed for A (03 R71 steps 5 and 6). -/
def execRestructureLateCheck (s : State) : Host.Outcome State Fault Refusal :=
  let r := s.restr
  let d := r.die.toNat
  if !r.busy || r.step ≠ 3 then .next s
  else
    let s := s.advanceToStamp 0 (mpStamp (r.act.toNat - 2))
    if !(s.openLegs d).isEmpty || !(s.openConfs d).isEmpty then .next (endRestruct 4 s)
    else .next (armLead d 5 r.act.toNat { s with restr := { r with step := 6 } })

end Sys2Proof.Machine
end

