-- ==== Sys2Proof/Machine/Layout.lean ====
section
/-! DEFINITION. Layout entries as Tables 10.1, 10.2, 10.4 and 10.5 lay them out, layout handles, and the end of
a flip group that does not commit (chapter 10). -/

namespace Sys2Proof.Machine

/-! ## Handles and halves (10 R217) -/

/-- Die and local index of a layout handle. -/
def layDie (h : BitVec 16) : Nat := (h.extractLsb' 10 3).toNat
def layIdx (h : BitVec 16) : Nat := (h.extractLsb' 0 6).toNat

/-- The handle of a layout. -/
def layHandle (d i : Nat) : BitVec 16 := BitVec.ofNat 16 (1024 * d + i)

/-- Whether a handle is valid: [12:10] the die, [5:0] the index, all other bits 0. -/
def layOk (s : State) (h : BitVec 16) : Bool := h &&& 0xE3C0 == 0 && s.hasDie (layDie h)

/-- The run-time state of a layout. -/
def State.lay (s : State) (h : BitVec 16) : Layout := tget {} (s.die (layDie h)).gal.layouts (layIdx h)

/-- Changes the run-time state of a layout. -/
def State.modLay (s : State) (h : BitVec 16) (f : Layout → Layout) : State :=
  s.modDie (layDie h) fun d => { d with gal := { d.gal with layouts := tmod {} d.gal.layouts (layIdx h) f } }

/-- BAR2 offset of half `h` of a layout entry. -/
def layHalfAt (l : BitVec 16) (h : Bool) : Nat :=
  0xC00000 + 0x80000 * layDie l + 0x2000 * layIdx l + if h then 0x1000 else 0

/-- A layer descriptor, Table 10.2. -/
structure GalLayer where
  en : Bool
  srcKind : Nat
  srcSize : Nat
  scaleMode : Bool
  alphaMode : Nat
  galpha : Nat
  ctx : BitVec 16
  colour : BitVec 30
  dstX : Int
  dstY : Int
  dstW : Nat
  dstH : Nat
  cropX : Nat
  cropY : Nat
  cropW : Nat
  cropH : Nat
  scale : Nat
  surfW : Nat
  surfH : Nat
  surf : Nat
  alpha : Nat
  reservedOk : Bool
  deriving DecidableEq, Repr

/-- The layer descriptor at an offset. -/
def rdLayer (m : Mem) (a : Nat) : GalLayer :=
  let w (o : Nat) : Word := rd64 m (a + o)
  { en := bit (w 0) 0, srcKind := fldN (w 0) 1 2, srcSize := fldN (w 0) 3 2, scaleMode := bit (w 0) 5,
    alphaMode := fldN (w 0) 6 2, galpha := fldN (w 0) 8 8, ctx := fld (w 0) 16 16, colour := fld (w 0) 32 30,
    dstX := (fld (w 8) 0 16).toInt, dstY := (fld (w 8) 16 16).toInt, dstW := fldN (w 8) 32 16, dstH := fldN (w 8) 48 16,
    cropX := fldN (w 0x10) 0 16, cropY := fldN (w 0x10) 16 16, cropW := fldN (w 0x10) 32 16, cropH := fldN (w 0x10) 48 16,
    scale := fldN (w 0x18) 0 16, surfW := fldN (w 0x18) 16 16, surfH := fldN (w 0x18) 32 16,
    surf := fldN (w 0x20) 0 48, alpha := fldN (w 0x28) 0 48,
    reservedOk := only (w 0) 0x3FFFFFFFFFFFFFFF && only (w 0x18) 0x0000FFFFFFFFFFFF && only (w 0x20) 0x0000FFFFFFFFFFFF &&
      only (w 0x28) 0x0000FFFFFFFFFFFF && zeroWords m (a + 0x30) 2 }

/-- A Seam slot, Table 10.5. -/
structure SlotDef where
  en : Bool
  rule : Nat
  skipSelf : Bool
  rank : Nat
  leg : BitVec 16
  col : Nat
  row : Nat
  nCols : Nat
  nRows : Nat
  reservedOk : Bool
  deriving DecidableEq, Repr

/-- The Seam slot at an offset; `nCols` and `nRows` count the tiles. -/
def rdSlot (m : Mem) (a : Nat) : SlotDef :=
  let w := rd64 m a
  { en := bit w 0, rule := fldN w 1 2, skipSelf := bit w 3, rank := fldN w 4 5, leg := fld w 16 16,
    col := fldN w 32 4, row := fldN w 36 4, nCols := fldN w 40 4 + 1, nRows := fldN w 44 4 + 1,
    reservedOk := only w 0x0000FFFFFFFF01FF && rd64 m (a + 8) == 0 }

/-- A layout half: the header of Table 10.1 or 10.4, its layers or slots. -/
structure LayHalf where
  version : BitVec 16
  enable : Bool
  fps : Nat
  width : Nat
  height : Nat
  bg : BitVec 30
  cols : Nat
  rows : Nat
  main10 : Bool
  colW : List Nat
  rowH : List Nat
  layers : List GalLayer
  slots : List SlotDef
  cookie : BitVec 64
  galOk : Bool
  seamOk : Bool
  deriving DecidableEq, Repr

/-- The layout half at an offset. `galOk` and `seamOk`: the bits that each kind leaves out are 0. -/
def rdLayHalf (m : Mem) (a : Nat) : LayHalf :=
  let w0 := rd64 m a
  let w1 := rd64 m (a + 8)
  { version := fld w0 0 16, enable := bit w0 16, fps := fldN w0 24 8, width := fldN w0 32 16, height := fldN w0 48 16,
    bg := fld w1 0 30, cols := fldN w1 0 4, rows := fldN w1 4 4, main10 := bit w1 8,
    colW := (rdBytes m (a + 0x10) 10).map (·.toNat), rowH := (rdBytes m (a + 0x20) 11).map (·.toNat),
    layers := (List.range 32).map fun k => rdLayer m (a + 0x100 + 64 * k),
    slots := (List.range 64).map fun i => rdSlot m (a + 0x100 + 16 * i),
    cookie := rd64 m (a + 0xF8),
    galOk := only w0 0xFFFFFFFFFF01FFFF && only w1 0x000000003FFFFFFF && zeroWords m (a + 0x10) 29,
    seamOk := only w0 0xFFFFFFFFFF01FFFF && only w1 0x1FF && only (rd64 m (a + 0x18)) 0xFFFF &&
      only (rd64 m (a + 0x28)) 0xFFFFFF && zeroWords m (a + 0x30) 25 }

/-- Half `h` of a layout, and its live half. -/
def State.layHalf (s : State) (l : BitVec 16) (h : Bool) : LayHalf := rdLayHalf s.tables (layHalfAt l h)
def State.layLive (s : State) (l : BitVec 16) : LayHalf := s.layHalf l (s.lay l).live

/-- Whether a layout is enabled. -/
def State.layOn (s : State) (l : BitVec 16) : Bool := layOk s l && (s.lay l).alloc.isSome && (s.layLive l).enable

/-- The layouts of a die that are allocated, as handles, and those that are enabled. -/
def State.layouts (s : State) (d : Nat) : List (BitVec 16) :=
  ((s.die d).gal.layouts.filter fun e => e.2.alloc.isSome).map fun e => layHandle d e.1
def State.layoutsOn (s : State) (d : Nat) : List (BitVec 16) := (s.layouts d).filter s.layOn

/-- Whether MP `m` begins a picture of a layout or encode of a frame rate, and which: picture n begins at
floor(n × 1,000 ÷ FPS) (10 R218). -/
def pictureAt (fps m : Nat) : Option Nat :=
  let n := (m * fps + 999) / 1000
  if fps ≠ 0 && 1000 * n / fps = m then some n else none

/-! ## Flip groups -/

/-- The first command argument of a group's FLIP (10 R228). -/
def flipArg (g : FlipGroup) : BitVec 16 :=
  BitVec.ofNat 16 (g.items.length - 1) ||| (BitVec.ofNat 16 g.fences.length <<< 3) ||| (if g.trigDl then 0x20 else 0)

/-- A group leaves the waiting ones and completes with a status; VERSION and COOKIE are those of its first
layout (04 R94; log 23). -/
def endFlip (d : Nat) (g : FlipGroup) (status : BitVec 8) (s : State) : State :=
  let s := s.modDie d fun x => { x with gal := { x.gal with flips := x.gal.flips.erase g } }
  let first := (g.items.getD 0 (0, 0)).1
  let s := forAll g.items (fun e s => s.modLay e.1 fun l =>
    { l with pending := g.clash && l.pending }) s
  finishCmd g.func { id := flipArg g, kind := 2, status := status, version := (s.layLive first).version, tag := g.tag,
                     mp := mpField s, cookie := if status = 0 then (s.layLive first).cookie else 0 } s

/-- A group not yet committed is cancelled: DEADLINE and error 0x0A06 (10 R230). -/
def cancelFlip (d : Nat) (g : FlipGroup) (s : State) : State :=
  raiseAny d (engineReq 3) 0x0A06 (galEv d 5 (galCnt d 5 (endFlip d g 0x12 s)))

/-- Trigger target 3: the waiting groups with TRIG_DL whose first layout is on a unit are cancelled. -/
def flipDeadline (d : Nat) (unit : Bool) (s : State) : State :=
  forAll ((s.die d).gal.flips.filter fun g => g.trigDl && (s.lay (g.items.getD 0 (0, 0)).1).unit == unit) (cancelFlip d) s

end Sys2Proof.Machine
end

