-- ==== Sys2Proof/Machine/Tdm.lean ====
section
/-! DEFINITION. TDM audio ports: configuration, common start, framing on device time, buffer layout,
IEC 61937 muting, underrun and overrun (chapter 08). -/

namespace Sys2Proof.Machine

/-! ## Fields of TDM_PORT_CFG (08 R194) -/

def cfgMaster (c : BitVec 36) : Bool := c.getLsbD 2
def cfgSlots (c : BitVec 36) : Nat := (c.extractLsb' 3 5).toNat + 1
def cfgStore (c : BitVec 36) : Nat := (c.extractLsb' 10 2).toNat + 2
def cfgIn (c : BitVec 36) : Nat := (c.extractLsb' 16 6).toNat
def cfgOut (c : BitVec 36) : Nat := (c.extractLsb' 24 6).toNat
def cfgIec (c : BitVec 36) : Bool := c.getLsbD 32
def cfgKeeper (c : BitVec 36) : Bool := c.getLsbD 33

/-- The settings that every port of a group must share (08 R181): FORMAT, MASTER, SLOTS, SLOT_W. -/
def cfgShared (c : BitVec 36) : BitVec 36 := c &&& 0x3FF

/-- Whether a configuration keeps R182: I²S and left-justified have 2 slots, the width codes are defined, and
the channel counts do not exceed the slots. -/
def cfgOk (c : BitVec 36) : Bool :=
  let format := (c.extractLsb' 0 2).toNat
  decide (format < 3) && (format == 1 || cfgSlots c == 2) && c.extractLsb' 8 2 != 3 && c.extractLsb' 10 2 != 3 &&
    decide (cfgIn c ≤ cfgSlots c) && decide (cfgOut c ≤ cfgSlots c)

/-! ## Ports and groups -/

/-- TDM port `p` of die `d`. -/
def State.tdmPort (s : State) (d p : Nat) : TdmPort := tget {} (s.die d).tdm.ports p

/-- Changes a TDM port. -/
def State.modPort (s : State) (d p : Nat) (f : TdmPort → TdmPort) : State :=
  s.modDie d fun x => { x with tdm := { x.tdm with ports := tmod {} x.tdm.ports p f } }

/-- The group of a port: the port whose BCLK and FSYNC it uses (TDM_GROUP, 08 R181). -/
def groupOf (s : State) (d p : Nat) : Nat := (tget 0 (s.die d).tdm.clkPort p).toNat

/-- The ports of a group, in ascending number. -/
def groupPorts (s : State) (d g : Nat) : List Nat := (List.range 8).filter fun p => groupOf s d p == g

/-- Instant of frame `f` of a port that started at MP `m` (02 R29), in 2^-16 ns. -/
def frameInstant (m f : Nat) : Nat := unitsMp * (m + f / 48) + unitsMp * (f % 48) / 48

/-- The frame of a port whose sample instant is nearest to an instant. -/
def nearestFrame (m t : Nat) : Nat := ((t - unitsMp * m) * 48 + unitsMp / 2) / unitsMp

/-- The place of a running port's frames after the grid of device time: a slave's measured offset (08 R184). -/
def portOfs (x : TdmPort) : Int := if cfgMaster x.cfg || x.edge.isNone then 0 else x.phase.toInt

/-- Whole frames since start on device time, by the port's offset (08 R186, R189). -/
def framesElapsed (s : State) (d p : Nat) : Nat :=
  let x := s.tdmPort d p
  ((((s.time d : Int) - portOfs x - unitsMp * x.startMp.toNat) * 48) / (unitsMp : Int)).toNat

/-- TDM_FRAME_CNT: it counts on device time until the port stops. -/
def frameCount (s : State) (d p : Nat) : Nat := if (s.tdmPort d p).state = .stopped then (s.tdmPort d p).frame else framesElapsed s d p

/-- Whether a port has one of its pins: 0 BCLK, 1 FSYNC, 2 SDI, 3 SDO (08 R181). -/
def hasPin (s : State) (d p i : Nat) : Bool := (tget 0 (s.die d).tdm.pins p).getLsbD i

/-- The level of SDO of a port that does not drive it (08 R193). -/
def idleSdo (c : BitVec 36) : Sdo := if cfgKeeper c then .keeper else .hiz

/-! ## Framing on the pins (08 R182, R183, Table 8.1) -/

/-- Bits of a slot on the line. -/
def cfgSlotBits (c : BitVec 36) : Nat := 8 * ((c.extractLsb' 8 2).toNat + 2)

/-- A slot as the line carries it: its top SLOT_W bits. -/
def lineSlot (c : BitVec 36) (v : BitVec 32) : BitVec 32 := v &&& BitVec.ofNat 32 (2 ^ 32 - 2 ^ (32 - cfgSlotBits c))

/-- BCLK periods from the FSYNC edge to the first data bit. -/
def dataDelay (c : BitVec 36) : Nat :=
  let format := (c.extractLsb' 0 2).toNat
  if format = 0 then 1 else if format = 1 then (if c.getLsbD 12 then 1 else 0) else 0

/-- FSYNC over the BCLK periods of a frame: half of the frame, low first for I²S and high first for left-justified; a pulse of
one BCLK, or of one slot with FS_LONG, for TDM. FS_POL inverts it. -/
def fsyncShape (c : BitVec 36) : List Bool :=
  let format := (c.extractLsb' 0 2).toNat
  let n := cfgSlots c * cfgSlotBits c
  let high (i : Nat) : Bool :=
    if format = 0 then decide (n / 2 ≤ i) else if format = 2 then decide (i < n / 2)
    else decide (i < if c.getLsbD 15 then cfgSlotBits c else 1)
  (List.range n).map fun i => high i != c.getLsbD 14

/-! ## Start and stop (08 R186, R189) -/

/-- A port starts at MP `m`: RUNNING with frame 0, or WAIT_CLK for a slave port that has seen no FSYNC edge in
the 3 frame periods before; a port not STOPPED ignores the trigger with error 0x0806. -/
def startPort (d m p : Nat) (s : State) : State :=
  let x := s.tdmPort d p
  if x.state ≠ .stopped then raiseAny d (engineReq 6) 0x0806 s
  else
    let clocked := cfgMaster x.cfg || match x.lastFsync with
      | some t => decide (stampDiff (mpStamp m) t ≤ (3 * unitsMp / 48 : Nat))
      | none => false
    s.modPort d p fun x => { x with
      state := if clocked then .running else .waitClk, startMp := BitVec.ofNat 64 m, frame := 0, edge := none, sentTo := 0, slipOut := 0,
      sdo := if clocked && s.pair.transmit then .driven else idleSdo x.cfg }

/-- Trigger target 1: the ports of a mask start at the boundary of MP `m`. -/
def tdmStart (d m : Nat) (mask : BitVec 8) (s : State) : State :=
  forAll ((List.range 8).filter fun p => mask.getLsbD p) (startPort d m) s

/-- At an MP boundary: the ports of a die that have a STOP stop (08 R189). -/
def tdmStops (d : Nat) (s : State) : State :=
  forAll ((List.range 8).filter fun p => (s.tdmPort d p).stopReq) (fun p s => s.modPort d p fun x =>
    { x with stopReq := false, state := .stopped, frame := frameCount s d p, sdo := idleSdo x.cfg, lastFsync := none, edge := none }) s

/-- TDM_STOP: the port stops at the next MP boundary. -/
def execTdmStop (die p : Nat) (s : State) : Host.Outcome State Fault Refusal :=
  if s.off die then .next s else
  .next (s.modPort die p fun x => if x.state = .stopped then x else { x with stopReq := true })

/-- TDM_PORT_CFG_WRITE: refused with error 0x0806 while the port is not STOPPED, and, with CFG_BAD, where it
breaks R182 or differs in a shared setting from a port of its group that is not STOPPED (08 R194; log 21). -/
def execTdmPortCfgWrite (die p : Nat) (v : Word) (s : State) : Host.Outcome State Fault Refusal :=
  if s.off die then .next s else
  let c : BitVec 36 := v.setWidth 36
  let x := s.tdmPort die p
  let others := (groupPorts s die (groupOf s die p)).filter fun q =>
    q != p && (s.tdmPort die q).state != .stopped
  if x.state ≠ .stopped then .next (tdmEv die 5 (raiseAny die (engineReq 6) 0x0806 s))
  else if !cfgOk (c &&& 0xF3F3FFFFF) || others.any (fun q => cfgShared (s.tdmPort die q).cfg != cfgShared c) then
    .next (tdmEv die 5 (raiseAny die (engineReq 6) 0x0806 (s.modPort die p fun x => { x with cfgBad := true })))
  else .next (s.modPort die p fun x => { x with cfg := c &&& 0xF3F3FFFFF, cfgBad := false, sdo := idleSdo c })

/-! ## Buffer layout (08 R187, R188) -/

/-- Bytes that a port takes in one frame of its group's input or output block. -/
def portBytes (out : Bool) (c : BitVec 36) : Nat := cfgStore c * if out then cfgOut c else cfgIn c

/-- Bytes of one frame of a group, and the offset of a port in it. -/
def frameBytes (s : State) (d g : Nat) (out : Bool) : Nat :=
  ((groupPorts s d g).map fun p => portBytes out (s.tdmPort d p).cfg).foldl (· + ·) 0
def portOffset (s : State) (d g p : Nat) (out : Bool) : Nat :=
  (((groupPorts s d g).filter (· < p)).map fun q => portBytes out (s.tdmPort d q).cfg).foldl (· + ·) 0

/-- Bytes of a block in whole lines. -/
def ringBytes (s : State) (d g : Nat) (out : Bool) : Nat := (48 * frameBytes s d g out + 63) / 64 * 64

/-- DRAM offset of block `m`: the input ring of 8 blocks lies at TDM_RING, the output ring behind it, each block at the next
line (log 77). -/
def ringAt (s : State) (d g : Nat) (out : Bool) (m : Nat) : Nat :=
  devOff (tget 0 (s.die d).tdm.ring g).toNat + (if out then 8 * ringBytes s d g false else 0) + m % 8 * ringBytes s d g out

/-- The word of `w` bytes that holds the top bits of a slot, lowest byte first. -/
def slotBytes (w : Nat) (slot : BitVec 32) : List Byte := leBytes (slot.toNat / 2 ^ (32 - 8 * w)) w

/-- The slot value of a stored word: its bits at the top, zero below. -/
def wordSlot (w : Nat) (bs : List Byte) : BitVec 32 := BitVec.ofNat 32 (leNat bs * 2 ^ (32 - 8 * w))

/-- The descriptor of a block of `size` bytes, Table 8.2: MP; LAST_VALID, FRAMES and INCOMPLETE; MUTE by port. -/
def blockDesc (b : TdmBlock) (size : Nat) (mute : Nat → BitVec 16) : List Word :=
  let four (p : Nat) : Word := put (mute p) 0 ||| put (mute (p + 1)) 16 ||| put (mute (p + 2)) 32 ||| put (mute (p + 3)) 48
  [b.mp, put (BitVec.ofNat 7 (if size % 64 = 0 then 64 else size % 64)) 0 ||| put (BitVec.ofNat 6 b.frames) 7 |||
    putB (b.incomplete || decide (b.frames < 48)) 13, four 0, four 4]

/-- The input block of an MP in its slot of a group's ring; an older block's slot begins anew, its lines all zero. -/
def openBlock (d g m : Nat) (s : State) : State :=
  let b := tget {} (s.die d).tdm.inRing (8 * g + m % 8)
  if b.mp = BitVec.ofNat 64 m && !(b == {}) then s
  else s.modDie d fun x => { x with
    dram := wrBytes x.dram (ringAt s d g false m) (List.replicate (ringBytes s d g false) 0)
    tdm := { x.tdm with inRing := tset {} x.tdm.inRing (8 * g + m % 8) { mp := BitVec.ofNat 64 m } } }

/-- Changes the input block of an MP, and its descriptor with it. -/
def modBlock (d g m : Nat) (f : TdmBlock → TdmBlock) (s : State) : State :=
  s.modDie d fun x =>
    let b := f (tget {} x.tdm.inRing (8 * g + m % 8))
    { x with tdm := { x.tdm with
      inRing := tset {} x.tdm.inRing (8 * g + m % 8) b
      inDesc := tset [] x.tdm.inDesc (8 * g + m % 8) (blockDesc b (48 * frameBytes s d g false) fun p => tget 0 b.mute p) } }

/-- DRAM offset of frame `k` of a port's input, counted from its start. -/
def inFrameAt (s : State) (d p k : Nat) : Nat :=
  let g := groupOf s d p
  ringAt s d g false ((s.tdmPort d p).startMp.toNat + k / 48) + k % 48 * frameBytes s d g false + portOffset s d g p false

/-- Stores bytes as frame `k` of a port's input. -/
def putFrame (d p k : Nat) (bs : List Byte) (s : State) : State :=
  let s := openBlock d (groupOf s d p) ((s.tdmPort d p).startMp.toNat + k / 48) s
  s.modDie d fun x => { x with dram := wrBytes x.dram (inFrameAt s d p k) bs }

/-! ## Frame sync of slave ports (08 R184 to R186) -/

/-- Half a sample in 2^-16 ns, and a frame period. -/
def halfSample : Int := unitsMp / 96
def framePeriod : Nat := unitsMp / 48

/-- Instant on device time of a stamp of die `d`. -/
def stampAt (s : State) (d : Nat) (raw : BitVec 64) : Int := (s.time d : Int) + stampDiff raw (s.now d)

/-- The offset of an instant from frame `k` of a port. -/
def frameOfs (x : TdmPort) (t : Int) (k : Nat) : Int := t - (frameInstant x.startMp.toNat k : Int)

/-- The first edge that a port uses: it measures its offset from the nearest frame, and goes on from there. -/
def measurePort (d p : Nat) (t : Int) (s : State) : State :=
  s.modPort d p fun x =>
    let k := nearestFrame x.startMp.toNat t.toNat
    { x with frame := k, edge := some k, phase := BitVec.ofInt 32 (frameOfs x t k) }

/-- A slip: of a slow clock's frames one is missing, so the port repeats its last one on input and drops one on output; of a
fast clock's one is too many, so it drops one on input and repeats one on output (log 143). -/
def slipPort (d p : Nat) (t : Int) (k : Nat) (slow : Bool) (s : State) : State :=
  let x := s.tdmPort d p
  let n := portBytes false x.cfg
  let s := if slow then putFrame d p (k - 1) (rdBytes (s.die d).dram (inFrameAt s d p (k - 2)) n) s else s
  let s := s.modPort d p fun x => { x with
    frame := k, edge := some k, phase := BitVec.ofInt 32 (frameOfs x t k), slips := x.slips + 1
    slipOut := x.slipOut + if slow then 1 else -1 }
  tdmEv d 3 (raiseAny d (engineReq 6) 0x0804 s)

/-- An edge of a port whose offset is measured: the frame it starts lies as many periods after the last edge's as the stamps
say. A drift of more than half a sample from the offset is a slip. -/
def trackPort (d p : Nat) (t : Int) (k0 : Nat) (periods : Nat) (s : State) : State :=
  let x := s.tdmPort d p
  let k := k0 + max 1 periods
  let drift := frameOfs x t k - x.phase.toInt
  if halfSample < drift then slipPort d p t (k + 1) true s
  else if drift < -halfSample then slipPort d p t (k - 1) false s
  else s.modPort d p fun x => { x with frame := k, edge := some k }

/-! ## Output (08 R189, R192, R193) -/

/-- Instant of the output fetch in an MP: 2 samples after its boundary. -/
def fetchInstant (m : Nat) : Nat := unitsMp * m + 2 * unitsMp / 48

/-- The slot values of frame `k` of a port's output, as the line carries them: the first 108 frames are zero, and frame 108 is
sample 0 of the block of the start MP (Table 8.3). -/
def outFrame (s : State) (d p k : Nat) : List (BitVec 32) :=
  let x := s.tdmPort d p
  let g := groupOf s d p
  let w := cfgStore x.cfg
  let m := x.startMp.toNat + (k - 108) / 48
  let block := [tget ({} : TdmBlock) (s.die d).tdm.playing g, tget {} (s.die d).tdm.playing (8 + g)].find? fun b =>
    108 ≤ k && b.complete && b.mp == BitVec.ofNat 64 m
  (List.range (cfgOut x.cfg)).map fun c => match block with
    | some b => lineSlot x.cfg (wordSlot w
        (rdBytes b.bytes ((k - 108) % 48 * frameBytes s d g true + portOffset s d g p true + c * w) w))
    | none => 0

/-- The frames that a port puts out of those from `k` to `n`: a slip drops the first or sends it twice. -/
def framesOut (x : TdmPort) (k n : Nat) : List Nat :=
  let l := (List.range (n - k)).map (k + ·)
  if 0 < x.slipOut then l.drop 1 else if x.slipOut < 0 then l.take 1 ++ l else l

/-- The frames of a port up to frame `n` have left: SDO has carried them where the port runs and drives it, and a master of its
group has put out their clocks. -/
def flushPort (d p n : Nat) (s : State) : State :=
  let x := s.tdmPort d p
  if x.state = .stopped || n ≤ x.sentTo then s
  else
    let runs := x.state == .running
    let s' := s.modPort d p fun x => { x with sentTo := n, slipOut := if runs then 0 else x.slipOut }
    let s' := if runs && cfgMaster x.cfg && groupOf s d p == p && hasPin s d p 1 then
      emit (.tdmClock d p x.sentTo (n - x.sentTo) (fsyncShape x.cfg)) s' else s'
    if runs && x.sdo == .driven && hasPin s d p 3 && cfgOut x.cfg != 0 then
      emit (.tdmFrame d p x.sentTo (dataDelay x.cfg) ((framesOut x x.sentTo n).flatMap (outFrame s d p))) s'
    else s'

/-- The TDM frames of the MP that ends have left. -/
def tdmPutOut (s : State) : State :=
  forAll s.dieList (fun d s => forAll (List.range 8) (fun p s => flushPort d p (framesElapsed s d p) s) s) s

/-- TDM_OUTPUT_FETCH: at boundary n + 2 samples the output DMA fetches block n − 2. A block that is not complete
plays as zeros and counts as an underrun of each port that has started by it; ports in WAIT_CLK discard
what they fetch (08 R186, R192). -/
def execTdmOutputFetch (die g : Nat) (s : State) : Host.Outcome State Fault Refusal :=
  let s := s.advanceTo die (fetchInstant (s.mpNo die))
  let n := s.mpNo die
  let m := n - 2
  let b := tget {} (s.die die).tdm.outRing (8 * g + m % 8)
  let ok := b.complete && b.mp == BitVec.ofNat 64 m
  let play : TdmBlock := if ok then
    { b with bytes := wrBytes [] 0 (rdBytes (s.die die).dram (ringAt s die g true m) (48 * frameBytes s die g true)) }
    else { mp := BitVec.ofNat 64 m }
  let s := s.modDie die fun y => { y with tdm := { y.tdm with
    playing := tset {} (tset {} y.tdm.playing (8 + g) (tget {} y.tdm.playing g)) g play
    outRing := tset {} y.tdm.outRing (8 * g + m % 8) {} } }
  let started := (groupPorts s die g).filter fun p =>
    (s.tdmPort die p).state != .stopped && decide ((s.tdmPort die p).startMp.toNat ≤ m) && decide (0 < cfgOut (s.tdmPort die p).cfg)
  .next (if ok then s else forAll started (fun p s =>
    tdmEv die 0 (raiseAnyOnce die (engineReq 6) 0x0801 (BitVec.ofNat 64 p)
      (s.modPort die p fun x => { x with underrun := x.underrun + 1 }))) s)

/-! ## Edges and clock loss -/

/-- A slave port has lost its clock: WAIT_CLK with error 0x0805. -/
def loseClock (d p : Nat) (s : State) : State :=
  let s := flushPort d p (framesElapsed s d p) s
  tdmEv d 4 (raiseAny d (engineReq 6) 0x0805 (s.modPort d p fun x =>
    { x with state := .waitClk, lastFsync := none, edge := none, slipOut := 0, sdo := idleSdo x.cfg }))

/-- An edge that ends WAIT_CLK: the port measures its offset and runs from the nearest frame. -/
def resumePort (d p : Nat) (t : Int) (s : State) : State :=
  let s := measurePort d p t s
  s.modPort d p fun x => { x with state := .running, sentTo := x.frame, sdo := if s.pair.transmit then .driven else x.sdo }

/-- TDM_FSYNC_EDGE: the first edge gives the offset from the nearest sample instant and ends WAIT_CLK; a later one
that has drifted more than half a sample from it slips the port by one frame; one more than 3 frame periods after the last
finds the clock lost (08 R184 to R186). -/
def execTdmFsyncEdge (die p : Nat) (raw : BitVec 64) (s : State) : Host.Outcome State Fault Refusal :=
  let x := s.tdmPort die p
  let t := stampAt s die raw
  let seen (s : State) : State := s.modPort die p fun x => { x with lastFsync := some raw }
  if cfgMaster x.cfg then .next s
  else match x.state with
    | .stopped => .next (seen s)
    | .waitClk => .next (seen (resumePort die p t s))
    | .running =>
      let gap := match x.lastFsync with | some l => stampDiff raw l | none => 0
      if (3 * framePeriod : Int) < gap then .next (seen (resumePort die p t (loseClock die p s)))
      else match x.edge with
        | none => .next (seen (measurePort die p t s))
        | some k => .next (seen (trackPort die p t k ((gap + framePeriod / 2) / framePeriod).toNat s))

/-- TDM_CLOCK_LOSS: 3 frame periods have passed since the last edge of a RUNNING slave port: it enters WAIT_CLK with error
0x0805, and its frames go on on device time (08 R185, R186). -/
def execTdmClockLoss (die p : Nat) (s : State) : Host.Outcome State Fault Refusal :=
  let x := s.tdmPort die p
  if cfgMaster x.cfg || x.state ≠ .running then .next s
  else match x.lastFsync with
    | some l => .next (loseClock die p (s.advanceTo die (stampAt s die l + 3 * framePeriod).toNat))
    | none => .next (loseClock die p s)

/-! ## Input (08 R187, R188, R190, R191) -/

/-- The channel pairs of a frame that carry the preamble of R190. -/
def preambles (slots : List (BitVec 32)) (ch : Nat) : List Nat :=
  (List.range (ch / 2)).filter fun k =>
    (slots.getD (2 * k) 0).extractLsb' 16 16 == 0xF872 && (slots.getD (2 * k + 1) 0).extractLsb' 16 16 == 0x4E1F

/-- Muting by IEC 61937 preambles in frame `f` of a port (08 R190). -/
def iecFrame (d p f : Nat) (slots : List (BitVec 32)) (s : State) : State :=
  let x := s.tdmPort d p
  let hits := if cfgIec x.cfg then preambles slots (cfgIn x.cfg) else []
  let fresh := hits.filter fun k => !x.iecMuted.getLsbD k
  let s := s.modPort d p fun x => { x with
    iecMuted := hits.foldl (fun m k => m ||| (1#16 <<< k)) x.iecMuted
    iecAt := hits.foldl (fun t k => tset 0 t k f) x.iecAt
    iecFade := (List.range 16).foldl (fun t k =>
      if hits.contains k then tset 0 t k 0 else let n := tget 0 t k; if n = 0 then t else tset 0 t k (n - 1)) x.iecFade
    iecCnt := x.iecCnt + BitVec.ofNat 16 fresh.length }
  forAll fresh (fun _ s => tdmEv d 2 (raiseAny d (engineReq 6) 0x0803 s)) s

/-- The gates of a port's pairs in one frame: a muted pair has weight 0, a fading one rises over 48 frames. -/
def gateFrame (x : TdmPort) (p f : Nat) (b : TdmBlock) : TdmBlock :=
  (List.range 16).foldl (fun b k =>
    let fade := tget 0 x.iecFade k
    let key := (f * 8 + p) * 16 + k
    if x.iecMuted.getLsbD k then
      { b with gate := tset 0 b.gate key 1, mute := tmod 0 b.mute p (· ||| (1#16 <<< k)) }
    else if fade = 0 then b else { b with gate := tset 0 b.gate key (1 + (48 - fade)) }) b

/-- The frame that an input frame of a running port is: the next one, or the one that device time has just passed, whose
instant a master's frame waits for (08 R183). -/
def inputFrameNo (s : State) (d p : Nat) : Nat :=
  let x := s.tdmPort d p
  if cfgMaster x.cfg then max x.frame (framesElapsed s d p - 1) else x.frame

/-- TDM_INPUT_FRAME: one frame of a RUNNING port goes through the group's queue to its own position of its MP's block; where
the queue has no room, its ring being full too, it is lost, and OVERRUN counts the block once for the port (08 R187, R191). A
port without SDI reads zeros. -/
def execTdmInputFrame (die p : Nat) (slots : List (BitVec 32)) (fits : Bool) (s : State) :
    Host.Outcome State Fault Refusal :=
  let x := s.tdmPort die p
  if x.state ≠ .running then .next s
  else
    let k := inputFrameNo s die p
    let s := if cfgMaster x.cfg then s.advanceTo die (frameInstant x.startMp.toNat (k + 1)) else s
    let slots := if hasPin s die p 2 then slots.map (lineSlot x.cfg) else []
    let s := iecFrame die p k slots s
    let x := s.tdmPort die p
    let g := groupOf s die p
    let m := x.startMp.toNat + k / 48
    let q := tget ({} : QPrim) (s.die die).drc.queues (0x10 + g)
    let fits := fits && decide (q.ring.length < q.lines)
    let s := openBlock die g m s
    let b := tget {} (s.die die).tdm.inRing (8 * g + m % 8)
    let w := cfgStore x.cfg
    let bytes := ((List.range (cfgIn x.cfg)).map fun c => slotBytes w (slots.getD c 0)).flatten
    let last := (groupPorts s die g).all fun q => decide (q ≤ p) || cfgIn (s.tdmPort die q).cfg == 0
    let s := if fits then putFrame die p k bytes s else s
    let s := modBlock die g m (fun b =>
      let b := gateFrame x p (k % 48) b
      if fits then { b with frames := if last then b.frames + 1 else b.frames }
      else { b with incomplete := true, lost := b.lost ||| (1#8 <<< p) }) s
    let s := s.modPort die p fun x => { x with
      frame := k + 1, overrun := if fits || b.lost.getLsbD p then x.overrun else x.overrun + 1 }
    .next (if fits then s else tdmEv die 1 (raiseAnyOnce die (engineReq 6) 0x0802 (BitVec.ofNat 64 p) s))

/-- IEC_UNMUTE: 8,192 frames, those of WAIT_CLK included, have passed without a preamble: a pair unmutes and fades in over 48
samples (08 R190). -/
def execIecUnmute (die p k : Nat) (s : State) : Host.Outcome State Fault Refusal :=
  let x := s.tdmPort die p
  if !x.iecMuted.getLsbD k || x.state = .stopped then .next s
  else
    let at_ := (frameInstant x.startMp.toNat (tget 0 x.iecAt k + 8193) : Int) + portOfs x
    .next ((s.advanceTo die at_.toNat).modPort die p fun x => { x with
      iecMuted := x.iecMuted &&& ~~~(1#16 <<< k), iecAt := tset 0 x.iecAt k 0, iecFade := tset 0 x.iecFade k 48 })

end Sys2Proof.Machine
end

