-- ==== Sys2Proof/Machine/Update.lean ====
section
/-! DEFINITION. Field update: deltas and the journalled apply, activation, trial, confirmation and fallback
(chapter 18). -/

namespace Sys2Proof.Machine

/-! ## Completions and refusals -/

/-- The KIND 5 completion of an apply's end or a readiness check; none in structure state NONE (18 R401). -/
def updCompletion (status : BitVec 8) (s : State) : State :=
  if (s.die 0).str.state = .none then s
  else postCompletion 0 { id := 0, kind := 5, status := status, mp := mpField s } s

/-- A refused apply or activation: RESULT REFUSED, error 0x1201 whose reason the manual does not encode and
is a free value (18 R395, R396; log 7). -/
def updRefused (s : State) : State :=
  let (v, s) := draw s
  raise 0 0x1201 v { s with upd := { s.upd with result := 6 } }

/-- A cancelled activation: RESULT CANCELLED, error 0x1203, no longer armed (18 R396, R397). -/
def updCancelled (s : State) : State :=
  let off (t : Trigger) : Trigger := if t.target = 4 then { t with armed := none } else t
  let s := s.modDie 0 fun x => { x with tim := { x.tim with trig := tmod {} x.tim.trig leadTrigger off } }
  raiseAny 0 dukenCheck 0x1203 { s with upd := { s.upd with state := .applied, result := 5, waitRejoin := false } }

/-! ## Deltas (18 R392) -/

/-- The inactive bank: the one that does not run. -/
def inactiveBank (s : State) : Nat := 1 - runBank s

/-- One operation of a delta: TARGET, KIND, SOURCE, the result's CRC, and the offset of its literal. -/
structure DeltaOp where
  target : Nat
  kind : Nat
  source : Nat
  crc : Nat
  lit : Nat
  deriving DecidableEq, Repr

/-- `n` staged bytes at an offset of the delta. -/
def deltaBytes (s : State) (o n : Nat) : List Byte := rdBuffer s (s.upd.deltaAddr.toNat + o) n
def deltaNat (s : State) (o n : Nat) : Nat := leNat (deltaBytes s o n)

/-- The operations from an offset on, with the offset of their end; none where one breaks R392. -/
def rdOps (s : State) (full : Bool) : (ops o prev : Nat) → Option (List DeltaOp × Nat)
  | 0, o, _ => some ([], o)
  | n + 1, o, prev =>
    let w := deltaNat s o 8
    let kind := w / 2 ^ 24 % 16
    let op : DeltaOp := { target := w % 2 ^ 24, kind := kind, source := w / 2 ^ 32 % 2 ^ 24, crc := deltaNat s (o + 8) 4,
                          lit := o + 16 }
    if op.target < max 128 (prev + 1) || 16384 ≤ op.target || 3 < kind || (full && (kind = 1 || kind = 3)) ||
       w / 2 ^ 28 % 16 ≠ 0 || w / 2 ^ 56 ≠ 0 || deltaNat s (o + 12) 4 ≠ 0 || 16384 ≤ op.source then none
    else (rdOps s full n (o + 16 + if kind = 2 || kind = 3 then 4096 else 0) op.target).map fun r => (op :: r.1, r.2)

/-- The staged delta: its operations and APPLY_ID; none where APPLY is refused for it (18 R395). -/
def rdDelta (s : State) : Option (List DeltaOp × Nat) :=
  let full := (deltaNat s 6 2).testBit 0
  let ops := deltaNat s 8 4
  let base := deltaBytes s 0x18 48
  if deltaBytes s 0 4 != [0x54, 0x44, 0x4C, 0x54] || deltaNat s 4 2 != 1 || decide (1 < deltaNat s 6 2) || ops == 0 ||
     decide (16256 < ops) || deltaNat s 12 4 != 0 || deltaNat s 0x10 8 == 0 || !zeroAt (deltaBytes s 0x48 24) 0 24 ||
     !bufferOk s 0 s.upd.deltaAddr.toNat (max 96 s.upd.deltaLen.toNat) ||
     (if full then !zeroAt base 0 48
      else BitVec.ofNat 384 (beNat base) != Config.sha384 (rdFlash s (runBank s) manAt 0x260)) then none
  else match rdOps s full ops 96 127 with
    | none => none
    | some (l, e) => if e ≤ s.upd.deltaLen.toNat then some (l, deltaNat s 0x10 8) else none

/-- The block that an operation leaves: erased, a copy, the literal, or the source XOR the mask. -/
def opResult (s : State) (op : DeltaOp) : List Byte :=
  let src := rdFlash s (runBank s) (4096 * op.source) 4096
  if op.kind = 0 then List.replicate 4096 0xFF
  else if op.kind = 1 then src
  else if op.kind = 2 then deltaBytes s op.lit 4096
  else List.zipWith (· ^^^ ·) src (deltaBytes s op.lit 4096)

/-- Offset of a block's journal entry (18 R393). -/
def journalAt (block : Nat) : Nat := 0x40000 + 16 * (block - 128)

/-- Whether a block's journal entry has DONE, the APPLY_ID and the CRC of an operation (18 R394). -/
def journalDone (s : State) (b id : Nat) (op : DeltaOp) : Bool :=
  leFlash s b (journalAt op.target) 8 == id && leFlash s b (journalAt op.target + 8) 4 == op.crc &&
    leFlash s b (journalAt op.target + 12) 1 == 0

/-- The first operation that is not done. -/
def nextOp (s : State) (ops : List DeltaOp) (id : Nat) : Option DeltaOp :=
  ops.find? fun op => !journalDone s (inactiveBank s) id op

/-! ## The apply (18 R393 to R395) -/

/-- APPLY: refused where STATE is APPLYING or ARMED or the delta is not acceptable; otherwise it resumes under
the journal's APPLY_ID or starts over with the journal erased. In a pair the standby's registers are
read-only (18 R401). -/
def execApply (s : State) : Host.Outcome State Fault Refusal :=
  if standsBy s then .next s
  else if s.upd.state = .applying || s.upd.state = .armed then .next (updCompletion 0x15 (updRefused s))
  else match rdDelta s with
    | none => .next (updCompletion 0x15 (updRefused s))
    | some (ops, id) =>
      let b := inactiveBank s
      let s := if s.upd.applyId.toNat = id then s else eraseProg b 0x40000 0x40000 [] s
      let next := match nextOp s ops id with
        | some op => op.target
        | none => 16384
      .next { s with upd := { s.upd with state := .applying, applyId := BitVec.ofNat 64 id, total := BitVec.ofNat 24 ops.length,
                                         nextBlock := BitVec.ofNat 24 next, cancelReq := false, peerOk := false } }

/-- The apply ends: everything is done. With PAIR, the peer has applied as well (log 20). -/
def applyEnds (s : State) : State :=
  updCompletion 0 { s with upd := { s.upd with state := .applied, result := 1, peerOk := s.upd.pair,
                                               nextBlock := BitVec.ofNat 24 16384 } }

/-- APPLY_BLOCK_DONE: the block in progress is erased and programmed with its operation's result, the blocks that
no operation names before it are erased, and the readback decides: a match within three attempts writes the
journal entry; three mismatches stop in PARTIAL with error 0x1202 (18 R393). -/
def execApplyBlockDone (readback : List Bool) (s : State) : Host.Outcome State Fault Refusal :=
  if s.upd.state ≠ .applying then .next s
  else match rdDelta s with
    | none => .next (updCompletion 0x15 { s with upd := { s.upd with state := .partly } })
    | some (ops, id) =>
      let b := inactiveBank s
      match nextOp s ops id with
      | none => .next (applyEnds s)
      | some op =>
        let bytes := opResult s op
        let prev := (ops.filter fun o => o.target < op.target).foldl (fun m o => max m (o.target + 1)) 128
        let s := eraseProg b (4096 * prev) (4096 * (op.target + 1 - prev)) [] s
        let s := modFlash b (fun m => progMem m (4096 * op.target) bytes) s
        if (crc32c bytes).toNat == op.crc && (readback.take 3).contains true then
          let s := modFlash b (fun m => progMem (wipe m (journalAt op.target) 16) (journalAt op.target)
            (leBytes id 8 ++ leBytes op.crc 4 ++ [0x00])) s
          match nextOp s ops id with
          | none => .next (applyEnds (eraseProg b (4096 * (op.target + 1)) (4096 * (16383 - op.target)) [] s))
          | some o =>
            let s := { s with upd := { s.upd with nextBlock := BitVec.ofNat 24 o.target } }
            if s.upd.cancelReq then
              .next (updCompletion 0x16 { s with upd := { s.upd with state := .partly, result := 5, cancelReq := false } })
            else .next s
        else if 3 ≤ readback.length then
          .next (updCompletion 0x15 (raise 0 0x1202 (BitVec.ofNat 64 op.target)
            { s with upd := { s.upd with state := .partly } }))
        else .next s

/-! ## Activation (18 R396, R397) -/

/-- Whether a die of the package is in a DIE or SUPPLY reset. -/
def anyRejoining (s : State) : Bool := s.dies.any fun x => x.pwr.rejoining

/-- The activation itself: the pointer names the new bank with TRIAL = 1 and its window, and the package is
soft-reset. -/
def activateNow (s : State) : State :=
  let b := inactiveBank s
  let s := writePtr { bank := b, trial := true, window := manWindow s b } s
  packageReset 2 { s with upd := { s.upd with state := .trial, result := 2, waitRejoin := false } }

/-- Trigger target 4: an armed update activates; while a die of the unit rejoins it waits, at the latest until
A + 1,000 (18 R397). -/
def activateUpdate (s : State) : State :=
  if s.upd.state ≠ .armed then s
  else if anyRejoining s then { s with upd := { s.upd with waitRejoin := true } }
  else activateNow s

/-- An activation that waits for a die is cancelled once A + 1,000 is reached (18 R397). -/
def expireWait (s : State) : State :=
  if s.upd.waitRejoin && s.upd.state = .armed && decide (s.upd.armedMp.toNat + 1000 ≤ s.mpNo 0) then updCancelled s else s

/-- ACTIVATE: refused unless STATE is APPLIED, A lies at least 1,000 MP ahead and no restructure is BUSY; A = 0
activates at once in structure state NONE (18 R396). -/
def execActivate (s : State) : Host.Outcome State Fault Refusal :=
  let a := s.upd.actMp.toNat
  let none := (s.die 0).str.state = .none
  if standsBy s then .next s
  else if s.upd.state ≠ .applied || s.restr.busy then .next (updRefused s)
  else if a = 0 && none then .next (activateNow s)
  else if a < s.mpNo 0 + 1000 then .next (updRefused s)
  else .next (armLead 0 4 a { s with upd := { s.upd with state := .armed, armedMp := s.upd.actMp } })

/-- CANCEL: during an apply it stops it after the current block; an armed activation is cancelled up to A − 2 and
refused later (18 R395, R396). -/
def execCancel (s : State) : Host.Outcome State Fault Refusal :=
  if standsBy s then .next s
  else match s.upd.state with
    | .applying => .next { s with upd := { s.upd with cancelReq := true } }
    | .armed => .next (if s.mpNo 0 + 2 ≤ s.upd.armedMp.toNat then updCancelled s else updRefused s)
    | .idle | .partly | .applied | .trial => .next s

/-- CONFIRM: the PF confirms the running trial (18 R399). -/
def execConfirm (s : State) : Host.Outcome State Fault Refusal :=
  .next (if s.upd.state = .trial && !standsBy s then { s with upd := { s.upd with confirmed := true } } else s)

/-- ACTIVATION_READINESS_CHECK: at A − 1,000 the update is applied and every die RUNNING, in a pair on both units;
otherwise the activation is cancelled. Either way a completion says so (18 R396, R401). -/
def execActivationReadinessCheck (peerReady : Bool) (s : State) : Host.Outcome State Fault Refusal :=
  if s.upd.state ≠ .armed then .next s
  else
    let s := s.advanceToStamp 0 (mpStamp (s.upd.armedMp.toNat - 1000))
    let ready := s.dies.all fun x => x.str.state == .running
    if ready && (peerReady || s.pair.role = .unpaired) then .next (updCompletion 0 s)
    else .next (updCompletion 0x16 (updCancelled s))

/-! ## Trial (18 R399, R400) -/

/-- TRIAL_CONFIRMATION: the trial bank runs, every die RUNNING without a lockstep stop and, with HOST_CONFIRM, CONFIRM written: the
pointer is rewritten with TRIAL = 0, error 0x1206 is raised, and RAISE_SVN raises the fused minimum, at most 63
times. -/
def execTrialConfirmation (s : State) : Host.Outcome State Fault Refusal :=
  let b := (bankPtr s).bank
  let ready := decide (runBank s = b) && s.dies.all (fun x => x.str.state == .running) && !s.upd.lockstepStop &&
    (!manFlag s b 1 || s.upd.confirmed)
  if s.upd.state ≠ .trial || !ready then .next s
  else
    let s := writePtr { bank := b } s
    let s := if manFlag s b 0 && decide (s.fuses.svnRaises < 63) && decide (s.fuses.minSvn.toNat < manSvn s b) then
        { s with fuses := { s.fuses with minSvn := BitVec.ofNat 32 (manSvn s b), svnRaises := s.fuses.svnRaises + 1 } }
      else s
    .next (raiseAny 0 dukenCheck 0x1206 { s with upd := { s.upd with state := .idle, result := 3, window := 0 } })

/-- TRIAL_WINDOW_EXPIRY: the window ends unconfirmed: fallback. -/
def execTrialWindowExpiry (s : State) : Host.Outcome State Fault Refusal :=
  if s.upd.state ≠ .trial then .next s
  else .next (fallBack (s.advance (unitsSec * s.upd.window.toNat - s.uptime)))

/-- PEER_FALLBACK_NOTICE: a paired unit in trial with the same MAN_SEQ falls back at once (18 R400). -/
def execPeerFallbackNotice (manSeq' : BitVec 32) (s : State) : Host.Outcome State Fault Refusal :=
  let own := manSeq s (bankPtr s).bank
  .next (if s.upd.state = .trial && own == manSeq'.toNat && s.pair.cfg then fallBack s else s)

/-! ## The end of a die reset -/

/-- DIE_RESET_REJOIN: the die's channels are trained afresh, its time base follows die 0 again, its structure is LOADED, die 0
arms target 2 on it 2 MP ahead (17 R379); a restructure from step 7 counts its 200 MP from this restart (17 Table 17.4); and an
activation that waits for the die takes place at the next boundary (18 R397). -/
def execDieResetRejoin (die : Nat) (s : State) : Host.Outcome State Fault Refusal :=
  if !(s.die die).pwr.rejoining || !(s.die die).drc.trained then .next s
  else
    let t := s.time 0
    let s := s.modDie die fun x => { x with
      tim := { x.tim with time := t }, str := { x.str with state := .loaded },
      pwr := { x.pwr with rejoining := false, rejoinSupply := false } }
    let s := armLead die 2 (s.mpNo 0 + 2) s
    let r := s.restr
    let s := if r.busy && r.step = 7 && r.die.toNat = die then
        { s with restr := { r with act := BitVec.ofNat 64 (s.mpNo 0 + 2) } } else s
    if s.upd.waitRejoin && !anyRejoining s && s.mpNo 0 + 1 ≤ s.upd.armedMp.toNat + 1000 then
      .next (armLead 0 4 (s.mpNo 0 + 1) { s with upd := { s.upd with waitRejoin := false } })
    else .next s

end Sys2Proof.Machine
end

