-- ==== Sys2Proof/Machine/Trigger.lean ====
section
/-! DEFINITION. Triggers: arming, firing in time and late, and the start of their targets (02 R50, R51). -/

namespace Sys2Proof.Machine

/-- Trigger `n` of die `d`. -/
def State.trig (s : State) (d n : Nat) : Trigger := tget {} (s.die d).tim.trig n

/-- Changes a trigger. -/
def State.modTrig (s : State) (d n : Nat) (f : Trigger → Trigger) : State :=
  s.modDie d fun x => { x with tim := { x.tim with trig := tmod {} x.tim.trig n f } }

/-- The instant of device time that a stamp names, by R26. -/
def instantOf (s : State) (d : Nat) (t : BitVec 64) : Int := (s.time d : Int) + stampDiff t (s.now d)

/-- Whether an instant lies on an MP boundary. -/
def onBoundary (t : Int) : Bool := t % (unitsMp : Int) == 0

/-- Whether a target acts at an MP boundary: 1, 2, 4 and 5 (02 R50). -/
def mpTarget (target : BitVec 3) : Bool := target == 1 || target == 2 || target == 4 || target == 5

/-- The action of a target, Table 2.6, at MP `m`. -/
def targetAction (d : Nat) (target : BitVec 3) (arg : BitVec 8) (m : Nat) (s : State) : State :=
  if target = 1 then tdmStart d m arg s
  else if target = 2 then startMp d s
  else if target = 3 then flipDeadline d (arg.getLsbD 0) s
  else if target = 4 then activateUpdate s
  else if target = 5 then activateStructure d s
  else s

/-- A trigger fires at its time: FIRED, the TRIG event, and its target's action (02 R50). -/
def fireTrigger (d n : Nat) (s : State) : State :=
  let t := s.trig d n
  let s := timEv d 3 (s.modTrig d n fun t => { t with armed := none, fired := true })
  targetAction d t.target t.arg (s.mpNo d) s

/-- Error 0x0207 with the detail of Table 2.8. -/
def lateError (d n : Nat) (target : BitVec 3) (step : Bool) (s : State) : State :=
  raise d 0x0207 (put (BitVec.ofNat 4 n) 0 ||| put target 4 ||| putB step 8) s

/-- A trigger carried out late: LATE and error 0x0207; an action that needs an MP boundary waits for the next
one unless this instant is one (02 R51). -/
def fireLate (d n : Nat) (step : Bool) (s : State) : State :=
  let t := s.trig d n
  let s := s.modTrig d n fun t => { t with armed := none, fired := true, late := true }
  let s := lateError d n t.target step (timEv d 3 s)
  if mpTarget t.target && !onBoundary (s.time (if step then 0 else d)) then s.modTrig d n fun x => { x with waiting := some (t.target, t.arg) }
  else targetAction d t.target t.arg (s.mpNo d) s

/-- The armed triggers of a die that a test on their stamps admits, earliest first. -/
def armedTriggers (s : State) (d : Nat) (p : BitVec 64 → Bool) : List Nat :=
  (sortBy (fun a b => decide (a.2 ≤ b.2)) (((List.range 16).filterMap fun n =>
    match (s.trig d n).armed with
    | some t => if p t then some (n, stampDiff t (s.now d)) else none
    | none => none))).map (·.1)

/-- The waiting actions of a die start at an MP boundary (02 R51). -/
def waitingActions (d : Nat) (s : State) : State :=
  forAll ((List.range 16).filter fun n => (s.trig d n).waiting.isSome) (fun n s =>
    match (s.trig d n).waiting with
    | some (target, arg) => targetAction d target arg (s.mpNo 0) (s.modTrig d n fun t => { t with waiting := none })
    | none => s) s

/-- TRIGGER_ARM: the arm clears the flags and takes the time as TIM_TRIG_TIME stands. TARGET 6 or 7, or a time off
the MP boundaries for a target that needs one, is rejected with BAD_TIME. A time less than 1 µs ahead is
late: it fires at once or, with LATE_MODE, is cancelled (02 R50, R51). -/
def execTriggerArm (die n : Nat) (v : Word) (s : State) : Host.Outcome State Fault Refusal :=
  if s.off die then .next s else
  let t := s.trig die n
  let target : BitVec 3 := fld v 2 3
  let s := s.modTrig die n fun t => { t with
    lateMode := bit v 1, target := target, arg := fld v 8 8, fired := false, late := false, badTime := false, armed := none }
  if target = 6 || target = 7 || (mpTarget target && !onBoundary (instantOf s die t.time)) then
    .next (s.modTrig die n fun t => { t with badTime := true })
  else if stampDiff t.time (s.now die) < (unitsUs : Int) then
    if bit v 1 then
      .next (lateError die n target false (timEv die 3 (s.modTrig die n fun t => { t with late := true })))
    else .next (fireLate die n false s)
  else .next (s.modTrig die n fun x => { x with armed := some t.time })

/-- TRIGGER_DISARM: the trigger is disarmed and keeps its flags; where its time has come in this tick it fires
(02 R50, R51). -/
def execTriggerDisarm (die n : Nat) (v : Word) (s : State) : Host.Outcome State Fault Refusal :=
  if s.off die then .next s else
  let due := match (s.trig die n).armed with
    | some t => decide (stampDiff t (s.now die) ≤ 0)
    | none => false
  let s := if due then fireTrigger die n s else s
  .next (s.modTrig die n fun t => { t with
    armed := none, lateMode := bit v 1, target := fld v 2 3, arg := fld v 8 8 })

/-- TRIGGER_FIRE: an armed trigger reaches its time (02 R50). -/
def execTriggerFire (die n : Nat) (s : State) : Host.Outcome State Fault Refusal :=
  match (s.trig die n).armed with
  | some t => .next (fireTrigger die n (s.advanceToStamp die t))
  | none => .next s

/-- RESTRUCTURE_RESUME: at A + 200 the lead trigger fires target 2 on the die: MP counting resumes, DRAINING and BUSY clear,
RESULT is DONE (03 R71 step 8). -/
def execRestructureResume (s : State) : Host.Outcome State Fault Refusal :=
  let r := s.restr
  let d := r.die.toNat
  if !r.busy || r.step ≠ 7 then .next s
  else
    let s := s.advanceToStamp 0 (mpStamp (r.act.toNat + 200))
    let s := if (s.trig d leadTrigger).armed.isSome then fireTrigger d leadTrigger s else startMp d s
    .next (endRestruct 1 s)

end Sys2Proof.Machine
end

