-- ==== Sys2Proof/Machine/Time.lean ====
section
/-! DEFINITION. Device time: slaving, references and their qualification, the servo, the setting of time,
transmit stamps, capture, PTP, SyncE and PPS output (chapter 02; the step is in Relabel). -/

namespace Sys2Proof.Machine

/-! ## Slave dies (02 R31, R32) -/

/-- A raw arrival stamp and a raw departure stamp corrected by a delay entry (02 R37). -/
def rxStamp (e : DlyEntry) (raw : BitVec 64) : BitVec 64 := raw - BitVec.ofInt 64 e.rxFix.toInt - e.cable.setWidth 64
def txStamp (e : DlyEntry) (raw : BitVec 64) : BitVec 64 := raw + BitVec.ofInt 64 e.txFix.toInt + e.cable.setWidth 64

/-- The instant at which an edge is driven (02 R37). -/
def driveAt (e : DlyEntry) (target : BitVec 64) : BitVec 64 := target - BitVec.ofInt 64 e.txFix.toInt - e.cable.setWidth 64

/-- Entry `k` of the delay table in use on die `d`. -/
def State.dlyOf (s : State) (d k : Nat) : DlyEntry := tget {} (s.die d).tim.dly k

/-- Half the loop time of a two-way exchange as an offset: the asking clock less the answering one. Each stamp is corrected
by the entry of the port at which it is taken: request sent, request received, answer sent, answer received (02 R31, R37). -/
def twoWay (e1 e2 e3 e4 : DlyEntry) (t1 t2 t3 t4 : BitVec 64) : Int :=
  (stampDiff (txStamp e1 t1) (rxStamp e2 t2) + stampDiff (rxStamp e4 t4) (txStamp e3 t3)) / 2

/-- 100 ps per µs in 2^-40 of the nominal rate: how far a slave's rate lies from die 0's at most, so that no exchange
interval carries it out of its ±100 ps (02 R31; log 25). -/
def slaveBand : Int := 109951162

/-- SLAVE_TIME_EXCHANGE: over the fixed routes of request and answer the slave die's offset from die 0 is measured, and the
die adjusts its own rate; how far is a free value (02 R31; log 25). While it re-measures, its rate is held (02 R32). -/
def execSlaveTimeExchange (die : Nat) (t1 t2 t3 t4 : BitVec 64) (s : State) : Host.Outcome State Fault Refusal :=
  match leavingPort s die 0, arrivingPort s die 0, leavingPort s 0 die, arrivingPort s 0 die with
  | some p1, some p2, some p3, some p4 =>
    if die = 0 || !s.hasDie die || !(s.die die).tim.slaveEn then .next s
    else
      let ofs := twoWay (s.dlyOf die (18 + p1)) (s.dlyOf 0 (18 + p2)) (s.dlyOf 0 (18 + p3)) (s.dlyOf die (18 + p4)) t1 t2 t3 t4
      let beyond := decide (65536 < ofs.natAbs)
      let (v, s) := draw s
      let lead := (s.die 0).tim.freqAdj.toInt
      .next (s.modDie die fun x => { x with tim := { x.tim with
        offset := BitVec.ofInt 64 ofs,
        slaveErr := x.tim.slaveErr && beyond,
        beyondSince := if beyond then some (x.tim.beyondSince.getD s.clk) else none,
        freqAdj := if x.tim.remeasuring then x.tim.freqAdj
          else BitVec.ofInt 40 (clampI (lead - slaveBand) (lead + slaveBand) v.toInt) } })
  | _, _, _, _ => .next s

/-- SLAVE_REMEASURE_DONE: the slave has re-measured on its new route and corrects again (02 R32). -/
def execSlaveRemeasureDone (die : Nat) (s : State) : Host.Outcome State Fault Refusal :=
  .next (s.modDie die fun x => { x with tim := { x.tim with remeasuring := false } })

/-- SLAVE_OFFSET_ERROR: every offset measured has exceeded 1 ns for 1 s, which device time reaches: SLAVE_ERR and error
0x0209 (02 R32). -/
def execSlaveOffsetError (die : Nat) (s : State) : Host.Outcome State Fault Refusal :=
  let t := (s.die die).tim
  match t.beyondSince with
  | none => .next s
  | some since =>
    if die = 0 || t.slaveErr then .next s
    else
      let s := s.advance ((unitsSec : Int) - stampDiff s.clk since).toNat
      .next (raise die 0x0209 t.offset (s.modDie die fun x => { x with tim := { x.tim with slaveErr := true } }))

/-! ## Setting device time (02 R42) -/

/-- The events of a step or a setting of time: STEP_DONE on every die, error 0x0208 with its detail. -/
def stepDone (detail : BitVec 64) (s : State) : State :=
  raise 0 0x0208 detail (forAll s.dieList (fun d s => timEv d 2 s) s)

/-- The references' histories after a jump of device time by `u`: their stamps move with it, and so does the offset that
the PTP source shows. -/
def shiftRefs (u : Int) (v : Servo) : Servo :=
  let mv (t : BitVec 64) : BitVec 64 := t + BitVec.ofInt 64 u
  { v with refs := v.refs.map fun e => (e.1, { e.2 with
      lastEdge := mv e.2.lastEdge, cleanSince := mv e.2.cleanSince, predicted := mv e.2.predicted }) }

/-- The armed triggers of every die that a test on their stamps admits, in the order of the stamps over all dies. -/
def triggersInOrder (s : State) (p : Nat → BitVec 64 → Bool) : List (Nat × Nat) :=
  (sortBy (fun (a b : (Nat × Nat) × Int) => decide (a.2 ≤ b.2)) (s.dieList.flatMap fun d =>
    (armedTriggers s d (p d)).map fun n =>
      ((d, n), match (s.trig d n).armed with | some t => stampDiff t (s.now d) | none => 0))).map (·.1)

/-- Device time is set once on every die: TIME_SET, STEP_DONE, error 0x0208; every armed trigger is carried out
late in the order of its stamp; MP counting can then be armed (02 R42, 03 R62). -/
def setTime (t : Nat) (s : State) : State :=
  let armed := triggersInOrder s fun _ _ => true
  let u : Int := (t : Int) - (s.time 0 : Int)
  let s := s.mapDies fun _ x => { x with tim := { x.tim with time := t % timeModulus } }
  let s := { s with servo := { shiftRefs u s.servo with timeSet := true }, lastMp := none }
  let s := stepDone ((1 <<< 63) ||| (BitVec.ofNat 64 (t / unitsMp) &&& 0x7FFFFFFFFFFFFFFF)) s
  armMpStart (forAll armed (fun e s => fireLate e.1 e.2 true s) s)

/-! ## The servo (02 R34, R41, R43, R44) -/

/-- Reference `c`. -/
def State.ref (s : State) (c : Nat) : Ref := tget {} s.servo.refs c

/-- Changes a reference. -/
def State.modRef (s : State) (c : Nat) (f : Ref → Ref) : State :=
  { s with servo := { s.servo with refs := tmod {} s.servo.refs c f } }

/-- The source codes of TIM_SRC_PRIO, highest priority first; 0 ends the list. -/
def prioList (p : BitVec 24) : List Nat :=
  ((List.range 6).map fun i => (p.extractLsb' (4 * i) 4).toNat).takeWhile (· ≠ 0)

/-- Whether a source gives phase, and whether it gives frequency, Table 2.2. -/
def givesPhase (c : Nat) : Bool := c == 1 || c == 2 || c == 3
def givesFreq (c : Nat) : Bool := c == 1 || c == 4 || c == 5 || c == 6

/-- The highest-priority qualified source that a test admits, 0 if none. -/
def bestSource (s : State) (p : Nat → Bool) : Nat :=
  ((prioList s.servo.srcPrio).find? fun c => p c && (s.ref c).state == .qualified).getD 0

/-- The period of a PPS or 10 MHz input. -/
def refPeriod (c : Nat) : Nat := if c = 2 || c = 3 then unitsSec else 100 * unitsNs

/-- The offset that a phase source shows: device time less source time. For PTP the last measurement; for a
PPS input the distance of its last edge from the nearest whole second (log 24). -/
def phaseOffset (s : State) (c : Nat) : Int :=
  if c = 1 then (s.ref 1).predicted.toInt
  else
    let t := instantOf s 0 (s.ref c).lastEdge
    (t + unitsSec / 2) % unitsSec - unitsSec / 2

/-- A change of the servo's state raises STATE_CHG. -/
def servoTo (st : ServoState) (s : State) : State :=
  let h := if st == ServoState.holdover then some s.uptime else none
  if s.servo.state = st then s
  else timEv 0 0 { s with servo := { s.servo with
    state := st, lockSince := s.clk, holdSince := h } }

/-- The servo's estimate of its source's rate, in 2^-40: a longer period is a lower rate. -/
def rateOfEst (est : Int) : Int := 0 - (2 ^ 40 * est / 10 ^ 12)

/-- The source from which the servo takes frequency: FREQ_SRC, else the phase source. -/
def freqOf (v : Servo) : Nat := if v.freqSrc = 0 then v.phaseSrc.toNat else v.freqSrc.toNat

/-- The estimate by the last measurement, and the average over the 16 s before the last good measurement, rounded to
below (DESIGN CHOICE, log 25); the present rate where there was none. -/
def rateEstimate (s : State) : Int := rateOfEst (s.ref (freqOf s.servo)).freqEst
def frozenRate (s : State) : Int :=
  match (s.ref (freqOf s.servo)).history with
  | [] => (s.die 0).tim.freqAdj.toInt
  | h => rateOfEst ((h.map (·.2)).foldl (· + ·) 0 / (h.length : Int))

/-- A good measurement of a source's frequency joins its history of 16 s (02 R43). -/
def noteRate (c : Nat) (est : Int) (s : State) : State :=
  s.modRef c fun r => { r with
    freqEst := est,
    history := (s.clk, est) :: r.history.filter fun e => decide (stampDiff s.clk e.1 < (16 * unitsSec : Nat)) }

/-- The frequency of a source that the manual does not tell how to measure (PTP, SyncE, Adit) is a free value, 10^-12
(log 25). -/
def noteFreeRate (c : Nat) (s : State) : State :=
  let (v, s) := draw s
  noteRate c (v.extractLsb' 0 32).toInt s

/-- The servo chooses its sources anew after a change of qualification or priority; `lost` is the source whose
change caused it. The first phase source sets device time once (02 R34, R41, R42). DESIGN CHOICE (log 24): error 0x0204
carries source code 0 where a write of TIM_SRC_PRIO or TIM_CTRL, and no loss of a source, causes the entry to HOLDOVER. -/
def servoEval (lost : Nat) (s : State) : State :=
  if !(s.die 0).tim.servoEn || standsBy s then s
  else
    let v := s.servo
    let frozen := frozenRate s
    let p1 := bestSource s givesPhase
    let f1 := if p1 ≠ 0 && givesFreq p1 then p1 else bestSource s givesFreq
    let p0 := v.phaseSrc.toNat
    let s := { s with servo := { v with phaseSrc := BitVec.ofNat 4 p1, freqSrc := BitVec.ofNat 4 f1 } }
    if p1 ≠ 0 then
      let s := if p0 ≠ p1 then { servoTo .acquiring s with servo := { (servoTo .acquiring s).servo with lockSince := s.clk } } else s
      if v.timeSet then s else setTime ((s.time 0 : Int) - phaseOffset s p1).toNat s
    else if f1 ≠ 0 then servoTo .syntonized s
    else match v.state with
      | .acquiring | .locked | .syntonized =>
        raise 0 0x0204 (BitVec.ofNat 64 lost) (servoTo .holdover { s with servo := { s.servo with slew := frozen } })
      | .freerun | .holdover => s

/-- 2 ppm per second over one MP, and 20 ppm, in 2^-40 of the nominal rate (02 R44). -/
def slewStep : Int := 2199
def slewMax : Int := 21990232

/-- Where the servo slews to: in ACQUIRING towards the source, slower while device time is ahead and faster while it is
behind; in LOCKED to either side (02 R41, R44). -/
def slewTarget (acquiring : Bool) (offset est v : Int) : Int :=
  let lo := if acquiring && offset < 0 then est else est - slewMax
  let hi := if acquiring && 0 < offset then est else est + slewMax
  clampI lo hi v

/-- The servo's rate over one MP (log 25): in ACQUIRING and LOCKED a free value within 2 ppm per second of the rate
before and 20 ppm of the source's rate; in SYNTONIZED it goes to the source's rate, and in HOLDOVER the slew
ramps out to the frozen estimate, at 2 ppm per second; in FREERUN it is 0 (02 R43, R44). -/
def servoMp (s : State) : State :=
  if !(s.die 0).tim.servoEn then s
  else
    let r := (s.die 0).tim.freqAdj.toInt
    let set (x : Int) (s : State) : State := s.modDie 0 fun y => { y with tim := { y.tim with freqAdj := BitVec.ofInt 40 x } }
    let est := rateEstimate s
    match s.servo.state with
    | .freerun => set 0 s
    | .acquiring | .locked =>
      let (v, s) := draw s
      let acq := s.servo.state == ServoState.acquiring
      set (clampI (r - slewStep) (r + slewStep) (slewTarget acq (s.die 0).tim.offset.toInt est v.toInt)) s
    | .syntonized => set (clampI (r - slewStep) (r + slewStep) est) s
    | .holdover => set (clampI (r - slewStep) (r + slewStep) (s.servo.slew)) s

/-- A source changes state: REF_CHG, and the servo chooses anew. -/
def refTo (c : Nat) (st : RefSt) (s : State) : State :=
  if (s.ref c).state = st then s
  else servoEval c (timEv 0 1 (s.modRef c fun r => { r with state := st }))

/-- A difference in ns or 10^-9 as a signed 32-bit field at [63:32], saturating. DESIGN CHOICE (log 133): a phase error that
is no whole number of ns, and a frequency error that is no whole number of ppb, are given rounded towards minus infinity. -/
def detail32 (c : Nat) (x : Int) : BitVec 64 := put (satField 32 x) 32 ||| BitVec.ofNat 64 c

/-- Disqualifies a source with its error (02 R38, R40). DISQ_FREQ takes precedence over any other state. -/
def disqualify (c : Nat) (st : RefSt) (code : BitVec 16) (detail : BitVec 64) (s : State) : State :=
  refTo c (if (s.ref c).state = .disqFreq then .disqFreq else st) (raise 0 code detail s)

/-! ## PPS and 10 MHz inputs (02 R38, R39) -/

/-- Whether a code is a PPS or 10 MHz input, and its entry of the delay table. -/
def isInput (c : Nat) : Bool := 2 ≤ c && c ≤ 5
def inputDly (c : Nat) : Nat := if c = 2 || c = 3 then c + 8 else c + 4

/-- The prediction rebased on an edge: one period on, at the estimated frequency. -/
def predictEdge (c : Nat) (r : Ref) (t : BitVec 64) : BitVec 64 :=
  t + BitVec.ofInt 64 ((refPeriod c : Int) + refPeriod c * r.freqEst / 10 ^ 12)

/-- The offset measured at an edge or message of the phase source in use; beyond 500 ps the 60 s restart. -/
def noteOffset (ofs : Int) (s : State) : State :=
  let s := s.modDie 0 fun x => { x with tim := { x.tim with offset := BitVec.ofInt 64 ofs } }
  if ofs.natAbs ≤ 32 then s else { s with servo := { s.servo with lockSince := s.clk } }

/-- No edge for 3 periods: the input has stopped: DISQ_STOP with error 0x0201; an input in DISQ_FREQ keeps its state
(02 R38). -/
def stopRef (src : Nat) (s : State) : State :=
  disqualify src .disqStop 0x0201 (BitVec.ofNat 64 src) (s.modRef src fun r => { r with stopped := true })

/-- Whether an input has stopped by an instant: more than 3 periods have passed since its last edge (02 R38). -/
def stoppedBy (src : Nat) (now : BitVec 64) (r : Ref) : Bool :=
  !r.stopped && decide (((3 * refPeriod src : Nat) : Int) < stampDiff now r.lastEdge)

/-- REFERENCE_EDGE: an edge is judged against its prediction: a phase step of more than 2 ns disqualifies the
input and restarts its clean history (02 R38). An edge that comes more than 3 periods after the one before it finds the
input stopped by the watchdog. -/
def execReferenceEdge (src : Nat) (raw : BitVec 64) (s : State) : Host.Outcome State Fault Refusal :=
  if !isInput src then .next s
  else
    let t := rxStamp (s.dlyOf 0 (inputDly src)) raw
    let s := if stoppedBy src t (s.ref src) then stopRef src s else s
    let r := s.ref src
    let e := stampDiff t r.predicted
    let clean := r.stopped || decide (e.natAbs > 2 * 65536)
    let s := s.modRef src fun r => { r with
      lastEdge := t, stopped := false, cleanSince := if clean then t else r.cleanSince, predicted := predictEdge src r t }
    let s :=
      if r.stopped || e.natAbs ≤ 2 * 65536 then s
      else match r.state with
        | .qualified | .qualifying => disqualify src .disqPhase 0x0202 (detail32 src (e / 65536)) s
        | .disqFreq => raise 0 0x0202 (detail32 src (e / 65536)) s
        | .disqStop | .disqPhase | .disqQl => s
    .next (if s.servo.phaseSrc.toNat = src then noteOffset (phaseOffset s src) s else s)

/-- FREQUENCY_WINDOW_END: `ppt` is the input's frequency error over the window; its period deviates by as much the other
way, which is the estimate that predicts its next edge. A window more than 2 ppm off counts as bad and restarts the clean history; the third in
a row puts the input in DISQ_FREQ (02 R38). -/
def execFrequencyWindowEnd (src : Nat) (ppt : Int) (s : State) : Host.Outcome State Fault Refusal :=
  if !isInput src then .next s
  else
    let bad := decide (ppt.natAbs > 2000000)
    let s := s.modRef src fun r => { r with
      freqEst := -ppt, badWindows := if bad then r.badWindows + 1 else 0, cleanSince := if bad then r.lastEdge else r.cleanSince }
    let s := if bad then s else noteRate src (-ppt) s
    .next (if (s.ref src).badWindows = 3 then disqualify src .disqFreq 0x0203 (detail32 src (ppt / 1000)) s else s)

/-- REFERENCE_STOP: no edge for 3 periods, seen at the next tick (02 R38). -/
def execReferenceStop (src : Nat) (s : State) : Host.Outcome State Fault Refusal :=
  let r := s.ref src
  if !isInput src || r.stopped then .next s
  else
    .next (stopRef src (s.advanceToStamp 0 (r.lastEdge + BitVec.ofNat 64 (3 * refPeriod src + 2 * unitsNs))))

/-- REFERENCE_QUALIFIED: 10 s of clean history qualify an input in DISQ_PHASE, DISQ_STOP or QUALIFYING whose edges
come; where none has come for 3 periods before that instant, the watchdog finds the stop first (02 R38). -/
def execReferenceQualified (src : Nat) (s : State) : Host.Outcome State Fault Refusal :=
  let r := s.ref src
  let may := r.state == .disqPhase || r.state == .disqStop || r.state == .qualifying
  let due := r.cleanSince + BitVec.ofNat 64 (10 * unitsSec)
  if !isInput src || r.stopped || !may then .next s
  else if stoppedBy src due r then execReferenceStop src s
  else .next (refTo src .qualified (s.advanceToStamp 0 due))

/-- TIM_REF_REARM: a source in DISQ_FREQ whose bit is written enters QUALIFYING with a fresh history (02 R39). -/
def execTimRefRearm (mask : Word) (s : State) : Host.Outcome State Fault Refusal :=
  if s.off 0 then .next s else
  .next (forAll ((List.range 16).filter fun c => mask.getLsbD c && (s.ref c).state == .disqFreq) (fun c s =>
    refTo c .qualifying (s.modRef c fun r => { r with badWindows := 0, cleanSince := s.now 0 })) s)

/-! ## The PTP source (02 R40) -/

/-- OUTLIER in 2^-16 ns. -/
def ptpOutlier (s : State) : Nat := unitsNs * fldN s.servo.ptpCfg 48 12

/-- PTP loses its source: DISQ_STOP and error 0x0201. -/
def ptpLost (s : State) : State :=
  if (s.ref 1).present then
    disqualify 1 .disqStop 0x0201 1 (s.modRef 1 fun r => { r with present := false, outliers := 0 })
  else s

/-- An offset measurement in slave state: while qualified, one beyond OUTLIER of the prediction is discarded and
the eighth in a row disqualifies; while not, it is judged against the measurement before it (02 R40). DESIGN CHOICE (log 133):
the servo's prediction of a measurement, for which the manual gives no formula, is the last accepted one unchanged. -/
def ptpOffset (v : Int) (s : State) : State :=
  let r := s.ref 1
  let out := decide ((v - r.predicted.toInt).natAbs > ptpOutlier s)
  if r.state = .qualified then
    if out then
      let s := s.modRef 1 fun r => { r with outliers := r.outliers + 1 }
      if r.outliers + 1 = 8 then
        disqualify 1 .disqPhase 0x0202 (detail32 1 ((v - r.predicted.toInt) / 65536))
          (s.modRef 1 fun r => { r with outliers := 0, cleanSince := s.now 0, predicted := BitVec.ofInt 64 v })
      else s
    else
      let s := noteFreeRate 1 (s.modRef 1 fun r => { r with outliers := 0, predicted := BitVec.ofInt 64 v, lastEdge := s.now 0 })
      if s.servo.phaseSrc = 1 then noteOffset v s else s
  else
    let s := s.modRef 1 fun r => { r with
      predicted := BitVec.ofInt 64 v, lastEdge := s.now 0, cleanSince := if out then s.now 0 else r.cleanSince }
    refTo 1 .qualifying s

/-! ## SyncE (02 R36) -/

/-- Whether SyncE is enabled, its option 2, and MIN_QL. -/
def synceOn (s : State) : Bool := bit s.servo.synceCfg 63
def synceMin (s : State) : BitVec 4 := fld s.servo.synceCfg 8 4

/-- SSM codes from best to worst in the quality order of each option (PRESUMED, ITU-T G.781; log 26). -/
def qlOrder (option2 : Bool) : List (BitVec 4) :=
  if option2 then [0x1, 0x0, 0x7, 0x4, 0xD, 0xA, 0xC, 0xE, 0xF] else [0x2, 0x4, 0x8, 0xB, 0xF]

/-- Rank of a code, 0 the best; a code not listed ranks below all. -/
def qlRank (option2 : Bool) (c : BitVec 4) : Nat := (qlOrder option2).idxOf c

/-- Whether a level ranks below MIN_QL. -/
def qlBelow (s : State) (c : BitVec 4) : Bool :=
  let o2 := bit s.servo.synceCfg 6
  decide (qlRank o2 (synceMin s) < qlRank o2 c)

/-- Whether the selected port has link. -/
def synceLink (s : State) : Bool :=
  (s.die (fldN s.servo.synceCfg 3 3)).ing.up.getLsbD (fldN s.servo.synceCfg 0 3)

/-- The SyncE port is put in DISQ_QL with error 0x020A and the received code, 0xF for none. -/
def synceQl (code : BitVec 4) (s : State) : State :=
  if (s.ref 6).state = .disqQl then s else refTo 6 .disqQl (raise 0 0x020A (6 ||| put code 8) s)

/-- The port is judged while its link is up: below MIN_QL, or with no message for 5 s, it is DISQ_QL with error 0x020A; at
or above MIN_QL a disqualified port starts its 10 s as QUALIFYING; before a first message or its 5 s nothing is judged. -/
def judgeSynce (s : State) : State :=
  let r := s.ref 6
  if !synceOn s || !synceLink s then s
  else if r.silent then synceQl 0xF s
  else match r.ql with
    | none => s
    | some c =>
      if qlBelow s c then synceQl c s
      else if r.state = .qualified || r.state = .qualifying then s
      else refTo 6 .qualifying (s.modRef 6 fun r => { r with cleanSince := s.now 0 })

/-- The SyncE source starts afresh: nothing received, its 5 s from now. -/
def synceFresh (s : State) : State :=
  s.modRef 6 fun r => { r with ql := none, silent := false, lastEdge := s.now 0 }

/-- The link of a subport has changed: its loss on the SyncE port is a stop, its return a new start. -/
def synceLinkChange (d sub : Nat) (s : State) : State :=
  if !synceOn s || fldN s.servo.synceCfg 3 3 ≠ d || fldN s.servo.synceCfg 0 3 ≠ sub then s
  else if synceLink s then synceFresh s
  else if (s.ref 6).state = .disqStop then s
  else disqualify 6 .disqStop 0x0201 6 (synceFresh s)

/-- A write of TIM_SYNCE_CFG: another MIN_QL is judged at once. Another port or option, enabling or disabling starts the
source afresh in DISQ_STOP, without error (DESIGN CHOICE, log 133). -/
def writeSynceCfg (v : Word) (s : State) : State :=
  let c := v &&& 0x8000000000000F7F
  let same := (c ^^^ s.servo.synceCfg) &&& 0x800000000000007F == 0
  let s := { s with servo := { s.servo with synceCfg := c } }
  if same then judgeSynce s else refTo 6 .disqStop (synceFresh s)

/-- ESMC_MESSAGE: a quality level is received on the SyncE port. -/
def execEsmcMessage (code : BitVec 4) (s : State) : Host.Outcome State Fault Refusal :=
  if !synceOn s || !synceLink s then .next s
  else
    let s := s.modRef 6 fun r => { r with ql := some code, silent := false, lastEdge := s.now 0 }
    .next (judgeSynce (if qlBelow s code then s else noteFreeRate 6 s))

/-- ESMC_TIMEOUT: no message for 5 s. -/
def execEsmcTimeout (s : State) : Host.Outcome State Fault Refusal :=
  if !synceOn s || !synceLink s || (s.ref 6).silent then .next s
  else .next (judgeSynce ((s.advanceToStamp 0 ((s.ref 6).lastEdge + BitVec.ofNat 64 (5 * unitsSec))).modRef 6 fun r =>
    { r with ql := none, silent := true }))

/-- SYNCE_REQUALIFY: 10 s at or above MIN_QL with link up; where 5 s without a message end before, that comes first. -/
def execSynceRequalify (s : State) : Host.Outcome State Fault Refusal :=
  let r := s.ref 6
  let due := r.cleanSince + BitVec.ofNat 64 (10 * unitsSec)
  if !synceOn s || r.state ≠ .qualifying then .next s
  else if (5 * unitsSec : Nat) ≤ stampDiff due r.lastEdge then execEsmcTimeout s
  else .next (refTo 6 .qualified (s.advanceToStamp 0 due))

/-! ## Locking, and the exchange of a pair -/

/-- SERVO_LOCK: the offset has stayed within 500 ps for 60 s: ACQUIRING becomes LOCKED (02 R41). -/
def execServoLock (s : State) : Host.Outcome State Fault Refusal :=
  if s.servo.state ≠ .acquiring || s.servo.phaseSrc = 0 || 32 < (s.die 0).tim.offset.toInt.natAbs then .next s
  else
    let left := (60 * unitsSec : Int) - stampDiff s.clk s.servo.lockSince
    .next (servoTo .locked (s.advance left.toNat))

/-- ADIT_TIME_EXCHANGE: the standby's servo takes phase and frequency from the active unit over die 0's Adit link,
corrected by that subport's delay entry: PHASE_SRC 7; before TIME_SET it sets device time once (16 R353). -/
def execAditTimeExchange (t1 t2 t3 t4 : BitVec 64) (s : State) : Host.Outcome State Fault Refusal :=
  if !standsBy s then .next s
  else
    let k := ((List.range 8).find? fun i => (s.die 0).ing.adit.getLsbD i).getD 0
    let ofs := twoWay (s.dlyOf 0 k) {} {} (s.dlyOf 0 k) t1 t2 t3 t4
    let s := noteOffset ofs (noteFreeRate 7 { s with servo := { s.servo with phaseSrc := 7, freqSrc := 7 } })
    let s := if s.servo.state = .acquiring || s.servo.state = .locked then s else servoTo .acquiring s
    .next (if s.servo.timeSet then s else setTime ((s.time 0 : Int) - ofs).toNat s)

/-! ## Commanded setting and step (02 R42, R45) -/

/-- STEP_GO_INITIAL: GO with INITIAL = 1: at the next tick device time becomes TIM_STEP_AMT ms; rejected once
TIME_SET is 1. -/
def execStepGoInitial (s : State) : Host.Outcome State Fault Refusal :=
  if s.off 0 then .next s else
  if s.servo.timeSet then .next { s with servo := { s.servo with initial := true, stepReject := true } }
  else
    let s := { s with servo := { s.servo with initial := true, stepReject := false } }
    .next (setTime (unitsMp * s.servo.stepAmt.toNat) { s with uptime := s.uptime + 2 * unitsNs })

/-- STEP_GO: GO with INITIAL = 0: the step is pending for TIM_STEP_MP. Rejected before TIME_SET, less than 2 MP ahead,
or less than 2 MP before a pending step (02 R45, R47). -/
def execStepGo (s : State) : Host.Outcome State Fault Refusal :=
  if s.off 0 then .next s else
  let v := s.servo
  let m := s.mpNo 0
  let busy := match v.stepPending with
    | some (_, mp) => decide (mp.toNat < m + 2)
    | none => false
  if !v.timeSet || v.stepMp.toNat < m + 2 || busy then .next { s with servo := { v with initial := false, stepReject := true } }
  else .next (ledger 0 (.step v.stepAmt v.stepMp)
    { s with servo := { v with initial := false, stepReject := false, stepPending := some (v.stepAmt, v.stepMp) } })

/-! ## Latches and queues (02 R49, R52, R55) -/

/-- TIM_SNAP: device time is latched as SEC and as NS with FRAC. -/
def execTimSnap (die : Nat) (s : State) : Host.Outcome State Fault Refusal :=
  if s.off die then .next s else
  let t := s.time die
  .next (s.modDie die fun x => { x with tim := { x.tim with
    snapSec := BitVec.ofNat 48 (t / unitsSec), snapNsf := BitVec.ofNat 48 (t % unitsSec) } })

/-- TIM_TXS_POP: the oldest entry of a transmit-stamp queue is removed. -/
def execTimTxsPop (die q : Nat) (s : State) : Host.Outcome State Fault Refusal :=
  if s.off die then .next s else
  .next (s.modDie die fun x => { x with tim := { x.tim with txs := tmod {} x.tim.txs q fun e => { e with entries := e.entries.drop 1 } } })

/-- A transmit stamp enters queue `q`; the newest is dropped at 64 with error 0x0205 (02 R49). -/
def pushTxs (d q : Nat) (stamp : BitVec 64) (tag : BitVec 16) (s : State) : State :=
  let e := tget {} (s.die d).tim.txs q
  if e.entries.length < 64 then
    s.modDie d fun x => { x with tim := { x.tim with txs := tmod {} x.tim.txs q fun e => { e with entries := e.entries ++ [(stamp, tag)] } } }
  else raise d 0x0205 (BitVec.ofNat 64 q) <| timEv d 4 <|
    s.modDie d fun x => { x with tim := { x.tim with txs := tmod {} x.tim.txs q fun e => { e with ovf := e.ovf + 1 } } }

/-- Capture unit `c` of die `d`, and its change. -/
def State.capUnit (s : State) (d c : Nat) : CapUnit := tget {} (s.die d).tim.cap c
def State.modCap (s : State) (d c : Nat) (f : CapUnit → CapUnit) : State :=
  s.modDie d fun x => { x with tim := { x.tim with cap := tmod {} x.tim.cap c f } }

/-- The delay entry of a capture source, none for a TDM frame sync. -/
def captureDly (src : Nat) : Option Nat :=
  if 1 ≤ src && src ≤ 4 then some (13 + src) else if src = 5 || src = 6 then some (5 + src) else none

/-- Whether a capture source exists on a die: EVT_IN and PPS_IN on die 0, the TDM ports on every one. -/
def captureSrcOk (d src : Nat) : Bool := (8 ≤ src && src ≤ 15) || (d == 0 && 1 ≤ src && src ≤ 6)

/-- CAPTURE_EDGE: a pulse shorter than the filter is ignored whole; every DIV-th selected edge is stamped into the
FIFO, where a full FIFO drops the newest with error 0x0206 (02 R52). -/
def execCaptureEdge (die unit : Nat) (raw : BitVec 64) (rising : Bool) (widthNs : Nat) (s : State) :
    Host.Outcome State Fault Refusal :=
  let c := s.capUnit die unit
  let filter := 2 * min c.filter.toNat 15
  let wanted := if rising then c.edge.getLsbD 0 else c.edge.getLsbD 1
  if !captureSrcOk die c.src.toNat || widthNs < filter || !wanted then .next s
  else
    let n := c.count + 1
    if n < max c.div.toNat 1 then .next (s.modCap die unit fun c => { c with count := n })
    else
      let t := match captureDly c.src.toNat with
        | some k => rxStamp (s.dlyOf 0 k) raw
        | none => raw
      if c.fifo.length < 16 then
        .next (s.modCap die unit fun c => { c with count := 0, fifo := c.fifo ++ [(t, if rising then 1 else 2)] })
      else .next (raise die 0x0206 (BitVec.ofNat 64 unit) <| timEv die 5 <|
        s.modCap die unit fun c => { c with count := 0, ovf := c.ovf + 1 })

/-- TIM_CAP_POP: the oldest entry of a capture FIFO is removed. -/
def execTimCapPop (die c : Nat) (s : State) : Host.Outcome State Fault Refusal :=
  if s.off die then .next s else
  .next (s.modCap die c fun u => { u with fifo := u.fifo.drop 1 })

/-- TIM_CAP_CFG_WRITE: a change empties the unit's FIFO and restarts its divider (02 R55, Table 2.16). -/
def execTimCapCfgWrite (die c : Nat) (v : Word) (s : State) : Host.Outcome State Fault Refusal :=
  if s.off die then .next s else
  .next (s.modCap die c fun u =>
    let w := { u with src := fld v 0 4, edge := fld v 4 2, div := fld v 6 16, filter := fld v 22 5 }
    if w = u then u else { w with fifo := [], count := 0 })

/-! ## PPS output (20 R426) -/

/-- WIDTH of PPS_OUT in use, ns. -/
def ppsWidth (s : State) : Nat := clampN 100 900000000 (fldN s.servo.ppsCfg 0 30)

/-- PPS_OUT_PULSE: PPS_OUT rises for the next whole second of device time whose instant of driving is still to come, and
falls WIDTH later; both edges are placed by the delay table. -/
def execPpsOutPulse (s : State) : Host.Outcome State Fault Refusal :=
  if !bit s.servo.ppsCfg 63 then .next s
  else
    let e := s.dlyOf 0 12
    let fix : Int := e.txFix.toInt + (e.cable.toNat : Int)
    let t := ((unitsSec : Int) * (((s.time 0 : Int) + fix) / (unitsSec : Int) + 1)).toNat
    let s := s.advanceTo 0 ((t : Int) - fix).toNat
    let fall := stampOf (t + unitsNs * ppsWidth s)
    .next (emit (.pps false (driveAt e fall)) (emit (.pps true (driveAt e (stampOf t))) { s with pps := some fall }))

end Sys2Proof.Machine
end

