-- ==== Sys2Proof/Machine/Ptp.lean ====
section
/-! DEFINITION. The PTP stack of die 0's Duken core: an ordinary clock with up to four ports (02 R35, R40). What IEEE
1588-2019 lays down, which the manual only names, is as log 136 says. -/

namespace Sys2Proof.Machine

/-! ## Subports and their control queues (12 R278) -/

/-- Subport `i` of die `d`, its registers, and changes of its egress state. -/
def State.sub8 (s : State) (d i : Nat) : Subport := tget {} (s.die d).egr.sub i
def State.ethPort (s : State) (d i : Nat) : EthPort := tget {} (s.die d).ing.eth i
def State.modSub8 (s : State) (d i : Nat) (f : Subport → Subport) : State :=
  s.modDie d fun x => { x with egr := { x.egr with sub := tmod {} x.egr.sub i f } }

/-- Whether a subport exists in the current mode and is not the Adit subport. -/
def mediaSubport (s : State) (d i : Nat) : Bool :=
  s.hasDie d && (s.die d).ing.present.getLsbD i && !(s.die d).ing.adit.getLsbD i

/-- A frame of the Duken core enters the control queue of a subport (12 R278, R281). -/
def sendDuken (d i : Nat) (m : DukenMsg) (s : State) : State :=
  let p : TxPacket := { kind := .control, entry := s.clk, duken := some m }
  if mediaSubport s d i then s.modSub8 d i fun x => { x with control := x.control ++ [p] } else s

/-! ## Configuration (02 Table 2.13) -/

/-- PROFILE, TRANSPORT, MASTER_EN, ONE_STEP, DOMAIN. -/
def ptpProfile (s : State) : Nat := fldN s.servo.ptpCfg 0 3
def ptpTransport (s : State) : BitVec 2 := fld s.servo.ptpCfg 4 2
def ptpMasterEn (s : State) : Bool := bit s.servo.ptpCfg 6
def ptpOneStep (s : State) : Bool := bit s.servo.ptpCfg 7
def ptpDomain (s : State) : Byte := fld s.servo.ptpCfg 8 8

/-- Whether the profile measures the delay peer to peer. -/
def ptpPeer (s : State) : Bool := ptpProfile s == 2

/-- The announce receipt timeout: ANN_TMO, held to 2 to 10, intervals of 2^LOG_ANN s, held to −3 to +3 (Table 2.3). -/
def annTimeout (s : State) : Nat :=
  let log := clampI (-3) 3 (fld s.servo.ptpCfg 20 4).toInt
  clampN 2 10 (fldN s.servo.ptpCfg 24 4) * (unitsSec * 2 ^ (log + 3).toNat / 8)

/-- Byte `p` of TIM_PTP_PORTS: subport, die and enable. -/
def ptpByte (s : State) (p : Nat) : Word := fld (s.servo.ptpPorts.setWidth 64) (8 * p) 8 |>.setWidth 64
def ptpOn (s : State) (p : Nat) : Bool := decide (p < 4) && ptpProfile s != 0 && bit (ptpByte s p) 7
def ptpDie (s : State) (p : Nat) : Nat := fldN (ptpByte s p) 3 3

/-- The delay entry of a PTP port's subport. -/
def ptpDly (s : State) (p : Nat) : DlyEntry := s.dlyOf (ptpDie s p) (fldN (ptpByte s p) 0 3)

/-- A PTP port, and its change. -/
def State.ptp (s : State) (p : Nat) : PtpPort := tget {} s.servo.ptp p
def State.modPtp (s : State) (p : Nat) (f : PtpPort → PtpPort) : State :=
  { s with servo := { s.servo with ptp := tmod {} s.servo.ptp p f } }

/-- The bridge's own data set and port identities; identity and quality are free (log 136). -/
def ownClock (s : State) : PtpClock :=
  { prio1 := fld s.servo.ptpCfg 32 8, quality := Config.ptpQuality, prio2 := fld s.servo.ptpCfg 40 8, gm := Config.ptpIdentity }
def ownPort (p : Nat) : BitVec 80 := (Config.ptpIdentity.setWidth 80 <<< 16) ||| BitVec.ofNat 80 (p + 1)

/-! ## Best master clock (02 Table 2.3) -/

/-- Whether the first list of numbers is below the second in lexicographic order. -/
def lexLt : List Nat → List Nat → Bool
  | a :: as, b :: bs => decide (a < b) || (a == b && lexLt as bs)
  | _, _ => false

/-- Whether a data set, heard from a port, is better than another: of one grandmaster the fewer steps, else priority1, class,
accuracy, variance, priority2, identity. -/
def betterClock (a b : BitVec 80 × PtpClock) : Bool :=
  if a.2.gm = b.2.gm then lexLt [a.2.steps.toNat, a.1.toNat] [b.2.steps.toNat, b.1.toNat]
  else
    let key (c : PtpClock) : List Nat := [c.prio1.toNat, c.quality.toNat, c.prio2.toNat, c.gm.toNat]
    lexLt (key a.2) (key b.2)

/-- The enabled ports, and the one that has heard the best clock of all. -/
def ptpPortList (s : State) : List Nat := (List.range 4).filter (ptpOn s)
def bestPort (s : State) : Option (Nat × BitVec 80 × PtpClock) :=
  (ptpPortList s).foldl (fun b p =>
    match (s.ptp p).best, b with
    | some x, none => some (p, x)
    | some x, some (q, y) => if betterClock x y then some (p, x) else some (q, y)
    | none, _ => b) none

/-- The state that the decision gives a port. -/
def decideState (s : State) (p : Nat) : PtpState :=
  let own : BitVec 80 × PtpClock := (ownPort p, ownClock s)
  let ebest := bestPort s
  let mine := ebest.any fun e => e.1 == p
  if !ptpMasterEn s then if mine then .slave else .listening
  else if (s.ptp p).best.isNone && (s.ptp p).state == .listening then .listening
  else
    let cls := own.2.quality.toNat / 2 ^ 24
    let beats (e : Option (BitVec 80 × PtpClock)) : Bool := match e with | some e => betterClock own e | none => true
    if 1 ≤ cls && cls ≤ 127 then if beats (s.ptp p).best then .master else .passive
    else if beats (ebest.map (·.2)) then .master
    else if mine then .slave
    else match (s.ptp p).best, ebest with
      | some x, some (_, e) => if x.2.gm == e.2.gm then .passive else .master
      | _, _ => .master

/-- The port in slave state. -/
def slavePort (s : State) : Option Nat := (ptpPortList s).find? fun p => (s.ptp p).state == .slave

/-- The decision is carried out on every port: the source is gained with a fresh 10 s, or lost (02 R40). -/
def ptpDecide (s : State) : State :=
  let t := forAll (ptpPortList s) (fun p t => t.modPtp p fun x => { x with state := decideState s p }) s
  match slavePort t with
  | none => ptpLost t
  | some _ =>
    if (t.ref 1).present then t
    else refTo 1 .qualifying (t.modRef 1 fun r => { r with present := true, outliers := 0, cleanSince := t.now 0 })

/-! ## Messages -/

/-- A Sync's origin and its arrival less corrections give the offset, where the path delay is known (02 R40). -/
def ptpTime (p : Nat) (origin arrival : BitVec 64) (s : State) : State :=
  let ms := stampDiff arrival origin
  let s := s.modPtp p fun x => { x with sync := none, last := ms }
  match (s.ptp p).delay with
  | some d => if (s.ref 1).present then ptpOffset (ms - d) s else s
  | none => s

/-- A message of a port in slave state from its master: what it brings to the servo. -/
def fromMaster (m : PtpMsg) (at_ : BitVec 64) (s : State) : State :=
  let x := s.ptp m.port
  match m.body with
  | .sync false origin => ptpTime m.port origin at_ s
  | .sync true _ => s.modPtp m.port fun x => { x with sync := some (m.seq, at_) }
  | .followUp origin =>
    match x.sync with
    | some (q, t2) => if q = m.seq then ptpTime m.port origin (t2 - BitVec.ofInt 64 m.corr) s else s
    | none => s
  | .delayResp asker receipt =>
    match x.reqAt with
    | some t3 =>
      if asker = ownPort m.port && m.seq = x.seq && !ptpPeer s then
        s.modPtp m.port fun x => { x with reqAt := none, delay := some ((x.last + stampDiff receipt t3 - m.corr) / 2) }
      else s
    | none => s
  | _ => s

/-- Sends a message on a port, with the stamp that it carries. -/
def sendPtp (p : Nat) (k : PtpSent) (seq : BitVec 16) (stamp : BitVec 64) (s : State) : State :=
  sendDuken (ptpDie s p) (fldN (ptpByte s p) 0 3) (.ptp p k seq stamp) s

/-- Whether a message is a PTP event message, whose departure is stamped (12 R281). -/
def ptpEvent : PtpSent → Bool
  | .sync _ | .delayReq | .pdelayReq | .pdelayResp => true
  | .announce | .followUp | .delayResp | .pdelayFollowUp | .management => false

/-- What the departure of a message of the Duken core, at its stamp, leads to: a Follow_Up tells that of a two-step Sync or of a peer
delay response; a delay request's is kept (02 R35, R37). -/
def dukenDeparted (m : DukenMsg) (stamp : BitVec 64) (s : State) : State :=
  match m with
  | .ptp p (.sync true) seq _ => sendPtp p .followUp seq stamp s
  | .ptp p .pdelayResp seq _ => sendPtp p .pdelayFollowUp seq stamp s
  | .ptp p .delayReq seq _ | .ptp p .pdelayReq seq _ =>
    s.modPtp p fun x => if x.seq = seq then { x with reqAt := some stamp } else x
  | _ => s

/-- An Announce message: heard on its port, where it is the best master's or of a better clock; the parent's UTC offset is
kept (02 R27). -/
def hearAnnounce (m : PtpMsg) (c : PtpClock) (utc : BitVec 16) (valid : Bool) (s : State) : State :=
  let takes := match (s.ptp m.port).best with
    | some b => b.1 == m.sender || betterClock (m.sender, c) b
    | none => true
  if !takes then s
  else
    let s := ptpDecide (s.modPtp m.port fun x => { x with best := some (m.sender, c), bestAt := s.clk })
    if slavePort s = some m.port then
      { s with servo := { s.servo with utcOfs := utc.setWidth 17 ||| (if valid then 0x10000 else 0) } }
    else s

/-- Peer delay messages of a port (profile 2). -/
def peerDelay (m : PtpMsg) (at_ : BitVec 64) (s : State) : State :=
  let x := s.ptp m.port
  match m.body with
  | .pdelayReq => sendPtp m.port .pdelayResp m.seq at_ s
  | .pdelayResp two asker receipt =>
    match x.reqAt with
    | some t1 =>
      if asker ≠ ownPort m.port || m.seq ≠ x.seq then s
      else if two then s.modPtp m.port fun x => { x with reqAt := none, respAt := some (stampDiff at_ t1 + stampDiff receipt 0) }
      else s.modPtp m.port fun x => { x with reqAt := none, delay := some (stampDiff at_ t1 / 2) }
    | none => s
  | .pdelayFollowUp asker sent =>
    match x.respAt with
    | some t =>
      if asker ≠ ownPort m.port || m.seq ≠ x.seq then s
      else s.modPtp m.port fun x => { x with respAt := none, delay := some ((BitVec.ofInt 64 (t - m.corr) - sent).toInt / 2) }
    | none => s
  | _ => s

/-- PTP_MESSAGE: a message of the configured domain and transport on an enabled port. Announce messages feed the best master
clock; in slave state the master's messages give path delay and offset; in master state delay requests are answered;
management messages are answered where they read and do nothing where they write (02 R27, R35, R40). -/
def execPtpMessage (m : PtpMsg) (s : State) : Host.Outcome State Fault Refusal :=
  let x := s.ptp m.port
  let at_ := rxStamp (ptpDly s m.port) m.arrival - BitVec.ofInt 64 m.corr
  if !ptpOn s m.port || m.domain ≠ ptpDomain s || m.transport ≠ ptpTransport s then .next s
  else match m.body with
    | .announce c utc valid => .next (hearAnnounce m c utc valid s)
    | .delayReq => .next (if x.state = .master && !ptpPeer s then sendPtp m.port .delayResp m.seq at_ s else s)
    | .pdelayReq | .pdelayResp _ _ _ | .pdelayFollowUp _ _ => .next (if ptpPeer s then peerDelay m at_ s else s)
    | .management get => .next (if get then sendPtp m.port .management m.seq 0 s else s)
    | .sync _ _ | .followUp _ | .delayResp _ _ =>
      .next (if x.state = .slave && x.best.any (·.1 == m.sender) then fromMaster m at_ s else s)
    | .other => .next s

/-- The announce receipt timeout of the port in slave state: the source is lost with error 0x0201, and the ports decide anew
without that master (02 R40). -/
def announceLost (p : Nat) (s : State) : State :=
  let s := s.advance ((annTimeout s : Int) - stampDiff s.clk (s.ptp p).bestAt).toNat
  ptpDecide (ptpLost (s.modPtp p fun x => { x with best := none, state := .listening, sync := none, delay := none }))

/-- ANNOUNCE_RECEIPT_TIMEOUT. Without a slave port, the ports of a unit with MASTER_EN that have heard no master take that
role. -/
def execAnnounceReceiptTimeout (s : State) : Host.Outcome State Fault Refusal :=
  match slavePort s with
  | some p => .next (announceLost p s)
  | none =>
    if !ptpMasterEn s then .next s
    else .next (forAll ((ptpPortList s).filter fun p => (s.ptp p).best.isNone) (fun p s => s.modPtp p fun x => { x with state := .master }) s)

/-- PTP_REQUALIFY: 10 s in slave state within OUTLIER qualify the source; an announce receipt timeout before that comes first
(02 R40). -/
def execPtpRequalify (s : State) : Host.Outcome State Fault Refusal :=
  let r := s.ref 1
  let left := stampDiff (r.cleanSince + BitVec.ofNat 64 (10 * unitsSec)) (s.now 0)
  if !r.present || r.state ≠ .qualifying then .next s
  else match slavePort s with
    | none => .next s
    | some p =>
      if (annTimeout s : Int) ≤ stampDiff s.clk (s.ptp p).bestAt + left then .next (announceLost p s)
      else .next (refTo 1 .qualified (s.advanceToStamp 0 (r.cleanSince + BitVec.ofNat 64 (10 * unitsSec))))

/-- The PTP ports restart: nothing heard, nothing measured. The source is disqualified where it was in slave state: DESIGN
CHOICE (log 133): as on a loss of slave state, DISQ_STOP with error 0x0201. -/
def ptpRestart (s : State) : State :=
  let lost := (s.ref 1).present
  let s := { s with servo := { s.servo with ptp := [] } }.modRef 1 fun r => { r with present := false, outliers := 0 }
  if lost then disqualify 1 .disqStop 0x0201 1 s else s

/-- A change of TIM_PTP_CFG restarts the ports (02 R55). -/
def writePtpCfg (v : Word) (s : State) : State :=
  let c := v &&& 0x0FFFFFFF0FFFFFF7
  if c = s.servo.ptpCfg then s else ptpRestart { s with servo := { s.servo with ptpCfg := c } }

/-- A write of TIM_PTP_PORTS: a port whose byte changes starts anew; a slave port so lost loses the source. -/
def writePtpPorts (v : BitVec 32) (s : State) : State :=
  let old := s
  let s := { s with servo := { s.servo with ptpPorts := v } }
  ptpDecide (forAll ((List.range 4).filter fun p => ptpByte old p != ptpByte s p) (fun p s => s.modPtp p fun _ => {}) s)

/-- TIM_PTP_CFG_WRITE. -/
def execTimPtpCfgWrite (v : Word) (s : State) : Host.Outcome State Fault Refusal :=
  if s.off 0 then .next s else
  .next (writePtpCfg v s)

/-- What an interval's end makes a port send: as a master an Announce, or a Sync, with the origin in it or in a Follow_Up; as
a slave a delay request; in profile 2 a peer delay request. -/
def ptpSend (k : PtpKind) (p : Nat) (s : State) : State :=
  let x := s.ptp p
  let next := x.seq + 1
  let asks (sent : PtpSent) : State := sendPtp p sent next 0 (s.modPtp p fun x => { x with seq := next, respAt := none, reqAt := none })
  match k with
  | .announce => if x.state = .master then sendPtp p .announce next 0 (s.modPtp p fun x => { x with seq := next }) else s
  | .sync =>
    if x.state ≠ .master then s else sendPtp p (.sync (!ptpOneStep s)) next 0 (s.modPtp p fun x => { x with seq := next })
  | .delayReq => if x.state = .slave && !ptpPeer s then asks .delayReq else s
  | .pdelayReq => if ptpPeer s then asks .pdelayReq else s

/-- PTP_SYNC_INTERVAL: an interval ends on every enabled port (02 R35). -/
def execPtpSyncInterval (k : PtpKind) (s : State) : Host.Outcome State Fault Refusal :=
  .next (forAll (ptpPortList s) (fun p s => ptpSend k p s) s)

/-- ESMC_TRANSMIT: the Duken core sends a quality message on the selected port; the level it sends is a free value (log 7). -/
def execEsmcTransmit (s : State) : Host.Outcome State Fault Refusal :=
  if !synceOn s then .next s
  else
    let (v, s) := draw s
    .next (sendDuken (fldN s.servo.synceCfg 3 3) (fldN s.servo.synceCfg 0 3) (.esmc (v.setWidth 4)) s)

end Sys2Proof.Machine
end

