-- ==== Sys2Proof/Machine/Egress.lean ====
section
/-! DEFINITION. Egress: leg queues, shapers, start-time fair queuing, departure, retransmission, RTCP sending and
host frames (12 R271 to R286). -/

namespace Sys2Proof.Machine

/-! ## Subports and legs -/

/-- The MAX_WAIT, RTX_HOLD, RTCP_INT and CCFB_INT of a die, ms (12 R286). -/
def egrMaxWait (s : State) (d : Nat) : Nat := fldN (s.die d).egr.timing 0 16
def egrRtxHold (s : State) (d : Nat) : Nat := fldN (s.die d).egr.timing 16 16

/-- Milliseconds in 2^-16 ns. -/
def msUnits (n : Nat) : Nat := unitsMp * n

/-- An instant on the clock of durations some ms after a noted one: device time moves there where it lies ahead. -/
def State.advanceMs (s : State) (since : BitVec 64) (ms : Nat) : State :=
  s.advance ((msUnits ms : Int) - stampDiff s.clk since).toNat

/-! ## Shaping (12 R280, with the arithmetic of 05 R114) -/

/-- Tokens and last stamp of a bucket brought up to an instant: rate in kb/s, burst in bytes. -/
def fillBucket (rate burst : Nat) (t : BitVec 64) (b : Nat × BitVec 64) : Nat × BitVec 64 :=
  let ns := (stampDiff t b.2) / 65536
  if 0 < ns then (min (8000000 * burst) (b.1 + rate * ns.toNat), b.2 + BitVec.ofNat 64 (65536 * ns.toNat)) else b

/-- Tokens that a packet needs. -/
def bucketNeed (len : Nat) : Nat := 8000000 * len

/-- Order of the kinds in a leg's queue (12 R278). -/
def kindRank : TxKind → Nat
  | .control => 0
  | .rtcp => 1
  | .audio => 2
  | .rtx => 3
  | .video => 4

/-- The head of a leg's queue: the oldest packet of the first non-empty kind. -/
def queueHead (q : List TxPacket) : Option TxPacket :=
  (q.foldl (fun best p => match best with
    | none => some p
    | some b => if kindRank p.kind < kindRank b.kind then some p else best) none)

/-- Bytes in a queue. -/
def queueBytes (q : List TxPacket) : Nat := (q.map (·.ipLen)).foldl (· + ·) 0

/-- Whether a leg's head has entered egress and may depart at this instant by its shaper. -/
def headEligible (s : State) (l : BitVec 16) : Bool :=
  let h := s.legLive l
  let t := (s.leg l).tx
  match queueHead t.queue with
  | none => false
  | some p =>
    !stampBefore s.clk p.entry &&
    (h.outRate == 0 || decide (bucketNeed p.ipLen ≤ (fillBucket h.outRate h.outBurst (s.now h.ethDie) (t.tok, t.last)).1))

/-! ## Entering a queue (12 R280, R281) -/

/-- A packet is dropped at a leg's queue: QUEUE_DROP, error 0x0C01 at most once per leg and second. -/
def queueDrop (l : BitVec 16) (s : State) : State :=
  let d := (s.legLive l).ethDie
  raiseOnce d (engineReq 5) 0x0C01 (l.setWidth 64) (l.setWidth 64)
    (egrEv d 0 (egrCnt d 1 (s.modTx l fun t => { t with queueDrop := t.queueDrop + 1 })))

/-- Evicts the oldest video packets of a queue until `len` more bytes fit `cap`: the queue and how many went. -/
def evictVideo (cap len : Nat) : (fuel : Nat) → List TxPacket → Nat × List TxPacket
  | 0, q => (0, q)
  | n + 1, q =>
    if queueBytes q + len ≤ cap then (0, q)
    else match q.find? (·.kind == .video) with
      | some v => let (k, q') := evictVideo cap len n (q.erase v); (k + 1, q')
      | none => (0, q)

/-- Egress entry `after` units from now: a packet enters its leg's queue. On a subport that does not exist it is discarded and counted (05 R105). -/
def enqueueAfter (after : Nat) (p : TxPacket) (s : State) : State :=
  let l := p.leg
  let h := s.legLive l
  let p := { p with entry := s.clk + BitVec.ofNat 64 after }
  if !mediaSubport s h.ethDie h.ethIdx then s.modTx l fun t => { t with queueDrop := t.queueDrop + 1 }
  else
    let cap := max 65536 (2 * h.outBurst)
    let q := (s.leg l).tx.queue
    if queueBytes q + p.ipLen ≤ cap then s.modTx l fun t => { t with queue := t.queue ++ [p] }
    else if p.kind = .video || p.kind = .rtx then queueDrop l s
    else
      let (k, q') := evictVideo cap p.ipLen q.length q
      let s := forAll (List.range k) (fun _ s => queueDrop l s) s
      if queueBytes q' + p.ipLen ≤ cap then s.modTx l fun t => { t with queue := q' ++ [p] }
      else queueDrop l (s.modTx l fun t => { t with queue := q' })

/-- A packet enters its leg's queue now. -/
def enqueueLeg (p : TxPacket) (s : State) : State := enqueueAfter 0 p s

/-- Adds bytes to, or takes them from, the packet-buffer pool of a die. -/
def pktPoolAdd (d : Nat) (n : Nat) (s : State) : State :=
  s.modDie d fun x => { x with ing := { x.ing with pktUsed := x.ing.pktUsed + n } }
def pktPoolSub (d : Nat) (n : Nat) (s : State) : State :=
  s.modDie d fun x => { x with ing := { x.ing with
    pktUsed := x.ing.pktUsed - n, pktEpisode := x.ing.pktEpisode && decide (x.str.pktPool * 9 ≤ (x.ing.pktUsed - n) * 10) } }

/-- Adds bytes to, or takes them from, the jitter-buffer pool of a die; an episode ends below 90 % (05 R115). -/
def jbPoolAdd (d : Nat) (n : Nat) (s : State) : State :=
  s.modDie d fun x => { x with ing := { x.ing with jbUsed := x.ing.jbUsed + n } }
def jbPoolSub (d : Nat) (n : Nat) (s : State) : State :=
  s.modDie d fun x => { x with ing := { x.ing with
    jbUsed := x.ing.jbUsed - n, jbEpisode := x.ing.jbEpisode && decide (x.str.jbPool * 9 ≤ (x.ing.jbUsed - n) * 10) } }

/-- The oldest held packet of a leg leaves. -/
def dropHeld (l : BitVec 16) (s : State) : State :=
  match (s.leg l).tx.held with
  | [] => s
  | h :: _ => pktPoolSub (legDie l) h.pkt.ipLen (s.modTx l fun t => { t with held := t.held.drop 1 })

/-- The leg of a die that holds the oldest packet for retransmission. -/
def oldestHeld (s : State) (d : Nat) : Option (BitVec 16) :=
  ((s.legsOf d).foldl (fun best l =>
    match (s.leg l).tx.held with
    | [] => best
    | h :: _ => match best with
      | none => some (l, h.sentAt)
      | some (_, t) => if stampBefore h.sentAt t then some (l, h.sentAt) else best) none).map (·.1)

/-- At 80 % occupancy of the packet-buffer pool the oldest held packets are released first (12 R273). -/
def trimHeld (d : Nat) : (fuel : Nat) → State → State
  | 0, s => s
  | n + 1, s =>
    if (s.die d).str.pktPool * 8 ≤ (s.die d).ing.pktUsed * 10 then
      match oldestHeld s d with
      | some l => trimHeld d n (dropHeld l s)
      | none => s
    else s

/-- An encrypted video packet is held for RTX_HOLD ms (12 R273). -/
def holdPacket (p : TxPacket) (plain : List Byte) (s : State) : State :=
  let d := legDie p.leg
  let s := pktPoolAdd d p.ipLen (s.modTx p.leg fun t => { t with held := t.held ++ [{ pkt := p, plain := plain, sentAt := s.clk }] })
  trimHeld d 64 s

/-- The RTP header of a packet after its rewrite. -/
def rtpHeader (p : TxPacket) : List Byte :=
  [0x80, (if p.marker then 0x80 else 0) ||| p.pt.setWidth 8] ++ (leBytes p.seq.toNat 2).reverse ++
    (leBytes p.ts.toNat 4).reverse ++ (leBytes p.ssrc.toNat 4).reverse

/-- The output unit whose digest a packet joins: a mosaic's viewer, else the leg's streams (16 R359). -/
def unitOf (s : State) (p : TxPacket) : BitVec 16 :=
  let h := s.legLive p.leg
  if p.kind = .video && h.txVc == 2 && h.seamOk && (s.confLive (s.confOf p.leg)).seamLayout != noId then seamUnit p.leg else legUnit p.leg

/-- A rewritten RTP packet of a leg: it joins the leg's digest, it is encrypted under TX_KEY, a video packet is held, and it
enters the leg's queue `after` units from now. A counter at its limit drops it before encryption. -/
def sendRtpAfter (after : Nat) (p : TxPacket) (s : State) : State :=
  let s := digestBytes (legDie p.leg) (unitOf s p) (rtpHeader p ++ p.payload) s
  match protectRtp p.leg p.ssrc p.seq p.payload s with
  | (none, s) => s
  | (some (payload, idx), s) =>
    let q := { p with payload := payload, index := idx }
    let s := if p.kind = .video then holdPacket q p.payload s else s
    enqueueAfter after q s

/-- The same, entering its queue now. -/
def sendRtp (p : TxPacket) (s : State) : State := sendRtpAfter 0 p s

/-- EGRESS_ENQUEUE: a rewritten packet of an open leg goes to egress. -/
def execEgressEnqueue (p : TxPacket) (s : State) : Host.Outcome State Fault Refusal :=
  .next (if s.legOpen p.leg then sendRtp p s else s)

/-! ## RTCP (12 R277, R282) -/

/-- IP and UDP header bytes of a leg's packets: IPv4 where REMOTE_ADDR is ::ffff:a.b.c.d. -/
def ipHeader (h : LegHalf) : Nat := if h.remoteAddr.extractLsb' 32 96 == 0xFFFF then 28 else 48

/-- Bytes of an RFC 8888 report: for each SSRC 8 and, in whole words, 2 for each sequence number from its first to its
last. -/
def ccfbLen (r : List (BitVec 32 × BitVec 16 × BitVec 2 × BitVec 64)) : Nat :=
  12 + ((r.map (·.1)).eraseDups.map fun ssrc =>
    let q := (r.filter (·.1 == ssrc)).map (·.2.1)
    let span := q.foldl (fun n a => q.foldl (fun n b => max n (b - a).toInt.toNat) n) 0 + 1
    8 + 4 * ((2 * span + 3) / 4)).foldl (· + ·) 0

/-- Bytes of a reduced-size RTCP message (PRESUMED, RFC 3550, 4585, 5104 and 8888; log 27). -/
def rtcpLen : RtcpMsg → Nat
  | .senderReport _ _ _ => 28
  | .ccfb r => ccfbLen r
  | .nack _ q => 12 + 4 * q.length
  | .pli _ => 12
  | .fir _ _ => 20
  | .bye _ => 8
  | .receiverReport b => 8 + 24 * b.length

/-- Sends an RTCP message on a leg: encrypted or authenticated under its SRTCP index. The bytes of the message are
a matter of the RFCs; the message itself goes with the packet (log 27). -/
def sendRtcp (l : BitVec 16) (m : RtcpMsg) (s : State) : State :=
  let h := s.legLive l
  let ssrc := if h.txSsrcA ≠ 0 then h.txSsrcA else h.txSsrcV
  match protectRtcp l ssrc [] s with
  | (none, s) => s
  | (some (payload, idx), s) =>
    enqueueLeg { leg := l, kind := .rtcp, ssrc := ssrc, payload := payload, index := idx, rtcp := some m,
                 ipLen := ipHeader h + rtcpLen m + (if h.xform = 0 then 0 else 4 + xformTag h.xform) } s

/-- RTP clock of an audio codec: 8 kHz for PCMU, PCMA and G.722, else 48 kHz. -/
def audioClock (ac : Nat) : Nat := if ac = 2 || ac = 3 || ac = 4 then 8000 else 48000

/-- NTP time of an instant of device time: UTC seconds since 1900 and the fraction (12 R282). -/
def ntpOf (s : State) (t : Nat) : BitVec 64 :=
  let utc : Int := if s.servo.utcOfs.getLsbD 16 then (s.servo.utcOfs.setWidth 16).toInt else 0
  put (BitVec.ofInt 32 ((t / unitsSec : Int) + utc + 2208988800)) 32 |||
    put (BitVec.ofNat 32 (2 ^ 32 * (t % unitsSec / 65536) / 1000000000)) 0

/-- A random value kept per SSRC: the one held, or a free one drawn now (12 R271, R282). -/
def tsBaseOf (l : BitVec 16) (ssrc : BitVec 32) (s : State) : BitVec 32 × State :=
  match (s.leg l).tx.tsBase.find? (·.1 == ssrc) with
  | some (_, b) => (b, s)
  | none =>
    let (v, s) := drawLedger (legDie l) s
    (v.setWidth 32, s.modTx l fun t => { t with tsBase := (ssrc, v.setWidth 32) :: t.tsBase })

/-- The next sequence number of an own SSRC; the first is random. -/
def nextSeqOf (l : BitVec 16) (ssrc : BitVec 32) (s : State) : BitVec 16 × State :=
  match (s.leg l).tx.seqBase.find? (·.1 == ssrc) with
  | some (_, n) => (n, s.modTx l fun t => { t with seqBase := (ssrc, n + 1) :: t.seqBase.filter (·.1 != ssrc) })
  | none =>
    let (v, s) := drawLedger (legDie l) s
    let n : BitVec 16 := v.setWidth 16
    (n, s.modTx l fun t => { t with seqBase := (ssrc, n + 1) :: t.seqBase })

/-- The subscription entries of an open leg that rewrite to an SSRC. -/
def subsTo (s : State) (l : BitVec 16) (ssrc : BitVec 32) : List SubEntry :=
  ((subList s l (s.legLive l)).map fun i => s.sub (legDie l) i).filter fun e => e.ssrcRw && e.outSsrc == ssrc

/-- Whether the timestamps of a leg's TX_SSRC_V are those of its composed Gallery video, which its forwarding state maps: TS_DELTA added
to 90 × MP (12 R271, R282). -/
def videoMapped (s : State) (l : BitVec 16) : Bool := let h := s.legLive l; !(h.txVc == 2 && h.seamOk)

/-- A sender report of a sent SSRC at this instant (12 R282): own audio and video by their mapping, a forwarded SSRC
by its source's latest report. -/
def senderReport (l : BitVec 16) (ssrc : BitVec 32) (s : State) : State :=
  let h := s.legLive l
  let t := s.time (legDie l)
  let ntp := ntpOf s t
  if ssrc = h.txSsrcA && h.listenEn then
    let (b, s) := tsBaseOf l ssrc s
    sendRtcp l (.senderReport ssrc ntp (BitVec.ofNat 32 (t * audioClock h.txAc / unitsSec) + b)) s
  else if ssrc = h.txSsrcV then
    let (b, s) := if videoMapped s l then ((fld (s.leg l).tx.comp0 32 32 : BitVec 32), s) else tsBaseOf l ssrc s
    sendRtcp l (.senderReport ssrc ntp (BitVec.ofNat 32 (t * 90 / unitsMp) + b)) s
  else match subsTo s l ssrc with
    | e :: _ =>
      let h' := s.legLive e.source
      let src := if e.kind = 0 then h'.rxSsrcA else [h'.rxSsrcV0, h'.rxSsrcV1, h'.rxSsrcV2].getD e.curS h'.rxSsrcV0
      match (s.leg e.source).tx.lastSr.find? (·.1 == src) with
      | some (_, n, ts) => sendRtcp l (.senderReport ssrc n (ts + e.tsDelta)) s
      | none => s
    | [] => s

/-- RTCP_INT and CCFB_INT of a leg's home die, ms. -/
def rtcpInt (s : State) (l : BitVec 16) : Nat := fldN (s.die (legDie l)).egr.timing 32 16
def ccfbInt (s : State) (l : BitVec 16) : Nat := fldN (s.die (legDie l)).egr.timing 48 16

/-- An instant on the clock of durations that has been set before: device time moves there where it lies ahead. -/
def State.advanceDue (s : State) (due : Option (BitVec 64)) : State :=
  match due with | some t => s.advance (stampDiff t s.clk).toNat | none => s

/-- The interval of a sent SSRC's reports ends; the next is drawn uniformly from 0.5 to 1.5 × RTCP_INT, a free value (log 27). -/
def nextReport (l : BitVec 16) (ssrc : BitVec 32) (s : State) : State :=
  let s := s.advanceDue (((s.leg l).tx.srDue.find? (·.1 == ssrc)).map (·.2))
  let (v, s) := draw s
  let gap := msUnits (rtcpInt s l) / 2 + v.toNat % (msUnits (rtcpInt s l) + 1)
  s.modTx l fun t => { t with srDue := (ssrc, s.clk + BitVec.ofNat 64 gap) :: t.srDue.filter (·.1 != ssrc) }

/-- The interval of a leg's RFC 8888 reports ends. -/
def nextCcfb (l : BitVec 16) (s : State) : State :=
  let s := s.advanceDue (s.leg l).tx.ccfbDue
  s.modTx l fun t => { t with ccfbDue := some (s.clk + BitVec.ofNat 64 (msUnits (ccfbInt s l))) }

/-- RTCP_REPORT_TIMER: the sender report of a sent SSRC with report blocks of what the leg receives, or an RFC 8888
report, at the end of its interval (12 R277). -/
def execRtcpReportTimer (leg : BitVec 16) (ssrc : Option (BitVec 32)) (s : State) : Host.Outcome State Fault Refusal :=
  let h := s.legLive leg
  if !s.legOpen leg then .next s
  else match ssrc with
    | some r =>
      let s := nextReport leg r s
      let x := s.leg leg
      let s := if h.txEn then senderReport leg r s else s
      let lost (r : BitVec 32) : BitVec 32 := ((x.rx.lostBy.find? (·.1 == r)).map (·.2)).getD 0
      let jit (r : BitVec 32) : Nat := if r = h.rxSsrcA then x.jb.jitter else ((x.rx.vmap.find? (·.ssrc == r)).map (·.jitter)).getD 0
      let got := ([h.rxSsrcA, h.rxSsrcV0, h.rxSsrcV1, h.rxSsrcV2].filter (· != 0)).filter fun r => x.rx.tops.any (·.1 == r)
      .next (if h.rxEn && !got.isEmpty then
        sendRtcp leg (.receiverReport (got.map fun r => (r, lost r, BitVec.ofNat 32 (jit r / 16)))) s else s)
    | none =>
      let s := nextCcfb leg s
      .next (if h.rxEn then sendRtcp leg (.ccfb (s.leg leg).rx.seen.reverse) (s.modRx leg fun x => { x with seen := [] }) else s)

/-! ## Retransmission (12 R273) -/

/-- One packet named by a NACK: resent where it is held and was not resent within max(RTT, 20 ms). -/
def resendOne (l : BitVec 16) (ssrc : BitVec 32) (seq : BitVec 16) (s : State) : State :=
  let h := s.legLive l
  let x := s.leg l
  let gap : Int := 65536 * max x.rx.rtt 20000000
  match x.tx.held.find? fun e => e.pkt.ssrc == ssrc && e.pkt.seq == seq with
  | none =>
    raiseOnce (legDie l) (engineReq 5) 0x0C07 (l.setWidth 64) (l.setWidth 64)
      (egrCnt (legDie l) 4 (s.modTx l fun t => { t with rtxMiss := t.rtxMiss + 1 }))
  | some e =>
    let recent := match e.resentAt with | some t => decide (stampDiff s.clk t < gap) | none => false
    if recent then s
    else
      let s := egrCnt (legDie l) 3 (s.modTx l fun t => { t with
        rtxSent := t.rtxSent + 1
        held := t.held.map fun k => if k.pkt.ssrc == ssrc && k.pkt.seq == seq then { k with resentAt := some s.clk } else k })
      if ssrc = h.txSsrcV && h.txSsrcRtx ≠ 0 && h.rtxPt ≠ 0 then
        let (n, s) := nextSeqOf l h.txSsrcRtx s
        sendRtp { e.pkt with kind := .rtx, ssrc := h.txSsrcRtx, seq := n, pt := h.rtxPt, ipLen := e.pkt.ipLen + 2,
                             payload := (leBytes seq.toNat 2).reverse ++ e.plain } s
      else enqueueLeg { e.pkt with kind := .rtx } s

/-- A generic NACK of a receiver about the leg's own output. -/
def answerNack (l : BitVec 16) (ssrc : BitVec 32) (seqs : List (BitVec 16)) (s : State) : State :=
  forAll seqs (resendOne l ssrc) (s.modTx l fun t => { t with nackRx := t.nackRx + 1 })

/-- RTX_HOLD_EXPIRY: the oldest held packet of a leg is released after RTX_HOLD ms. -/
def execRtxHoldExpiry (leg : BitVec 16) (s : State) : Host.Outcome State Fault Refusal :=
  match (s.leg leg).tx.held with
  | [] => .next s
  | h :: _ => .next (dropHeld leg (s.advanceMs h.sentAt (egrRtxHold s (legDie leg))))

/-! ## Scheduling (12 R278, R279) -/

/-- Class `c` of a subport, its STRICT (1 at reset for classes 6 and 7) and its weight (0 treated as 1). -/
def State.cls (s : State) (d i c : Nat) : Sfq := tget {} (s.sub8 d i).classes c
def State.modCls (s : State) (d i c : Nat) (f : Sfq → Sfq) : State :=
  s.modSub8 d i fun x => { x with classes := tmod {} x.classes c f }
def clsStrict (s : State) (d i c : Nat) : Bool := (s.cls d i c).strict != (c == 6 || c == 7)
def clsWeight (s : State) (d i c : Nat) : Nat := max 1 (s.cls d i c).weight.toNat

/-- The later of two tags by R26. -/
def laterTag (a b : BitVec 64) : BitVec 64 := if stampBefore a b then b else a

/-- The open legs of a class of a subport that have something queued. -/
def legsOfClass (s : State) (d i c : Nat) : List (BitVec 16) :=
  s.allOpenLegs.filter fun l =>
    let h := s.legLive l
    h.ethDie == d && h.ethIdx == i && h.cls == c && !(s.leg l).tx.queue.isEmpty

/-- Brings the ready marks of a class's legs up to this instant, a queue that becomes ready by the wake-up rule. -/
def readyLegs (d i c : Nat) (s : State) : State :=
  forAll (legsOfClass s d i c) (fun l s =>
    let ok := headEligible s l
    let v := (s.cls d i c).v
    s.modTx l fun t =>
      if !ok then { t with ready := false }
      else if t.ready then t else { t with ready := true, start := laterTag v t.finish }) s

/-- Whether a class has a ready leg. -/
def clsHasReady (s : State) (d i c : Nat) : Bool := (legsOfClass s d i c).any fun l => (s.leg l).tx.ready

/-- Brings a subport's ready marks up to this instant. -/
def readySub (d i : Nat) (s : State) : State :=
  let s := forAll (List.range 8) (fun c s => readyLegs d i c s) s
  forAll (List.range 8) (fun c s =>
    let ok := clsHasReady s d i c
    let v := (s.sub8 d i).v
    s.modCls d i c fun k =>
      if !ok then { k with ready := false }
      else if k.ready then k else { k with ready := true, start := laterTag v k.finish }) s

/-- The element with the smallest start tag; `better` breaks a tie. -/
def pickStart {α : Type} (start : α → BitVec 64) (better : α → α → Bool) (l : List α) : Option α :=
  l.foldl (fun best x => match best with
    | none => some x
    | some b => if stampBefore (start x) (start b) || (start x == start b && better x b) then some x else best) none

/-- The class that a subport serves next: strict ones from the highest down, else by fair queuing. -/
def chooseClass (s : State) (d i : Nat) : Option Nat :=
  match ((List.range 8).reverse.find? fun c => clsStrict s d i c && clsHasReady s d i c) with
  | some c => some c
  | none => pickStart (fun c => (s.cls d i c).start) (fun a b => decide (b < a))
      ((List.range 8).filter fun c => !clsStrict s d i c && clsHasReady s d i c)

/-- The leg that a class serves next; ties go to the lowest leg ID. -/
def chooseLeg (s : State) (d i c : Nat) : Option (BitVec 16) :=
  pickStart (fun l => (s.leg l).tx.start) (fun a b => decide (a < b)) ((legsOfClass s d i c).filter fun l => (s.leg l).tx.ready)

/-! ## Departure (12 R281, R284) -/

/-- The departure of a packet at the MAC: on a standby it is discarded and counted, on a disabled subport or
one that failed its takeover check it counts in QUEUE_DROP (05 R105, 16 R365), otherwise it goes out with its departure stamp. -/
def departMac (d i : Nat) (p : TxPacket) (s : State) : State :=
  let stamp := txStamp (s.dlyOf d i) (s.now d)
  if !s.pair.transmit then egrCnt d 9 s
  else if !(s.ethPort d i).enable || (s.sub8 d i).failed then
    if p.kind = .control then s else s.modTx p.leg fun t => { t with queueDrop := t.queueDrop + 1 }
  else
    let s := emit (.frame d i stamp p) (egrCnt d 0 s)
    let s := s.modSub8 d i fun x => { x with departed := x.departed + 1 }
    let s := match p.stampTag with | some tag => pushTxs d i stamp tag s | none => s
    let s := match p.duken with
      | some m => dukenDeparted m stamp (match m with
        | .ptp _ k seq _ => if ptpEvent k then pushTxs d i stamp seq s else s
        | .esmc _ => s)
      | none => s
    let s := if p.kind = .video && p.marker then ledger d (.sent p.leg (p.ts.setWidth 64)) s else s
    if p.kind = .control then s
    else s.modTx p.leg fun t => { t with
      txPkts := t.txPkts + 1, txBytes := t.txBytes + BitVec.ofNat 64 p.ipLen
      departures := ((p.ssrc, p.seq, stamp) :: t.departures).take 4096
      sentWindow := if p.kind = .rtcp then t.sentWindow else (s.mpNo 0, p.ipLen, p.kind != .audio) :: t.sentWindow }

/-- The chosen leg sends its head: tokens, tags and virtual times move on. -/
def serveLeg (d i c : Nat) (l : BitVec 16) (s : State) : State :=
  let h := s.legLive l
  let t := (s.leg l).tx
  match queueHead t.queue with
  | none => s
  | some p =>
    let b := fillBucket h.outRate h.outBurst (s.now d) (t.tok, t.last)
    let s := s.modCls d i c fun k => { k with v := t.start }
    let finish := t.start + BitVec.ofNat 64 (p.ipLen * 256)
    let s := s.modTx l fun t => { t with
      queue := t.queue.erase p, finish := finish
      tok := if h.outRate = 0 then t.tok else b.1 - bucketNeed p.ipLen
      last := if h.outRate = 0 then t.last else b.2 }
    let again := headEligible s l
    let s := s.modTx l fun t => { t with start := if again then finish else t.start, ready := again }
    let s :=
      if clsStrict s d i c then s
      else
        let k := s.cls d i c
        let kf := k.start + BitVec.ofNat 64 (p.ipLen * 256 / clsWeight s d i c)
        let more := clsHasReady s d i c
        let s := s.modSub8 d i fun x => { x with v := k.start }
        s.modCls d i c fun k => { k with finish := kf, start := if more then kf else k.start, ready := more }
    departMac d i p s

/-! ## Host frames (12 R283) -/

/-- One host frame's worth of tokens. -/
def hostNeed : Nat := 1000000000

/-- The tokens of a die's host bucket brought up to this instant. -/
def fillHost (d : Nat) (s : State) : State :=
  let e := (s.die d).egr
  let ns := stampDiff s.clk e.hostLast / 65536
  if 0 < ns then
    s.modDie d fun x => { x with egr := { x.egr with
      hostTok := min (e.hostBurst.toNat * hostNeed) (e.hostTok + e.hostRate.toNat * ns.toNat),
      hostLast := e.hostLast + BitVec.ofNat 64 (65536 * ns.toNat) } }
  else s

/-- Waiting host frames pass the bucket in their order into the control queues. -/
def drainHost (d : Nat) : (fuel : Nat) → State → State
  | 0, s => s
  | n + 1, s =>
    match (s.die d).egr.hostWait with
    | [] => s
    | (i, p) :: rest =>
      if (s.die d).egr.hostTok < hostNeed then s
      else
        let s := s.modDie d fun x => { x with egr := { x.egr with hostWait := rest, hostTok := x.egr.hostTok - hostNeed } }
        drainHost d n (s.modSub8 d i fun x => { x with control := x.control ++ [p] })

/-- A control frame departs; a host frame's command then completes OK (12 R283). The `seq` of a host frame is the
first argument of its command. -/
def serveControl (d i : Nat) (p : TxPacket) (s : State) : State :=
  let s := departMac d i p (s.modSub8 d i fun x => { x with control := x.control.drop 1 })
  match p.owner with
  | some (f, tag) =>
    finishCmd f { id := p.seq, kind := 2, status := 0, tag := tag, mp := mpField s } (egrCnt d 8 s)
  | none => s

/-- PACKET_DEPARTURE: a subport sends its next frame: the control queue first, then strict classes from the highest
down, then the weighted ones. -/
def execPacketDeparture (die sub : Nat) (s : State) : Host.Outcome State Fault Refusal :=
  if !mediaSubport s die sub then .next s
  else
    let s := drainHost die ((s.die die).egr.hostWait.length) (fillHost die s)
    match (s.sub8 die sub).control with
    | p :: _ => .next (serveControl die sub p s)
    | [] =>
      let s := readySub die sub s
      match chooseClass s die sub with
      | none => .next s
      | some c => match chooseLeg s die sub c with
        | some l => .next (serveLeg die sub c l s)
        | none => .next s

/-- WAIT_DROP: a head older than MAX_WAIT is dropped: WAIT_DROP, error 0x0C02 at most once per leg and second. -/
def execWaitDrop (leg : BitVec 16) (s : State) : Host.Outcome State Fault Refusal :=
  match queueHead (s.leg leg).tx.queue with
  | none => .next s
  | some p =>
    let d := (s.legLive leg).ethDie
    let s := s.advanceMs p.entry (egrMaxWait s d)
    .next (raiseOnce d (engineReq 5) 0x0C02 (leg.setWidth 64) (leg.setWidth 64)
      (egrEv d 1 (egrCnt d 2 (s.modTx leg fun t => { t with queue := t.queue.erase p, waitDrop := t.waitDrop + 1 }))))

/-- Source address and UDP port of an Ethernet frame that carries UDP over IPv4 or IPv6, with or without a VLAN
tag. -/
def udpSource (f : List Byte) : Option (BitVec 128 × BitVec 16) :=
  let at16 (o : Nat) : Nat := beNat ((f.drop o).take 2)
  let o := if at16 12 = 0x8100 then 18 else 14
  let b (i : Nat) : Nat := (f.getD (o + i) 0).toNat
  if at16 (o - 2) = 0x0800 then
    if b 0 / 16 = 4 && b 9 = 17 then
      some (0xFFFF00000000 ||| BitVec.ofNat 128 (beNat ((f.drop (o + 12)).take 4)), BitVec.ofNat 16 (at16 (o + 4 * (b 0 % 16))))
    else none
  else if at16 (o - 2) = 0x86DD then
    if b 6 = 17 then some (BitVec.ofNat 128 (beNat ((f.drop (o + 8)).take 16)), BitVec.ofNat 16 (at16 (o + 40))) else none
  else none

/-- The local address of a leg half: the entry of ETH_DIE's list that LOCAL_ADDR names (05 R107). -/
def localAddr (s : State) (h : LegHalf) : LAddr := tget {} (s.die h.ethDie).ing.laddr h.localAddr

/-- Whether a VF may send a frame: UDP from the local address and port of an open leg of its own on the subport. -/
def hostFrameMay (s : State) (f d i : Nat) (bytes : List Byte) : Bool :=
  isPf f || match udpSource bytes with
    | some (a, p) => s.allOpenLegs.any fun l =>
        let h := s.legLive l
        (s.leg l).alloc == some f && h.ethDie == d && h.ethIdx == i && (localAddr s h).addr == a && h.localPort == p
    | none => false

/-- EGR_SEND: INVALID on a bad length, an absent or the Adit subport; DENIED for a buffer outside the function's staging
window (19 R407), and with error 0x0C06 where a VF may not send the frame; otherwise the frame waits for the bucket and the command completes when it has departed. -/
def execEgrSend (c : Cmd) (s : State) : Host.Outcome State Fault Refusal :=
  .next (runCmd 0xA0 c (fun s =>
    let off := fldN c.w1 0 32
    let len := fldN c.w1 32 14
    let i := fldN c.w1 46 3
    let d := fldN c.w1 49 3
    if fldN c.w1 53 11 ≠ 0 || len < 60 || (s.ethPort d i).maxFrame.toNat < len + 4 || !mediaSubport s d i then (.st 2, s)
    else if !bufferOk s c.func off len then (.st 4, s)
    else if !hostFrameMay s c.func d i (rdBuffer s off len) then
      (.st 4, raiseAny d (engineReq 5) 0x0C06 (egrEv d 5 s))
    else
      let p : TxPacket := { kind := .control, ipLen := len, payload := rdBuffer s off len, seq := argOf c, entry := s.clk,
                            stampTag := if bit c.w1 52 then some (tagOf c) else none, owner := some (c.func, tagOf c) }
      let s := fillHost d (s.modDie d fun x => { x with egr := { x.egr with hostWait := x.egr.hostWait ++ [(i, p)] } })
      (.later, drainHost d ((s.die d).egr.hostWait.length) s)) s)

/-! ## Target rates (12 R274 to R276) -/

/-- The lower bound of a leg's target under the controller. -/
def ccFloor (s : State) (l : BitVec 16) : Nat := min (s.die (legDie l)).egr.ccMin.toNat (s.legLive l).targetRate

/-- A target rate that changes, kept for the bound on rises. -/
def setTarget (l : BitVec 16) (rate : Nat) (src : BitVec 2) (s : State) : State :=
  ledger (legDie l) (.target l rate) <|
    s.modTx l fun t => { t with target := rate, targetSrc := src, riseFrom := (s.mpNo 0, rate) :: t.riseFrom
                                targetAt := if rate = t.target then t.targetAt else s.clk
                                targetPrev := if rate = t.target then t.targetPrev else t.target }

/-- The controller at a boundary whose MP number is a multiple of 20 (12 R275; log 28): after feedback that calls for a
fall, a free value between half and the whole of the target; otherwise a free rise of at most 8 % over any second.
A starved leg does not rise. -/
def ccStep (l : BitVec 16) (s : State) : State :=
  let h := s.legLive l
  let t := (s.leg l).tx
  if h.rateHost then s
  else
    let (v, s) := draw s
    let m := s.mpNo 0
    let recent := t.riseFrom.filter fun e => decide (m ≤ e.1 + 1000)
    let base := recent.foldl (fun b e => min b e.2) t.target
    let s := s.modTx l fun t => { t with riseFrom := recent, fbFall := false }
    if t.fbFall then
      let lo := max (ccFloor s l) (t.target - t.target / 2)
      setTarget l (lo + v.toNat % max 1 (t.target - lo)) 1 s
    else
      let hi := min h.targetRate (base * 108 / 100)
      if t.starved || hi ≤ t.target then s else setTarget l (t.target + v.toNat % (hi - t.target + 1)) 1 s

/-- FEEDBACK_TIMEOUT: no report for 2,000 MP while the leg sends video: the target is halved, once per interval, error
0x0C03 once per episode (12 R276). -/
def execFeedbackTimeout (leg : BitVec 16) (s : State) : Host.Outcome State Fault Refusal :=
  let h := s.legLive leg
  let t := (s.leg leg).tx
  if !s.legOpen leg || h.rateHost || !h.txEn || !h.video then .next s
  else
    let s := s.advanceToStamp 0 (mpStamp (t.lastFeedback + 2000))
    let s := setTarget leg (max (ccFloor s leg) (t.target / 2)) 3 s
    let s := s.modTx leg fun t => { t with lastFeedback := s.mpNo 0, starved := true }
    .next (if t.starved then s
      else raiseFrom (legDie leg) (engineReq 5) 0x0C03 (leg.setWidth 64) (egrEv (legDie leg) 2 s))

end Sys2Proof.Machine
end

