-- ==== Sys2Proof/Machine/Request.lean ====
section
/-! DEFINITION. Requests for pictures: keyframe requests to senders (09 R211), intra requests to encoders (11 R252),
tile and mosaic restarts (10 R238). -/

namespace Sys2Proof.Machine

/-! ## Decode and encode contexts -/

/-- Die and index of a decode context handle, and whether a handle is well formed (09 R197). -/
def decDie (c : BitVec 16) : Nat := (c.extractLsb' 10 3).toNat
def decIdx (c : BitVec 16) : Nat := (c.extractLsb' 0 9).toNat
def decOk (s : State) (c : BitVec 16) : Bool := c &&& 0xE200 == 0 && s.hasDie (decDie c)

/-- The handle of a decode or encode context. -/
def ctxHandle (d i : Nat) : BitVec 16 := BitVec.ofNat 16 (1024 * d + i)

/-- A decode context, and its change. -/
def State.dec (s : State) (c : BitVec 16) : DecCtx := tget {} (s.die (decDie c)).vdc.ctx (decIdx c)
def State.modDec (s : State) (c : BitVec 16) (f : DecCtx → DecCtx) : State :=
  s.modDie (decDie c) fun x => { x with vdc := { x.vdc with ctx := tmod {} x.vdc.ctx (decIdx c) f } }

/-- The decode contexts of a die that are open, as handles. -/
def State.openDecs (s : State) (d : Nat) : List (BitVec 16) :=
  ((s.die d).vdc.ctx.filter fun e => e.2.state == .opened).map fun e => ctxHandle d e.1

/-- Die and index of an encode context handle, and whether a handle is well formed (11 R241). -/
def encDie (c : BitVec 16) : Nat := (c.extractLsb' 10 3).toNat
def encIdx (c : BitVec 16) : Nat := (c.extractLsb' 0 8).toNat
def encOk (s : State) (c : BitVec 16) : Bool := c &&& 0xE300 == 0 && s.hasDie (encDie c)

/-- An encode context, and its change. -/
def State.enc (s : State) (c : BitVec 16) : EncCtx := tget {} (s.die (encDie c)).ven.ctx (encIdx c)
def State.modEnc (s : State) (c : BitVec 16) (f : EncCtx → EncCtx) : State :=
  s.modDie (encDie c) fun x => { x with ven := { x.ven with ctx := tmod {} x.ven.ctx (encIdx c) f } }

/-- The encode contexts of a die that are open, as handles. -/
def State.openEncs (s : State) (d : Nat) : List (BitVec 16) :=
  ((s.die d).ven.ctx.filter fun e => e.2.state == .opened).map fun e => ctxHandle d e.1

/-! ## Keyframe requests (09 R211) -/

/-- The received video SSRC of stream `i` of a leg half. -/
def rxVideoSsrc (h : LegHalf) (i : Nat) : BitVec 32 := [h.rxSsrcV0, h.rxSsrcV1, h.rxSsrcV2].getD i 0

/-- The open decode contexts of an SSRC of a leg. -/
def decsOf (s : State) (l : BitVec 16) (ssrc : BitVec 32) : List (BitVec 16) :=
  (s.openDecs (legDie l)).filter fun c => (s.dec c).leg == l && rxVideoSsrc (s.legLive l) (s.dec c).stream.toNat == ssrc

/-- VDC_KF_GAP of a leg's home die in 2^-16 ns. -/
def kfGapUnits (s : State) (l : BitVec 16) : Nat := msUnits (s.die (legDie l)).vdc.kfGap.toNat

/-- The limiter of an SSRC. -/
def kfOf (x : Leg) (ssrc : BitVec 32) : KfLimit := (x.kf.find? (·.ssrc == ssrc)).getD { ssrc := ssrc }

/-- Replaces the limiter of an SSRC. -/
def putKf (l : BitVec 16) (k : KfLimit) (s : State) : State :=
  s.modLeg l fun x => { x with kf := k :: x.kf.filter (·.ssrc != k.ssrc) }

/-- Sends a PLI, or a FIR where a context of the stream asks for one, and counts it. -/
def sendKeyframe (l : BitVec 16) (ssrc : BitVec 32) (s : State) : State :=
  let cs := decsOf s l ssrc
  let k := kfOf (s.leg l) ssrc
  let fir := cs.any fun c => (s.dec c).fir
  let s := putKf l { k with lastSent := some s.clk, firSeq := if fir then k.firSeq + 1 else k.firSeq } s
  let s := forAll cs (fun c s => s.modDec c fun x => { x with kfSent := x.kfSent + 1 }) (vdcCnt (legDie l) 6 s)
  sendRtcp l (if fir then .fir ssrc (k.firSeq + 1) else .pli ssrc) s

/-- A keyframe request for an SSRC passes its limiter: the first is sent at once, one within VDC_KF_GAP ms of the last
is suppressed and counted. A standby sends none (09 R213). -/
def keyframeRequest (l : BitVec 16) (ssrc : BitVec 32) (s : State) : State :=
  if standsBy s || ssrc = 0 || !s.legOpen l then s
  else match (kfOf (s.leg l) ssrc).lastSent with
    | some t =>
      if stampDiff s.clk t < (kfGapUnits s l : Int) then
        forAll (decsOf s l ssrc) (fun c s => s.modDec c fun x => { x with kfSuppressed := x.kfSuppressed + 1 }) (vdcCnt (legDie l) 7 s)
      else sendKeyframe l ssrc s
    | none => sendKeyframe l ssrc s

/-- A refresh has been decoded: the limiter is cleared. -/
def clearKf (l : BitVec 16) (ssrc : BitVec 32) (s : State) : State :=
  s.modLeg l fun x => { x with kf := (x.kf.map fun k => if k.ssrc == ssrc then { k with lastSent := none } else k) }

/-- KEYFRAME_GAP_END: the gap after the last request ends; if a context of the stream is still tainted, one request
is sent then. -/
def execKeyframeGapEnd (leg : BitVec 16) (ssrc : BitVec 32) (s : State) : Host.Outcome State Fault Refusal :=
  match (kfOf (s.leg leg) ssrc).lastSent with
  | none => .next s
  | some t =>
    let s := s.advance ((kfGapUnits s leg : Int) - stampDiff s.clk t).toNat
    .next (if !standsBy s && s.legOpen leg && (decsOf s leg ssrc).any (fun c => (s.dec c).tainted) then
      sendKeyframe leg ssrc s else s)

/-! ## Intra requests (11 R252) -/

/-- VEN_INTRA_GAP of an encode context's die in 2^-16 ns. -/
def intraGapUnits (s : State) (c : BitVec 16) : Nat := msUnits (s.die (encDie c)).ven.intraGap.toNat

/-- Changes rung `k` of a context. -/
def modRung (k : Nat) (f : Rung → Rung) (x : EncCtx) : EncCtx := { x with rungs := x.rungs.modify k f }

/-- An intra request for rung `k`: the next picture is intra; within VEN_INTRA_GAP ms of the last intra picture it
merges into one at the end of the gap. -/
def intraRung (c : BitVec 16) (k : Nat) (s : State) : State :=
  match (s.enc c).rungs[k]? with
  | none => s
  | some r =>
    let inGap := match r.lastIntra with | some t => decide (stampDiff s.clk t < (intraGapUnits s c : Int)) | none => false
    if inGap then
      let s := s.modEnc c (modRung k fun r => { r with merged := true })
      if r.merged then venCnt (encDie c) 6 (s.modEnc c fun x => { x with reqMerged := x.reqMerged + 1 }) else s
    else s.modEnc c (modRung k fun r => { r with intraReq := true })

/-- An intra request for the rungs of a mask; in modes 3 and 4 the key frame covers every rung. -/
def intraRequest (c : BitVec 16) (mask : Nat) (s : State) : State :=
  let x := s.enc c
  if x.state ≠ .opened || mask % 16 = 0 then s
  else
    let all := x.mode == 3 || x.mode == 4
    forAll ((List.range x.rungs.length).filter fun k => all || mask.testBit k) (intraRung c) s

/-- INTRA_GAP_END: the gap of a rung ends and its merged request is applied at the next picture boundary. -/
def execIntraGapEnd (ctx : BitVec 16) (rung : Nat) (s : State) : Host.Outcome State Fault Refusal :=
  match (s.enc ctx).rungs[rung]? with
  | none => .next s
  | some r =>
    match r.merged, r.lastIntra with
    | true, some t =>
      let s := s.advance ((intraGapUnits s ctx : Int) - stampDiff s.clk t).toNat
      .next (s.modEnc ctx (modRung rung fun r => { r with merged := false, intraReq := true }))
    | _, _ => .next s

/-! ## Tile streams and mosaics (10 R238) -/

/-- The encode context of a tile stream: the bridge's own, by Seam layout, source leg and size (10 R235, 11 R241). -/
def tileCtx (s : State) (t : TileStream) : Option (BitVec 16) :=
  (s.openEncs (layDie t.layout)).find? fun c =>
    let x := s.enc c
    x.kind == 2 && x.source == t.layout && x.tileLeg == t.source &&
      x.width == (t.size.extractLsb' 0 16).toNat && x.height == (t.size.extractLsb' 16 16).toNat

/-- Changes tile stream `i` of die `d`. -/
def State.modTile (s : State) (d i : Nat) (f : TileStream → TileStream) : State :=
  s.modDie d fun x => { x with gal := { x.gal with tiles := x.gal.tiles.modify i f } }

/-- Sends an intra request to a tile stream. -/
def sendTileIntra (d i : Nat) (t : TileStream) (s : State) : State :=
  let s := seaCnt d 6 (s.modTile d i fun x => { x with lastIntraReq := some s.clk, merged := false })
  match tileCtx s t with
  | some c => intraRequest c 1 s
  | none => s

/-- SEA_INTRA_GAP of a die in 2^-16 ns. -/
def seaGapUnits (s : State) (d : Nat) : Nat := msUnits (s.die d).gal.seaGap.toNat

/-- An intra request to tile stream `i`, at most one per SEA_INTRA_GAP ms; those during the gap merge. -/
def tileIntra (d i : Nat) (s : State) : State :=
  match (s.die d).gal.tiles[i]? with
  | none => s
  | some t =>
    let inGap := match t.lastIntraReq with | some u => decide (stampDiff s.clk u < (seaGapUnits s d : Int)) | none => false
    if inGap then s.modTile d i fun x => { x with merged := true } else sendTileIntra d i t s

/-- SEAM_INTRA_GAP_END: the gap of a tile stream ends and its merged request is sent. -/
def execSeamIntraGapEnd (die i : Nat) (s : State) : Host.Outcome State Fault Refusal :=
  match (s.die die).gal.tiles[i]? with
  | none => .next s
  | some t =>
    match t.merged, t.lastIntraReq with
    | true, some u =>
      let s := s.advance ((seaGapUnits s die : Int) - stampDiff s.clk u).toNat
      .next (sendTileIntra die i t s)
    | _, _ => .next s

/-- A viewer's mosaic starts or restarts: an intra picture is requested from every slot's tile stream. -/
def startViewer (l lay : BitVec 16) (s : State) : State :=
  let d := legDie l
  let old := (s.leg l).viewer
  let v := old.getD {}
  let v' : Viewer := { v with layout := lay, started := false, startAt := some s.clk, lastRestart := some s.clk }
  let s := s.modLeg l fun x => { x with viewer := some v' }
  let s := if old.isSome then seaEv d 2 (seaCnt d 3 s) else s
  forAll (List.range (s.die (layDie lay)).gal.tiles.length) (fun i s =>
    match (s.die (layDie lay)).gal.tiles[i]? with
    | some t => if t.layout == lay then tileIntra (layDie lay) i s else s
    | none => s) s

/-- A keyframe request from a viewer of a mosaic: a restart, but within SEA_INTRA_GAP ms of the last one it is ignored
and counted. -/
def viewerRestart (l : BitVec 16) (s : State) : State :=
  match (s.leg l).viewer with
  | none => s
  | some v =>
    let inGap := match v.lastRestart with | some t => decide (stampDiff s.clk t < (seaGapUnits s (legDie l) : Int)) | none => false
    if inGap then seaCnt (legDie l) 7 s else startViewer l v.layout s

end Sys2Proof.Machine
end

