-- ==== Sys2Proof/Machine/Keys.lean ====
section
/-! DEFINITION. The key store and its commands (06 R136 to R145, R438). -/

namespace Sys2Proof.Machine

/-! ## Slots -/

/-- Whether a leg names a handle: in its live half, in a half whose doorbell pends, or by a grace period (Table 6.1). -/
def legNamesKey (s : State) (l : BitVec 16) (k : BitVec 16) : Bool :=
  let x := s.leg l
  let live := s.legLive l
  let next := s.legHalf l (!x.live)
  live.rxKey == k || live.txKey == k || (x.db.isSome && (next.rxKey == k || next.txKey == k)) ||
    match x.cry.grace with | some (g, _) => g == k | none => false

/-- IN_USE of the slot that a handle names. -/
def slotInUse (s : State) (k : BitVec 16) : Bool :=
  (s.dieList.flatMap s.legsOf).any (fun l => legNamesKey s l k) ||
    ((s.die (keyDie k)).cip.busy && (s.die (keyDie k)).cip.ctrl.extractLsb' 16 16 == k)

/-- The attribute word of a slot, Table 6.1. -/
def slotAttr (s : State) (d i : Nat) : Word :=
  let x := s.slot d i
  let named := if x.upper then i - 1 else i
  put x.ktype 0 ||| put x.usage 4 ||| put x.owner 10 ||| putB x.alloc 16 ||| putB x.persist 17 |||
    putB (x.alloc && slotInUse s (keyHandle d named)) 18 ||| put x.gcmCount 32

/-- The persistent slots of die 0 sealed into both flash banks under the current root key (06 R143). -/
def sealSlots (s : State) : State :=
  let keep := ((s.die 0).cip.slots.filter fun e => e.2.persist).map fun e => (e.1, { e.2 with saveSeq := [] })
  { s with flash := (List.range 2).foldl (fun t b => tmod {} t b fun f => { f with sealed := keep, sealGen := s.fuses.rootGen }) s.flash }

/-- Writes a value of up to 512 bits with its TYPE and USE into a slot, or into both of a two-slot key. GCM_COUNT stays
(Table 6.4); save records of the slot's earlier key are no longer accepted (log 30). -/
def fillSlot (k : BitVec 16) (ktype : Nat) (usage : BitVec 6) (v : BitVec 512) (s : State) : State :=
  let d := keyDie k
  let i := keySlot k
  let set (val : BitVec 256) (x : Slot) : Slot :=
    { x with ktype := BitVec.ofNat 4 ktype, usage := usage, value := val, gcmWarned := false, saveSeq := [] }
  let two := (slotOf s k).two
  let s := s.modSlot d i (set (v.setWidth 256))
  let s := if two then s.modSlot d (i + 1) (set (v.extractLsb' 256 256)) else s
  if (slotOf s k).persist then sealSlots s else s

/-- Slots that a TYPE needs (Table 6.1). -/
def needsTwo (ktype : Nat) : Bool := ktype == 4 || ktype == 8

/-! ## Checks of a key command (06 R145) -/

/-- Whether a handle names an allocated slot and not the upper half of a key. -/
def handleOk (s : State) (k : BitVec 16) : Bool := keyHandleOk s k && (slotOf s k).alloc && !(slotOf s k).upper

/-- Whether the words of a command from word `n` on are 0, and the bits of word 0 beside OPCODE and TAG (06 R438). -/
def bare (c : Cmd) (n : Nat) : Bool :=
  c.w0.extractLsb' 8 40 == 0 && ([c.w1, c.w2, c.w3, c.w4, c.w5, c.w6, c.w7].drop (n - 1)).all (· == 0)

/-- Whether a function owns the slot of a handle; the PF may name any. -/
def ownsSlot (s : State) (f : Nat) (k : BitVec 16) : Bool := isPf f || (slotOf s k).owner == BitVec.ofNat 6 f

/-- The buffers that a command names: INVALID outside every staging slice, DENIED outside a VF's window (19 R407). -/
def buffersIn (s : State) (bufs : List (Nat × Nat)) : Bool := bufs.all fun b => bufferOk s 0 b.1 b.2
def buffersMay (s : State) (f : Nat) (bufs : List (Nat × Nat)) : Bool := bufs.all fun b => bufferOk s f b.1 b.2

/-- The checks in their order: well-formed arguments, handles, ownership and buffers, types, outputs not in use. -/
def keyChecks (s : State) (f : Nat) (argsOk : Bool) (ins outs : List (BitVec 16)) (bufs : List (Nat × Nat)) (typesOk : Bool) :
    Option (BitVec 8) :=
  if !argsOk || !(ins ++ outs).all (handleOk s) || !buffersIn s bufs then some 2
  else if !(ins ++ outs).all (ownsSlot s f) || !buffersMay s f bufs then some 4
  else if !typesOk then some 0x11
  else if outs.any (slotInUse s) then some 8
  else none

/-- Writes bytes into a staging buffer. -/
def wrBuffer (off : Nat) (bs : List Byte) (s : State) : State :=
  match stageOf off with
  | none => s
  | some (d, o) =>
    let a := stageAddr s d o
    s.modDie d fun x => { x with dram := wrBytes x.dram a bs }

/-! ## Commands -/

/-- KEY_ALLOC: the lowest free slot of a die, or with TWO the lowest free even slot whose neighbour is free. -/
def execKeyAlloc (c : Cmd) (s : State) : Host.Outcome State Fault Refusal :=
  .next (runCmd 0x50 c (fun s =>
    let d := fldN c.w1 0 3
    let two := bit c.w1 3
    let free (i : Nat) : Bool := !(s.slot d i).alloc
    let owner : BitVec 6 := BitVec.ofNat 6 c.func
    if !bare c 2 || !only c.w1 0xF || !s.hasDie d then (.st 2, s)
    else match findIdx (fun i => if two then i % 2 == 0 && free i && free (i + 1) else free i) 4095 1 with
      | none => (.st 7, s)
      | some i =>
        let s := s.modSlot d i fun _ => { alloc := true, owner := owner, two := two }
        let s := if two then s.modSlot d (i + 1) fun _ => { alloc := true, owner := owner, upper := true } else s
        (.done 0 (keyHandle d i) 0 0, s)) s)

/-- KEY_FREE: the slot, or both of a key, is zeroed; REFERENCED while it is in use. -/
def execKeyFree (c : Cmd) (s : State) : Host.Outcome State Fault Refusal :=
  .next (runCmd 0x51 c (fun s =>
    let k := argOf c
    match keyChecks s c.func (bare c 2 && only c.w1 0xFFFF) [] [k] [] true with
    | some st => (.st st, s)
    | none =>
      let two := (slotOf s k).two
      let s := s.modSlot (keyDie k) (keySlot k) fun _ => {}
      let s := if two then s.modSlot (keyDie k) (keySlot k + 1) fun _ => {} else s
      (.st 0, if keyDie k = 0 then sealSlots s else s)) s)

/-- KEY_UNWRAP: a blob opened under the device key into a slot; AUTH with error 0x0608 where the tag fails; KEYTYPE, with the
same error, for a TYPE that is undefined or too large, or a persistence the slot cannot have. MAGIC and the fields that
Table 6.2 gives as 0 are part of what the tag covers and are judged by nothing else; USE is its low six bits (log 127). -/
def execKeyUnwrap (c : Cmd) (s : State) : Host.Outcome State Fault Refusal :=
  .next (runCmd 0x52 c (fun s =>
    let k := argOf c
    let off := fldN c.w2 0 32
    match keyChecks s c.func (bare c 3 && only c.w1 0xFFFF && only c.w2 0xFFFFFFFF) [] [k] [(off, 224)] true with
    | some st => (.st st, s)
    | none =>
      let b := rdBuffer s off 224
      let key := Config.unwrapKey (sliceOf b 0x20 96) (sliceOf b 0 0x20)
      let opened := Config.gcmOpen key (sliceOf b 0x80 12) (sliceOf b 0 0x80) (sliceOf b 0x90 64) (sliceOf b 0xD0 16)
      match opened with
      | none => (.st 0x10, raise 0 0x0608 (k.setWidth 64) s)
      | some v =>
        let t := leAt b 4 1
        let persist := (leAt b 6 1).testBit 0
        let was := (slotOf s k).persist
        if t = 0 || 8 < t || (needsTwo t && !(slotOf s k).two) || (persist && (keyDie k ≠ 0 || 63 < keySlot k)) then
          (.st 0x11, raise 0 0x0608 (k.setWidth 64) s)
        else
          let s := s.modSlot (keyDie k) (keySlot k) fun x => { x with persist := persist }
          let s := if (slotOf s k).two then s.modSlot (keyDie k) (keySlot k + 1) fun x => { x with persist := persist } else s
          let s := fillSlot k t (BitVec.ofNat 6 (leAt b 5 1)) (BitVec.ofNat 512 (leNat v)) s
          (.st 0, if was && !persist then sealSlots s else s)) s)

/-- USE of a key that a command of the key unit makes: derivation, and for AES keys host bulk (log 30). -/
def madeUse (ktype : Nat) : BitVec 6 := if ktype = 1 || ktype = 2 then 0x02 else if ktype = 3 || ktype = 4 then 0x01 else 0x10

/-- A free value of 512 bits. -/
def drawWide (s : State) : BitVec 512 × State :=
  let (v, s) := draw s
  ((List.range 8).foldl (fun (acc : BitVec 512) i => (acc <<< 64) ||| (Config.freeList v i).setWidth 512) 0, s)

/-- KEY_GEN: a random private key in the slot, its public key in the buffer; INVALID while the random source has
failed (06 R155). -/
def execKeyGen (c : Cmd) (s : State) : Host.Outcome State Fault Refusal :=
  .next (runCmd 0x53 c (fun s =>
    let k := argOf c
    let x := bit c.w1 16
    let off := fldN c.w2 0 32
    match keyChecks s c.func (bare c 3 && only c.w1 0x1FFFF && only c.w2 0xFFFFFFFF && (s.die (keyDie k)).cip.rngOk) [] [k]
        [(off, if x then 32 else 64)] true with
    | some st => (.st st, s)
    | none =>
      let (v, s) := drawWide s
      let t := if x then 6 else 5
      let s := fillSlot k t (madeUse t) (v.setWidth 256 |>.setWidth 512) s
      (.st 0, wrBuffer off ((Config.publicKey x (v.setWidth 256)).take (if x then 32 else 64)) s)) s)

/-- KEY_AGREE: the ECDH shared secret of a private key and a peer's public key, as SECRET-256. -/
def execKeyAgree (c : Cmd) (s : State) : Host.Outcome State Fault Refusal :=
  .next (runCmd 0x54 c (fun s =>
    let k := argOf c
    let o : BitVec 16 := fld c.w1 16 16
    let off := fldN c.w2 0 32
    let t := (slotOf s k).ktype
    let n := if t = 6 then 32 else 64
    match keyChecks s c.func (bare c 3 && only c.w1 0xFFFFFFFF && only c.w2 0xFFFFFFFF) [k] [o] [(off, n)]
        ((t == 5 || t == 6) && (slotOf s k).usage.getLsbD 4) with
    | some st => (.st st, s)
    | none => (.st 0, fillSlot o 7 (madeUse 7) ((Config.ecdh (t == 6) (slotOf s k).value (rdBuffer s off n)).setWidth 512) s)) s)

/-- Whether a slot holds a secret from which keys may be derived. -/
def isSecret (x : Slot) : Bool := (x.ktype == 7 || x.ktype == 8) && x.usage.getLsbD 4

/-- The output TYPEs of KEY_DERIVE's operations. -/
def deriveType (op t : Nat) (sha384 : Bool) : Bool :=
  if op = 0 then t == 8 else if op = 1 then t == (if sha384 then 8 else 7) else t == 1 || t == 2 || t == 3 || t == 4 || t == 7 || t == 8

/-- KEY_DERIVE: the TLS 1.2 master secret, HKDF-Extract or HKDF-Expand-Label into an output slot of the named TYPE. -/
def execKeyDerive (c : Cmd) (s : State) : Host.Outcome State Fault Refusal :=
  .next (runCmd 0x55 c (fun s =>
    let k := argOf c
    let o : BitVec 16 := fld c.w1 16 16
    let t := fldN c.w1 32 4
    let op := fldN c.w1 36 2
    let sha384 := bit c.w1 38
    let hash := if sha384 then 48 else 32
    let off := fldN c.w2 0 32
    let len := fldN c.w3 0 16
    let salt : BitVec 16 := fld c.w3 16 16
    let ok := bare c 4 && only c.w1 0x7FFFFFFFFF && only c.w2 0xFFFFFFFF && only c.w3 0xFFFFFFFF && op ≠ 3 && len ≤ 1024 && t ≠ 0 && t ≤ 8 &&
      (op ≠ 0 || len = 64 || len = hash) && (op = 1 || salt = 0)
    let ins := if salt = 0 then [k] else [k, salt]
    let types := isSecret (slotOf s k) && deriveType op t sha384 && (salt == 0 || isSecret (slotOf s salt)) &&
      (!needsTwo t || (slotOf s o).two)
    match keyChecks s c.func ok ins [o] (if len = 0 then [] else [(off, len)]) types with
    | some st => (.st st, s)
    | none =>
      let saltV := if salt = 0 then none else some (keyValue s salt)
      (.st 0, fillSlot o t (madeUse t) (Config.kdf op sha384 (keyValue s k) saltV (rdBuffer s off len)) s)) s)

/-- KEY_FINISHED: verify_data of a transcript hash into a buffer: 12 bytes in TLS 1.2, the hash length in TLS 1.3. -/
def execKeyFinished (c : Cmd) (s : State) : Host.Outcome State Fault Refusal :=
  .next (runCmd 0x56 c (fun s =>
    let k := argOf c
    let tls13 := bit c.w1 16
    let sha384 := bit c.w1 17
    let hash := if sha384 then 48 else 32
    let n := if tls13 then hash else 12
    let off := fldN c.w2 0 32
    let out := fldN c.w3 0 32
    let want : BitVec 4 := if tls13 && !sha384 then 7 else 8
    match keyChecks s c.func (bare c 4 && only c.w1 0x7FFFF && only c.w2 0xFFFFFFFF && only c.w3 0xFFFFFFFF) [k] [] [(off, hash), (out, n)]
        (isSecret (slotOf s k) && (slotOf s k).ktype == want) with
    | some st => (.st st, s)
    | none =>
      (.st 0, wrBuffer out ((Config.finished tls13 sha384 (bit c.w1 18) (keyValue s k) (rdBuffer s off hash)).take n) s)) s)

/-- The slot TYPE of a DTLS-SRTP profile; none for one that is unsupported. -/
def profileType (p : Nat) : Option Nat := if p = 1 || p = 2 || p = 7 then some 3 else if p = 8 then some 4 else none

/-- KEY_EXPORT_SRTP: the bridge's own role's key and salt to the TX handle, the peer's to the RX handle. -/
def execKeyExportSrtp (c : Cmd) (s : State) : Host.Outcome State Fault Refusal :=
  .next (runCmd 0x57 c (fun s =>
    let k := argOf c
    let tls13 := bit c.w1 16
    let sha384 := bit c.w1 17
    let prof := fldN c.w1 32 16
    let tx : BitVec 16 := fld c.w2 0 16
    let rx : BitVec 16 := fld c.w2 16 16
    let off := fldN c.w3 0 32
    let t := (profileType prof).getD 0
    let want : BitVec 4 := if tls13 && !sha384 then 7 else 8
    let types := isSecret (slotOf s k) && (slotOf s k).ktype == want && (!needsTwo t || ((slotOf s tx).two && (slotOf s rx).two))
    match keyChecks s c.func (bare c 4 && only c.w1 0xFFFF0007FFFF && only c.w2 0xFFFFFFFF && only c.w3 0xFFFFFFFF && (profileType prof).isSome)
        [k] [tx, rx] (if tls13 then [] else [(off, 64)]) types with
    | some st => (.st st, s)
    | none =>
      let (cl, sv) := Config.exportSrtp tls13 sha384 prof (keyValue s k) (if tls13 then [] else rdBuffer s off 64)
      let server := bit c.w1 18
      (.st 0, fillSlot rx t 1 (if server then cl else sv) (fillSlot tx t 1 (if server then sv else cl) s))) s)

/-- KEY_COPY: a slot, or both of a key, with its attributes and GCM_COUNT, into another allocated slot; KEYTYPE where the
source is empty, the destination lacks a slot, or cannot be persistent. -/
def execKeyCopy (c : Cmd) (s : State) : Host.Outcome State Fault Refusal :=
  .next (runCmd 0x58 c (fun s =>
    let k := argOf c
    let o : BitVec 16 := fld c.w1 16 16
    let x := slotOf s k
    let y := slotOf s o
    let types := x.ktype != 0 && (!needsTwo x.ktype.toNat || y.two) && (!x.persist || (keyDie o == 0 && decide (keySlot o ≤ 63)))
    match keyChecks s c.func (bare c 2 && only c.w1 0xFFFFFFFF) [k] [o] [] types with
    | some st => (.st st, s)
    | none =>
      let copy (src dst : Slot) : Slot := { src with two := dst.two, upper := dst.upper, saveSeq := [] }
      let hi := s.slot (keyDie k) (keySlot k + 1)
      let s := s.modSlot (keyDie o) (keySlot o) (copy x)
      let s := if y.two then s.modSlot (keyDie o) (keySlot o + 1) fun z =>
        { copy x z with value := if x.two then hi.value else 0 } else s
      (.st 0, if keyDie o = 0 then sealSlots s else s)) s)

/-- KEY_REWRAP, the PF's: ROOT_GEN rises by one and every persistent slot is resealed; CAPACITY after generation 255. -/
def execKeyRewrap (c : Cmd) (s : State) : Host.Outcome State Fault Refusal :=
  .next (runCmd 0x59 c (fun s =>
    if !bare c 1 then (.st 2, s)
    else if !isPf c.func then (.st 4, s)
    else if s.fuses.rootGen = 255 then (.st 7, s)
    else (.st 0, sealSlots { s with fuses := { s.fuses with rootGen := s.fuses.rootGen + 1 } })) s)

/-- OWNER_ENROLL, the PF's: a signed record blows an index's digest fuses, or its revocation fuse; AUTH where the record
fails its checks. -/
def execOwnerEnroll (c : Cmd) (s : State) : Host.Outcome State Fault Refusal :=
  .next (runCmd 0x5A c (fun s =>
    let off := fldN c.w1 0 32
    if !bare c 2 || !only c.w1 0xFFFFFFFF || !bufferOk s 0 off 512 then (.st 2, s)
    else if !isPf c.func then (.st 4, s)
    else
      let ((i, revoke), pub, signer, msg, sig) := Config.enrollRecord (rdBuffer s off 512)
      if i = 0 || 4 < i || !signedBy s signer msg sig || (!revoke && s.fuses.enrolled.getLsbD i) then (.st 0x10, s)
      else if revoke then (.st 0, { s with fuses := { s.fuses with revoked := s.fuses.revoked ||| (1#5 <<< i) } })
      else (.st 0, { s with fuses := { s.fuses with
        enrolled := s.fuses.enrolled ||| (1#5 <<< i), keyDigest := tset 0 s.fuses.keyDigest i (Config.sha384 pub) } })) s)

end Sys2Proof.Machine
end

