-- ==== Sys2Proof/Machine/Decibel.lean ====
section
/-! DEFINITION. Levels and gains in dB as fixed-point numbers, and the compressor's formulas (07 R160, R165 to R167, R178).
The spec states them in real numbers. The functions here lie within 0.001 dB of those; where the spec leaves what an
implementation delivers inside a tolerance, a free error within it is added (log 15). -/

namespace Sys2Proof.Machine

/-! ## Logarithm and exponential -/

/-- Bits of log2 of a mantissa in 2^-40, from the highest fraction bit down: a square doubles the logarithm. -/
def logBits : (n m acc : Nat) → Nat
  | 0, _, acc => acc
  | n + 1, m, acc =>
    let q := m * m / 2 ^ 40
    if 2 ^ 41 ≤ q then logBits n (q / 2) (2 * acc + 1) else logBits n q (2 * acc)

/-- log2 of a positive number, in 2^-24. -/
def log2Fix (x : Nat) : Int :=
  let e := x.log2
  (2 ^ 24 * e + logBits 24 (x * 2 ^ 40 / 2 ^ e) 0 : Nat)

/-- The sum of the terms of e^t from the k-th on, all in 2^-40. -/
def expTerms (t : Nat) : (n k term : Nat) → Nat
  | 0, _, _ => 0
  | n + 1, k, term => term + expTerms t n (k + 1) (term * t / (2 ^ 40 * (k + 1)))

/-- e^t for 0 ≤ t ≤ 1, in 2^-40. -/
def expFix (t : Nat) : Nat := expTerms t 20 0 (2 ^ 40)

/-- Decibels of amplitude per factor of 2, 20 log10 2, in 2^-16; and ln 2 in 2^-40. -/
def dbPerOctave : Int := 394566
def ln2Fix : Nat := 762123384786

/-- The level of an M64 magnitude in dBFS, in 2^-16 dB; full scale is 2^39. The magnitude is not 0. -/
def dbFix (x : Nat) : Int := (log2Fix x - 39 * 2 ^ 24) * dbPerOctave / 2 ^ 24

/-- 10^(g/20) in 2^-30, for a gain in 2^-16 dB. -/
def linFix (g : Int) : Nat :=
  let y := g * 2 ^ 24 / dbPerOctave
  let f := expFix ((y % 2 ^ 24).toNat * ln2Fix / 2 ^ 24)
  let e := y / 2 ^ 24
  if 0 ≤ e then f * 2 ^ e.toNat / 2 ^ 10 else f / 2 ^ (10 + (-e).toNat)

/-- A linear gain with a free error of at most 0.05 dB, given in ppm: −5,739 to +5,773 (07 R166). -/
def withinTol (lin : Nat) (err : Int) : Nat := lin * (1000000 + clampI (-5739) 5773 err).toNat / 1000000

/-! ## The compressor (07 R166) -/

/-- THRESH, RATIO, KNEE and MAKEUP of a parameter word, in 2^-8 of their units; ATTACK and RELEASE in samples. -/
def compThresh (c : BitVec 64) : Int := (c.extractLsb' 0 16).toInt
def compRatio (c : BitVec 64) : Int := (c.extractLsb' 16 16).toNat
def compKnee (c : BitVec 64) : Int := (c.extractLsb' 32 16).toNat
def compMakeup (c : BitVec 64) : Int := (c.extractLsb' 48 16).toInt
def compAttack (t : BitVec 33) : Nat := (t.extractLsb' 0 16).toNat
def compRelease (t : BitVec 33) : Nat := (t.extractLsb' 16 16).toNat

/-- G(L) in 2^-16 dB for a level in 2^-16 dB. -/
def compCurve (c : BitVec 64) (l : Int) : Int :=
  let above := l - 2 ^ 8 * compThresh c
  let w := 2 ^ 8 * compKnee c
  let r := compRatio c
  if 2 * above < -w then 0
  else if 2 * above ≤ w ∧ 0 < w then (256 - r) * (above + w / 2) ^ 2 / (r * (2 * w))
  else (256 - r) * above / r

/-- exp(−1/n) in 2^-40. -/
def decayFix (n : Nat) : Nat := 2 ^ 80 / expFix (2 ^ 40 / n)

/-- The gain state after a sample of magnitude `x`: g[n] = a·g[n−1] + (1 − a)·G(L[n]), in 2^-32 dB. Silence has G = 0. -/
def compNext (c : BitVec 64) (t : BitVec 33) (g : Int) (x : Nat) : Int :=
  let want : Int := if x = 0 then 0 else 2 ^ 16 * compCurve c (dbFix x)
  let a : Int := decayFix (if want < g then compAttack t else compRelease t)
  (a * g + (2 ^ 40 - a) * want) / 2 ^ 40

/-- The linear gain of a sample under the compressor, MAKEUP included, in 2^-30, with its free error; and the next gain
state. -/
def compressor (c : BitVec 64) (t : BitVec 33) (g : Int) (x : Nat) : Nat × Int :=
  let g' := compNext c t g x
  (withinTol (linFix (g' / 2 ^ 16 + 2 ^ 8 * compMakeup c)) (Config.gainError c t g x), g')

/-- 10^(g/20) for a gain in Q7.8 dB, in 2^-30: exactly unity at 0 dB, elsewhere with a free error. -/
def dbLin (g : BitVec 16) : Nat :=
  if g = 0 then 2 ^ 30 else withinTol (linFix (2 ^ 8 * g.toInt)) (Config.gainError (g.setWidth 64) 0 0 0)

/-! ## Levels (07 R160, R178) -/

/-- Whether a mean square `e / n` lies above the level −(l + ½) dBov, where full scale is 2^31: (n·2^62/e)^20 < 10^(2l+1). -/
def louderThan (n e l : Nat) : Bool := decide ((n * 2 ^ 62) ^ 20 < 10 ^ (2 * l + 1) * e ^ 20)

/-- The RFC 6464 level of a block of `n` samples with a sum of squares `e`: the nearest whole −dBov, 127 at most. -/
def level6464 (n e : Nat) : Nat := ((List.range 127).find? fun l => louderThan n e l).getD 127

/-- 127 minus the level. -/
def levelScore (n e : Nat) : Nat := 127 - level6464 n e

/-- A bus peak in signed Q7.8 dBFS, rounded down or up (free); what a peak of 0, or one below the format, reads as is free
(log 15). -/
def peakDb (p : Nat) : BitVec 16 :=
  let q := dbFix p / 2 ^ 8
  if p = 0 || q < -32768 then Config.lowPeak p else BitVec.ofInt 16 (if Config.roundUp p 256 then q + 1 else q)

end Sys2Proof.Machine
end

