-- ==== Sys2Proof/Machine/Forward.lean ====
section
/-! DEFINITION. Layer forwarding: what a receiver is sent, the choice of layers, switching, rewriting, and the
feedback of receivers (12 R261 to R275, 09 R212). -/

namespace Sys2Proof.Machine

/-! ## Layers of a received stream (12 R266, 09 R212) -/

/-- The leg that an ID names: itself, or the target of an alias (04 R99). -/
def resolveLeg (s : State) (l : BitVec 16) : BitVec 16 := ((s.leg l).aliasOf).getD l

/-- Whether a leg's video is one AV1 scalable stream rather than simulcast streams (log 29). -/
def scalable (h : LegHalf) : Bool := h.rxVc == 3 && h.rxSsrcV1 == 0 && h.rxSsrcV2 == 0

/-- The stream index of a received video SSRC. -/
def streamOf (h : LegHalf) (ssrc : BitVec 32) : Option Nat :=
  if ssrc = 0 then none
  else if ssrc = h.rxSsrcV0 then some 0 else if ssrc = h.rxSsrcV1 then some 1 else if ssrc = h.rxSsrcV2 then some 2 else none

/-- Layer (s, t) of a leg, and its change. -/
def State.layer (s : State) (l : BitVec 16) (sp t : Nat) : Layer := tget {} (s.leg l).layers (4 * sp + t)
def State.modLayer (s : State) (l : BitVec 16) (sp t : Nat) (f : Layer → Layer) : State :=
  s.modLeg l fun x => { x with layers := tmod {} x.layers (4 * sp + t) f }

/-- The layers that (s, t) depends on, itself included: the lower temporal layers of its stream and, in a scalable
stream, of the lower spatial layers. -/
def layerDeps (sc : Bool) (sp t : Nat) : List (Nat × Nat) :=
  ((List.range (sp + 1)).filter fun a => sc || a == sp).flatMap fun a => (List.range (t + 1)).map fun b => (a, b)

/-- Entries of a window of the `n` MP before MP `mp`, and of `mp` so far. -/
def within {α : Type} (mp n : Nat) (w : List (Nat × α)) : List (Nat × α) := w.filter fun e => decide (mp ≤ e.1 + n)

/-- Notes a released video packet in its layer's window. -/
def noteLayer (l : BitVec 16) (sp t len : Nat) (s : State) : State :=
  let m := s.mpNo 0
  s.modLayer l sp t fun y => { y with window := (m, len) :: within m 500 y.window }

/-- Updates the measured rates of a leg's layers, every 10 MP. -/
def measureLayers (l : BitVec 16) (s : State) : State :=
  let m := s.mpNo 0
  forAll ((s.leg l).layers.map (·.1)) (fun k s => s.modLayer l (k / 4) (k % 4) fun y =>
    let w := within m 500 y.window
    { y with window := w, rate := (w.map (·.2)).foldl (· + ·) 0 * 8 / 500 }) s

/-- Rate of a layer with those it depends on, kb/s; whether it exists; whether it is intact. -/
def layerRate (s : State) (l : BitVec 16) (sp t : Nat) : Nat :=
  ((layerDeps (scalable (s.legLive l)) sp t).map fun e => (s.layer l e.1 e.2).rate).foldl (· + ·) 0
def layerExists (s : State) (l : BitVec 16) (sp t : Nat) : Bool := !(within (s.mpNo 0) 500 (s.layer l sp t).window).isEmpty
def layerIntact (s : State) (l : BitVec 16) (sp t : Nat) : Bool := !(s.layer l sp t).broken

/-- A candidate of an entry: spatial layer or rung, temporal layer, rate. -/
abbrev Cand := Nat × Nat × Nat

/-- The candidates of a forwarded entry, ordered by s and then by t. -/
def recvCands (s : State) (src : BitVec 16) (maxS maxT : Nat) : List Cand :=
  (List.range 3).flatMap fun a => (List.range 3).filterMap fun b =>
    if a ≤ maxS && b ≤ maxT && layerExists s src a b && layerIntact s src a b then some (a, b, layerRate s src a b) else none

/-- Temporal layers of a mode (11 Table 11.3). -/
def modeLayers (mode : Nat) : Nat := if mode = 0 then 1 else if mode = 1 then 2 else 3

/-- Rate of a rung up to a temporal layer over the last 500 MP, with the rungs below it where they are layers. -/
def rungRate (s : State) (c : BitVec 16) (k t : Nat) : Nat :=
  let x := s.enc c
  let dep := x.mode == 3 || x.mode == 4
  let bits := ((List.range (k + 1)).filter fun a => dep || a == k).map fun a =>
    ((within (s.mpNo 0) 500 ((x.rungs[a]?.getD {}).sent)).filter fun e => decide (e.2.2 ≤ t)).foldl (fun n e => n + e.2.1) 0
  bits.foldl (· + ·) 0 / 500

/-- The candidates of a bridge encode. -/
def encCands (s : State) (c : BitVec 16) (maxS maxT : Nat) : List Cand :=
  (List.range (s.enc c).rungs.length).flatMap fun a => (List.range (modeLayers (s.enc c).mode.toNat)).filterMap fun b =>
    if a ≤ maxS && b ≤ maxT then some (a, b, rungRate s c a b) else none

/-! ## What a receiver's entries are served from (12 R263, 10 R219) -/

/-- The transcode context that serves a receiver's codec from a source: the largest MAX_W × MAX_H, then the lowest
handle. -/
def transcodeCtx (s : State) (src : BitVec 16) (txVc : Nat) : Option (BitVec 16) :=
  (((s.openEncs (legDie src)).filter fun c =>
    let x := s.enc c
    x.kind == 1 && x.codec.toNat == txVc && (s.dec x.source).state == .opened && (s.dec x.source).leg == src).foldl
    (fun best c =>
      let area (c : BitVec 16) : Nat := (s.dec (s.enc c).source).maxW.toNat * (s.dec (s.enc c).source).maxH.toNat
      match best with
      | none => some c
      | some b => if area b < area c || (area b == area c && c < b) then some c else best) none)

/-- The layout whose mosaic a listener receives, and the layout whose shared encode it receives (10 R219). -/
def listens (h : LegHalf) : Bool := h.video && h.listenEn && h.txEn && h.conf != noId
def seamOf (s : State) (l : BitVec 16) : Option (BitVec 16) :=
  let h := s.legLive l
  let c := (s.confLive (s.confOf l)).seamLayout
  if listens h && h.txVc == 2 && h.seamOk && s.confOpen (s.confOf l) && c != noId then some c else none
def galleryOf (s : State) (l : BitVec 16) : Option (BitVec 16) :=
  let h := s.legLive l
  let c := (s.confLive (s.confOf l)).galLayout
  if listens h && !(h.txVc == 2 && h.seamOk) && s.confOpen (s.confOf l) && c != noId then some c else none

/-- The Gallery context of a layout for a codec. -/
def galleryCtx (s : State) (lay : BitVec 16) (codec : Nat) : Option (BitVec 16) :=
  (s.openEncs (layDie lay)).find? fun c =>
    (s.enc c).kind == 0 && (s.enc c).source == lay && (s.enc c).codec.toNat == codec

/-- An item of a receiver's list: the composed stream (none), or a video subscription by index. -/
abbrev ItemRef := Option Nat

/-- The entry of an item; composed video keeps the same forwarding state and has priority above 7. -/
def itemEntry (s : State) (l : BitVec 16) : ItemRef → SubEntry
  | some i => s.sub (legDie l) i
  | none =>
    let t := (s.leg l).tx
    { (rdSub (wr64 (wr64 [] 16 t.comp0) 24 t.comp1) 0) with
      receiver := l, kind := 1, maxS := 3, maxT := 2, priority := 8, valid := true, outSsrc := (s.legLive l).txSsrcV, ssrcRw := true }

/-- Writes back the forwarding state of an item. -/
def putItem (l : BitVec 16) (r : ItemRef) (e : SubEntry) (s : State) : State :=
  match r with
  | some i => s.putSub (legDie l) i e
  | none => s.modTx l fun t => { t with comp0 := (subState e).1, comp1 := (subState e).2 }

/-- Where an item's packets come from: a received leg, or an encode context; none while it is idle. -/
inductive Feed where
  | leg (l : BitVec 16)
  | enc (c : BitVec 16)
  deriving DecidableEq, Repr

/-- The feed of an item of a receiver. An entry whose source leg is not open has no candidate, but is not idle by R263. -/
def itemFeed (s : State) (l : BitVec 16) (r : ItemRef) : Option Feed :=
  let h := s.legLive l
  match r with
  | none => (galleryOf s l).bind fun lay => (galleryCtx s lay h.txVc).map .enc
  | some _ =>
    let src := resolveLeg s (itemEntry s l r).source
    if !s.legOpen src || h.txVc = (s.legLive src).rxVc then some (.leg src)
    else (transcodeCtx s src h.txVc).map .enc

/-- The candidates of an item. -/
def itemCands (s : State) (l : BitVec 16) (r : ItemRef) : List Cand :=
  let e := itemEntry s l r
  match itemFeed s l r with
  | some (.leg src) => recvCands s src e.maxS e.maxT
  | some (.enc c) => encCands s c e.maxS e.maxT
  | none => []

/-- The list L of a receiver: composed video first, then its video subscriptions by PRIORITY descending, then list
order (12 R267). -/
def itemsOf (s : State) (l : BitVec 16) : List ItemRef :=
  let subs := (subList s l (s.legLive l)).filter fun i => (s.sub (legDie l) i).kind == 1 && (s.sub (legDie l) i).valid
  (if (galleryOf s l).isSome then [none] else []) ++
    (sortBy (fun a b => decide ((s.sub (legDie l) b).priority ≤ (s.sub (legDie l) a).priority)) subs).map some

/-! ## Choosing layers (12 R267) -/

/-- Measured IP rate of a leg's sent audio, kb/s, and the rate of the mosaic it is sent (log 29). -/
def audioRate (s : State) (l : BitVec 16) : Nat :=
  (((within (s.mpNo 0) 500 (s.leg l).tx.sentWindow).filter fun e => !e.2.2).foldl (fun n e => n + e.2.1) 0) * 8 / 500
def seamRate (s : State) (lay : BitVec 16) : Nat :=
  ((s.openEncs (layDie lay)).filter fun c => (s.enc c).kind == 2 && (s.enc c).source == lay).foldl
    (fun n c => n + (((s.enc c).rungs[0]?).getD ({} : Rung)).rate.toNat) 0

/-- Pass 1: the lowest candidate of each item that the budget still holds. An item that it does not hold stays without one, a Gallery
stream with its lowest rung, which pass 2 does not raise (the Bool). -/
def pass1 : (items : List (ItemRef × List Cand)) → Int → List (ItemRef × List Cand × Option (Nat × Bool)) × Int
  | [], b => ([], b)
  | (r, cs) :: rest, b =>
    match cs with
    | c :: _ =>
      if (c.2.2 : Int) ≤ b then
        let (out, b') := pass1 rest (b - c.2.2)
        ((r, cs, some (0, true)) :: out, b')
      else
        let (out, b') := pass1 rest b
        ((r, cs, if r.isNone then some (0, false) else none) :: out, b')
    | [] =>
      let (out, b') := pass1 rest b
      ((r, cs, none) :: out, b')

/-- How far an item is raised within a budget, candidate by candidate. -/
def raiseCand (cs : List Cand) : (fuel i : Nat) → Int → Nat × Int
  | 0, i, b => (i, b)
  | n + 1, i, b =>
    match cs[i]?, cs[i + 1]? with
    | some a, some c =>
      let step := (c.2.2 : Int) - a.2.2
      if step ≤ b then raiseCand cs n (i + 1) (b - step) else (i, b)
    | _, _ => (i, b)

/-- Pass 2: raising in order. -/
def pass2 : List (ItemRef × List Cand × Option (Nat × Bool)) → Int → List (ItemRef × Option Cand)
  | [], _ => []
  | (r, cs, some (i, raise)) :: rest, b =>
    let (j, b') := if raise then raiseCand cs cs.length i b else (i, b)
    (r, cs[j]?) :: pass2 rest b'
  | (r, _, none) :: rest, b => (r, none) :: pass2 rest b

/-- WANT of every item of a receiver that is not idle. -/
def selectLayers (s : State) (l : BitVec 16) : List (ItemRef × Option Cand) :=
  let seam := match seamOf s l with | some lay => seamRate s lay | none => 0
  let budget : Int := ((s.leg l).tx.target : Int) - audioRate s l - seam
  let items := ((itemsOf s l).filter fun r => (itemFeed s l r).isSome).map fun r => (r, itemCands s l r)
  let (p, b) := pass1 items budget
  pass2 p b

/-! ## Applying a change (12 R268, R269) -/

/-- The keyframe request for a target layer: to the sender, or an intra request to the encoder. -/
def requestLayer (f : Feed) (k : Nat) (s : State) : State :=
  match f with
  | .leg src =>
    let h := s.legLive src
    keyframeRequest src (rxVideoSsrc h (if scalable h then 0 else k)) s
  | .enc c => intraRequest c (2 ^ k) s

/-- Whether the change to (ws, wt) waits for a switch point of another stream, layer or rung. -/
def needsSwitch (sc : Bool) (e : SubEntry) (ws : Nat) : Bool := !e.active || (ws != e.curS && !(sc && decide (ws < e.curS)))

/-- Whether a feed is one scalable stream. -/
def feedScalable (s : State) : Feed → Bool
  | .leg src => scalable (s.legLive src)
  | .enc c => (s.enc c).mode == 3 || (s.enc c).mode == 4

/-- The number of an item in a FORWARD record: its entry, or 65,536 more than the local leg index for composed video. -/
def itemNumber (l : BitVec 16) (r : ItemRef) : Nat := r.getD (65536 + legIdx l)

/-- An item takes WANT = none: it is paused, once with EGR_CNT 6, PAUSED and error 0x0C04. -/
def pauseItem (l : BitVec 16) (r : ItemRef) (s : State) : State :=
  let e := itemEntry s l r
  let d := legDie l
  let s := putItem l r { e with paused := true, wait := false, upHold := 0 } s
  if e.paused then s
  else ledger d (.forward d (itemNumber l r) none)
    (raiseFrom d (engineReq 5) 0x0C04 (BitVec.ofNat 64 (r.getD 0)) (egrEv d 3 (egrCnt d 6 s)))

/-- The result of an evaluation applied to one item: a change upward is held for 100 evaluations; a change that needs
a switch point requests it at once. A start from none is not held (log 29). -/
def applyWant (l : BitVec 16) (r : ItemRef) (w : Option Cand) (s : State) : State :=
  let e := itemEntry s l r
  match w, itemFeed s l r with
  | some (ws, wt, _), some f =>
    let up := e.active && (decide (e.curS < ws) || (ws == e.curS && decide (e.curT < wt)))
    let same := e.active && ws == e.curS && wt == e.curT
    let hold := if up then min 65535 (e.upHold + 1) else 0
    let go := !same && (!up || decide (100 ≤ hold))
    let isNew := go && !(e.wait && e.wantS == ws && e.wantT == wt)
    let s := putItem l r { e with wantS := ws, wantT := wt, paused := false, upHold := hold, wait := go } s
    let s := if isNew then
      ledger (legDie l) (.forward (legDie l) (itemNumber l r) (some (BitVec.ofNat 2 ws, BitVec.ofNat 2 wt))) s else s
    if isNew && needsSwitch (feedScalable s f) e ws then requestLayer f ws s else s
  | _, _ => pauseItem l r s

/-- Items whose receiver's codec no context serves: EGR_CNT 7, error 0x0C05 at most once per entry and second. -/
def noteIdle (l : BitVec 16) (s : State) : State :=
  let d := legDie l
  forAll ((itemsOf s l).filter fun r => r.isSome && (itemFeed s l r).isNone) (fun r s =>
    let i := BitVec.ofNat 64 (r.getD 0)
    raiseOnce d (engineReq 5) 0x0C05 i i (egrEv d 4 (egrCnt d 7 s))) s

/-- The evaluation of a receiver, every 10 MP. -/
def evaluateReceiver (l : BitVec 16) (s : State) : State :=
  forAll (selectLayers s l) (fun e s => applyWant l e.1 e.2 s) (noteIdle l s)

/-! ## Rewriting (12 R271) -/

/-- The IP length of an RTP packet of a leg. -/
def rtpLen (h : LegHalf) (payload : List Byte) : Nat := ipHeader h + 12 + payload.length + xformTag h.xform

/-- An entry's sequence number for its next packet; the first is random. -/
def entrySeq (e : SubEntry) (s : State) : BitVec 16 × State :=
  if e.fwdPkts = 0 then let (v, s) := drawLedger 0 s; (v.setWidth 16, s) else (e.nextSeq, s)

/-- TS_DELTA for the first packet of a source or at a change of stream or rung. -/
def entryDelta (l : BitVec 16) (ssrc ts : BitVec 32) (s : State) : BitVec 32 × State :=
  match (s.leg l).tx.lastTs.find? (·.1 == ssrc) with
  | none => let (v, s) := drawLedger (legDie l) s; (v.setWidth 32 - ts, s)
  | some (_, last, at_) =>
    let gap := (stampDiff s.clk at_).toNat
    (last + BitVec.ofNat 32 (max 1 ((gap * 90 + unitsMp / 2) / unitsMp)) - ts, s)

/-- Notes the output timestamp of a picture of an SSRC and the instant of its release. -/
def noteTs (l : BitVec 16) (ssrc ts : BitVec 32) (s : State) : State :=
  s.modTx l fun t => match t.lastTs.find? (·.1 == ssrc) with
    | some (_, last, _) => if last = ts then t else { t with lastTs := (ssrc, ts, s.clk) :: t.lastTs.filter (·.1 != ssrc) }
    | none => { t with lastTs := (ssrc, ts, s.clk) :: t.lastTs }

/-- A forwarded packet is held at most 12 µs between its release and its egress entry; how long is a free value (12 R281, log 7). -/
def sendForwarded (p : TxPacket) (s : State) : State :=
  let (v, s) := draw s
  sendRtpAfter (v.toNat % (12 * unitsUs + 1)) p s

/-- Sends a packet of an entry, rewritten; `fresh`: it is the first of a new source, stream or rung. -/
def sendEntry (l : BitVec 16) (r : ItemRef) (e : SubEntry) (fresh : Bool) (kind : TxKind) (p : Packet) (s : State) : State :=
  let h := s.legLive l
  if !e.ssrcRw then
    let s := putItem l r { e with fwdPkts := e.fwdPkts + 1 } s
    sendForwarded {
      leg := l, kind := kind, ssrc := p.ssrc, seq := p.seq, ts := p.ts, pt := if e.ptRw then e.outPt else p.pt,
      marker := p.marker, payload := p.payload, ipLen := rtpLen h p.payload } s
  else
    let (n, s) := entrySeq e s
    let (d, s) := if fresh || e.fwdPkts = 0 then entryDelta l e.outSsrc p.ts s else (e.tsDelta, s)
    let s := putItem l r { e with nextSeq := n + 1, tsDelta := d, fwdPkts := e.fwdPkts + 1 } s
    let s := noteTs l e.outSsrc (p.ts + d) s
    sendForwarded {
      leg := l, kind := kind, ssrc := e.outSsrc, seq := n, ts := p.ts + d, pt := if e.ptRw then e.outPt else p.pt,
      marker := p.marker, payload := p.payload, ipLen := rtpLen h p.payload } s

/-- An applied change counts in EGR_CNT 5 and in SWITCHES. -/
def countSwitch (l : BitVec 16) (s : State) : State :=
  egrCnt (legDie l) 5 (s.modTx l fun t => { t with switches := t.switches + 1 })

/-- The entry as a packet of layer (k, t) finds it: a change that takes effect with it is applied. The Bool says
that a change was applied, the second that it changed the stream or rung. -/
def switchEntry (sc : Bool) (e : SubEntry) (k t : Nat) (v : VInfo) : SubEntry × Bool × Bool :=
  if e.paused then (if e.active && v.first && (sc || k = e.curS) then ({ e with active := false }, true, false) else (e, false, false))
  else if !e.wait || !v.first then (e, false, false)
  else if e.active && e.wantS = e.curS then
    if (e.wantT < e.curT && (sc || k = e.curS)) || (v.switchUp && t ≤ e.wantT && k = e.curS) then
      ({ e with curT := e.wantT, wait := false, upHold := 0 }, true, false)
    else (e, false, false)
  else if e.active && sc && e.wantS < e.curS then
    ({ e with curS := e.wantS, curT := e.wantT, wait := false, upHold := 0 }, true, false)
  else if v.switchIn && k = e.wantS then
    ({ e with curS := e.wantS, curT := e.wantT, active := true, wait := false, upHold := 0 }, true, !(e.active && sc))
  else (e, false, false)

/-- Whether an entry forwards a packet of layer (k, t): while it waits to go down to another stream, layer 0 of CUR
alone (12 Table 12.3). -/
def entryTakes (sc : Bool) (e : SubEntry) (k t : Nat) : Bool :=
  let down := e.wait && decide (e.wantS < e.curS) && !sc
  e.active && (if sc then decide (k ≤ e.curS) else k == e.curS) && decide (t ≤ if down then 0 else e.curT)

/-- A packet of layer (k, t) of a feed reaches one item of a receiver. -/
def forwardItem (l : BitVec 16) (r : ItemRef) (f : Feed) (k t : Nat) (v : VInfo) (p : Packet) (s : State) : State :=
  let e := itemEntry s l r
  let sc := feedScalable s f
  let (e', changed, fresh) := switchEntry sc e k t v
  let s := if changed then countSwitch l (putItem l r e' s) else s
  if entryTakes sc e' k t then sendEntry l r e' fresh .video p s else s

/-- The receivers of a leg's streams: (receiver, index) for the valid entries of a kind that name it, receivers open
with TX_EN (12 R261). -/
def receiversOf (s : State) (src : BitVec 16) (kind : Nat) : List (BitVec 16 × Nat) :=
  s.allOpenLegs.flatMap fun l =>
    let h := s.legLive l
    if !h.txEn then []
    else ((subList s l h).filter fun i =>
      let e := s.sub (legDie l) i
      e.valid && e.kind == kind && resolveLeg s e.source == src).map fun i => (l, i)

/-- A released audio packet of RX_SSRC_A goes to every audio subscription of its leg (12 R262). -/
def forwardAudio (src : BitVec 16) (p : Packet) (s : State) : State :=
  forAll (receiversOf s src 0) (fun e s =>
    let x := s.sub (legDie e.1) e.2
    sendEntry e.1 (some e.2) { x with active := true } false .audio p s) s

/-- A released video packet goes to every video subscription of its leg that is forwarded (12 R263, R269). -/
def forwardVideo (src : BitVec 16) (k t : Nat) (v : VInfo) (p : Packet) (s : State) : State :=
  forAll (receiversOf s src 1) (fun e s =>
    match itemFeed s e.1 (some e.2) with
    | some (.leg f) => if f = src && layerIntact s src k t then forwardItem e.1 (some e.2) (.leg f) k t v p s else s
    | _ => s) s

/-- The items of all receivers that an encode context feeds. -/
def fedBy (s : State) (c : BitVec 16) : List (BitVec 16 × ItemRef) :=
  s.allOpenLegs.flatMap fun l =>
    if (s.legLive l).txEn then ((itemsOf s l).filter fun r => itemFeed s l r == some (.enc c)).map fun r => (l, r) else []

/-- A picture of rung `k`, temporal layer `t`, that an encode context has coded for MP `m` goes to the items that it feeds, which switch
at it where they wait for it (12 Table 12.2): an intra picture lets them into the rung, every picture into a temporal layer. Its
packets carry the timestamp 90 × m before they are rewritten (R271, R282) and the receiver's TX_VPT. -/
def sendCoded (c : BitVec 16) (k t m : Nat) (intra : Bool) (payloads : List (List Byte)) (s : State) : State :=
  forAll (fedBy s c) (fun e s =>
    let sc := feedScalable s (.enc c)
    let (x, changed, fresh) := switchEntry sc (itemEntry s e.1 e.2) k t { first := true, last := true, switchIn := intra, switchUp := true }
    let s := if changed then countSwitch e.1 (putItem e.1 e.2 x s) else s
    if !entryTakes sc x k t then s
    else forAll ((List.range payloads.length).zip payloads) (fun p s =>
      sendEntry e.1 e.2 (itemEntry s e.1 e.2) (fresh && p.1 == 0) .video
        { ts := BitVec.ofNat 32 (90 * m), pt := (s.legLive e.1).txVpt, marker := p.1 + 1 == payloads.length, payload := p.2 } s) s) s

/-- A picture of a leg's own video, its mosaic, is sent on TX_SSRC_V with the timestamp 90 × m + TS_BASE (12 R282). -/
def sendOwnVideo (l : BitVec 16) (m : Nat) (payloads : List (List Byte)) (s : State) : State :=
  forAll ((List.range payloads.length).zip payloads) (fun p s =>
    let h := s.legLive l
    let (q, s) := nextSeqOf l h.txSsrcV s
    let (b, s) := tsBaseOf l h.txSsrcV s
    sendRtp { leg := l, kind := .video, ssrc := h.txSsrcV, seq := q, ts := BitVec.ofNat 32 (90 * m) + b, pt := h.txVpt,
              marker := p.1 + 1 == payloads.length, payload := p.2, ipLen := rtpLen h p.2 } s) s

/-! ## Broken layers (09 R212, 12 R270) -/

/-- An item whose CUR has a broken layer drops to the highest intact candidate below it in the same stream; where there
is none, forwarding stops and the item alone is evaluated at once. -/
def dropItem (l : BitVec 16) (i : Nat) (s : State) : State :=
  let r : ItemRef := some i
  let e := itemEntry s l r
  match itemFeed s l r with
  | some (.leg src) =>
    let sc := scalable (s.legLive src)
    let curOk := (layerDeps sc e.curS e.curT).all fun x => layerIntact s src x.1 x.2
    if !e.active || curOk then s
    else
      let below := (itemCands s l r).filter fun c =>
        ((c.1 == e.curS && decide (c.2.1 < e.curT)) || (sc && decide (c.1 < e.curS))) &&
          (layerDeps sc c.1 c.2.1).all fun x => layerIntact s src x.1 x.2
      match below.getLast? with
      | some c => countSwitch l (putItem l r { e with curS := c.1, curT := c.2.1, wait := false } s)
      | none =>
        let s := putItem l r { e with active := false } s
        forAll ((selectLayers s l).filter fun x => x.1 == r) (fun x s => applyWant l x.1 x.2 s) s
  | _ => s

/-- A layer of a received stream becomes broken, with every layer that depends on it; receivers are moved down and a
keyframe is requested. -/
def breakLayer (src : BitVec 16) (k t : Nat) (s : State) : State :=
  let h := s.legLive src
  let sc := scalable h
  let s := forAll ((List.range 3).flatMap fun a => (List.range 4).map fun b => (a, b)) (fun e s =>
    if (layerDeps sc e.1 e.2).contains (k, t) then s.modLayer src e.1 e.2 fun y => { y with broken := true } else s) s
  let s := keyframeRequest src (rxVideoSsrc h (if sc then 0 else k)) s
  forAll (receiversOf s src 1) (fun e s => dropItem e.1 e.2 s) s

/-- A layer becomes intact at a switch point that depends on no broken layer (09 R212). -/
def mendLayer (src : BitVec 16) (k t : Nat) (v : VInfo) (s : State) : State :=
  let sc := scalable (s.legLive src)
  let others := (layerDeps sc k t).filter fun e => e != (k, t)
  let free :=
    if v.switchIn then !sc || ((List.range k).all fun a => layerIntact s src a 0)
    else others.all fun e => layerIntact s src e.1 e.2
  if v.first && (v.switchIn || v.switchUp) && free then
    forAll ((List.range (t + 1)).filter fun b => v.switchIn || b == t) (fun b s =>
      s.modLayer src k b fun y => { y with broken := false }) s
  else s

/-! ## Feedback from receivers (12 R272, R275) -/

/-- The item of a leg that sends on an SSRC. -/
def itemOfSsrc (s : State) (l : BitVec 16) (ssrc : BitVec 32) : Option ItemRef :=
  (itemsOf s l).find? fun r => (itemEntry s l r).outSsrc == ssrc

/-- A PLI or FIR about the leg's output: a keyframe request, an intra request, or a restart of its mosaic. -/
def routeKeyframe (l : BitVec 16) (ssrc : BitVec 32) (s : State) : State :=
  let s := s.modTx l fun t => { t with kfRx := t.kfRx + 1 }
  if ssrc = (s.legLive l).txSsrcV && (seamOf s l).isSome then viewerRestart l s
  else match itemOfSsrc s l ssrc with
    | some r => match itemFeed s l r with
      | some f => requestLayer f (itemEntry s l r).curS s
      | none => s
    | none => s

/-- Whether a NACK names video that the leg sends (12 R272). -/
def sendsVideo (s : State) (l : BitVec 16) (ssrc : BitVec 32) : Bool :=
  ssrc == (s.legLive l).txSsrcV || (itemOfSsrc s l ssrc).isSome

/-- What an RFC 8888 report shows of the packets that departed: loss above 10 % over 200 ms, a CE mark, a one-way
delay 25 ms above the least of the last 10 s. -/
def ccFeedback (l : BitVec 16) (stamp : BitVec 32) (reports : List (BitVec 32 × BitVec 16 × Bool × BitVec 2 × BitVec 13))
    (s : State) : State :=
  let t := (s.leg l).tx
  let m := s.mpNo 0
  let matched := reports.filterMap fun r => (t.departures.find? fun d => d.1 == r.1 && d.2.1 == r.2.1).map fun d => (r, d.2.2)
  if matched.isEmpty then s
  else
    let now := s.now (s.legLive l).ethDie
    let recent := (matched.map (fun e => (e.2, e.1.2.2.1)) ++ t.outcomes).filter fun e => decide (stampDiff now e.1 ≤ (msUnits 200 : Int))
    let lost := (recent.filter fun e => !e.2).length
    let ce := matched.any fun e => e.1.2.2.2.1 == 3
    let owd := (matched.filter fun e => e.1.2.2.1).map fun e =>
      let arrival : Int := 1000000 * (stamp.toNat : Int) / 65536 - 1000000 * (e.1.2.2.2.2.toNat : Int) / 1024
      (m, arrival - (e.2.toNat : Int) / 65536 / 1000)
    let hist := within m 10000 t.owd
    let least := (hist ++ owd).foldl (fun b e => match b with | none => some e.2 | some x => some (min x e.2)) none
    let late := match least with | some x => owd.any fun e => decide (x + 25000 ≤ e.2) | none => false
    let fall := decide (recent.length < lost * 10) || ce || late
    s.modTx l fun t => { t with
      lastFeedback := m, starved := false, fbFall := t.fbFall || fall, owd := owd ++ hist, outcomes := recent,
      targetSrc := if t.targetSrc = 3 then 1 else t.targetSrc }

/-- Round-trip time from a report block, ns (RFC 3550); none without a sender report. -/
def rttOf (s : State) (l : BitVec 16) (lsr dlsr : BitVec 32) : Option Nat :=
  if lsr = 0 then none
  else
    let now : BitVec 32 := (ntpOf s (s.time (legDie l))).extractLsb' 16 32
    some (1000000000 * (now - lsr - dlsr).toNat / 65536)

/-- One item of a received RTCP packet (05 R123, 12 R272, R275, R282). A standby takes targets from the ledger. -/
def rtcpItem (l : BitVec 16) (i : RtcpItem) (s : State) : State :=
  match i with
  | .senderReport ssrc ntp ts =>
    s.modTx l fun t => { t with lastSr := (ssrc, ntp, ts) :: t.lastSr.filter (·.1 != ssrc) }
  | .reportBlock _ fraction lsr dlsr =>
    let s := s.modTx l fun t => { t with loss := fraction }
    match rttOf s l lsr dlsr with
    | some n => s.modRx l fun x => { x with rtt := n }
    | none => s
  | .pli ssrc | .fir ssrc => routeKeyframe l ssrc s
  | .nack ssrc seqs => if sendsVideo s l ssrc then answerNack l ssrc seqs s else s
  | .ccfb stamp reports => if standsBy s then s else ccFeedback l stamp reports s
  | .bye _ | .other => s

end Sys2Proof.Machine
end

