-- ==== Sys2Proof/Machine/Jitter.lean ====
section
/-! DEFINITION. Audio jitter buffers: mapping and anchors, placement, adaptation and stretch, and the state of the
buffer at each MP (05 R126 to R132). -/

namespace Sys2Proof.Machine

/-- Samples at 48 kHz per unit of a leg's RTP clock. -/
def mediaRatio (ac : Nat) : Int := (48000 / audioClock ac : Nat)

/-- An instant of device time in samples at 48 kHz. -/
def sampleOf (t : Int) : Int := t * 48 / (unitsMp : Int)

/-- A timestamp unwrapped against the highest one received, in samples at 48 kHz, without OFFSET. -/
def mediaOf (j : Jb) (ratio : Int) (ts : BitVec 32) : Int :=
  match j.hi with
  | some (h, m) => m + (ts - h).toInt * ratio
  | none => (ts.toNat : Int) * ratio

/-- Whether a packet re-anchors the mapping: a timestamp jump greater than JB_MAX, or a marker bit after a gap of at
least 1 ms beyond every frame received (05 R126). -/
def reanchors (j : Jb) (h : LegHalf) (media : Int) (marker : Bool) : Bool :=
  match j.hi with
  | some (_, m) => decide (48 * h.jbMax < (media - m).natAbs) || (marker && decide (j.endMedia + 48 ≤ media))
  | none => false

/-- The mapping after a packet: the first anchors it at JB_INIT ms after its arrival; a re-anchoring one at the
earliest whole MP at least the target after it. The Bool says that its first MP is faded in. -/
def anchorJb (h : LegHalf) (arr media : Int) (marker : Bool) (j : Jb) : Jb × Bool :=
  if !j.anchored then
    let off := arr + 48 * h.jbInit - media
    ({ j with anchored := true, offset := off, anchorOffset := off, playout := 48 * h.jbInit, window := [] }, false)
  else if reanchors j h media marker then
    let pos := (arr + j.target + 47) / 48 * 48
    ({ j with offset := pos - media, anchorOffset := pos - media, playout := pos - arr, window := [], hi := none }, true)
  else (j, false)

/-- The mapping of a standby after a packet: an anchor of the ledger takes PLAYOUT from its packet, whose first MP a re-anchor
fades in (05 R130). -/
def followJb (arr media : Int) (j : Jb) : Jb × Bool :=
  match j.pend with
  | some fade => ({ j with pend := none, playout := media + j.offset - arr, hi := if fade then none else j.hi }, fade)
  | none => (j, false)

/-- Notes the timestamps received so far. -/
def noteMedia (ts : BitVec 32) (media : Int) (len : Nat) (j : Jb) : Jb :=
  match j.hi with
  | none => { j with hi := some (ts, media), endMedia := media + len }
  | some (_, m) =>
    { j with hi := if m < media then some (ts, media) else j.hi, endMedia := max j.endMedia (media + len) }

/-- RFC 3550 interarrival jitter after a packet: `jitter` holds 16 times its value in ns (05 R133). -/
def noteJitter (arrNs mediaNs : Int) (j : Jb) : Jb :=
  let tr := arrNs - mediaNs
  match j.transit with
  | some old => { j with transit := some tr, jitter := j.jitter + (tr - old).natAbs - j.jitter / 16 }
  | none => { j with transit := some tr }

/-- A frame in sequence position. -/
def insertFrame (f : JbFrame) (l : List JbFrame) : List JbFrame :=
  insertBy (fun a b => decide (a.pos ≤ b.pos)) f l

/-- Verdicts of R129, as the ledger numbers them (16 Table 16.1). -/
def vStored : BitVec 3 := 0
def vLate : BitVec 3 := 1
def vEarly : BitVec 3 := 2
def vDup : BitVec 3 := 3
def vPoliced : BitVec 3 := 4
def vMarked : BitVec 3 := 5

/-- The target of a leg's move whose ingress is written to both dies' buffers: from boundary S − 1 on (04 Table 4.12 step 3). -/
def mirrorOf (s : State) (l : BitVec 16) : Option (BitVec 16) :=
  (s.moves.find? fun m => !m.isConf && m.src == l && decide (m.switchMp.toNat ≤ s.mpNo (legDie l) + 1)).map (·.dst)

/-- A frame stored in a leg's buffer is stored in the buffer of its move's target too. -/
def mirrorAudio (l : BitVec 16) (seq : BitVec 16) (size : Nat) (s : State) : State :=
  match mirrorOf s l, (s.leg l).jb.frames.find? (·.seq == seq) with
  | some t, some f => jbPoolAdd (legDie t) size (s.modJb t fun j => { j with frames := insertFrame f j.frames })
  | _, _ => s

/-- An audio packet sorted into its leg's buffer. `forced` is the verdict of the active unit's ledger, none where the
unit decides itself: late after the boundary of the MP that holds its first sample, early beyond JB_MAX + 60 ms, a
duplicate by its sequence number (05 R129, R130, 06 R149). -/
def placeAudio (l : BitVec 16) (p : Packet) (arrival placed : BitVec 64) (size : Nat) (provisional : Bool)
    (forced : Option (BitVec 3)) (s : State) : BitVec 3 × State :=
  let d := legDie l
  let h := s.legLive l
  let j0 := (s.leg l).jb
  let arr := sampleOf (instantOf s d arrival)
  let ratio := mediaRatio h.rxAc
  let media := mediaOf j0 ratio p.ts
  let (j, fade) := if forced.isSome then followJb arr media j0 else anchorJb h arr media p.marker j0
  let j := noteJitter (instantOf s d arrival / 65536) (125000 * media / 6) (noteMedia p.ts media p.len48 j)
  let pos := media + j.offset
  let v := forced.getD
    (if decide ((unitsMp : Int) * (pos / 48) < instantOf s d placed) then vLate
     else if decide (48 * (h.jbMax + 60 : Int) < pos - sampleOf (s.time d)) then vEarly
     else if j.frames.any (fun f => f.seq == p.seq && !f.provisional) then vDup else vStored)
  let note (j : Jb) : Jb := { j with window := (s.mpNo d, arr - (media + j.anchorOffset)) :: j.window }
  let s := s.modLeg l fun x =>
    if v = vLate then { x with jb := note j, rx := { x.rx with late := x.rx.late + 1 } }
    else if v = vEarly then { x with jb := j, rx := { x.rx with early := x.rx.early + 1 } }
    else if v = vDup then { x with jb := j, rx := { x.rx with dup := x.rx.dup + 1 } }
    else
      let lev := p.level.filter fun e => e.1 == h.levelExt
      let f : JbFrame := { seq := p.seq, ts := p.ts, len := p.len48, payload := p.payload,
                           level := (lev.map (·.2.1)).getD 127, vflag := (lev.map (·.2.2)).getD false,
                           fec := p.fec, provisional := provisional, fadeIn := fade, pos := pos, size := size,
                           c2 := crc32c p.payload }
      { x with jb := note { j with frames := insertFrame f (j.frames.filter (·.seq != p.seq)) } }
  let s := if v = vStored then mirrorAudio l p.seq size s else s
  let s := if j.offset ≠ j0.offset || !j0.anchored then
    ledger d (.playout l (some j.offset) j.target j.step) s else s
  (v, if v = vStored then s else jbPoolSub d size s)

/-- A provisional frame is taken out of the buffer: its tag, C1 or C2 has failed (06 R149). -/
def dropProvisional (l : BitVec 16) (seq : BitVec 16) (s : State) : State :=
  s.modJb l fun j => { j with frames := j.frames.filter fun f => !(f.seq == seq && f.provisional) }

/-! ## Adaptation (05 R127) -/

/-- Nearest-rank 95th percentile of the relative delays of a window. -/
def pct95 (w : List Int) : Int :=
  let v := sortBy (fun a b => decide (a ≤ b)) w
  v.getD ((95 * v.length + 99) / 100 - 1) 0 - v.getD 0 0

/-- The target and the stretch step of MP `mp`. -/
def jbAdapt (h : LegHalf) (mp : Nat) (j : Jb) : Jb :=
  let w := j.window.filter fun e => decide (mp ≤ e.1 + 2000)
  let j := { j with window := w }
  let j :=
    if h.jbFixed then { j with target := 48 * h.jbInit }
    else if mp % 100 = 0 && !w.isEmpty then
      let want := clampN (48 * h.jbMin) (48 * h.jbMax) (((pct95 (w.map (·.2)) + 96 + 47) / 48 * 48).toNat)
      if j.target < want || want + 240 ≤ j.target then { j with target := want } else j
    else j
  let err := (j.target : Int) - j.playout
  { j with step := if 0 < err then 1 else if err < 0 then -1 else 0 }

/-! ## The buffer at an MP (05 R131, R132, 07 R158) -/

/-- The frame that covers a position, and whether a later one is stored. -/
def coverAt (fs : List JbFrame) (pos : Int) : Option JbFrame :=
  fs.find? fun f => decide (f.pos ≤ pos) && decide (pos < f.pos + f.len)
def laterThan (fs : List JbFrame) (pos : Int) : Option JbFrame := fs.find? fun f => decide (pos < f.pos)

/-- Whether the packet after a gap carries in-band FEC for the frame missing at a position. -/
def fecFor (h : LegHalf) (fs : List JbFrame) (pos : Int) : Bool :=
  h.rxAc == 1 && match laterThan fs pos with
    | some f => f.fec && decide (f.pos - pos < (f.len : Int) + 1)
    | none => false

/-- Whether a gap is one of Opus DTX: the packet after it follows the one before it in sequence number (07 R158). -/
def dtxGap (h : LegHalf) (j : Jb) (fs : List JbFrame) (pos : Int) : Bool :=
  h.rxAc == 1 && match j.lastSeq, laterThan fs pos with
    | some q, some f => f.seq == q + 1
    | _, _ => false

/-- The stretch of an MP moves every stored position, OFFSET and PLAYOUT by its step. -/
def stretchJb (j : Jb) : Jb :=
  { j with offset := j.offset + j.step, playout := j.playout + j.step,
           frames := j.frames.map fun f => { f with pos := f.pos + j.step } }

/-- The buffer of a leg at boundary `mp`: what the decoder delivers for the MP; before the first packet, and in an Opus DTX gap,
it is an underrun (05 R131, 07 R158). `follow` is a standby's: its
target and step come from the ledger (05 R130). The stretch itself follows the decoding, in `stretchJb`. -/
def jbMp (h : LegHalf) (follow : Bool) (mp : Nat) (x : Leg) : Leg :=
  let j := x.jb
  let pos : Int := 48 * (mp : Int)
  let fs := j.frames.filter fun f => decide (pos < f.pos + f.len)
  let j := { j with frames := fs, pos := pos, fade := false }
  let adapt (j : Jb) : Jb := if follow then j else jbAdapt h mp j
  match coverAt fs pos with
    | some f =>
      { x with jb := adapt { j with mode := 1, underrun := 0, silent := false, silentRun := 0, lastSeq := some f.seq,
                                    fade := j.silent || (f.fadeIn && decide (f.pos = pos)) } }
    | none =>
      if j.silent then
        { x with jb := { j with mode := 4, step := 0, silentRun := j.silentRun + 1 }, rx := { x.rx with silentMp := x.rx.silentMp + 1 } }
      else if (laterThan fs pos).isSome && !dtxGap h j fs pos then
        let fec := fecFor h fs pos
        { x with jb := adapt { j with mode := if fec then 2 else 3, underrun := 0 },
                 rx := { x.rx with concealMp := if fec then x.rx.concealMp else x.rx.concealMp + 1 } }
      else if j.underrun < 3 then
        { x with jb := { j with mode := 3, step := 0, underrun := j.underrun + 1 }, rx := { x.rx with concealMp := x.rx.concealMp + 1 } }
      else
        { x with jb := { j with mode := 4, step := 0, underrun := j.underrun + 1, silent := true, silentRun := 1 },
                 rx := { x.rx with silentMp := x.rx.silentMp + 1 } }

/-- The boundary work of a leg's buffer: frames whose positions have passed leave the pool; error 0x0509 once 2,000
consecutive MPs are silent. -/
def jbBoundary (l : BitVec 16) (mp : Nat) (s : State) : State :=
  let d := legDie l
  let h := s.legLive l
  let x := s.leg l
  let gone := (x.jb.frames.filter fun f => decide (f.pos + f.len ≤ 48 * (mp : Int))).foldl (fun n f => n + f.size) 0
  let y := jbMp h (standsBy s) mp x
  let s := jbPoolSub d gone (s.modLeg l fun _ => y)
  let s := if y.jb.step ≠ x.jb.step || y.jb.target ≠ x.jb.target then ledger d (.playout l none y.jb.target y.jb.step) s else s
  if y.jb.silentRun = 2000 && x.jb.silentRun ≠ 2000 then raiseFrom d (engineReq 0) 0x0509 (l.setWidth 64) s else s

/-- The positions after an MP has been decoded, with the net stretch since the leg opened. -/
def jbStretch (l : BitVec 16) (s : State) : State :=
  s.modLeg l fun x => { x with jb := stretchJb x.jb, rx := { x.rx with stretch := x.rx.stretch + x.jb.step } }

/-- A step of device time by some ms relabels a buffer (02 R46). -/
def relabelJb (ms : Int) (j : Jb) : Jb :=
  { j with
    offset := j.offset + 48 * ms, anchorOffset := j.anchorOffset + 48 * ms, pos := j.pos + 48 * ms
    frames := j.frames.map fun f => { f with pos := f.pos + 48 * ms }
    window := j.window.map fun e => (((e.1 : Int) + ms).toNat, e.2)
    transit := j.transit.map fun t => t + 1000000 * ms }

end Sys2Proof.Machine
end

