-- ==== Sys2Proof/Machine/Ingress.lean ====
section
/-! DEFINITION. Ingress: frame disposition, classification, the stranger queue, policing, checks, SSRCs, loss repair
and the tag verdict (05 R105 to R134, 06 R147 to R149). -/

namespace Sys2Proof.Machine

/-! ## The stranger queue (05 R111 to R113) -/

/-- One packet's worth of tokens of a stranger class. -/
def strNeed : Nat := 1000000000

/-- A class's bucket after an arriving record: whether it passes. RATE is in packets per second. -/
def strTake (lim : BitVec 48) (now : BitVec 64) (b : StrBucket) : Bool × StrBucket :=
  let rate := (lim.extractLsb' 0 32).toNat
  let burst := (lim.extractLsb' 32 16).toNat
  let ns := stampDiff now b.last / 65536
  let b := if 0 < ns then { b with tok := min (burst * strNeed) (b.tok + rate * ns.toNat),
                                   last := b.last + BitVec.ofNat 64 (65536 * ns.toNat) } else b
  if strNeed ≤ b.tok then (true, { b with tok := b.tok - strNeed }) else (false, { b with skipped := b.skipped + 1 })

/-- A failed check of a leg's data, or of a frame without a leg on a subport: CARRY_FAIL, ING_CNT 13, CHECK and the error,
whose detail is the leg or else the subport index (05 R118, R135). -/
def checkFail (d : Nat) (src : Byte) (code : BitVec 16) (l : BitVec 16) (sub : Nat) (s : State) : State :=
  let s := if l = noId then s else s.modRx l fun x => { x with carryFail := x.carryFail + 1 }
  raiseFrom d src code (if l = noId then BitVec.ofNat 64 sub else l.setWidth 64) (ingEv d 3 (ingCnt d 13 s))

/-- A failed carry check: error 0x0506. -/
def carryFail (d : Nat) (l : BitVec 16) (sub : Nat) (s : State) : State := checkFail d (engineReq 0) 0x0506 l sub s

/-- A failed block check: error 0x0507. -/
def blockFail (d : Nat) (src : Byte) (l : BitVec 16) (s : State) : State := checkFail d src 0x0507 l 0 s

/-- Writes a stranger record of reason `r`, which belongs to the Unknown class for UNKNOWN_TUPLE and NON_UDP: it passes
its class's bucket, needs an enabled ring with a free slot, and its frame must verify against C0. -/
def stranger (d : Nat) (r : BitVec 4) (sub : Nat) (arrival : BitVec 64) (l : BitVec 16) (ssrc : BitVec 32)
    (raw : List Byte) (c0Ok : Bool) (s : State) : State :=
  let g := (s.die d).ing
  let unk := r == 0 || r == 6
  let (ok, b) := strTake (if unk then g.limUnknown else g.limKnown) s.clk (if unk then g.unknown else g.known)
  let setB (b : StrBucket) (s : State) : State := s.modDie d fun x =>
    { x with ing := if unk then { x.ing with unknown := b } else { x.ing with known := b } }
  let s := setB b s
  if !ok then ingCnt d 8 s
  else if !g.strEn then ingCnt d 9 s
  else
    let size := 2 ^ g.strLog2.toNat
    let t := g.strTail.toNat + 1
    if t % size = g.strHead.toNat % size then
      let s := ingCnt d 9 s
      if g.strFullSeen then s
      else raiseFrom d (engineReq 0) 0x0503 (BitVec.ofNat 64 sub)
        (ingEv d 1 (s.modDie d fun x => { x with ing := { x.ing with strFullSeen := true } }))
    else if !c0Ok then carryFail d l sub s
    else
      let s := emit (.stranger d g.strTail g.strPhase r sub arrival l ssrc b.skipped (raw.take 2016) (decide (2016 < raw.length)) raw.length) s
      let s := ingCnt d 7 (setB { b with skipped := 0 } s)
      let s := s.modDie d fun x => { x with ing := { x.ing with
        strTail := BitVec.ofNat 12 (t % size), strPhase := if t = size then !x.ing.strPhase else x.ing.strPhase } }
      if g.strIrq then emit (.msix 0 g.strVector) s else s

/-- The same at most once per second and object. -/
def strangerOnce (d : Nat) (r : BitVec 4) (obj : BitVec 64) (sub : Nat) (arrival : BitVec 64) (l : BitVec 16) (ssrc : BitVec 32)
    (raw : List Byte) (c0Ok : Bool) (s : State) : State :=
  let code : BitVec 16 := 0xFF00 ||| r.setWidth 16
  if rateOk d code obj s then rateNote d code obj (stranger d r sub arrival l ssrc raw c0Ok s) else s

/-- ING_STR_HEAD_WRITE: the host advances the head, which arms the report of the next full ring. -/
def execIngStrHeadWrite (die : Nat) (v : Word) (s : State) : Host.Outcome State Fault Refusal :=
  if s.off die then .next s else
  .next (s.modDie die fun x => { x with ing := { x.ing with
    strHead := fld v 0 12, strFullSeen := x.ing.strFullSeen && fld v 0 12 == x.ing.strHead } })

/-- ING_STR_CFG_WRITE: while the ring is enabled a write changes only ENABLE; clearing ENABLE resets TAIL, HEAD and
PHASE; LOG2_SIZE is clamped to 4 to 12. -/
def execIngStrCfgWrite (die : Nat) (v : Word) (s : State) : Host.Outcome State Fault Refusal :=
  if s.off die then .next s else
  .next (s.modDie die fun x =>
    let g := x.ing
    let en := bit v 63
    let g := if g.strEn then g else { g with
      strLog2 := BitVec.ofNat 4 (clampN 4 12 (fldN v 0 4)), strVector := fld v 4 11, strIrq := bit v 15 }
    { x with ing := if en then { g with strEn := true }
                    else { g with strEn := false, strTail := 0, strHead := 0, strPhase := true, strFullSeen := false } })

/-! ## Classification (05 R106 to R109) -/

/-- The entries of a die's local address list that are valid on a subport. -/
def addrsOn (s : State) (d sub : Nat) : List (BitVec 128) :=
  ((List.range 16).map fun k => tget ({} : LAddr) (s.die d).ing.laddr k).filterMap fun a =>
    if a.valid && a.ports.getLsbD sub then some a.addr else none

/-- Whether an address is written as IPv4, and whether it is a multicast group. -/
def isV4 (a : BitVec 128) : Bool := a.extractLsb' 32 96 == 0xFFFF
def isMcast (a : BitVec 128) : Bool :=
  if isV4 a then a.extractLsb' 28 4 == 0xE else a.extractLsb' 120 8 == 0xFF

/-- The destination MACs that a local address admits beside the subport's own: the MAC of its group, or of its
solicited-node and all-nodes groups. -/
def groupMacs (a : BitVec 128) : List (BitVec 48) :=
  if isV4 a then if isMcast a then [0x01005E000000 ||| (a.extractLsb' 0 23).setWidth 48] else []
  else if isMcast a then [0x333300000000 ||| (a.extractLsb' 0 32).setWidth 48]
  else [0x3333FF000000 ||| (a.extractLsb' 0 24).setWidth 48, 0x333300000001]

/-- Whether a frame's destination MAC is for this subport (Table 5.2 row 5). -/
def macOk (s : State) (d sub : Nat) (m : BitVec 48) : Bool :=
  m == (s.ethPort d sub).mac || m == 0xFFFFFFFFFFFF || (addrsOn s d sub).any fun a => (groupMacs a).contains m

/-- Whether a frame is for the Duken core of die 0 (row 4). -/
def isPtp (s : State) (d sub : Nat) (f : Frame) : Bool :=
  let byte (i : Nat) : BitVec 8 := s.servo.ptpPorts.extractLsb' (8 * i) 8
  let port := (List.range 4).any fun i =>
    (byte i).getLsbD 7 && (byte i).extractLsb' 0 3 == BitVec.ofNat 3 sub && (byte i).extractLsb' 3 3 == BitVec.ofNat 3 d
  let ptp := f.etherType == 0x88F7 || (f.ip != 0 && f.udp && (f.dport == 319 || f.dport == 320))
  let esmc := f.etherType == 0x8809 && f.subtype == 0x0A && bit s.servo.synceCfg 63 &&
    fldN s.servo.synceCfg 0 3 == sub && fldN s.servo.synceCfg 3 3 == d
  (ptp && port) || esmc

/-- Whether a packet comes from the address and port from which an open leg of this die sends (05 R121). -/
def isLoop (s : State) (d : Nat) (f : Frame) : Option (BitVec 16) :=
  s.allOpenLegs.find? fun l =>
    let h := s.legLive l
    h.ethDie == d && (localAddr s h).addr == f.src && h.localPort == f.sport

/-- The open leg that a packet's five values match; the classifier holds one entry for each (05 R108). -/
def matchLeg (s : State) (d sub : Nat) (f : Frame) : Option (BitVec 16) :=
  s.allOpenLegs.find? fun l =>
    let h := s.legLive l
    let a := localAddr s h
    h.rxEn && (s.leg l).classified && h.ethDie == d && h.ethIdx == sub && a.valid && a.ports.getLsbD sub &&
      a.addr == f.dst && h.localPort == f.dport && h.remoteAddr == f.src && h.remotePort == f.sport

/-! ## SSRCs and pools, on the home die (05 R115, R119, R120, 06 R147) -/

/-- The RX SSRCs of a leg that its AUDIO and VIDEO bits allow. -/
def rxSsrcs (h : LegHalf) : List (BitVec 32) :=
  ((if h.audio then [h.rxSsrcA] else []) ++
    (if h.video then [h.rxSsrcV0, h.rxSsrcV1, h.rxSsrcV2, h.rxSsrcRtx] else [])).filter (· ≠ 0)

/-- Whether an SSRC is one that the leg itself sends. -/
def ownSsrc (h : LegHalf) (ssrc : BitVec 32) : Bool :=
  ssrc != 0 && (ssrc == h.txSsrcA || ssrc == h.txSsrcV || ssrc == h.txSsrcRtx)

/-- Whether a packet is bound for the jitter-buffer pool. -/
def toJb (h : LegHalf) (p : Packet) : Bool := !p.rtcp && h.audio && p.ssrc == h.rxSsrcA

/-- The pool's judgement of an arriving packet: dropped marked from 90 % on, dropped where it does not fit. -/
def poolTakes (d : Nat) (l : BitVec 16) (jb marked : Bool) (len : Nat) (s : State) : Bool × State :=
  let x := s.die d
  let used := if jb then x.ing.jbUsed else x.ing.pktUsed
  let total := if jb then x.str.jbPool else x.str.pktPool
  if total < used + len then
    let s := ingCnt d 14 s
    if (if jb then x.ing.jbEpisode else x.ing.pktEpisode) then (false, s)
    else (false, raiseFrom d (engineReq 0) 0x0508 (l.setWidth 64) (ingEv d 2 (s.modDie d fun x => { x with ing :=
      if jb then { x.ing with jbEpisode := true } else { x.ing with pktEpisode := true } })))
  else if marked && decide (total * 9 ≤ used * 10) then (false, ingCnt d 15 s)
  else (true, if jb then jbPoolAdd d len s else pktPoolAdd d len s)

/-- A matched RTP or RTCP packet on its leg's home die: the SSRC check, the replay window, the pools; it then enters
the SRTP engine. A leg with CUT_THROUGH places its audio frame provisionally. -/
def homeArrive (l : BitVec 16) (r : RxPacket) (s : State) : State :=
  let d := legDie l
  let h := s.legLive l
  let ssrc := r.pkt.ssrc
  let r := if r.pkt.rtcp then r else
    { r with pkt := { r.pkt with index := estIndex (rxWin (s.leg l).cry false ssrc) r.pkt.seq } }
  if ownSsrc h ssrc then
    raiseOnce d (engineReq 0) 0x0504 (l.setWidth 64) (l.setWidth 64)
      (strangerOnce d 5 (l.setWidth 64) r.sub r.arrival l ssrc r.raw r.c0Ok s)
  else if !(rxSsrcs h).contains ssrc then
    strangerOnce d 4 (put l 32 ||| ssrc.setWidth 64) r.sub r.arrival l ssrc r.raw r.c0Ok
      (s.modRx l fun x => { x with ssrcUnknown := x.ssrcUnknown + 1 })
  else if h.xform ≠ 0 && replayed (rxWin (s.leg l).cry r.pkt.rtcp ssrc) r.pkt.index then
    cipCnt d 1 (s.modRx l fun x => { x with dup := x.dup + 1 })
  else
    let (ok, s) := poolTakes d l (toJb h r.pkt) r.marked r.ipLen s
    if !ok then s
    else
      let r := { r with leg := l, placed := s.now d }
      let s := s.modDie d fun x => { x with ing := { x.ing with inFlight := x.ing.inFlight ++ [r] } }
      if h.cutThrough && toJb h r.pkt && !standsBy s && (s.leg l).jb.anchored &&
         !(s.leg l).jb.frames.any (fun f => f.seq == r.pkt.seq) &&
         !reanchors (s.leg l).jb h (mediaOf (s.leg l).jb (mediaRatio h.rxAc) r.pkt.ts) r.pkt.marker then
        let pos := mediaOf (s.leg l).jb (mediaRatio h.rxAc) r.pkt.ts + (s.leg l).jb.offset
        if decide (instantOf s d r.placed ≤ (unitsMp : Int) * (pos / 48)) then
          let f : JbFrame := { seq := r.pkt.seq, ts := r.pkt.ts, len := r.pkt.len48, provisional := true, pos := pos }
          s.modJb l fun j => { j with frames := insertFrame f j.frames }
        else s
      else s

/-! ## Reception (05 R105, R106, R109, R114) -/

/-- A classified packet passes its leg's policer on the arriving die: pass, mark or drop. A standby takes the verdict
from the ledger (16 R356). -/
def policeLeg (d : Nat) (l : BitVec 16) (arrival : BitVec 64) (len : Nat) (s : State) : Option Bool × State :=
  let h := s.legLive l
  let x := (s.leg l).rx
  if h.inRate = 0 || standsBy s then (some false, s)
  else
    let b := fillBucket h.inRate h.inBurst arrival (x.tok, x.last)
    if bucketNeed len ≤ b.1 then (some false, s.modRx l fun x => { x with tok := b.1 - bucketNeed len, last := b.2 })
    else if h.inMark then
      (some true, ingCnt d 12 (s.modRx l fun x => { x with tok := b.1, last := b.2, policeMark := x.policeMark + 1 }))
    else (none, ingCnt d 11 (s.modRx l fun x => { x with tok := b.1, last := b.2, policeDrop := x.policeDrop + 1 }))

/-- The IP packet of a frame: what follows its MAC header. -/
def ipBytes (f : Frame) : List Byte :=
  f.raw.drop (if f.raw.getD 12 0 == 0x81 && f.raw.getD 13 0 == 0 then 18 else 14)

/-- A packet matched to a leg goes on by its first payload bytes, Table 5.3. -/
def demux (d sub : Nat) (l : BitVec 16) (arrival : BitVec 64) (marked : Bool) (f : Frame) (s : State) : State :=
  let b := f.b0.toNat
  let rec_ (r : BitVec 4) : State := stranger d r sub arrival l 0 f.raw f.c0Ok s
  if b ≤ 3 then rec_ 1
  else if 20 ≤ b ∧ b ≤ 63 then rec_ 2
  else if 64 ≤ b ∧ b ≤ 79 then rec_ 3
  else if 128 ≤ b ∧ b ≤ 191 then
    let p : Packet := { f.pkt with rtcp := decide (192 ≤ f.b1.toNat ∧ f.b1.toNat ≤ 223) }
    homeArrive l { pkt := p, arrival := arrival, marked := marked, ipLen := f.ipLen, ecn := f.ecn, c1 := crc32c (ipBytes f),
                   raw := f.raw, sub := sub, c0Ok := f.c0Ok } s
  else s

/-- Classification and policing of a valid UDP packet (rows 9 and 10 of Table 5.2). -/
def classify (d sub : Nat) (arrival : BitVec 64) (f : Frame) (s : State) : State :=
  match isLoop s d f with
  | some l => raiseOnce d (engineReq 0) 0x0505 0 (l.setWidth 64) (ingCnt d 10 s)
  | none =>
    match matchLeg s d sub f with
    | some l =>
      let (v, s) := policeLeg d l arrival f.ipLen s
      match v with
      | some marked => demux d sub l arrival marked f s
      | none => ledger (legDie l) (.admission l f.pkt.ssrc f.pkt.seq (crc32c (ipBytes f)) arrival vPoliced) s
    | none =>
      if (addrsOn s d sub).contains f.dst then stranger d 0 sub arrival noId 0 f.raw f.c0Ok s else ingCnt d 3 s

/-- FRAME_RECEIVE: a frame on a present, enabled subport is stamped and disposed of by the first matching row of Table
5.2. A frame on the Adit subport is the pair's. -/
def execFrameReceive (die sub : Nat) (raw : BitVec 64) (f : Frame) (s : State) : Host.Outcome State Fault Refusal :=
  let g := (s.die die).ing
  let arrival := rxStamp (s.dlyOf die sub) raw
  if !s.hasDie die || !g.present.getLsbD sub || !(s.ethPort die sub).enable || g.adit.getLsbD sub then .next s
  else
  let s := ingCntN die 16 f.fecFixed (ingCntN die 17 f.fecBad s)
  if !f.fcsOk then .next (ingCnt die 0 s)
  else if f.len < 64 || (s.ethPort die sub).maxFrame.toNat < f.len then .next (ingCnt die 1 s)
  else if f.etherType = 0x8808 then .next (ingCnt die 2 s)
  else if isPtp s die sub f then .next (if f.c0Ok then s else carryFail die noId sub s)
  else if !macOk s die sub f.dstMac then .next (ingCnt die 3 s)
  else if (f.ip ≠ 4 && f.ip ≠ 6) || !f.udp || (f.ip = 6 && f.extHdr) then
    .next (stranger die 6 sub arrival noId 0 f.raw f.c0Ok s)
  else if f.ip = 4 && f.frag then .next (ingCnt die 6 s)
  else if !f.hdrOk then .next (ingCnt die 4 s)
  else if (if f.udpSumZero then f.ip == 6 else !f.udpSumOk) then .next (ingCnt die 5 s)
  else .next (classify die sub arrival f s)

/-- LINK_CHANGE: a subport's link state changes: LINK_CHG and error 0x050A (05 R134); an Adit subport's shows in
ADIT_UP (16 R369), a SyncE port's disqualifies or rearms the source (02 R36). -/
def execLinkChange (die sub : Nat) (up : Bool) (s : State) : Host.Outcome State Fault Refusal :=
  let g := (s.die die).ing
  if !s.hasDie die || 8 ≤ sub || g.up.getLsbD sub = up then .next s
  else
    let m : BitVec 8 := 1#8 <<< sub
    let s := s.modDie die fun x => { x with ing := { x.ing with up := if up then x.ing.up ||| m else x.ing.up &&& ~~~m } }
    let dm : BitVec 8 := 1#8 <<< die
    let s := if g.adit.getLsbD sub then
      { s with pair := { s.pair with
        aditUp := if up then s.pair.aditUp ||| dm else s.pair.aditUp &&& ~~~dm, prot := s.pair.prot && up } } else s
    .next (synceLinkChange die sub (raiseFrom die (engineReq 0) 0x050A (BitVec.ofNat 64 sub) (ingEv die 0 s)))

/-! ## Video on device time (05 R128) -/

/-- The instant that a mapping gives a timestamp of the 90 kHz clock. -/
def vidInstant (m : VidMap) (ts : BitVec 32) : BitVec 64 := m.at_ + BitVec.ofInt 64 ((ts - m.ts).toInt * 655360000 / 900)

/-- A video packet's timestamp enters its stream's mapping: the first packet is mapped to its arrival; a timestamp whose
instant lies more than JB_MAX from its packet's arrival maps anew, as an audio stream does (log 139). -/
def mapVideo (h : LegHalf) (ts : BitVec 32) (arrival : BitVec 64) (m : VidMap) : VidMap :=
  let far := decide (msUnits h.jbMax < (stampDiff (vidInstant m ts) arrival).natAbs)
  let dt := (ts - m.last).toInt
  let m := if 0 < dt then { m with last := ts, gap := dt.toNat } else m
  if far then { m with ts := ts, at_ := arrival }
  else if 2 ^ 30 ≤ (ts - m.ts).toInt then { m with ts := ts, at_ := vidInstant m ts } else m

/-- RFC 3550 jitter of a video stream after a packet. -/
def jitterVideo (ts : BitVec 32) (arrNs : Int) (m : VidMap) : VidMap :=
  let tr := arrNs - (ts.toNat : Int) * 100000 / 9
  match m.transit with
  | some old => { m with transit := some tr, jitter := m.jitter + (tr - old).natAbs - m.jitter / 16 }
  | none => { m with transit := some tr }

/-- Notes a released video packet's timestamp and arrival. -/
def noteVideo (l : BitVec 16) (ssrc ts : BitVec 32) (arrival : BitVec 64) (s : State) : State :=
  let h := s.legLive l
  let ns := instantOf s (legDie l) arrival / 65536
  s.modRx l fun x =>
    let old := (x.vmap.find? (·.ssrc == ssrc)).getD { ssrc := ssrc, ts := ts, at_ := arrival, last := ts }
    { x with vmap := jitterVideo ts ns (mapVideo h ts arrival old) :: x.vmap.filter (·.ssrc != ssrc) }

/-- The decode release of a frame: its mapped instant and the leg's audio target, or JB_INIT without audio. -/
def videoRelease (s : State) (l : BitVec 16) (ssrc ts : BitVec 32) : Option (BitVec 64) :=
  let h := s.legLive l
  let target := if h.audio then (s.leg l).jb.target else 48 * h.jbInit
  ((s.leg l).rx.vmap.find? (·.ssrc == ssrc)).map fun m => vidInstant m ts + BitVec.ofNat 64 (unitsMp * target / 48)

/-- One frame interval of a stream in 2^-16 ns: the distance of its last two timestamps, else that of MAX_FPS of a context
that decodes it, else of 30 frames per second (log 139). -/
def frameInterval (s : State) (l : BitVec 16) (ssrc : BitVec 32) : Nat :=
  let gap := ((s.leg l).rx.vmap.find? (·.ssrc == ssrc)).map (·.gap) |>.getD 0
  let fps := (decsOf s l ssrc).foldl (fun n c => max n (s.dec c).maxFps.toNat) 0
  if gap ≠ 0 then gap * 655360000 / 900 else unitsSec / (if fps = 0 then 30 else fps)

/-! ## Loss and repair (05 R123, R124) -/

/-- The interval between the requests for one sequence number. -/
def nackEvery (x : LegRx) : Nat := 65536 * max (x.rtt * 12 / 10) 20000000

/-- Packets of an SSRC that were never released, more or fewer by some. -/
def lostMore (ssrc : BitVec 32) (n : BitVec 32) (x : LegRx) : LegRx :=
  let old := ((x.lostBy.find? (·.1 == ssrc)).map (·.2)).getD 0
  { x with lost := x.lost + n, lostBy := (ssrc, old + n) :: x.lostBy.filter (·.1 != ssrc) }

/-- Whether a packet has been placed, among the last 2,048 of its leg. -/
def hasGot (s : State) (l : BitVec 16) (ssrc : BitVec 32) (seq : BitVec 16) : Bool := (s.leg l).rx.got.contains (ssrc, seq)

/-- Notes a released sequence number: those skipped count as lost until they first come; those of RX_SSRC_V0 are requested
5 ms later where the leg's repair is on, at most 256 outstanding. -/
def noteSeq (l : BitVec 16) (ssrc : BitVec 32) (seq : BitVec 16) (s : State) : State :=
  let h := s.legLive l
  let repair := ssrc == h.rxSsrcV0 && h.nackMax != 0 && h.rxSsrcRtx != 0
  let due := s.clk + BitVec.ofNat 64 (msUnits 5)
  let again := hasGot s l ssrc seq
  s.modRx l fun x =>
    let x := if again then x else { x with got := ((ssrc, seq) :: x.got).take 2048 }
    match x.tops.find? (·.1 == ssrc) with
    | none => { x with tops := (ssrc, seq) :: x.tops }
    | some (_, top) =>
      let gap := (seq - top).toInt
      if 0 < gap then
        let missing := (List.range (gap.toNat - 1)).map fun i => ({ seq := top + 1 + BitVec.ofNat 16 i, due := due } : Nack)
        let all := x.nacks ++ (if repair then missing else [])
        lostMore ssrc (BitVec.ofNat 32 (gap.toNat - 1))
          { x with tops := (ssrc, seq) :: x.tops.filter (·.1 != ssrc), nacks := all.drop (all.length - 256) }
      else
        let x := if repair then { x with nacks := x.nacks.filter (·.seq != seq) } else x
        if again || x.lost = 0 then x else lostMore ssrc (-1) x

/-- The timestamp of the frame that a missing packet of RX_SSRC_V0 belongs to: the one with packets on both sides of it, else
the one that the next packet after it begins (log 139). -/
def missingTs (x : Leg) (seq : BitVec 16) : Option (BitVec 32) :=
  let fs := x.vframes.filter (·.spatial == 0)
  match fs.find? fun f => f.seqs.any (fun q => decide ((q - seq).toInt < 0)) && f.seqs.any fun q => decide (0 < (q - seq).toInt) with
  | some f => some f.ts
  | none => (fs.find? fun f => f.seqs.any fun q => decide (0 < (q - seq).toInt)).map (·.ts)

/-- NACK_TIMER: a missing sequence number of RX_SSRC_V0 is requested, unless it has come, NACK_MAX requests have been
sent, or its frame's decode release is less than RTT ÷ 2 away. -/
def execNackTimer (leg : BitVec 16) (seq : BitVec 16) (s : State) : Host.Outcome State Fault Refusal :=
  let h := s.legLive leg
  match (s.leg leg).rx.nacks.find? (·.seq == seq) with
  | none => .next s
  | some n =>
    let s := s.advance (stampDiff n.due s.clk).toNat
    let x := s.leg leg
    let near := !(decsOf s leg h.rxSsrcV0).isEmpty && match (missingTs x seq).bind (videoRelease s leg h.rxSsrcV0) with
      | some t => decide (stampDiff t s.clk < (65536 * x.rx.rtt / 2 : Nat))
      | none => false
    if !s.legOpen leg || h.nackMax ≤ n.count || near then .next s
    else
      let n' : Nack := { n with count := n.count + 1, due := s.clk + BitVec.ofNat 64 (nackEvery x.rx) }
      let s := s.modRx leg fun x => { x with nackSent := x.nackSent + 1, nacks := x.nacks.map fun k => if k.seq = seq then n' else k }
      .next (sendRtcp leg (.nack h.rxSsrcV0 [seq]) s)

/-! ## Video frames (05 R128, 09 R212) -/

/-- Whether every packet of a frame has been released. -/
def frameWhole (f : VFrame) : Bool :=
  match f.firstSeq, f.lastSeq with
  | some a, some b => (List.range ((b - a).toNat + 1)).all fun i => f.seqs.contains (a + BitVec.ofNat 16 i)
  | _, _ => false

/-- A released packet joins its frame. -/
def joinFrame (p : Packet) (v : VInfo) (len : Nat) (f : VFrame) : VFrame :=
  let f := { f with seqs := p.seq :: f.seqs, bytes := f.bytes ++ p.payload, size := f.size + len,
                    c2 := crc32c p.payload :: f.c2, firstSeq := if v.first then some p.seq else f.firstSeq, lastSeq := if v.last then some p.seq else f.lastSeq }
  { f with complete := frameWhole f }

/-- A frame as far as it has been released stands in the buffer of a move's target too (04 Table 4.12 step 3). -/
def mirrorVideo (l : BitVec 16) (ts : BitVec 32) (sp : BitVec 2) (len : Nat) (s : State) : State :=
  let is (f : VFrame) : Bool := f.ts == ts && f.spatial == sp
  match mirrorOf s l, (s.leg l).vframes.find? is with
  | some t, some f => pktPoolAdd (legDie t) len (s.modLeg t fun x =>
      let was := ((x.vframes.find? is).map (·.size)).getD 0
      { x with vframes := x.vframes.filter (fun g => !is g) ++ [{ f with size := was + len }] })
  | _, _ => s

/-- A released packet of stream `k` of a leg: its frame, its layer's measure and state, and forwarding. One that has been
placed before counts as DUP and is discarded (05 R129). A frame that no context decodes leaves the packet buffer when it is
whole. -/
def releaseVideo (l : BitVec 16) (k : Nat) (p : Packet) (len : Nat) (arrival : BitVec 64) (s : State) : State :=
  if hasGot s l p.ssrc p.seq then pktPoolSub (legDie l) len (s.modRx l fun x => { x with dup := x.dup + 1 })
  else
  let h := s.legLive l
  let s := noteVideo l p.ssrc p.ts arrival (noteSeq l p.ssrc p.seq s)
  let v := p.video.getD {}
  let sp := if scalable h then v.spatial.toNat else k
  let t := v.temporal.toNat
  let spB : BitVec 2 := BitVec.ofNat 2 sp
  let s := s.modLeg l fun x =>
    let new : VFrame := { ts := p.ts, spatial := spB, temporal := v.temporal, firstRelease := s.clk, ops := v.ops }
    let fs := if x.vframes.any (fun f => f.ts == p.ts && f.spatial == spB) then x.vframes else x.vframes ++ [new]
    { x with vframes := fs.map fun f => if f.ts = p.ts && f.spatial = spB then joinFrame p v len f else f }
  let s := mirrorVideo l p.ts spB len s
  let s := noteLayer l sp t len s
  let s := mendLayer l sp t v s
  let s := forwardVideo l sp t v p s
  if (decsOf s l p.ssrc).isEmpty then
    let gone := (s.leg l).vframes.filter fun f => f.ts == p.ts && f.spatial == spB && f.complete
    pktPoolSub (legDie l) (gone.foldl (fun n f => n + f.size) 0)
      (s.modLeg l fun x => { x with vframes := x.vframes.filter fun f => !gone.contains f })
  else s

/-- VIDEO_FRAME_TIMEOUT: a frame still incomplete one frame interval after its first packet's release breaks its layer
(09 R212); one still incomplete one frame interval after its release instant is discarded and reported to the decoder as
missing. A frame of a stream that no context decodes has no release instant and is discarded with the first (log 139). -/
def execVideoFrameTimeout (leg : BitVec 16) (spatial : BitVec 2) (ts : BitVec 32) (s : State) :
    Host.Outcome State Fault Refusal :=
  match (s.leg leg).vframes.find? fun f => f.ts == ts && f.spatial == spatial && !f.complete with
  | none => .next s
  | some f =>
    let h := s.legLive leg
    let d := legDie leg
    let ssrc := rxVideoSsrc h (if scalable h then 0 else spatial.toNat)
    let gap := BitVec.ofNat 64 (frameInterval s leg ssrc)
    let decs := decsOf s leg ssrc
    if !f.broke && !decs.isEmpty then
      let s := s.advanceToStamp d (f.firstRelease + gap)
      .next (breakLayer leg spatial.toNat f.temporal.toNat
        (s.modLeg leg fun x => { x with vframes := x.vframes.map fun g => if g = f then { g with broke := true } else g }))
    else
      let s := s.advanceToStamp d ((if decs.isEmpty then f.firstRelease else (videoRelease s leg ssrc ts).getD f.firstRelease) + gap)
      let s := pktPoolSub d f.size (s.modLeg leg fun x => { x with vframes := x.vframes.erase f })
      let s := forAll decs (fun c s => ledger (decDie c) (.picture c ts 0) s) s
      .next (if f.broke then s else breakLayer leg spatial.toNat f.temporal.toNat s)

/-! ## The tag verdict (06 R147 to R149, 05 R118, R122 to R125) -/

/-- A released RTP packet of a leg, by its SSRC and payload type. `forced`: the active unit's verdict, in a standby. -/
def releaseRtp (l : BitVec 16) (r : RxPacket) (p : Packet) (forced : Option (BitVec 3)) (s : State) : State :=
  let d := legDie l
  let h := s.legLive l
  let free (s : State) : State := if toJb h r.pkt then jbPoolSub d r.ipLen s else pktPoolSub d r.ipLen s
  if p.pt ≠ h.rxApt && p.pt ≠ h.rxVpt && p.pt ≠ h.rtxPt then
    free (s.modRx l fun x => { x with ptUnknown := x.ptUnknown + 1 })
  else if p.ssrc = h.rxSsrcA && h.audio then
    let s := noteSeq l p.ssrc p.seq s
    let placed := if h.cutThrough then r.placed else s.now d
    let (v, s) := placeAudio l p r.arrival placed r.ipLen false forced s
    let s := ledger d (.admission l p.ssrc p.seq r.c1 r.arrival (if v = vStored && r.marked then vMarked else v)) s
    forwardAudio l p s
  else
    let s := ledger d (.admission l p.ssrc p.seq r.c1 r.arrival (if r.marked then vMarked else vStored)) s
    match streamOf h p.ssrc with
    | some k => releaseVideo l k p r.ipLen r.arrival s
    | none =>
      if p.pt ≠ h.rtxPt then free (s.modRx l fun x => { x with ptUnknown := x.ptUnknown + 1 })
      else
        let seq := BitVec.ofNat 16 (beNat (p.payload.take 2))
        let s := noteSeq l p.ssrc p.seq s
        if !hasGot s l h.rxSsrcV0 seq then
          let q := { p with ssrc := h.rxSsrcV0, seq := seq, pt := h.rxVpt, payload := p.payload.drop 2 }
          releaseVideo l 0 q r.ipLen r.arrival (s.modRx l fun x => { x with recovered := x.recovered + 1 })
        else free (s.modRx l fun x => { x with dup := x.dup + 1 })

/-- A released RTCP packet: its items go to the packet cores; a BYE is copied to the stranger queue (05 R122). -/
def releaseRtcp (l : BitVec 16) (r : RxPacket) (p : Packet) (s : State) : State :=
  let d := legDie l
  let s := forAll p.items (rtcpItem l) (pktPoolSub d r.ipLen s)
  forAll p.items (fun i s => match i with
    | .bye ssrc => stranger d 7 r.sub r.arrival l ssrc r.raw r.c0Ok s
    | _ => s) s

/-- A packet whose check or tag has failed is freed and counts as lost; a provisional frame leaves the buffer. -/
def freePacket (l : BitVec 16) (r : RxPacket) (s : State) : State :=
  let d := legDie l
  let jb := toJb (s.legLive l) r.pkt
  let s := if jb then jbPoolSub d r.ipLen s else pktPoolSub d r.ipLen s
  if jb then dropProvisional l r.pkt.seq s else s

/-- A standby matches a released packet with its ADMIT record by leg, SSRC, sequence number and C1 (16 R357). -/
def admitOf (s : State) (r : RxPacket) : Option (LedgerRec × BitVec 64 × BitVec 3) :=
  s.pair.ledger.findSome? fun e => match e with
    | .admission l ssrc seq c1 a v =>
      if l = r.leg && ssrc = r.pkt.ssrc && seq = r.pkt.seq && c1 = r.c1 then some (e, a, v) else none
    | _ => none

/-- A released packet of a standby takes its arrival stamp and verdict from the ledger; until the record comes it
waits (16 R356, R357). -/
def standbyRtp (r : RxPacket) (s : State) : State :=
  match admitOf s r with
  | none => { s with pair := { s.pair with unmatched := s.pair.unmatched ++ [r] } }
  | some (e, a, v) =>
    let s := { s with pair := { s.pair with ledger := s.pair.ledger.erase e } }
    if v = vPoliced then freePacket r.leg r (s.modRx r.leg fun x => { x with policeDrop := x.policeDrop + 1 })
    else releaseRtp r.leg { r with arrival := a } r.pkt (some (if v = vMarked then vStored else v)) s

/-- TAG_VERDICT: the oldest packet of a leg in a die's SRTP engine is judged: C1, then the tag under the key or the
previous key in grace; on success it is released, on failure freed. -/
def execTagVerdict (die : Nat) (leg : BitVec 16) (v : Verdict) (s : State) : Host.Outcome State Fault Refusal :=
  match (s.die die).ing.inFlight.find? (·.leg == leg) with
  | none => .next s
  | some r =>
    let h := s.legLive leg
    let s := s.modDie die fun x => { x with ing := { x.ing with inFlight := x.ing.inFlight.erase r } }
    let grace := !v.tagOk && v.graceOk && (s.leg leg).cry.grace.isSome
    if !v.c1Ok then .next (freePacket leg r (carryFail die leg r.sub s))
    else if h.xform ≠ 0 && !v.tagOk && !grace then
      .next (freePacket leg r (raiseFrom die (engineReq 1) 0x0601 (leg.setWidth 64) (cipEv die 2 (cipCnt die 0
        (s.modRx leg fun x => { x with tagFail := x.tagFail + 1 })))))
    else if h.xform ≠ 0 && replayed (rxWin (s.leg leg).cry r.pkt.rtcp r.pkt.ssrc) r.pkt.index then
      .next (freePacket leg r (cipCnt die 1 (s.modRx leg fun x => { x with dup := x.dup + 1 })))
    else
      let s := if grace then cipCnt die 3 s else s
      let s := if h.xform = 0 then s else noteIndex leg r.pkt.rtcp r.pkt.ssrc r.pkt.index s
      let s := s.modRx leg fun x => { x with
        rxPkts := x.rxPkts + 1, rxBytes := x.rxBytes + BitVec.ofNat 64 r.ipLen
        seen := if r.pkt.rtcp then x.seen else (r.pkt.ssrc, r.pkt.seq, r.ecn, r.arrival) :: x.seen }
      let p := { v.plain with rtcp := r.pkt.rtcp, ssrc := r.pkt.ssrc, seq := r.pkt.seq, index := r.pkt.index }
      .next (if r.pkt.rtcp then releaseRtcp leg r p s
        else if standsBy s then standbyRtp { r with pkt := p } s
        else releaseRtp leg r p none s)

end Sys2Proof.Machine
end

