-- ==== Sys2Proof/Machine/Audio.lean ====
section
/-! DEFINITION. Audio: the M64 format, decoding, contributions, buses, the output limiter, N-1 mixes, TDM routes and
their crossfades, sent frames, and the Face load (chapter 07). -/

namespace Sys2Proof.Machine

/-! ## M64 (07 R163, R164, R174) -/

/-- v ÷ 2^k, ties to even, for 0 < k. -/
def rneShift (v : Int) (k : Nat) : Int :=
  let q := v / 2 ^ k
  let r := v % 2 ^ k
  let h : Int := 2 ^ (k - 1)
  if h < r || (r == h && q % 2 != 0) then q + 1 else q

/-- v ÷ 48, ties to even. -/
def rneDiv48 (v : Int) : Int :=
  let q := v / 48
  let r := v % 48
  if 24 < r || (r == 24 && q % 2 != 0) then q + 1 else q

/-- Conversions into and out of M64. -/
def m64OfQ31 (x : Int) : Int := 2 ^ 8 * x
def q31OfM64 (y : Int) : Int := clampI (-2147483648) 2147483647 (rneShift y 8)
def s24OfM64 (y : Int) : Int := clampI (-8388608) 8388607 (rneShift y 16)
def s16OfM64 (y : Int) : Int := clampI (-32768) 32767 (rneShift y 24)

/-- An output word of `w` bytes from M64, and M64 from an input word of `w` bytes. -/
def wordOfM64 (w : Nat) (y : Int) : Int := if w = 2 then s16OfM64 y else if w = 3 then s24OfM64 y else q31OfM64 y
def m64OfWord (w : Nat) (bs : List Byte) : Int :=
  (BitVec.ofNat (8 * w) (leNat bs)).toInt * 2 ^ (40 - 8 * w)

/-- Saturation of a contribution after its gains. -/
def satContribution (x : Int) : Int := clampI (-(2 ^ 47)) (2 ^ 47) x

/-- A stereo sample. -/
abbrev Sample := Int × Int

/-- The sum of two samples. -/
def addS (a b : Sample) : Sample := (a.1 + b.1, a.2 + b.2)

/-- The crossfade of two samples: weight k of 48 to the new side. -/
def xfadeS (old new : Sample) (k : Nat) : Sample :=
  (rneDiv48 (old.1 * (48 - k) + new.1 * k), rneDiv48 (old.2 * (48 - k) + new.2 * k))

/-! ## Decoding an MP (07 R157 to R159, 05 R131) -/

/-- Bytes of a linear codec's sample: L16 2, L24 3. -/
def linearBytes (ac : Nat) : Nat := if ac = 5 then 2 else if ac = 6 then 3 else 0

/-- Sample `i` of a frame of a linear codec in Q0.31: one or two channels as the payload's length shows. -/
def linearSample (ac : Nat) (f : JbFrame) (i : Nat) : Sample :=
  let w := linearBytes ac
  let ch := max 1 (f.payload.length / (w * max 1 f.len))
  let at_ (c : Nat) : Int :=
    (BitVec.ofNat (8 * w) (beNat ((f.payload.drop ((i * ch + c) * w)).take w))).toInt * 2 ^ (32 - 8 * w)
  (at_ 0, at_ (ch - 1))

/-- A free sample: the i-th of a drawn block, its halves as signed Q0.31. -/
def freeSample (v : BitVec 64) (i : Nat) : Sample :=
  let x := Config.freeList v i
  ((x.extractLsb' 0 32).toInt, (x.extractLsb' 32 32).toInt)

/-- Whether a frame of a codec carries one channel: G.711 and G.722 always, a linear codec by its payload's length, Opus by
the stereo bit of its first byte (RFC 6716 section 3.1). -/
def monoFrame (ac : Nat) (f : JbFrame) : Bool :=
  if ac = 1 then !((f.payload.headD 0).getLsbD 2)
  else if linearBytes ac ≠ 0 then decide (f.payload.length / (linearBytes ac * max 1 f.len) ≤ 1)
  else true

/-- Whether the stream of the running MP has one channel: by the frame at its position, else as the one decoded last. -/
def monoNow (ac : Nat) (j : Jb) (last : Bool) : Bool :=
  match coverAt (j.frames.filter fun f => !f.provisional) j.pos with
  | some f => monoFrame ac f
  | none => last

/-- The decoded block of the running MP: silence is zero; L16 and L24 without a stretch are exact; every other codec's
samples, concealment and stretched audio are free (log 15), and the same in both channels of a mono stream (07 R168). A frame
whose tag failed is concealed. -/
def decodeBlock (ac : Nat) (mono : Bool) (j : Jb) (v : BitVec 64) : List Sample :=
  (List.range 48).map fun (i : Nat) =>
    let free : Sample := let x := freeSample v i; if mono then (x.1, x.1) else x
    let x : Sample :=
      if j.mode = 0 || j.mode = 4 then (0, 0)
      else if j.mode = 1 && linearBytes ac ≠ 0 && j.step = 0 then
        match coverAt (j.frames.filter fun f => !f.provisional) (j.pos + (i : Int)) with
        | some f => linearSample ac f (j.pos + (i : Int) - f.pos).toNat
        | none => free
      else free
    if j.fade then xfadeS (0, 0) x (i + 1) else x

/-- The linear input gain of a set: zero where it is muted. -/
def inLin (a : AudioSet) : Nat := if a.mute then 0 else dbLin a.inGain

/-- State of a leg's dynamics within an MP: the set in use, a running gain ramp, the compressor's gain state. -/
structure DynSt where
  set : AudioSet
  ramp : Option (Nat × Nat)
  g : Int
  deriving DecidableEq, Repr

/-- The linear input gain of the next sample, and the ramp after it: linear over 48 samples (07 R167). -/
def rampGain (d : DynSt) : Nat × Option (Nat × Nat) :=
  match d.ramp with
  | none => (inLin d.set, none)
  | some (from_, k) =>
    let x := ((from_ : Int) * (48 - (k + 1)) + (inLin d.set : Int) * (k + 1)) / 48
    (x.toNat, if k + 1 = 48 then none else some (from_, k + 1))

/-- A new set takes effect: a change of IN_GAIN or MUTE starts a ramp from the present gain (07 R167). -/
def newSet (a : AudioSet) (d : DynSt) : DynSt :=
  { d with set := a, ramp := if a.inGain = d.set.inGain && a.mute = d.set.mute then d.ramp else some ((rampGain d).1, 0) }

/-- One sample through IN_GAIN, compressor, MAKEUP and saturation (07 R165). -/
def dynSample (d : DynSt) (x : Sample) : Sample × DynSt :=
  let (gain, ramp) := rampGain d
  let l := rneShift (m64OfQ31 x.1 * gain) 30
  let r := rneShift (m64OfQ31 x.2 * gain) 30
  let (c, g) := if d.set.times.getLsbD 32 then compressor d.set.comp d.set.times d.g (max l.natAbs r.natAbs)
    else (dbLin (d.set.comp.extractLsb' 48 16), d.g)
  ((satContribution (rneShift (l * c) 30), satContribution (rneShift (r * c) 30)), { d with ramp := ramp, g := g })

/-- The contribution of an MP: the decoded block sample by sample, a new set from its sample on. -/
def contribute (next : Option (Nat × AudioSet)) : (block : List Sample) → (i : Nat) → DynSt → List Sample × DynSt
  | [], _, d => ([], d)
  | x :: xs, i, d =>
    let d := match next with | some (k, a) => if i = k then newSet a d else d | none => d
    let (y, d) := dynSample d x
    let (ys, d) := contribute next xs (i + 1) d
    (y :: ys, d)

/-- A contribution faded in or out over the MP (07 R162). -/
def fadedIn (b : List Sample) : List Sample := b.mapIdx fun i x => xfadeS (0, 0) x (i + 1)
def fadedOut (b : List Sample) : List Sample := b.mapIdx fun i x => xfadeS x (0, 0) (i + 1)

/-- Energy of a decoded block: its sum of squares over both channels. -/
def blockEnergy (b : List Sample) : Nat := b.foldl (fun n x => n + x.1.natAbs ^ 2 + x.2.natAbs ^ 2) 0

/-- The audio set in use at sample 0 of the running MP. -/
def setNow (a : LegAudio) : AudioSet := match a.next with | some (0, x) => x | _ => a.set

/-- A set that takes effect within an MP in which the leg is not decoded is in use after it, without a ramp (07 R174). -/
def settle (a : LegAudio) : LegAudio := { a with set := (a.next.map (·.2)).getD a.set, next := none, ramp := none }

/-- The end of an MP for a leg that is decoded: its block, its contribution, its energy before IN_GAIN. A provisional frame
that failed counts as concealment (06 R149). -/
def decodeLegMp (l : BitVec 16) (s : State) : List Sample × State :=
  let x := s.leg l
  let (v, s) := draw s
  let lost := x.jb.mode == 1 && (coverAt (x.jb.frames.filter fun f => !f.provisional) x.jb.pos).isNone
  let mono := monoNow x.aud.ac x.jb x.aud.mono
  let block := decodeBlock x.aud.ac mono x.jb v
  let (c, d) := contribute x.aud.next block 0 { set := x.aud.set, ramp := x.aud.ramp, g := x.aud.compG }
  (c, s.modLeg l fun x => { x with
    aud := { x.aud with
      set := d.set, next := none, ramp := d.ramp, compG := d.g, mono := mono, energy := levelScore 96 (blockEnergy block) }
    rx := if lost then { x.rx with concealMp := x.rx.concealMp + 1 } else x.rx })

/-- The end of an MP for a leg: it is decoded where the MP asks for it, and its buffer moves on by the stretch step. -/
def endLegMp (l : BitVec 16) (s : State) : List Sample × State :=
  if (s.leg l).aud.wasDecoded then let r := decodeLegMp l s; (r.1, jbStretch l r.2)
  else ([], jbStretch l (s.modAud l settle))

/-! ## Talker selection (07 R160, R161) -/

/-- Whether a leg may talk in a conference. -/
def talkEligible (s : State) (c l : BitVec 16) : Bool :=
  let h := s.legLive l
  let a := setNow (s.leg l).aud
  s.legOpen l && h.rxEn && h.audio && s.confOf l == c && a.talkEn && !a.mute

/-- The score of an eligible leg in the running MP. -/
def talkScore (s : State) (l : BitVec 16) : Nat :=
  let x := s.leg l
  if (s.legLive l).levelExt = 0 then min 127 x.aud.energy
  else
    let cover := x.jb.frames.filter fun f => decide (f.pos < x.jb.pos + 48) && decide (x.jb.pos < f.pos + f.len)
    match cover.foldl (fun b f => match b with
      | none => some f
      | some g => if f.level < g.level then some f else b) none with
    | some f => if f.vflag then 127 - f.level.toNat else 0
    | none => 0

/-- Drops held talkers while more than `k` are chosen: the oldest last activity, then the highest leg ID. -/
def dropHeldTalkers (last : BitVec 16 → Nat) (pinned : List (BitVec 16)) (k : Nat) : (fuel : Nat) → List (BitVec 16) → List (BitVec 16)
  | 0, t => t
  | n + 1, t =>
    if t.length ≤ k then t
    else
      let worst := (t.filter fun l => !pinned.contains l).foldl (fun b l => match b with
        | none => some l
        | some w => if last l < last w || (last l == last w && decide (w < l)) then some l else b) none
      match worst with
      | some w => dropHeldTalkers last pinned k n (t.erase w)
      | none => t

/-- Fills free places: the highest score, then the latest last activity before this MP, then the lowest leg ID. -/
def fillTalkers (score last : BitVec 16 → Nat) (k : Nat) : (fuel : Nat) → (cand t : List (BitVec 16)) → List (BitVec 16)
  | 0, _, t => t
  | n + 1, cand, t =>
    if k ≤ t.length then t
    else
      let best := cand.foldl (fun b l => match b with
        | none => some l
        | some w =>
          if score w < score l || (score l == score w && (decide (last w < last l) || (last l == last w && decide (l < w)))) then some l
          else b) none
      match best with
      | some l => fillTalkers score last k n (cand.erase l) (t ++ [l])
      | none => t

/-- The conference set in use at sample 0 of the running MP. -/
def confSetNow (c : Conf) : ConfSet := match c.next with | some (0, x) => x | _ => c.set

/-- The talker set of a conference for MP `b`; legs that enter after an MP in which they were not decoded fade in (07 R161,
R162). -/
def selectTalkers (c : BitVec 16) (b : Nat) (s : State) : State :=
  let x := s.conf c
  let k := (s.confLive c).k
  let act := (s.die (confDie c)).mix.actLevel.toNat
  let el := (s.members c).filter (talkEligible s c)
  let last0 (l : BitVec 16) : Nat := match (s.leg l).aud.lastActive with | some m => m + 1 | none => 0
  let scored := el.map fun l => (l, talkScore s l)
  let active := (scored.filter fun e => decide (127 - act ≤ e.2)).map (·.1)
  let s := forAll (s.members c) (fun l s => s.modAud l fun a => { a with
    score := ((scored.find? (·.1 == l)).map (·.2)).getD 0
    lastActive := if active.contains l then some b else a.lastActive }) s
  let last1 (l : BitVec 16) : Nat := match (s.leg l).aud.lastActive with | some m => m + 1 | none => 0
  let pinned := ((confSetNow x).pinned.map (resolveLeg s)).filter fun l => el.contains l
  let held := x.talkers.filter fun l => !pinned.contains l && el.contains l && last1 l != 0 && decide (b + 1 < last1 l + 400)
  let t := dropHeldTalkers last1 pinned k held.length (pinned.eraseDups ++ held)
  let t := fillTalkers (fun l => ((scored.find? (·.1 == l)).map (·.2)).getD 0) last0 k k (active.filter fun l => !t.contains l) t
  let gone := x.talkers.filter fun l => !t.contains l
  let changed := !gone.isEmpty || t.any fun l => !x.talkers.contains l
  let s := forAll t (fun l s => s.modAud l fun a => { a with fadeIn := !a.wasDecoded }) s
  let s := if changed then mixCnt (confDie c) 5 s else s
  s.modConf c fun x => { x with talkers := t, departing := gone, changes := if changed then x.changes + 1 else x.changes }

/-! ## The limiter (07 R171) -/

/-- ONE of the gain. -/
def limOne : Nat := 2 ^ 30

/-- Whether 2n − 1 half-units lie at or below 2^40 × 10^(−c/5120): the test by which C is rounded. -/
def ceilFits (c n : Nat) : Bool := decide ((2 * n - 1) ^ 5120 * 10 ^ c ≤ 2 ^ (40 * 5120))

/-- The bits of C from bit `k − 1` down, above `acc`. -/
def ceilBits (c : Nat) : (k acc : Nat) → Nat
  | 0, acc => acc
  | k + 1, acc => ceilBits c k (if ceilFits c (acc + 2 ^ k) then acc + 2 ^ k else acc)

/-- C = floor(2^39 × 10^(CEILING/5,120) + 0.5), for CEILING from −5,120 to −26. -/
def ceilLin (ceiling : BitVec 16) : Nat := ceilBits (-ceiling.toInt).toNat 39 0

/-- One step of the limiter: the state after bus sample `x`; its gain is that of the bus sample 16 samples before. -/
def limStep (c relShift : Nat) (st : LimState) (x : Sample) : LimState :=
  let a := max x.1.natAbs x.2.natAbs
  let nd := if a ≤ c then limOne else 2 ^ 30 * c / a
  let ring := ((x.1, x.2, nd) :: st.ring).take 17
  let need (k : Nat) : Nat := match ring[k]? with | some e => e.2.2 | none => limOne
  let gr := (List.range 17).foldl (fun g k => min g (need k + (limOne - need k) * (16 - k) / 16)) limOne
  { ring := ring, g := min gr (st.g + (limOne - st.g) / 2 ^ relShift) }

/-- A sample under a gain of the limiter. -/
def limited (g : Nat) (x : Sample) : Sample := (rneShift (x.1 * g) 30, rneShift (x.2 * g) 30)

/-! ## TDM routes (07 R168, R170, R174) -/

/-- Channel `ch` of a port's input in frame `f` of MP `m`, in M64, with its pair's gate. -/
def tdmIn (s : State) (d p ch m f : Nat) : Int :=
  let g := groupOf s d p
  let b := tget {} (s.die d).tdm.inRing (8 * g + m % 8)
  let cfg := (s.tdmPort d p).cfg
  let w := cfgStore cfg
  if b.mp ≠ BitVec.ofNat 64 m || cfgIn cfg ≤ ch then 0
  else
    let x := m64OfWord w (rdBytes (s.die d).dram (ringAt s d g false m + f * frameBytes s d g false + portOffset s d g p false + ch * w) w)
    let k := tget 0 b.gate ((f * 8 + p) * 16 + ch / 2)
    if k = 0 then x else rneDiv48 (x * (k - 1 : Nat))

/-- The sample that an input route word brings to the bus. -/
def routeIn (s : State) (m f : Nat) (word : BitVec 32) : Sample :=
  let r := rdRoute word
  if !r.en || r.out then (0, 0)
  else if r.chCount = 1 then let x := tdmIn s r.die r.port r.chFirst m f; (x, x)
  else (List.range r.chCount).foldl (fun acc i =>
    let x := tdmIn s r.die r.port (r.chFirst + i) m f
    if i % 2 = 0 then (acc.1 + x, acc.2) else (acc.1, acc.2 + x)) (0, 0)

/-- Whether an output route word ends on channel `ch` of a port. -/
def routeEnds (word : BitVec 32) (d p ch : Nat) : Bool :=
  let r := rdRoute word
  r.en && r.out && r.die == d && r.port == p && decide (r.chFirst ≤ ch) && decide (ch < r.chFirst + r.chCount)

/-- What an output route word gives channel `ch` of a port from a stereo sample. -/
def routeOut (word : BitVec 32) (d p ch : Nat) (x : Sample) : Int :=
  let r := rdRoute word
  if !routeEnds word d p ch then 0
  else if r.chCount = 1 then rneShift (x.1 + x.2) 1
  else if (ch - r.chFirst) % 2 = 0 then x.1 else x.2

/-- A route's signal through its running crossfades: the oldest word first, each faded into the next. -/
def chainVal (sig : BitVec 32 → Sample) (chain : List (BitVec 32 × Nat)) (word : BitVec 32) : Sample :=
  match chain with
  | [] => sig word
  | (w0, k0) :: rest =>
    let (v, k) := rest.foldl (fun (acc : Sample × Nat) e => (xfadeS acc.1 (sig e.1) acc.2, e.2)) (sig w0, k0)
    xfadeS v (sig word) k


/-- A change of route words at a sample: a crossfade where the new word has XFADE, else a hard switch. -/
def switchRoutes (old new : ConfSet) (fades : Tab (List (BitVec 32 × Nat))) : Tab (List (BitVec 32 × Nat)) :=
  (List.range 8).foldl (fun t i =>
    let a := old.routes.getD i 0
    let b := new.routes.getD i 0
    if a = b then t
    else if (rdRoute b).xfade then tmod [] t i (· ++ [(a, 0)]) else tset [] t i []) fades

/-! ## One conference over one MP -/

/-- State of a bus within an MP, lists newest sample first. -/
structure BusSt where
  set : ConfSet
  fades : Tab (List (BitVec 32 × Nat))
  peak : Nat
  bus : List Sample
  own : List (Nat × List Sample)
  ceils : List Nat
  deriving DecidableEq, Repr

/-- The limited output of an MP, as it is made, lists newest sample first. -/
structure OutSt where
  set : ConfSet
  fades : Tab (List (BitVec 32 × Nat))
  clamps : Nat
  common : List Sample
  minus : List (Nat × List Sample)
  outs : List (Nat × Int)
  deriving DecidableEq, Repr

/-- The key of an input port among the contributions a mix can omit. -/
def portKey (d p : Nat) : Nat := 65536 + 8 * d + p

/-- Key of one output word: die, port, frame, channel. -/
def outKey (d p f ch : Nat) : Nat := ((d * 8 + p) * 48 + f) * 32 + ch

/-- A sample clamped to ±C, and whether it was clamped. -/
def clampS (c : Nat) (x : Sample) : Sample × Bool :=
  let y : Sample := (clampI (-(c : Int)) c x.1, clampI (-(c : Int)) c x.2)
  (y, decide (y ≠ x))

/-- The set and the crossfades in use at sample `f`: a set that takes effect there switches its routes, and each running
crossfade takes its next weight (07 R174). -/
def setAt (next : Option (Nat × ConfSet)) (f : Nat) (set : ConfSet) (fades : Tab (List (BitVec 32 × Nat))) :
    ConfSet × Tab (List (BitVec 32 × Nat)) :=
  let (set, fades) := match next with
    | some (k, ns) => if f = k then (ns, switchRoutes set ns fades) else (set, fades)
    | none => (set, fades)
  (set, fades.map fun e => (e.1, e.2.map fun x => (x.1, x.2 + 1)))

/-- The crossfades after a sample: those whose last weight has been used end, with those before them. -/
def fadesAfter (fades : Tab (List (BitVec 32 × Nat))) : Tab (List (BitVec 32 × Nat)) :=
  let live (chain : List (BitVec 32 × Nat)) : List (BitVec 32 × Nat) :=
    (chain.foldr (fun e acc => if acc.2 then acc else if 48 ≤ e.2 then (acc.1, true) else (e :: acc.1, false))
      (([] : List (BitVec 32 × Nat)), false)).1
  (fades.map fun e => (e.1, live e.2)).filter fun e => !e.2.isEmpty

/-- One sample of a conference's bus, with the ceiling in use (07 R168). -/
def busSample (s : State) (m : Nat) (next : Option (Nat × ConfSet)) (parts : List (Nat × List Sample)) (keys : List Nat)
    (f : Nat) (b : BusSt) : BusSt :=
  let (set, fades) := setAt next f b.set b.fades
  let sumIn (only : Option (Nat × Nat)) : Sample := (List.range 8).foldl (fun acc i =>
    addS acc (chainVal (fun w =>
      if only.all fun q => (rdRoute w).die == q.1 && (rdRoute w).port == q.2 then routeIn s m f w else (0, 0))
      (tget [] fades i) (set.routes.getD i 0))) (0, 0)
  let talk := parts.map fun e => (e.1, e.2.getD f (0, 0))
  let bus := talk.foldl (fun acc e => addS acc e.2) (sumIn none)
  let cur (k : Nat) : Sample :=
    if k < 65536 then ((talk.find? (·.1 == k)).map (·.2)).getD (0, 0) else sumIn (some ((k - 65536) / 8, k % 8))
  { set := set, fades := fadesAfter fades, peak := max b.peak (max bus.1.natAbs bus.2.natAbs), bus := bus :: b.bus
    own := keys.map fun k => (k, cur k :: ((b.own.find? (·.1 == k)).map (·.2)).getD [])
    ceils := set.ceilLin :: b.ceils }

/-- A die's copy of the limiter over bus samples with their ceilings: the gains, and its state after them (07 R169, R171). -/
def limRun (rel : Nat) : List (Nat × Sample) → LimState → List Nat × LimState
  | [], st => ([], st)
  | (c, x) :: xs, st =>
    let st := limStep c rel st x
    let r := limRun rel xs st
    (st.g :: r.1, r.2)

/-- One sample of a conference's limited output under the gain `g`: the common mix, the N-1 mixes and the output routes
(07 R170). -/
def outSample (s : State) (x : MixedMp) (ports : List (Nat × Nat)) (f g : Nat) (b : OutSt) : OutSt :=
  let (set, fades) := setAt x.next f b.set b.fades
  let bus := x.bus.getD f (0, 0)
  let o := limited g bus
  let mins := x.own.map fun e =>
    let own := e.2.getD f (0, 0)
    (e.1, clampS set.ceilLin (limited g (bus.1 - own.1, bus.2 - own.2)))
  let minusS (k : Nat) : Sample := ((mins.find? (·.1 == k)).map (·.2.1)).getD o
  let word (d p ch i : Nat) : Int :=
    (chainVal (fun w => (routeOut w d p ch (if (rdRoute w).minusOwn then minusS (portKey d p) else o), 0))
      (tget [] fades i) (set.routes.getD i 0)).1
  let words := set.routes ++ fades.flatMap fun e => e.2.map (·.1)
  let outs := ports.flatMap fun q =>
    ((List.range (cfgOut (s.tdmPort q.1 q.2).cfg)).filter fun ch => words.any fun w => routeEnds w q.1 q.2 ch).map fun ch =>
      (outKey q.1 q.2 f ch, (List.range 8).foldl (fun n i => n + word q.1 q.2 ch i) 0)
  { set := set, fades := fadesAfter fades, clamps := b.clamps + (mins.filter fun e => e.2.2).length
    common := o :: b.common
    minus := mins.map fun e => (e.1, e.2.1 :: ((b.minus.find? (·.1 == e.1)).map (·.2)).getD [])
    outs := outs ++ b.outs }

end Sys2Proof.Machine
end

