-- ==== Sys2Proof/Machine/AudioMp.lean ====
section
/-! DEFINITION. The audio work of an MP boundary: mixing the MP that ends, sent frames, the mix-state entries; the
audio sets that entries name; SAFE_LOAD (07 R168 to R178). -/

namespace Sys2Proof.Machine

/-! ## Audio sets of entries (07 R174) -/

/-- The audio parameter set of a leg half, and of a conference half. -/
def audioSetOf (h : LegHalf) : AudioSet :=
  { inGain := h.inGain, mute := h.mute, talkEn := h.talkEn, comp := h.comp, times := h.times }
def confSetOf (h : ConfHalf) : ConfSet :=
  { ceiling := h.ceiling, ceilLin := ceilLin h.ceiling, pinned := h.pinned.filter (· ≠ noId), routes := h.routes }

/-! ## Mixing -/

/-- The input and output ports that a set's routes name. -/
def routePorts (out : Bool) (c : ConfSet) : List (Nat × Nat) :=
  ((c.routes.map rdRoute).filterMap fun r => if r.en && r.out == out then some (r.die, r.port) else none).eraseDups

/-- Whether a leg is sent the mix of a conference. -/
def isListener (s : State) (c l : BitVec 16) : Bool :=
  let h := s.legLive l
  s.legOpen l && s.confOf l == c && h.listenEn && h.txEn && h.audio && h.txAc != 0

/-- Clamped samples of a conference on die `d`: MIX_CNT 0, CLAMP, error 0x0701 at most once per second. -/
def noteClamps (d : Nat) (c : BitVec 16) (n : Nat) (s : State) : State :=
  if n = 0 then s
  else raiseOnce d (engineReq 2) 0x0701 (c.setWidth 64) (c.setWidth 64)
    (mixEv d 0 (forAll (List.range n) (fun _ s => mixCnt d 0 s) (s.modConf c fun x => { x with clamps := x.clamps + BitVec.ofNat 32 n })))

/-- The die on which a mix that omits a contribution is made: the listener's, or the output port's. -/
def keyHome (k : Nat) : Nat := if k < 65536 then legDie (BitVec.ofNat 16 k) else (k - 65536) / 8

/-- The limited output of a mixed MP on die `d`, under the gains of its copy of the limiter. -/
def limitedDie (s : State) (x : MixedMp) (ports : List (Nat × Nat)) (fades : Tab (List (BitVec 32 × Nat))) (gains : List Nat)
    (d : Nat) : OutSt :=
  let x := { x with own := x.own.filter fun e => keyHome e.1 == d }
  let ports := ports.filter fun q => q.1 == d
  let st : OutSt := { set := x.set, fades := fades, clamps := 0, common := [], minus := [], outs := [] }
  let st := (List.range 48).foldl (fun b f => outSample s x ports f (gains.getD f limOne) b) st
  { st with common := st.common.reverse, minus := st.minus.map fun e => (e.1, e.2.reverse) }

/-- The limited output of a mixed MP by die, once all its gains are known. -/
def limitedMp (c : BitVec 16) (x : MixedMp) (gains : Nat → List Nat) (s : State) : List (Nat × OutSt) × State :=
  let fades := (s.conf c).outFades
  let sets := x.set :: (match x.next with | some (_, n) => [n] | none => [])
  let ports := (({ routes := fades.flatMap fun e => e.2.map (·.1) } :: sets : List ConfSet).flatMap (routePorts true)).eraseDups
  let outs := s.dieList.map fun d => (d, limitedDie s x ports fades (gains d) d)
  let s := s.modConf c fun y => { y with outFades := ((outs.find? (·.1 == confDie c)).map (·.2.fades)).getD [] }
  (outs, forAll outs (fun e s => noteClamps e.1 c e.2.clamps s) s)

/-- The contributions of a conference's talkers and departing talkers, faded (07 R162). -/
def confParts (x : Conf) (parts : List (BitVec 16 × List Sample)) (fadeIn : BitVec 16 → Bool) : List (BitVec 16 × List Sample) :=
  parts.filterMap fun e =>
    if x.talkers.contains e.1 then some (e.1, if fadeIn e.1 then fadedIn e.2 else e.2)
    else if x.departing.contains e.1 then some (e.1, fadedOut e.2) else none

/-- How a leg half asks for its mix to be encoded (07 R172). -/
def encCfg (h : LegHalf) : EncCfg :=
  { ac := h.txAc, stereo := h.stereo, frame := h.txFrame, abr := h.txAbr, complexity := h.complexity, fec := h.inbandFec, dtx := h.dtx,
    ssrc := h.txSsrcA, pt := h.txApt }

/-- A conference's bus over MP `m` from the contributions of its talkers, and every die's copy of its limiter. The MP waits
for the gains of its last 16 samples; those of the MP before are now known, and its limited output is answered. An N-1 mix is
made for talkers with LISTEN_EN alone (07 R170). -/
def mixConf (c : BitVec 16) (m : Nat) (parts : List (BitVec 16 × List Sample)) (s : State) :
    Option (MixedMp × List (Nat × OutSt)) × State :=
  let x := s.conf c
  let mine := confParts x parts fun l => (s.leg l).aud.fadeIn
  let sets := x.set :: (match x.next with | some (_, n) => [n] | none => [])
  let words := sets.flatMap (·.routes) ++ x.fades.flatMap fun e => e.2.map (·.1)
  let minusPorts := words.filterMap fun w =>
    let r := rdRoute w
    if r.en && r.out && r.minusOwn then some (portKey r.die r.port) else none
  let hears (l : BitVec 16) : Bool := s.legOpen l && s.confOf l == c && (s.legLive l).listenEn
  let st : BusSt := { set := x.set, fades := x.fades, peak := 0, bus := [], own := [], ceils := [] }
  let keys := ((mine.map (·.1)).filter hears).map (·.toNat) ++ minusPorts.eraseDups
  let st := (List.range 48).foldl (fun b f => busSample s m x.next (mine.map fun e => (e.1.toNat, e.2)) keys f b) st
  let samples := (st.ceils.zip st.bus).reverse
  let lims := s.dieList.map fun d =>
    (d, limRun (clampN 6 15 (s.die d).mix.relShift.toNat) samples (tget {} x.lim d))
  let gains (d : Nat) : List Nat := ((lims.find? (·.1 == d)).map (·.2.1)).getD []
  let mixed : MixedMp := {
    set := x.set, next := x.next, bus := st.bus.reverse, own := st.own.map fun e => (e.1, e.2.reverse),
    gains := lims.foldl (fun t e => tset [] t e.1 (e.2.1.drop 16)) [],
    listeners := ((s.members c).filter (isListener s c)).map fun l => (l, encCfg (s.legLive l)) }
  let s := s.modConf c fun x => { x with
    set := st.set, next := none, fades := st.fades, lim := lims.foldl (fun t e => tset {} t e.1 e.2.2) [], held := some mixed,
    peak := st.peak, lowGain := (gains (confDie c)).foldl min limOne }
  match x.held with
  | none => (none, s)
  | some h =>
    let (o, s) := limitedMp c h (fun d => tget [] h.gains d ++ (gains d).take 16) s
    (some (h, o), s)

/-- The output block of MP `m` as stored joins the digest of every output port of its group (16 R359). -/
def digestTdm (m : Nat) (s : State) : State :=
  forAll (s.dieList.flatMap fun d => (List.range 8).map fun p => (d, p)) (fun e s =>
    let x := s.tdmPort e.1 e.2
    let g := groupOf s e.1 e.2
    if s.pair.role = .unpaired || x.state == .stopped || cfgOut x.cfg == 0 then s
    else digestBytes e.1 (tdmUnit e.2)
      (rdBytes (s.die e.1).dram (ringAt s e.1 g true m) (48 * frameBytes s e.1 g true)) s) s

/-- The output blocks of MP `m`: the mixer writes the block of every group with output channels, zero where no route
ends and the sum where several do (07 R170, 08 R187, R192). -/
def writeOutBlocks (m : Nat) (outs : List (Nat × Int)) (s : State) : State :=
  let outs := outs.foldl (fun (t : Tab Int) e => tmod 0 t e.1 (· + e.2)) []
  s.mapDies fun d x =>
    let groups := (List.range 8).filter fun g => (groupPorts s d g).any fun p =>
      (s.tdmPort d p).state != .stopped && decide (0 < cfgOut (s.tdmPort d p).cfg)
    let block (g : Nat) : List Byte :=
      let mem := (outs.filter fun e => e.1 / 1536 / 8 == d && groupOf s d (e.1 / 1536 % 8) == g).foldl (fun mem e =>
        let p := e.1 / 1536 % 8
        let w := cfgStore (s.tdmPort d p).cfg
        wrBytes mem (e.1 / 32 % 48 * frameBytes s d g true + portOffset s d g p true + e.1 % 32 * w)
          (leBytes (BitVec.ofInt (8 * w) (wordOfM64 w e.2)).toNat w)) ([] : Mem)
      rdBytes mem 0 (ringBytes s d g true)
    let desc : TdmBlock := { mp := BitVec.ofNat 64 m, frames := 48, complete := true }
    { x with
      dram := groups.foldl (fun t g => wrBytes t (ringAt s d g true m) (block g)) x.dram
      tdm := { x.tdm with
        outRing := groups.foldl (fun t g => tset {} t (8 * g + m % 8) desc) x.tdm.outRing
        outDesc := groups.foldl (fun t g =>
          tset [] t (8 * g + m % 8) (blockDesc desc (48 * frameBytes s d g true) fun _ => 0)) x.tdm.outDesc } }

/-- A TDM input block that a running port should have written and that is not there at the mix boundary is taken as
zero: MIX_CNT 1, MISSING, error 0x0702 with the conference (07 R177). The routes are those in use at some sample of the MP. -/
def missingInputs (c : BitVec 16) (m : Nat) (s : State) : State :=
  let x := s.conf c
  let (set, fades) := setAt x.next 0 x.set x.fades
  let later := match x.next with | some (_, n) => n.routes | none => []
  let words := set.routes ++ later ++ fades.flatMap fun e => e.2.map (·.1)
  forAll ((routePorts false { routes := words }).filter fun q =>
    let p := s.tdmPort q.1 q.2
    p.state == .running && decide (p.startMp.toNat ≤ m) &&
      (tget {} (s.die q.1).tdm.inRing (8 * groupOf s q.1 q.2 + m % 8)).mp != BitVec.ofNat 64 m)
    (fun _ s => raiseFrom (confDie c) (engineReq 2) 0x0702 (c.setWidth 64) (mixEv (confDie c) 1 (mixCnt (confDie c) 1 s))) s

/-! ## Sent frames (07 R172, R173, 12 R271, R282) -/

/-- MPs that a sent frame covers. -/
def frameMps (e : EncCfg) : Nat := if linearBytes e.ac ≠ 0 then 1 else e.frame

/-- What listeners of the common mix must share to share an encoder: all but SSRC and payload type. -/
def encKey (e : EncCfg) : EncCfg := { e with ssrc := 0, pt := 0 }

/-- The largest Opus frame: 1,275 bytes for each 20 ms, with the bytes that say how a packet is made up (RFC 6716). -/
def opusMax (ms : Nat) : Nat := 2 + 1277 * ((ms + 19) / 20)

/-- The coded payload of a frame: linear codecs exactly, big-endian; the bytes of the others are free, and so is the number of
an Opus frame's bytes, which TX_ABR governs (log 15). -/
def framePayload (e : EncCfg) (blocks : List Sample) (v : BitVec 64) : List Byte :=
  let w := linearBytes e.ac
  if w ≠ 0 then
    blocks.flatMap fun x =>
      let one (y : Int) : List Byte := (leBytes (BitVec.ofInt (8 * w) (wordOfM64 w y)).toNat w).reverse
      if e.stereo then one x.1 ++ one x.2 else one (rneShift (x.1 + x.2) 1)
  else
    let n := if e.ac = 1 then clampN 1 (opusMax e.frame) (Config.opusBytes e.abr e.frame v) else 8 * frameMps e
    (List.range n).map fun i => (Config.freeList v i).setWidth 8

/-- What an encoder in a state makes of a frame: the coded content, which is its next state too (log 15). -/
def encodeFrame (e : EncCfg) (st : BitVec 64) (samples : List Sample) : BitVec 64 :=
  Config.audioCode [e.ac, e.stereo.toNat, e.frame, e.abr, e.complexity, e.fec.toNat, e.dtx.toNat] st samples

/-- An error of the mixing path about a leg of a conference: its detail holds the leg ID or the conference ID, which of
them is free (07 R180). -/
def raiseMix (d : Nat) (code : BitVec 16) (l c : BitVec 16) (s : State) : State :=
  let (v, s) := draw s
  raiseFrom d (engineReq 2) code ((if v.getLsbD 0 then l else c).setWidth 64) s

/-- An encode is not complete in its slot: MIX_CNT 3, OVERRUN, error 0x0704 (07 R177). -/
def encodeLate (l : BitVec 16) (s : State) : State :=
  let d := legDie l
  raiseMix d 0x0704 l (s.confOf l) (mixEv d 2 (mixCnt d 3 s))

/-- From the boundary at which a frame's last limited block is whole to its egress entry: 24 samples, its look-ahead and the
8 of mix, encode and encryption (07 R176). -/
def ownAudioDelay : Nat := unitsMp / 2

/-- The state of the shared encoder of a die and configuration, and its change. -/
def sharedSt (s : State) (c : BitVec 16) (d : Nat) (k : EncCfg) : BitVec 64 :=
  (((s.conf c).encs.find? fun e => e.1 == (d, k)).map (·.2)).getD 0
def setShared (c : BitVec 16) (d : Nat) (k : EncCfg) (v : BitVec 64) (s : State) : State :=
  s.modConf c fun x => { x with encs := ((d, k), v) :: x.encs.filter fun e => e.1 != (d, k) }

/-- A coded frame whose last MP is `m` is sent. With DTX an Opus frame may be left out (free); one whose encode is late is not
sent (07 R177). -/
def sendFrame (l : BitVec 16) (m : Nat) (e : EncCfg) (late : Bool) (samples : List Sample) (v : BitVec 64) (s : State) : State :=
  if late || !s.legOpen l || (e.dtx && e.ac = 1 && v.getLsbD 63) then s
  else
    let payload := framePayload e samples v
    let (q, s) := nextSeqOf l e.ssrc s
    let (b, s) := tsBaseOf l e.ssrc s
    let ts := BitVec.ofNat 32 ((m + 1 - frameMps e) * 48 * audioClock e.ac / 48000) + b
    sendRtpAfter ownAudioDelay {
      leg := l, kind := .audio, ssrc := e.ssrc, seq := q, ts := ts, pt := e.pt, payload := payload,
      ipLen := rtpLen (s.legLive l) payload } s

/-- What a die's shared encoders have made of the frames that end with this MP: configuration, content, and whether it is
late. -/
abbrev Coded := List ((Nat × EncCfg) × BitVec 64 × Bool)

/-- A listener's frame is whole: its own encoder codes it, or the shared one of its die does, once for all its listeners, its
lateness being its first listener's (07 R172, R173). -/
def codeFrame (c l : BitVec 16) (m : Nat) (e : EncCfg) (own : Bool) (samples : List Sample) (codes : Coded) (s : State) :
    Coded × State :=
  let d := legDie l
  let k := encKey e
  let late := s.lateEncodes.contains l
  if own then
    let v := encodeFrame e (s.leg l).tx.encSt samples
    let s := s.modTx l fun t => { t with encSt := v }
    (codes, sendFrame l m e late samples v (if late then encodeLate l s else s))
  else match codes.find? fun x => x.1 == (d, k) with
    | some (_, v, late) => (codes, sendFrame l m e late samples v s)
    | none =>
      let v := encodeFrame e (sharedSt s c d k) samples
      let s := setShared c d k v (if late then encodeLate l s else s)
      (((d, k), v, late) :: codes, sendFrame l m e late samples v s)

/-- One listener of a conference takes its block of MP `m`. It moves between its own and the shared encoder at its frame
boundaries: its own starts as a copy of the shared one, and where the leg leaves the talker set within a frame, codes the
common mix to its end (07 R173). The grid of frames moves with a step (02 R46). -/
def encodeNext (c : BitVec 16) (m : Nat) (outs : List (Nat × OutSt)) (codes : Coded) (e : BitVec 16 × EncCfg) (s : State) :
    Coded × State :=
  let l := e.1
  let n := max 1 (frameMps e.2)
  let at_ := (m + 120 - s.frameShift) % n
  match outs.find? (·.1 == legDie l) with
  | none => (codes, s)
  | some (_, b) =>
    let t := (s.leg l).tx
    let minus := (b.minus.find? (·.1 == l.toNat)).map (·.2)
    let own := if at_ = 0 then minus.isSome else t.ownEnc
    let block := if own then minus.getD b.common else b.common
    let acc := if at_ = 0 then [block] else t.frameAcc ++ [block]
    let whole := at_ + 1 = n && acc.length = n
    let s := s.modTx l fun t => { t with
      ownEnc := own, frameAcc := if whole then [] else acc
      encSt := if own && !t.ownEnc then sharedSt s c (legDie l) (encKey e.2) else t.encSt }
    if whole then codeFrame c l m e.2 own acc.flatten codes s else (codes, s)

/-- The listeners of a conference take their blocks of MP `m`. -/
def encodeConf (c : BitVec 16) (m : Nat) (listeners : List (BitVec 16 × EncCfg)) (outs : List (Nat × OutSt)) (s : State) : State :=
  (listeners.foldl (fun acc e => encodeNext c m outs acc.1 e acc.2) (([] : Coded), s)).2

/-! ## Mix state (07 R178) -/

/-- The mix-state entry of a conference at boundary `b`. -/
def mixState (c : BitVec 16) (b : Nat) (s : State) : List Word :=
  let x := s.conf c
  let pinned := (x.talkers.filter fun l => ((confSetNow x).pinned.map (resolveLeg s)).contains l).length
  let w1 : Word := put (BitVec.ofNat 6 x.talkers.length) 0 ||| put (BitVec.ofNat 6 pinned) 8 |||
    put (BitVec.ofNat 16 (min 65535 (x.lowGain / 2 ^ 14))) 16 ||| put (peakDb x.peak) 32
  let talk (i : Nat) : BitVec 16 := x.talkers.getD i noId
  let ids := (List.range 8).map fun i => put (talk (4 * i)) 0 ||| put (talk (4 * i + 1)) 16 ||| put (talk (4 * i + 2)) 32 ||| put (talk (4 * i + 3)) 48
  [BitVec.ofNat 64 b, w1] ++ ids ++ [put x.changes 0 ||| put x.clamps 32, BitVec.ofNat 64 (confSetNow x).ceilLin, 0, 0, 0, BitVec.ofNat 64 b]

/-! ## The boundary -/

/-- The legs that have an audio buffer: open, RX_EN, AUDIO, a receive codec. -/
def audioLegs (s : State) : List (BitVec 16) :=
  s.allOpenLegs.filter fun l => let h := s.legLive l; h.rxEn && h.audio && h.rxAc != 0 && (s.die (legDie l)).counting

/-- The legs that depart from a conference and no longer have an audio buffer: they are decoded for one more MP (07 R162). -/
def leavingLegs (s : State) : List (BitVec 16) :=
  ((s.allOpenConfs.flatMap fun c => (s.conf c).departing).filter fun l =>
    !(audioLegs s).contains l && (s.die (legDie l)).counting).eraseDups

/-- The conferences of dies whose MP counting runs. -/
def mixConfs (s : State) : List (BitVec 16) := s.allOpenConfs.filter fun c => (s.die (confDie c)).counting

/-- A talker's block that is not at the mix boundary: one that did not arrive (MIX_CNT 1, MISSING, error 0x0702) or a decode
that overran its deadline (MIX_CNT 2, OVERRUN, error 0x0703). Its contribution is zero, and the next one is faded in
(07 R177). -/
def lateBlock (l : BitVec 16) (b : List Sample) (s : State) : List Sample × State :=
  let c := s.confOf l
  let d := confDie c
  let talks := (s.conf c).talkers.contains l || (s.conf c).departing.contains l
  let gone (s : State) : State := s.modAud l fun a => { a with wasDecoded := false }
  if talks && s.absentBlocks.contains l then
    (b.map fun _ => (0, 0), raiseMix d 0x0702 l c (mixEv d 1 (mixCnt d 1 (gone s))))
  else if talks && s.lateDecodes.contains l then
    (b.map fun _ => (0, 0), raiseMix d 0x0703 l c (mixEv d 2 (mixCnt d 2 (gone s))))
  else (b, s)

/-- A leg's block of the MP that ends joins those of the others. -/
def endLegNext (parts : List (BitVec 16 × List Sample)) (l : BitVec 16) (s : State) : List (BitVec 16 × List Sample) × State :=
  let r := lateBlock l (endLegMp l s).1 (endLegMp l s).2
  ((l, r.1) :: parts, r.2)

/-- A conference at the end of MP `m`: its mixing, and the listeners' blocks of the MP before; the ends of its routes. -/
def mixNext (m : Nat) (parts : List (BitVec 16 × List Sample)) (outs : List (Nat × Int)) (c : BitVec 16) (s : State) :
    List (Nat × Int) × State :=
  let r := mixConf c m parts (missingInputs c m s)
  match r.1 with
  | some (h, o) => (outs ++ o.flatMap (·.2.outs), encodeConf c (m - 1) h.listeners o r.2)
  | none => (outs, r.2)

/-- MP `m` ends: its blocks are decoded and its buses summed and limited. The limited output of the MP before it is then
whole: its mixes are split, written to TDM and encoded (07 R171, R176). The TDM frames of MP `m` have left. -/
def audioEnd (m : Nat) (s : State) : State :=
  let p := (audioLegs s ++ leavingLegs s).foldl (fun acc l => endLegNext acc.1 l acc.2) (([] : List (BitVec 16 × List Sample)), s)
  let q := (mixConfs p.2).foldl (fun acc c => mixNext m p.1 acc.1 c acc.2) (([] : List (Nat × Int)), p.2)
  tdmPutOut (digestTdm (m - 1) (writeOutBlocks (m - 1) q.1 q.2))

/-- Whether a leg is decoded in the running MP: a talker, a departing talker, or a leg that may talk and is scored by its
decoded energy (07 R160, R162, R175). -/
def decodedNow (s : State) (l : BitVec 16) : Bool :=
  (mixConfs s).any (fun c => (s.conf c).talkers.contains l || (s.conf c).departing.contains l) ||
    ((s.legLive l).levelExt == 0 && (setNow (s.leg l).aud).talkEn)

/-- A leg's buffer and decoder for the MP that begins. -/
def startLegMp (b : Nat) (l : BitVec 16) (s : State) : State :=
  jbBoundary l b (s.modAud l fun a => { a with ac := (s.legLive l).rxAc })

/-- The buffer of a departing leg that receives no more: its statistics stand still. -/
def leaveLegMp (b : Nat) (l : BitVec 16) (s : State) : State :=
  s.modLeg l fun x => { x with jb := (jbMp (s.legLive l) true b x).jb }

/-- MP `b` begins: the buffers' states, the talker sets, the mix-state entries and the measured Face load. -/
def audioStart (b : Nat) (s : State) : State :=
  let s := forAll (audioLegs s) (startLegMp b) s
  let s := forAll (mixConfs s) (fun c s => selectTalkers c b s) s
  let s := forAll (leavingLegs s) (leaveLegMp b) s
  let s := forAll (audioLegs s ++ leavingLegs s) (fun l s => s.modAud l fun a => { a with wasDecoded := decodedNow s l }) s
  let s := forAll (mixConfs s) (fun c s => s.modConf c fun x => { x with pub := mixState c b s }) s
  forAll (s.dieList.filter fun d => (s.die d).counting && decide (0 < (s.die d).mix.faceUse.toNat)) (fun d s =>
    let (v, s) := draw s
    s.modDie d fun x => { x with mix := { x.mix with
      facePeak := if x.mix.facePeak ≤ v.setWidth 32 then v.setWidth 32 else x.mix.facePeak } }) s

/-! ## Face load (07 R175) -/

/-- Estimates of Table 7.3 in units of 0.01 Mcycle/s: decode and encode, by codec code. -/
def faceFigure (enc : Bool) (ac : Nat) : Nat :=
  if ac = 1 then (if enc then 1400 else 475) else if ac = 4 then (if enc then 160 else 120)
  else if ac = 2 || ac = 3 then (if enc then 35 else 30) else if ac = 5 || ac = 6 then 10 else 0

/-- The load of one stream in 10^-4 of the table's unit: mono 0.6, frames of 10 ms 1.25, of 40 and 60 ms 0.9, an Opus encode
0.5 + 0.1 × COMPLEXITY. A received stream counts as stereo, and as frames of 20 ms, unless its codec has one channel; TX_FRAME
is ignored for L16 and L24 (log 141). -/
def streamLoad (enc : Bool) (h : LegHalf) : Nat :=
  let ac := if enc then h.txAc else h.rxAc
  let mono := if enc then !h.stereo else ac == 2 || ac == 3 || ac == 4
  let frame := if enc && linearBytes ac = 0 then h.txFrame else 20
  faceFigure enc ac * (if mono then 6 else 10) * (if frame = 10 then 125 else if frame = 40 || frame = 60 then 90 else 100) *
    (if enc && ac = 1 then 5 + h.complexity else 10)

/-- The sum of the `k` largest figures. -/
def topSum (k : Nat) (l : List Nat) : Nat := ((sortBy (fun a b => decide (b ≤ a)) l).take k).foldl (· + ·) 0

/-- The Face load counted on a die, in units of 0.01 Mcycle/s, rounded up. -/
def faceLoad (s : State) (d : Nat) : Nat :=
  let legs := (s.openLegs d).filter fun l => (s.legLive l).audio
  let alone := (legs.filter fun l => let h := s.legLive l; h.talkEn && h.levelExt == 0).map fun l => streamLoad false (s.legLive l)
  let byConf := s.allOpenConfs.map fun c =>
    let k := (s.confLive c).k
    let mine := legs.filter fun l => s.confOf l == c
    let talk := mine.filter fun l => (s.legLive l).talkEn
    let listen := mine.filter (isListener s c)
    let dec := topSum k ((talk.filter fun l => (s.legLive l).levelExt != 0).map fun l => streamLoad false (s.legLive l))
    let own := if listen.isEmpty then 0 else topSum k (talk.map fun l => streamLoad true (s.legLive l))
    let shared := ((listen.map fun l => (encKey (encCfg (s.legLive l)), streamLoad true (s.legLive l))).eraseDups).foldl (fun n e => n + e.2) 0
    dec + own + shared
  ((alone.foldl (· + ·) 0) + byConf.foldl (· + ·) 0 + 9999) / 10000

/-! ## Pending doorbells and safe-loads (04 R88, R89, 07 R174) -/

/-- The pending doorbell of an entry. -/
def entryDb (s : State) (isConf : Bool) (id : BitVec 16) : Option Doorbell := if isConf then (s.conf id).db else (s.leg id).db

/-- Changes the pending doorbell of an entry, and its busy ones. -/
def setDb (isConf : Bool) (id : BitVec 16) (f : Option Doorbell → Option Doorbell) (g : List Doorbell → List Doorbell) (s : State) : State :=
  if isConf then s.modConf id fun x => { x with db := f x.db, busyDbs := g x.busyDbs }
  else s.modLeg id fun x => { x with db := f x.db, busyDbs := g x.busyDbs }

/-- A doorbell or SAFE_LOAD arrives at an entry: it pends, or is BUSY where another, be it a BUSY one, has not completed. -/
def ringEntry (isConf : Bool) (id : BitVec 16) (db : Doorbell) (s : State) : State :=
  if (entryDb s isConf id).isSome || !(if isConf then (s.conf id).busyDbs else (s.leg id).busyDbs).isEmpty then setDb isConf id (fun o => o) (· ++ [{ db with busy := true }]) s
  else setDb isConf id (fun _ => some db) (fun l => l) s

/-- The live version of an entry, as a completion carries it (04 R94). -/
def liveVersion (isConf : Bool) (id : BitVec 16) (s : State) : BitVec 16 :=
  if isConf then (s.confLive id).version else (s.legLive id).version

/-- The completion of a doorbell or SAFE_LOAD. -/
def endBell (isConf : Bool) (id : BitVec 16) (db : Doorbell) (status : BitVec 8) (s : State) : State :=
  let version := liveVersion isConf id s
  let cookie := if status ≠ 0 then 0 else if isConf then (s.confLive id).cookie else (s.legLive id).cookie
  let c : Completion := { id := id, kind := if isConf then 1 else 0, status := status, version := version, tag := db.tag,
                          mp := mpField s, cookie := cookie }
  match db.sample with
  | some _ => finishCmd db.func { c with kind := 2, mp := db.atMp.getD (mpField s) } s
  | none => postCompletion db.func c s

/-- SAFE_LOAD: INVALID for a SAMPLE above 47, a reserved bit or a bad ID; EARLY less than 2 MP before boundary b;
otherwise it pends as a doorbell of its entry. -/
def execSafeLoad (c : Cmd) (s : State) : Host.Outcome State Fault Refusal :=
  .next (runCmd 0x60 c (fun s =>
    let id := argOf c
    let isConf := bit c.w1 16
    let smp := fld c.w3 16 6
    let ok := if isConf then confIdOk s id else legIdOk s id
    let home := if isConf then confDie id else legDie id
    if !ok || !only c.w1 0x1FFFF || !only c.w3 0x3FFFFF || 47 < smp.toNat then (.st 2, s)
    else if (unitsMp : Int) * c.w2.toNat < (s.time home : Int) + 2 * unitsMp then (.st 9, s)
    else (.later, ringEntry isConf id { func := c.func, tag := tagOf c, version := fld c.w3 0 16, atMp := some c.w2, sample := some smp } s)) s)

/-- The completion of a safe-load whose checks have passed: MIX_CNT 4. -/
def finishSafeLoad (isConf : Bool) (id : BitVec 16) (s : State) : State :=
  match entryDb s isConf id with
  | some db =>
    if db.adopted then
      endBell isConf id db 0 (mixCnt (if isConf then confDie id else legDie id) 4 (setDb isConf id (fun _ => none) (fun l => l) s))
    else s
  | none => s

/-- SAFE_LOAD_APPLY: at sample s of MP b the new set, adopted at boundary b, takes effect, and the command completes. -/
def execSafeLoadApply (die : Nat) (isConf : Bool) (idx : Nat) (s : State) : Host.Outcome State Fault Refusal :=
  let id := if isConf then confId die idx else legId die idx
  match entryDb s isConf id with
  | some db =>
    if db.adopted then
      let at_ := unitsMp * (db.atMp.getD 0).toNat + unitsMp * (db.sample.getD 0).toNat / 48
      .next (finishSafeLoad isConf id (s.advanceTo die at_))
    else .next s
  | none => .next s

end Sys2Proof.Machine
end

