-- ==== Sys2Proof/Machine/VideoDecode.lean ====
section
/-! DEFINITION. Video decoding: contexts, admission, the reference pool, stand-ins and taint, decode reports
(chapter 09). -/

namespace Sys2Proof.Machine

/-! ## Admission (03 R67, 09 R200, R202) -/

/-- Whether a class of a die has room for added bytes per second. -/
def bwFits (s : State) (d c est : Nat) : Bool :=
  decide (tget 0 (s.die d).str.bwAdmitted c + est ≤ 100000000 * (tget 0 (s.die d).str.bwAlloc c).toNat)

/-- Adds to, or takes from, the admitted load of a class. -/
def bwAdd (d c est : Nat) (s : State) : State :=
  s.modDie d fun x => { x with str := { x.str with bwAdmitted := tmod 0 x.str.bwAdmitted c (· + est) } }
def bwSub (d c est : Nat) (s : State) : State :=
  s.modDie d fun x => { x with str := { x.str with bwAdmitted := tmod 0 x.str.bwAdmitted c (· - est) } }

/-- Blocks of 64 pixels that a length takes. -/
def blocks64 (n : Nat) : Nat := (n + 63) / 64

/-- Pixel rate, class 0 bandwidth and pool slots of a context. -/
def decPix (c : DecCtx) : Nat := 4096 * (blocks64 c.maxW.toNat * blocks64 c.maxH.toNat) * c.maxFps.toNat
def decBw (c : DecCtx) : Nat :=
  (1875 * decPix c * (56 + (if c.half then 4 else 0) + (if c.quarter then 1 else 0)) + 15999) / 16000
def bufSlots (w h : Nat) : Nat := blocks64 w * blocks64 h

/-- The buffers that a context reserves, by size and slots: REFS + 1 + OUT_HOLD + 1 full ones, and OUT_HOLD + 1 at half and at
quarter size where it has them (09 R202). -/
def decBufs (c : DecCtx) : List (BitVec 2 × Nat) :=
  let w := c.maxW.toNat
  let h := c.maxH.toNat
  List.replicate (c.refs.toNat + 1 + c.outHold + 1) (0, bufSlots w h) ++
    (if c.half then List.replicate (c.outHold + 1) (1, bufSlots ((w + 1) / 2) ((h + 1) / 2)) else []) ++
    (if c.quarter then List.replicate (c.outHold + 1) (2, bufSlots ((w + 3) / 4) ((h + 3) / 4)) else [])

/-- The output sizes that a context has, with the slots of a buffer. -/
def decSizes (c : DecCtx) : List (BitVec 2 × Nat) := (decBufs c).eraseDups

/-- Codec cores of a role on a die that are not retired (03 R56, 16 R367). -/
def codecCores (s : State) (d : Nat) (role : BitVec 2) : Nat :=
  ((List.range 8).filter fun i => tget 0 (s.die d).str.codecRole i == role && !(s.die d).cap.units.contains (34 + i)).length

/-- VDC_CAP.PIX_CAP in pixels/s: 90 % of 500 Mpixel/s for each decode-role core. -/
def decPixCap (s : State) (d : Nat) : Nat := 450000000 * codecCores s d 1

/-! ## The pool (09 R202, R205) -/

/-- Block slots of the runs of some kinds. -/
def runSlots (v : Vdc) (p : RunKind → Bool) : Nat := ((v.runs.filter fun r => p r.kind).map (·.len)).foldl (· + ·) 0

/-- Slots of the free area, which no run holds, and slots that reservations hold. -/
def poolFree (s : State) (d : Nat) : Nat := (s.die d).vdc.poolSlots.toNat - runSlots (s.die d).vdc fun _ => true
def poolResv (v : Vdc) : Nat := runSlots v fun k => k == .reserved || k == .canvas

/-- Whether a run lies in the pool and touches no other. -/
def runFits (v : Vdc) (slot len : Nat) : Bool :=
  decide (slot + len ≤ v.poolSlots.toNat) && v.runs.all fun r => decide (slot + len ≤ r.slot) || decide (r.slot + r.len ≤ slot)

/-- Where a contiguous run of the free area is taken: the manual gives no rule (log 144); none where no run is long enough. -/
def placeRun (v : Vdc) (len : Nat) : Option Nat :=
  let a := Config.poolPlace (v.runs.map fun r => (r.slot, r.len)) len
  if runFits v a len then some a else (0 :: v.runs.map fun r => r.slot + r.len).find? fun a => runFits v a len

/-- Takes a run from the free area for an owner, and several. -/
def takeRun (kind : RunKind) (owner : BitVec 16) (e : BitVec 2 × Nat) (v : Vdc) : Option Vdc :=
  (placeRun v e.2).map fun a => { v with runs := v.runs ++ [{ slot := a, len := e.2, owner := owner, size := e.1, kind := kind }] }
def takeRuns (kind : RunKind) (owner : BitVec 16) : List (BitVec 2 × Nat) → Vdc → Option Vdc
  | [], v => some v
  | e :: l, v => (takeRun kind owner e v).bind (takeRuns kind owner l)

/-- Die offset of a block slot of a die's pool. -/
def slotOffset (s : State) (d slot : Nat) : Nat := (s.die d).vdc.poolBase.toNat % 2 ^ 37 + 8192 * slot

/-- Changes the VDC block; VDC_POOL_LOW follows the least free area. -/
def modPool (d : Nat) (f : Vdc → Vdc) (s : State) : State :=
  let s := s.modDie d fun x => { x with vdc := f x.vdc }
  let free := poolFree s d
  s.modDie d fun x => { x with vdc := { x.vdc with poolLow := if free < x.vdc.poolLow.toNat then BitVec.ofNat 24 free else x.vdc.poolLow } }

/-! ## Opening and closing (09 R198, R199) -/

/-- The context that DEC_OPEN's arguments describe. -/
def decArgs (c : Cmd) : DecCtx :=
  { state := .opened, leg := argOf c, stream := fld c.w1 16 2, op := fld c.w1 18 5, maxW := fld c.w2 0 16, maxH := fld c.w2 16 16,
    maxFps := fld c.w2 32 8, refs := fld c.w2 40 5, outHold := fldN c.w2 45 2 + 1, half := bit c.w2 47, quarter := bit c.w2 48,
    fir := bit c.w2 49 }

/-- Whether the arguments of a context lie in their ranges. -/
def decRanges (h : LegHalf) (x : DecCtx) : Bool :=
  decide (x.stream.toNat ≤ 2) && (x.op == 0 || h.rxVc == 3) && decide (64 ≤ x.maxW.toNat) && decide (x.maxW.toNat ≤ 4096) &&
    decide (64 ≤ x.maxH.toNat) && decide (x.maxH.toNat ≤ 4096) && decide (1 ≤ x.maxFps.toNat) && decide (x.maxFps.toNat ≤ 120) &&
    decide (1 ≤ x.refs.toNat) && decide (x.refs.toNat ≤ 16)

/-- A free context index of a die: one that is closed, else one that shows MOVED (log 144). -/
def freeDec (s : State) (d : Nat) : Option Nat :=
  let at_ (st : CtxState) : Option Nat := findIdx (fun i => (tget {} (s.die d).vdc.ctx i).state == st) 512 0
  (at_ .closed).orElse fun _ => at_ .moved

/-- The load checks of a context on a die: DRAINING, BUDGET, CAPACITY. -/
def decLoad (s : State) (d : Nat) (x : DecCtx) : Option (BitVec 8) :=
  if (s.die d).str.draining then some 6
  else if !bwFits s d 0 (decBw x) then some 3
  else if (freeDec s d).isNone || decPixCap s d < (s.die d).vdc.pixUse + decPix x || (takeRuns .reserved 0 (decBufs x) (s.die d).vdc).isNone then some 7
  else none

/-- Opens a context at index `i` of a die, with its reservation. Picture numbers go on from those of the index's last context, of
which a consumer may keep pictures. -/
def openDec (d i : Nat) (x : DecCtx) (s : State) : State :=
  let s := s.modDie d fun y => { y with vdc := { y.vdc with
    ctx := tset {} y.vdc.ctx i { x with nextPid := (tget {} y.vdc.ctx i).nextPid }, pixUse := y.vdc.pixUse + decPix x } }
  bwAdd d 0 (decBw x) (modPool d (fun v => (takeRuns .reserved (ctxHandle d i) (decBufs x) v).getD v) s)

/-- DEC_OPEN. -/
def execDecOpen (c : Cmd) (s : State) : Host.Outcome State Fault Refusal :=
  .next (runCmd 0x70 c (fun s =>
    let x := decArgs c
    let l := x.leg
    let h := s.legLive l
    let d := legDie l
    let dup := (s.openDecs d).any fun k => let y := s.dec k; y.leg == l && y.stream == x.stream && y.op == x.op
    if !ownsLeg s c.func l then (.st 4, s)
    else if !s.legOpen l || h.rxVc = 0 || rxVideoSsrc h x.stream.toNat = 0 || !decRanges h x || dup || !only c.w1 0x7FFFFF ||
        !only c.w2 0x3FFFFFFFFFFFF then (.st 2, s)
    else match decLoad s d x with
      | some st => (.st st, s)
      | none =>
        let i := (freeDec s d).getD 0
        (.done 0 (ctxHandle d i) 0 0, openDec d i { x with startMp := BitVec.ofNat 64 (s.mpNo d + 2) } s)) s)

/-- Whether a Gallery layer of an enabled layout, of any die, or an encoder names a decode context. -/
def decNamed (s : State) (k : BitVec 16) : Bool :=
  s.dieList.any fun d =>
    ((s.layouts d).any fun l => s.layOn l && !(s.lay l).kind && (s.layLive l).layers.any fun y => y.en && y.srcKind == 0 && y.ctx == k) ||
      (s.openEncs d).any fun e => (s.enc e).kind == 1 && (s.enc e).source == k

/-- DEC_CLOSE: the context closes at the next boundary; REFERENCED while a layer or an encoder names it. -/
def execDecClose (c : Cmd) (s : State) : Host.Outcome State Fault Refusal :=
  .next (runCmd 0x71 c (fun s =>
    let k := argOf c
    if !ownsLeg s c.func (s.dec k).leg then (.st 4, s)
    else if !decOk s k || !only c.w1 0xFFFF || (s.dec k).state ≠ .opened then (.st 2, s)
    else if decNamed s k then (.st 8, s)
    else (.st 0, s.modDec k fun x => { x with closing := true })) s)

/-- DEC_KEYREQ: a keyframe request for the context's stream. -/
def execDecKeyreq (c : Cmd) (s : State) : Host.Outcome State Fault Refusal :=
  .next (runCmd 0x72 c (fun s =>
    let k := argOf c
    let x := s.dec k
    if !ownsLeg s c.func x.leg then (.st 4, s)
    else if !decOk s k || !only c.w1 0xFFFF || x.state ≠ .opened then (.st 2, s)
    else (.st 0, keyframeRequest x.leg (rxVideoSsrc (s.legLive x.leg) x.stream.toNat) s)) s)

/-- Consumers of a picture at a size: Gallery layers that have drawn it, and encoders whose source it is. -/
def bufUsers (s : State) (k : BitVec 16) (pid : Nat) (size : BitVec 2) : Nat :=
  let drawn := s.dies.flatMap fun y => y.gal.layouts.flatMap fun e => e.2.drawn.filterMap (·.2)
  let coded := s.dies.flatMap fun y => y.ven.ctx.filterMap fun e =>
    if e.2.state == .opened && e.2.kind != 0 then e.2.lastSource.map fun w => (w.1, w.2, 0) else none
  ((drawn ++ coded).filter fun w => w == (k.toNat, pid, size.toNat)).length

/-- A context closes, or shows that it has moved: its load and its buffers return, but for those that a consumer keeps until it
releases them (09 R205). -/
def closeDec (k : BitVec 16) (moved : Option (BitVec 16)) (s : State) : State :=
  let x := s.dec k
  let d := decDie k
  let kept := (x.pics.map fun p => { p with inRefs := false, bufs := (p.bufs.filter fun b => bufUsers s k p.pid b.size != 0).map fun b =>
    { b with refcnt := bufUsers s k p.pid b.size } }).filter fun p => !p.bufs.isEmpty
  let slots := kept.flatMap fun p => p.bufs.map (·.slot)
  let s := s.modDec k fun x => match moved with
    | some t => { x with state := .moved, movedTo := t, closing := false, pics := [], holds := [] }
    | none => { leg := x.leg, nextPid := x.nextPid }
  let s := s.modDie d fun y => { y with vdc := { y.vdc with pixUse := y.vdc.pixUse - decPix x } }
  bwSub d 0 (decBw x) (modPool d (fun v => { v with
    kept := v.kept ++ kept.map fun p => (k, p)
    runs := (v.runs.map fun r => if r.owner = k && r.kind != .canvas && slots.contains r.slot then { r with kind := .kept } else r).filter
      fun r => r.owner != k || r.kind == .canvas || r.kind == .kept }) s)

/-- The bridge closes a context itself: a completion of KIND 6 with its handle (09 R199). -/
def bridgeCloseDec (k : BitVec 16) (s : State) : State :=
  postCompletion 0 { id := k, kind := 6, mp := mpField s } (closeDec k none s)

/-! ## Frames and buffers (09 R204 to R206, 05 R128) -/

/-- Requester ID of the core that decodes a context. -/
def decReq (k : BitVec 16) : Byte := codecReq (Config.contextCore false k).toNat

/-- Whether the standby's ledger marks a picture with a verdict: 0 missing, 1 late, 2 no buffer. -/
def ledgerPicture (s : State) (k : BitVec 16) (ts : BitVec 32) (kind : BitVec 2) : Bool :=
  s.pair.ledger.contains (.picture k ts kind)

/-- The frames of a timestamp that a context decodes: those of its stream and, of an AV1 stream, of its operating point. -/
def ctxFrames (s : State) (k : BitVec 16) (ts : BitVec 32) : List VFrame :=
  let x := s.dec k
  let h := s.legLive x.leg
  (s.leg x.leg).vframes.filter fun f => f.ts == ts && (scalable h || f.spatial == x.stream) && (h.rxVc != 3 || f.ops.getLsbD x.op.toNat)

/-- A context has taken the frames of a timestamp; those of its stream that every context of the stream has taken leave the packet
buffer. -/
def dropFrames (k : BitVec 16) (ts : BitVec 32) (s : State) : State :=
  let x := s.dec k
  let l := x.leg
  let h := s.legLive l
  let mine (f : VFrame) : Bool := f.ts == ts && (scalable h || f.spatial == x.stream)
  let cs := decsOf s l (rxVideoSsrc h x.stream.toNat)
  let s := s.modLeg l fun y => { y with vframes := y.vframes.map fun f => if mine f then { f with taken := k :: f.taken } else f }
  let gone := (s.leg l).vframes.filter fun f => mine f && cs.all fun c => f.taken.contains c
  pktPoolSub (legDie l) (gone.foldl (fun n f => n + f.size) 0) (s.modLeg l fun y => { y with vframes := y.vframes.filter fun f => !gone.contains f })

/-- A picture that finds no buffer is not decoded: NO_BUF, VDC_CNT 4 and error 0x0904. -/
def noBuffer (k : BitVec 16) (ts : BitVec 32) (s : State) : State :=
  let d := decDie k
  let s := vdcEv d 3 (vdcCnt d 4 (s.modDec k fun x => { x with noBuf := x.noBuf + 1 }))
  ledger d (.picture k ts 2) (raiseFrom d (decReq k) 0x0904 (k.setWidth 64) s)

/-- REFCNT of every buffer: one for the decoder while the full-size buffer is in the reference set, is the stand-in hold or, at
any size, is being decoded; one for each consumer. A borrowed run, and a run kept of a closed context, returns when its REFCNT is
0 (09 R204, R205). -/
def trimPics (k : BitVec 16) (s : State) : State :=
  let x := s.dec k
  let d := decDie k
  let held (p : Pic) : Bool := p.inRefs || x.holds.any fun e => e.2 == some p.pid
  let count (k : BitVec 16) (own : Pic → Bool) (p : Pic) : Pic := { p with bufs := p.bufs.map fun b =>
    { b with refcnt := (if !p.done || (own p && b.size == 0) then 1 else 0) + bufUsers s k p.pid b.size } }
  let live (keep : PicBuf → Bool) (p : Pic) : Pic := { p with bufs := p.bufs.filter keep }
  let pics := ((x.pics.map (count k held)).map (live fun b => !b.borrowed || b.refcnt != 0)).filter fun p => !p.bufs.isEmpty
  let kept := (((s.die d).vdc.kept.map fun e => (e.1, live (fun b => b.refcnt != 0) (count e.1 (fun _ => false) e.2))).filter
    fun e => !e.2.bufs.isEmpty)
  let lent := pics.flatMap fun p => p.bufs.map (·.slot)
  let used := kept.flatMap fun e => e.2.bufs.map (·.slot)
  modPool d (fun v => { v with
    kept := kept
    runs := v.runs.filter fun r => (r.kind != .kept || used.contains r.slot) && (r.kind != .borrowed || r.owner != k || lent.contains r.slot) })
    (s.modDec k fun x => { x with pics := pics })

/-- The buffer of a size that a new picture takes: a free one of the reservation, one whose last picture nothing holds, the oldest
first (log 144), or a run borrowed from the free area; none where there is neither. -/
def pickBuf (v : Vdc) (x : DecCtx) (k : BitVec 16) (e : BitVec 2 × Nat) : Option (PicBuf × Vdc) :=
  let own := (v.runs.filter fun r => r.owner == k && r.kind == .reserved && r.size == e.1).map (·.slot)
  let there := x.pics.flatMap fun p => p.bufs
  let empty := own.find? fun a => !there.any fun b => b.slot == a
  let spent := (there.find? fun b => b.size == e.1 && !b.borrowed && b.refcnt == 0).map (·.slot)
  match empty.orElse fun _ => spent with
  | some a => some ({ size := e.1, slot := a, borrowed := false, refcnt := 1 }, v)
  | none => (takeRun .borrowed k e v).bind fun w => w.runs.getLast?.map fun r =>
      ({ size := e.1, slot := r.slot, borrowed := true, refcnt := 1 }, w)

/-- The buffers of every size for a new picture of a context. -/
def pickBufs (x : DecCtx) (k : BitVec 16) : List (BitVec 2 × Nat) → Vdc → Option (List PicBuf × Vdc)
  | [], v => some ([], v)
  | e :: l, v => (pickBuf v x k e).bind fun b => (pickBufs x k l b.2).map fun r => (b.1 :: r.1, r.2)

/-- The pictures of a context that keep a buffer once a new picture has taken some. -/
def losePics (bufs : List PicBuf) (l : List Pic) : List Pic :=
  (l.map fun p => { p with bufs := p.bufs.filter fun b => !bufs.any fun n => n.slot == b.slot }).filter fun p => !p.bufs.isEmpty

/-- VIDEO_FRAME_RELEASE: a whole frame is released to its decoder at its release instant (05 R128), which takes a free buffer
of its reservation, or borrows a run of the free area; frames released before the context's first boundary are
discarded. -/
def execVideoFrameRelease (ctx : BitVec 16) (ts : BitVec 32) (s : State) : Host.Outcome State Fault Refusal :=
  let x := s.dec ctx
  let d := decDie ctx
  let ssrc := rxVideoSsrc (s.legLive x.leg) x.stream.toNat
  let fs := ctxFrames s ctx ts
  if x.state ≠ .opened || fs.isEmpty || !fs.all (·.complete) || fs.any (·.taken.contains ctx) then .next s
  else
  let s := match videoRelease s x.leg ssrc ts with | some t => s.advanceToStamp d t | none => s
  if s.mpNo d < x.startMp.toNat then .next (dropFrames ctx ts s)
  else
    let s := trimPics ctx s
    if standsBy s && ledgerPicture s ctx ts 2 then .next (dropFrames ctx ts (noBuffer ctx ts s))
    else match pickBufs (s.dec ctx) ctx (decSizes x) (s.die d).vdc with
      | none => .next (dropFrames ctx ts (if standsBy s then s.modLeg x.leg fun y => { y with diverged := true } else noBuffer ctx ts s))
      | some (bufs, v) =>
        let (content, s) := draw s
        let sp := fs.foldl (fun m f => if m < f.spatial then f.spatial else m) 0
        let pic : Pic := { pid := x.nextPid, ts := ts, bufs := bufs, spatial := sp, inRefs := true, released := s.clk, content := content }
        let lent := bufs.any (·.borrowed)
        .next (dropFrames ctx ts (modPool d (fun _ => v) (s.modDec ctx fun x => { x with
          pics := losePics bufs x.pics ++ [pic], nextPid := x.nextPid + 1, borrowed := if lent then x.borrowed + 1 else x.borrowed })))

/-- A picture is late: LATE in its marks, VDC_CNT 5, error 0x0905 at most once per context and second. -/
def markLate (k : BitVec 16) (p : Pic) (s : State) : State :=
  let d := decDie k
  let s := s.modDec k fun x => { x with
    lateCnt := x.lateCnt + 1, pics := x.pics.map fun q => if q.pid = p.pid then { q with late := true } else q }
  ledger d (.picture k p.ts 1) (raiseOnce d (decReq k) 0x0905 (k.setWidth 64) (k.setWidth 64) (vdcEv d 4 (vdcCnt d 5 s)))

/-- The frame interval of a context. -/
def ctxInterval (x : DecCtx) : Nat := unitsSec / max 1 x.maxFps.toNat

/-- PICTURE_LATE: a picture not complete one frame interval after its release is late. A standby takes the verdict from the active
unit's ledger (09 R213). -/
def execPictureLate (ctx : BitVec 16) (pid : Nat) (s : State) : Host.Outcome State Fault Refusal :=
  let x := s.dec ctx
  match x.pics.find? fun p => p.pid == pid && !p.done && !p.late with
  | none => .next s
  | some p =>
    if standsBy s && !ledgerPicture s ctx p.ts 1 then .next s
    else .next (markLate ctx p (s.advance ((ctxInterval x : Nat) - stampDiff s.clk p.released).toNat))

/-! ## Streams (09 R195, R196) -/

/-- Luma samples of a picture that a level allows, by RX_VC and level as coded: levels up to 5.1. The figures are those of the
coding standards that Table 9.1 names (log 145). -/
def levelLuma (vc level : Nat) : Option Nat :=
  let table : List (Nat × Nat) :=
    if vc = 1 then [(9, 25344), (10, 25344), (11, 101376), (12, 101376), (13, 101376), (20, 101376), (21, 202752), (22, 414720), (30, 414720),
      (31, 921600), (32, 1310720), (40, 2097152), (41, 2097152), (42, 2228224), (50, 5652480), (51, 9437184)]
    else if vc = 2 then [(30, 36864), (60, 122880), (63, 245760), (90, 552960), (93, 983040), (120, 2228224), (123, 2228224), (150, 8912896),
      (153, 8912896)]
    else [(0, 147456), (1, 278784), (4, 665856), (5, 1065024), (8, 2359296), (9, 2359296), (12, 8912896), (13, 8912896)]
  (table.find? fun e => e.1 == level).map (·.2)

/-- Whether Table 9.1 supports the profile and format of a picture: AVC Constrained Baseline, Main and High with 4:2:0 at 8 bits;
HEVC Main and Main10; AV1 Main with 4:2:0 or monochrome. -/
def profileOk (vc : Nat) (p : PicInfo) : Bool :=
  let profile := (p.profile.extractLsb' 0 8).toNat
  if vc = 1 then ((profile == 66 && p.constrained) || profile == 77 || profile == 100) && p.bitDepth == 8 && p.chroma == 1
  else if vc = 2 then ((profile == 1 && p.bitDepth == 8) || (profile == 2 && (p.bitDepth == 8 || p.bitDepth == 10))) && p.chroma == 1
  else vc == 3 && profile == 0 && (p.bitDepth == 8 || p.bitDepth == 10) && decide (p.chroma ≤ 1)

/-- Whether a picture uses what Table 9.1 leaves out, or exceeds its level's picture size or a limit of its context. -/
def picUnsupported (vc : Nat) (x : DecCtx) (p : PicInfo) : Bool :=
  !p.tools.isEmpty || !profileOk vc p || decide (x.maxW.toNat < p.width) || decide (x.maxH.toNat < p.height) || decide (x.refs.toNat < p.keeps.length) ||
    match levelLuma vc (p.profile.extractLsb' 8 8).toNat with
    | some n => decide (n < p.width * p.height)
    | none => true

/-! ## Samples (09 R196, R203, Table 9.3) -/

/-- 64 samples of 10 bits as an 80-byte little-endian row. -/
def packRow (f : Nat → Nat) : List Byte := leBytes (((List.range 64).map fun i => f i % 1024 * 2 ^ (10 * i)).foldl (· + ·) 0) 80

/-- A picture as a buffer in block slots, from its samples by plane, column and row; edge samples are repeated beyond the edges. -/
def bufferBytes (w h : Nat) (f : Nat → Nat → Nat → Nat) : List Byte :=
  let cw := (w + 1) / 2
  let ch := (h + 1) / 2
  (List.range (blocks64 h)).flatMap fun by_ => (List.range (blocks64 w)).flatMap fun bx =>
    ((List.range 64).flatMap fun r => packRow fun i => f 0 (min (64 * bx + i) (w - 1)) (min (64 * by_ + r) (h - 1))) ++
    ((List.range 32).flatMap fun r => packRow fun i => f (1 + i % 2) (min (32 * bx + i / 2) (cw - 1)) (min (32 * by_ + r) (ch - 1))) ++
    List.replicate 512 0

/-- A 10-bit sample of a buffer in block slots: the two bytes at a bit position of an 80-byte row (09 Table 9.3). -/
def slotSample (s : State) (base w plane x y : Nat) : Nat :=
  let slot (bx by_ : Nat) : Nat := base + 8192 * (by_ * blocks64 w + bx)
  let at_ (row i : Nat) : Nat := leNat (devRd s (row + 10 * i / 8) 2) / 2 ^ (10 * i % 8) % 1024
  if plane = 0 then at_ (slot (x / 64) (y / 64) + 80 * (y % 64)) (x % 64)
  else at_ (slot (x / 32) (y / 32) + 5120 + 80 * (y % 32)) (2 * (x % 32) + (plane - 1))

/-- Device DRAM offset of an output buffer of a layout. -/
def canvasOffset (s : State) (l : BitVec 16) (i : Nat) : Nat :=
  let runs := (s.die (layDie l)).vdc.runs.filter fun r => r.kind == .canvas && r.owner == l
  slotOffset s (layDie l) ((runs[i]?).map (·.slot) |>.getD 0)

/-- A length at an output size: full, half or quarter, rounded up. -/
def sizeDim (n size : Nat) : Nat := (n + 2 ^ size - 1) / 2 ^ size

/-- A sample of a decoded picture as it is stored: 8 bits times 4, monochrome chroma 512. The samples of a coded picture, and how
the smaller outputs are made of them, are not given (log 15). -/
def decodedSample (p : PicInfo) (content : BitVec 64) (size plane x y : Nat) : Nat :=
  let v := (Config.picSample content size plane x y).toNat
  if p.chroma = 0 && plane ≠ 0 then 512 else if p.bitDepth = 8 && size = 0 then 4 * (v % 256) else v

/-- Stores a buffer of a picture. -/
def storeBuf (d : Nat) (b : PicBuf) (bytes : List Byte) (s : State) : State :=
  let at_ := slotOffset s d b.slot
  s.modDie d fun y => { y with dram := wrBytes y.dram at_ bytes }

/-- The bytes of a picture's buffer. -/
def loadBuf (s : State) (d w h : Nat) (b : PicBuf) : List Byte := rdBytes (s.die d).dram (slotOffset s d b.slot) (8192 * bufSlots w h)

/-- The picture in the stand-in hold of a layer, where it has the size of the picture it stands for (09 R208). -/
def heldPic (x : DecCtx) (layer w h : Nat) : Option Pic :=
  (tget none x.holds layer).bind fun pid => x.pics.find? fun q => q.pid == pid && q.done && q.width == w && q.height == h

/-- Every buffer of a picture is filled with a stand-in: a copy of the held picture, else mid-grey. A size of which the hold has no
buffer is made of it again. -/
def storeStandIn (k : BitVec 16) (q : Pic) (layer w h : Nat) (s : State) : State :=
  let d := decDie k
  let held := heldPic (s.dec k) layer w h
  forAll q.bufs (fun b s =>
    let bw := sizeDim w b.size.toNat
    let bh := sizeDim h b.size.toNat
    let bytes := match held with
      | none => bufferBytes bw bh fun _ _ _ => 512
      | some p => match p.bufs.find? (·.size == b.size) with
        | some o => loadBuf s d bw bh o
        | none => bufferBytes bw bh fun plane x y => (Config.picSample p.content b.size.toNat plane x y).toNat
    storeBuf d b bytes s) s

/-! ## Decoding (09 R207 to R210) -/

/-- A fence counts one more (10 R229). -/
def fenceUp (d : Nat) (f : Option Nat) (s : State) : State :=
  match f with
  | some i => s.modDie d fun x => { x with gal := { x.gal with fence := tmod 0 x.gal.fence i (· + 1) } }
  | none => s

/-- The faults that a decoded picture shows: a bitstream fault 0x0902, an unsupported tool or an exceeded limit 0x0903. -/
def picFaults (k : BitVec 16) (bs unsup : Bool) (s : State) : State :=
  let d := decDie k
  let s := if bs then raiseOnce d (decReq k) 0x0902 (k.setWidth 64) (k.setWidth 64)
    (vdcEv d 1 (vdcCnt d 2 (s.modDec k fun x => { x with bsErr := x.bsErr + 1 }))) else s
  if unsup then raiseOnce d (decReq k) 0x0903 (k.setWidth 64) (k.setWidth 64)
    (vdcEv d 2 (vdcCnt d 3 (s.modDec k fun x => { x with unsup := x.unsup + 1 }))) else s

/-- References that were never decoded are replaced by stand-ins: STANDIN, VDC_CNT 1, error 0x0901; the layer breaks. -/
def useStandIns (k : BitVec 16) (n : Nat) (sp t : Nat) (s : State) : State :=
  let d := decDie k
  let x := s.dec k
  if n = 0 then s
  else
    let s := forAll (List.range n) (fun _ s => vdcCnt d 1 s) (s.modDec k fun x => { x with standinCnt := x.standinCnt + BitVec.ofNat 32 n })
    let s := raiseOnce d (decReq k) 0x0901 (k.setWidth 64) (k.setWidth 64) (vdcEv d 0 s)
    breakLayer x.leg sp t s

/-- Whether a picture without error is a refresh (09 R210): IDR, IRAP and shown key frames; a CRA with RASL pictures unless it was
decoded after a stand-in and one of them is output; the picture that a recovery point SEI names, with no new stand-in since. -/
def isRefresh (x : DecCtx) (n : Nat) (p : PicInfo) : Bool :=
  p.refresh || (p.cra && (!x.stoodIn || !p.raslOut)) || (p.recovery && (p.sei || x.sinceSei) && n == 0)

/-- PICTURE_DECODE_DONE: the oldest picture in decoding completes: late where its interval has passed, errors and stand-ins, taint,
refresh, the stand-in hold, the reference set, a bound fence. An erroneous picture is no refresh, as what stands in its place is
not what the sender coded (log 146). -/
def execPictureDecodeDone (ctx : BitVec 16) (p : PicInfo) (s : State) : Host.Outcome State Fault Refusal :=
  let x := s.dec ctx
  let d := decDie ctx
  match x.state == .opened, x.pics.find? (fun q => !q.done) with
  | true, some q =>
    let ssrc := rxVideoSsrc (s.legLive x.leg) x.stream.toNat
    let overdue := !q.late && if standsBy s then ledgerPicture s ctx q.ts 1 else decide ((ctxInterval x : Int) < stampDiff s.clk q.released)
    let s := if overdue then markLate ctx q s else s
    let unsup := picUnsupported (s.legLive x.leg).rxVc x p
    let s := if p.c2Ok then s else checkFail d (decReq ctx) 0x0506 x.leg 0 s
    let bad := p.bsError || unsup || !p.c2Ok || x.badRef
    let absent := p.refs.filter fun r => !x.pics.any fun y => y.pid == r && y.done
    let n := if p.missingRefs then max 1 absent.length else absent.length
    let refTaint := x.pics.any fun y => p.refs.contains y.pid && y.taint
    let refresh := isRefresh x n p && !bad
    let taint := (bad || n != 0 || refTaint) && !refresh
    let s := picFaults ctx p.bsError unsup s
    let s := useStandIns ctx n p.spatial.toNat p.temporal.toNat s
    let s := if bad || n ≠ 0 then keyframeRequest x.leg ssrc s else s
    let s := if refresh then clearKf x.leg ssrc s else s
    let w := if unsup then min p.width x.maxW.toNat else p.width
    let h := if unsup then min p.height x.maxH.toNat else p.height
    let s := if bad then storeStandIn ctx q p.spatial.toNat w h s else forAll q.bufs (fun b s =>
      storeBuf d b (bufferBytes (sizeDim w b.size.toNat) (sizeDim h b.size.toNat) (decodedSample p q.content b.size.toNat)) s) s
    let done : Pic := { q with width := w, height := h, spatial := p.spatial, temporal := p.temporal, taint := taint, standin := bad,
                               inRefs := p.isRef, done := true, doneAt := s.clk }
    let mp := s.mpNo d
    let cores := max 1 (min p.cores.toNat (min 4 (codecCores s d 1)))
    let s := s.modDec ctx fun x => { x with
      pics := x.pics.map fun y => if y.pid = q.pid then { done with late := y.late } else { y with inRefs := !y.done || p.keeps.contains y.pid }
      holds := if bad || taint then x.holds else tins x.holds p.spatial.toNat (some q.pid)
      stoodIn := if refresh then false else x.stoodIn || n != 0
      sinceSei := n == 0 && !bad && (p.sei || x.sinceSei)
      badRef := false
      tainted := taint, cores := BitVec.ofNat 3 cores, lastW := BitVec.ofNat 16 w, lastH := BitVec.ofNat 16 h, profile := p.profile,
      picCnt := x.picCnt + 1, taintCnt := if taint then x.taintCnt + 1 else x.taintCnt
      lastRefresh := if refresh then BitVec.ofNat 64 mp else x.lastRefresh }
    .next (trimPics ctx (fenceUp d x.fence (vdcCnt d 0 s)))
  | _, _ => .next s

/-- The block check of a 64-line stripe of a context's newest picture fails at a consumer: the picture counts as missing and
a stand-in takes its place (05 R117, R118). -/
def stripeFail (k : BitVec 16) (stripe : Nat) (s : State) : State :=
  let x := s.dec k
  match (x.pics.filter (·.done)).getLast? with
  | none => s
  | some p =>
    if x.state ≠ .opened || p.height ≤ 64 * stripe then s
    else
      let s := blockFail (decDie k) (decReq k) x.leg s
      let s := useStandIns k 1 p.spatial.toNat p.temporal.toNat s
      let s := keyframeRequest x.leg (rxVideoSsrc (s.legLive x.leg) x.stream.toNat) s
      let s := if (heldPic x p.spatial.toNat p.width p.height).any (·.pid == p.pid) then s
        else storeStandIn k p p.spatial.toNat p.width p.height s
      s.modDec k fun x => { x with
        tainted := true, stoodIn := true, sinceSei := false
        pics := x.pics.map fun q => if q.pid = p.pid then { q with taint := true, standin := true } else q }

/-- A picture that a consumer holds: of its context, or kept since that closed. -/
def findPic (s : State) (k : BitVec 16) (pid : Nat) : Option Pic :=
  ((s.dec k).pics.find? (·.pid == pid)).orElse fun _ => ((s.die (decDie k)).vdc.kept.find? fun e => e.1 == k && e.2.pid == pid).map (·.2)

/-! ## The boundary (09 R199, R214) -/

/-- The decode report of a context at boundary `b`, Table 9.5. -/
def decReport (s : State) (k : BitVec 16) (b : Nat) (x : DecCtx) : List Word :=
  let st : BitVec 2 := match x.state with | .closed => 0 | .opened => 1 | .moved => 2
  let full (p : Pic) : Option (Pic × PicBuf) := (p.bufs.find? (·.size == 0)).map fun f => (p, f)
  let last := ((x.pics.filter (·.done)).filterMap full).getLast?
  let marks : Word := match last with
    | some (p, f) => put k 0 ||| put (BitVec.ofNat 8 f.refcnt) 16 ||| put f.size 24 ||| put p.spatial 26 ||| put p.temporal 28 ||| putB p.taint 30 |||
        putB p.standin 31 ||| putB p.late 32 ||| putB f.borrowed 33
    | none => 0
  let addr : Word := match last with | some (_, f) => BitVec.ofNat 64 (devAddr (decDie k) (slotOffset s (decDie k) f.slot)) | none => 0
  [BitVec.ofNat 64 b, put x.leg 0 ||| put st 16 ||| putB x.tainted 18 ||| put x.cores 19 ||| put x.movedTo 32,
   put x.lastW 0 ||| put x.lastH 16 ||| put x.profile 32, put x.picCnt 0 ||| put x.lateCnt 32, put x.standinCnt 0 ||| put x.taintCnt 32,
   put x.bsErr 0 ||| put x.unsup 32, put x.noBuf 0 ||| put x.borrowed 32, put x.kfSent 0 ||| put x.kfSuppressed 32, x.lastRefresh, addr,
   marks, 0, 0, 0, 0, BitVec.ofNat 64 b]

/-- The boundary work of the decode contexts of a die: commanded closes, and the reports. -/
def decBoundary (d b : Nat) (s : State) : State :=
  let s := forAll ((s.openDecs d).filter fun k => (s.dec k).closing) (fun k s => closeDec k none s) s
  s.modDie d fun x => { x with vdc := { x.vdc with ctx := x.vdc.ctx.map fun e => (e.1, { e.2 with pub := decReport s (ctxHandle d e.1) b e.2 }) } }

end Sys2Proof.Machine
end

