-- ==== Sys2Proof/Machine/Analysis.lean ====
section
/-! DEFINITION. The analysis of a source picture, the vectors of its rungs, and what a tile stream's vectors may point to (11 R245 to
R249). -/

namespace Sys2Proof.Machine

/-! ## Vectors (11 R245, R246, R249) -/

/-- A vector component in quarter pels as whole pels, nearest, ties away from zero (log 148). -/
def roundPel (v : Int) : Int := if v < 0 then -((2 - v) / 4) else (v + 2) / 4

/-- A candidate rounded to integer pel and clipped to ±256 horizontally and ±128 vertically, in quarter pels. -/
def candidateVec (v : Int × Int) : Int × Int := (4 * clampI (-256) 256 (roundPel v.1), 4 * clampI (-128) 128 (roundPel v.2))

/-- A component divided by `n`, rounded to nearest, ties away from zero (11 R245). -/
def divAway (v : Int) (n : Nat) : Int := if v < 0 then -((2 * -v + n) / (2 * n)) else (2 * v + n) / (2 * n)

/-- Whether the samples that a run of `n` positions from `x` needs, displaced by `v` units of 1/`frac` sample, lie in 0 to `size` - 1: the run
alone at a whole displacement, else with a margin of `before` samples before it and `after` after it. -/
def spanInside (x n size : Nat) (v : Int) (frac before after : Nat) : Bool :=
  let a : Int := (x : Int) + v / (frac : Int)
  if v % (frac : Int) = 0 then decide (0 ≤ a) && decide (a + n - 1 < size)
  else decide (0 ≤ a - before) && decide (a + n - 1 + after < size)

/-- Whether a luma block of `n` × `n` at (x, y) and its chroma, predicted by a vector, need samples of the picture only (11 R249): luma with a
margin of 3 before and 4 after, chroma of 1 and 2, in the directions that have a fraction. -/
def vecInside (w h x y n : Nat) (v : Int × Int) : Bool :=
  spanInside x n w v.1 4 3 4 && spanInside y n h v.2 4 3 4 &&
    spanInside (x / 2) (n / 2) ((w + 1) / 2) v.1 8 1 2 && spanInside (y / 2) (n / 2) ((h + 1) / 2) v.2 8 1 2

/-- The element of least cost, the earliest of equals. -/
def leastBy {α : Type} (cost : α → Nat) : List α → Option α
  | [] => none
  | a :: l => match leastBy cost l with
    | none => some a
    | some b => if cost b < cost a then some b else some a

/-- The square of displacements of up to `n` steps of `step` quarter pels, its centre first, then by rows. -/
def squareSearch (n : Nat) (step : Int) (v : Int × Int) : List (Int × Int) :=
  let span : List Int := (List.range (2 * n + 1)).map fun (i : Nat) => ((i : Int) - n) * step
  v :: span.flatMap fun dy => span.map fun dx => (v.1 + dx, v.2 + dy)

/-- One step of a refinement: the least of the allowed vectors of the square, the centre where none is less. -/
def refineStep (cost : Int × Int → Nat) (ok : Int × Int → Bool) (n : Nat) (step : Int) (v : Int × Int) : Int × Int :=
  (leastBy cost ((squareSearch n step v).filter ok)).getD v

/-- A candidate's refinement: ±2 pels square, ±1 half-pel, ±1 quarter-pel. -/
def refineVec (cost : Int × Int → Nat) (ok : Int × Int → Bool) (v : Int × Int) : Int × Int :=
  refineStep cost ok 1 1 (refineStep cost ok 1 2 (refineStep cost ok 2 4 v))

/-! ## The analysis (11 R245, R246) -/

/-- What the analysis of a picture works on: its size in samples, the cost of a block's vector beside those of its neighbours, the vectors a
block may take, the intra cost, the candidates 2 and 3 of a block, and the analysis of the previous picture. -/
structure AnaJob where
  w : Nat
  h : Nat
  cost : Nat → Nat → List (Int × Int) → Int × Int → Nat
  ok : Nat → Nat → Int × Int → Bool
  intra : Nat → Nat → Nat
  extra : Nat → Nat → List (Int × Int)
  prev : List BlockMotion

/-- Blocks of 16 samples that a length takes. -/
def blocks16 (n : Nat) : Nat := (n + 15) / 16

/-- Left, above and above-right blocks of block (bx, by_) of a picture `cols` blocks wide, inside the picture. -/
def nearVecs (cols bx by_ : Nat) (done : List BlockMotion) : List (Int × Int) :=
  let at_ (x y : Nat) : List (Int × Int) := match done[y * cols + x]? with | some b => [b.vec] | none => []
  (if 0 < bx then at_ (bx - 1) by_ else []) ++ (if 0 < by_ then at_ bx (by_ - 1) else []) ++
    (if 0 < by_ && bx + 1 < cols then at_ (bx + 1) (by_ - 1) else [])

/-- The candidates of Table 11.4 for a block, in order, rounded and clipped, of those that it may take. -/
def candidates (j : AnaJob) (bx by_ : Nat) (done : List BlockMotion) : List (Int × Int) :=
  let cols := blocks16 j.w
  let before : List (Int × Int) := match j.prev[by_ * cols + bx]? with | some b => [b.vec] | none => []
  (([(0, 0)] ++ j.extra bx by_ ++ nearVecs cols bx by_ done ++ before).map candidateVec).filter (j.ok bx by_)

/-- A block: the two candidates of lowest cost are refined, and the lower of the two results is its vector. -/
def analyseBlock (j : AnaJob) (done : List BlockMotion) (i : Nat) : List BlockMotion :=
  let cols := blocks16 j.w
  let bx := i % cols
  let by_ := i / cols
  let cost := j.cost bx by_ (nearVecs cols bx by_ done)
  let cs := candidates j bx by_ done
  let first := leastBy cost cs
  let second := leastBy cost (match first with | some v => cs.erase v | none => [])
  let vec := (leastBy cost (([first, second].filterMap id).map (refineVec cost (j.ok bx by_)))).getD (0, 0)
  done ++ [{ vec := vec, inter := cost vec, intra := j.intra bx by_ }]

/-- The analysis of a picture, block by block in raster order. -/
def analyse (j : AnaJob) : List BlockMotion := (List.range (blocks16 j.w * blocks16 j.h)).foldl (analyseBlock j) []

/-! ## Rungs (11 R245) -/

/-- One pass of the 2:1 downscale of a line: (1, 3, 3, 1) ÷ 8, rounded to nearest with ties up, edge samples repeated. -/
def halveAt (n : Nat) (f : Nat → Nat) (x : Nat) : Nat :=
  let g (k : Int) : Nat := f (clampI 0 ((n : Int) - 1) k).toNat
  (g (2 * x - 1) + 3 * g (2 * x) + 3 * g (2 * x + 1) + g (2 * x + 2) + 4) / 8

/-- A plane downscaled `k` times by 2:1, horizontally, then vertically. -/
def downscale : Nat → Nat → Nat → (Nat → Nat → Nat) → Nat → Nat → Nat
  | 0, _, _, f => f
  | k + 1, w, h, f => fun x y =>
    let g := downscale k w h f
    halveAt (sizeDim h k) (fun row => halveAt (sizeDim w k) (fun col => g col row) x) y

/-- The vectors of a rung's 16 × 16 blocks: of the analysis blocks that lie under a block, each vector scaled by 2^-s is a candidate, and
the least is refined by ±1 quarter-pel in the rung's own picture. -/
def rungVectors (w h sc : Nat) (srcCols : Nat) (motion : List BlockMotion) (cost : Nat → Nat → Int × Int → Nat) (ok : Nat → Nat → Int × Int → Bool) :
    List (Int × Int) :=
  let cols := blocks16 w
  (List.range (cols * blocks16 h)).map fun i =>
    let bx := i % cols
    let by_ := i / cols
    let under := (List.range (2 ^ sc)).flatMap fun dy => (List.range (2 ^ sc)).filterMap fun dx =>
      if bx * 2 ^ sc + dx < srcCols then motion[(by_ * 2 ^ sc + dy) * srcCols + bx * 2 ^ sc + dx]? else none
    let cs := ((under.map fun b => (divAway b.vec.1 (2 ^ sc), divAway b.vec.2 (2 ^ sc)))).filter (ok bx by_)
    match leastBy (cost bx by_) cs with
    | some v => refineStep (cost bx by_) (ok bx by_) 1 1 v
    | none => (0, 0)

/-- The skip candidate of a unit of a dry row: the least SAD of those allowed, ties to the lower index (11 R255). -/
def skipChoice (cands : List (Option (Int × Int))) (sad : Int × Int → Nat) (ok : Int × Int → Bool) : Int × Int :=
  (leastBy sad ((cands.filterMap id).filter ok)).getD (0, 0)

end Sys2Proof.Machine
end

