-- ==== Sys2Proof/Machine/Encode.lean ====
section
/-! DEFINITION. Video encoding: contexts and their loads, rate control, dry rows, intra pictures (chapter 11). -/

namespace Sys2Proof.Machine

/-! ## Loads (11 R242, R245) -/

/-- Pixel rate of a size at a frame rate. -/
def pixRate (w h fps : Nat) : Nat := 4096 * (blocks64 w * blocks64 h) * fps

/-- Coded size of a dimension downscaled `sc` times, rounded up to even. -/
def rungDim (n sc : Nat) : Nat := ((n + 2 ^ sc - 1) / 2 ^ sc + 1) / 2 * 2

/-- Sum of the pixel rates of rungs of given scales. -/
def rungsPix (w h fps : Nat) (scales : List Nat) : Nat :=
  (scales.map fun sc => pixRate (rungDim w sc) (rungDim h sc) fps).foldl (· + ·) 0

/-- Coding and analysis load in hundredths of a pixel/s, and the class 1 estimate in bytes/s. -/
def encLoad (w h fps : Nat) (scales : List Nat) : Nat := 35 * rungsPix w h fps scales
def anaLoad (w h fps : Nat) : Nat := 65 * pixRate w h fps
def encBw (w h fps : Nat) (scales : List Nat) : Nat := (60 * pixRate w h fps + 105 * rungsPix w h fps scales + 15) / 16

/-- ENC_CAP and ANA_CAP of a die in hundredths of a pixel/s: 90 % of 500 Mpixel/s for each core of the role. -/
def encCap (s : State) (d : Nat) : Nat := 45000000000 * codecCores s d 2
def anaCap (s : State) (d : Nat) : Nat := 45000000000 * codecCores s d 3

/-- Where the analysis load counts: against ENC_CAP on a die without analysis cores. -/
def splitLoad (s : State) (d enc ana : Nat) : Nat × Nat := if anaCap s d = 0 then (enc + ana, 0) else (enc, ana)

/-- Whether the encode capacity of a die takes an added load. -/
def encFits (s : State) (d enc ana : Nat) : Bool :=
  let (e, a) := splitLoad s d enc ana
  decide ((s.die d).ven.encUse + e ≤ encCap s d) && decide ((s.die d).ven.anaUse + a ≤ anaCap s d)

/-- Adds to, or takes from, the admitted encode load and the class 1 load. -/
def encAdd (d enc ana bw : Nat) (s : State) : State :=
  let (e, a) := splitLoad s d enc ana
  bwAdd d 1 bw (s.modDie d fun x => { x with ven := { x.ven with encUse := x.ven.encUse + e, anaUse := x.ven.anaUse + a } })
def encSub (d enc ana bw : Nat) (s : State) : State :=
  let (e, a) := splitLoad s d enc ana
  bwSub d 1 bw (s.modDie d fun x => { x with ven := { x.ven with encUse := x.ven.encUse - e, anaUse := x.ven.anaUse - a } })

/-! ## Opening and closing (11 R241) -/

/-- Requester ID of the core that encodes a context. -/
def encReq (c : BitVec 16) : Byte := codecReq (Config.contextCore true c).toNat

/-- A free encode context index of a die: one that is closed, else one that shows MOVED (log 144). -/
def freeEnc (s : State) (d : Nat) : Option Nat :=
  let at_ (st : CtxState) : Option Nat := findIdx (fun i => (tget {} (s.die d).ven.ctx i).state == st) 256 0
  (at_ .closed).orElse fun _ => at_ .moved

/-- Opens a context at index `i` of a die, and closes one. -/
def openEnc (d i : Nat) (x : EncCtx) (s : State) : State :=
  encAdd d x.loadEnc x.loadAna x.loadBw (s.modDie d fun y => { y with ven := { y.ven with ctx := tset {} y.ven.ctx i x } })
def closeEnc (c : BitVec 16) (moved : Option (BitVec 16)) (s : State) : State :=
  let x := s.enc c
  let s := encSub (encDie c) x.loadEnc x.loadAna x.loadBw s
  s.modEnc c fun x => match moved with
    | some t => { x with state := .moved, movedTo := t, closing := false, running := false, loadEnc := 0, loadAna := 0, loadBw := 0 }
    | none => {}

/-- Whether a function owns what a source handle of ENC_OPEN names. -/
def ownsSource (s : State) (f : Nat) (kind : Bool) (src : BitVec 16) : Bool :=
  isPf f || if kind then ownsLeg s f (s.dec src).leg else (s.lay src).alloc == some f

/-- Whether a function owns an encode context. -/
def ownsEnc (s : State) (f : Nat) (c : BitVec 16) : Bool := isPf f || ownsSource s f ((s.enc c).kind == 1) (s.enc c).source

/-- The rung that an argument word of ENC_OPEN gives. -/
def rungArg (w : Word) : Rung := { rate := fld w 0 24, rateCmd := fld w 0 24, scale := fld w 24 2, follow := fld w 32 16 }

/-- Whether a mode allows a codec and its rungs' scales, Table 11.3. -/
def modeOk (mode codec : Nat) (scales : List Nat) : Bool :=
  if mode ≤ 2 then true
  else if mode = 3 then codec == 3 && scales == [0, 1]
  else if mode = 4 then codec == 3 && scales == [0, 1, 2]
  else false

/-- Whether scales begin at 0 and do not decrease. -/
def scalesOk (l : List Nat) : Bool := l.head? == some 0 && (l.zip (l.drop 1)).all fun e => decide (e.1 ≤ e.2)

/-- Levels 3.1 to 5.1 of a codec, times 10: luma picture size, luma samples per second and kb/s that each allows (Main tier; AVC High).
The figures are those of the coding standards (log 145). -/
def encLevels (codec : Nat) : List (Nat × Nat × Nat × Nat) :=
  if codec = 1 then [(31, 921600, 27648000, 17500), (32, 1310720, 55296000, 25000), (40, 2097152, 62914560, 25000), (41, 2097152, 62914560, 62500),
    (42, 2228224, 133693440, 62500), (50, 5652480, 150994944, 168750), (51, 9437184, 251658240, 300000)]
  else if codec = 2 then [(31, 983040, 33177600, 10000), (40, 2228224, 66846720, 12000), (41, 2228224, 133693440, 20000),
    (50, 8912896, 267386880, 25000), (51, 8912896, 534773760, 40000)]
  else [(31, 1065024, 31950720, 10000), (40, 2359296, 70778880, 12000), (41, 2359296, 141557760, 20000), (50, 8912896, 267386880, 30000),
    (51, 8912896, 534773760, 40000)]

/-- The level of a rung: the lowest that covers its size, sample rate and RATE; none beyond level 5.1 (11 R243). -/
def rungLevel (codec w h fps : Nat) (r : Rung) : Option Nat :=
  let u := if codec = 1 then 16 else 1
  let px := (rungDim w r.scale.toNat + u - 1) / u * u * ((rungDim h r.scale.toNat + u - 1) / u * u)
  ((encLevels codec).find? fun e => decide (px ≤ e.2.1) && decide (px * fps ≤ e.2.2.1) && decide (r.rate.toNat ≤ e.2.2.2)).map (·.1)

/-- Whether a rung of a source has a level, at least 64 pixels a side and a RATE in range (11 R241, R243, R245). -/
def rungOk (codec w h fps : Nat) (r : Rung) : Bool :=
  decide (64 ≤ rungDim w r.scale.toNat) && decide (64 ≤ rungDim h r.scale.toNat) && (rungLevel codec w h fps r).isSome && decide (32 ≤ r.rate.toNat) &&
    decide (r.rate.toNat ≤ 65535)

/-- The context that ENC_OPEN's arguments describe; the loads are those of its source. -/
def encArgs (s : State) (c : Cmd) : EncCtx :=
  let kind := bit c.w1 16
  let src := argOf c
  let n := fldN c.w1 23 2 + 1
  let args := ([c.w2, c.w3, c.w4, c.w5].take n).map rungArg
  let scales := args.map (·.scale.toNat)
  let w := if kind then (s.dec src).maxW.toNat else (s.layLive src).width
  let h := if kind then (s.dec src).maxH.toNat else (s.layLive src).height
  let fps := fldN c.w1 32 8
  let rungs := args.map fun r => { r with level := (rungLevel (fldN c.w1 17 2) w h fps r).getD 51 }
  { state := .opened, source := src, kind := if kind then 1 else 0, codec := fld c.w1 17 2, main10 := bit c.w1 19, mode := fld c.w1 20 3,
    fps := fld c.w1 32 8, keyInt := fld c.w1 40 8, buf := fld c.w1 48 8, width := w, height := h, rungs := rungs,
    loadEnc := encLoad w h fps scales, loadAna := anaLoad w h fps, loadBw := encBw w h fps scales }

/-- Whether the arguments of a context are valid: the source, the field ranges, R243 to R245. -/
def encArgsOk (s : State) (c : Cmd) (x : EncCtx) : Bool :=
  let n := x.rungs.length
  let scales := x.rungs.map (·.scale.toNat)
  let fps := x.fps.toNat
  let srcOk :=
    if x.kind = 1 then decOk s x.source && (s.dec x.source).state == .opened && decide (1 ≤ fps) && decide (fps ≤ (s.dec x.source).maxFps.toNat)
    else s.layOn x.source && !(s.lay x.source).kind && fps == (s.layLive x.source).fps && (galleryCtx s x.source x.codec.toNat).isNone
  srcOk && x.codec != 0 && !(x.main10 && x.codec == 1) && x.buf != 0 && only c.w1 0x00FFFFFF01FFFFFF &&
    ([c.w2, c.w3, c.w4, c.w5].take n).all (fun w => only w 0x0000FFFF03FFFFFF) && scalesOk scales &&
    modeOk x.mode.toNat x.codec.toNat scales && x.rungs.all (fun r => rungOk x.codec.toNat x.width x.height fps r && (r.follow == noId || legIdOk s r.follow))

/-- ENC_OPEN: checked in the order DENIED, INVALID, DRAINING, BUDGET, CAPACITY. -/
def execEncOpen (c : Cmd) (s : State) : Host.Outcome State Fault Refusal :=
  .next (runCmd 0x90 c (fun s =>
    let x := encArgs s c
    let d := encDie x.source
    if !ownsSource s c.func (x.kind == 1) x.source then (.st 4, s)
    else if !encArgsOk s c x then (.st 2, s)
    else if (s.die d).str.draining then (.st 6, s)
    else if !bwFits s d 1 x.loadBw then (.st 3, s)
    else match encFits s d x.loadEnc x.loadAna, freeEnc s d with
      | true, some i => (.done 0 (ctxHandle d i) 0 0, openEnc d i x s)
      | _, _ => (.st 7, s)) s)

/-- The checks of a command on an encode context: DENIED, then INVALID for a handle that names no context a host opened. -/
def onEnc (c : Cmd) (ok : EncCtx → Bool) (body : State → State) (s : State) : Reply × State :=
  let k := argOf c
  if !ownsEnc s c.func k then (.st 4, s)
  else if !encOk s k || (s.enc k).state ≠ .opened || (s.enc k).kind = 2 || !ok (s.enc k) then (.st 2, s)
  else (.st 0, body s)

/-- ENC_CLOSE: closed at the next picture boundary. -/
def execEncClose (c : Cmd) (s : State) : Host.Outcome State Fault Refusal :=
  .next (runCmd 0x91 c (onEnc c (fun _ => only c.w1 0xFFFF) fun s => s.modEnc (argOf c) fun x => { x with closing := true }) s)

/-- ENC_RATE: a RATE of 0 leaves its rung; a change applies from the first picture boundary at least 1 MP away (R257). -/
def execEncRate (c : Cmd) (s : State) : Host.Outcome State Fault Refusal :=
  let ws := [c.w2, c.w3, c.w4, c.w5]
  .next (runCmd 0x92 c (onEnc c (fun x => only c.w1 0xFFFF && (List.range 4).all fun k =>
      let w := ws.getD k 0
      w == 0 || (decide (k < x.rungs.length) && only w 0xFFFFFF && decide (32 ≤ w.toNat) && decide (w.toNat ≤ 65535)))
    fun s => forAll ((List.range 4).filter fun k => ws.getD k 0 != 0) (fun k s =>
      s.modEnc (argOf c) (modRung k fun r => { r with rateNext := some (fld (ws.getD k 0) 0 24, s.clk) })) s) s)

/-- ENC_KEY: an intra request for the rungs of a mask (R252). -/
def execEncKey (c : Cmd) (s : State) : Host.Outcome State Fault Refusal :=
  .next (runCmd 0x93 c (onEnc c (fun x => only c.w1 0xFFFFF && decide (fldN c.w1 16 4 < 2 ^ x.rungs.length)) fun s =>
    intraRequest (argOf c) (fldN c.w1 16 4) s) s)

/-! ## Rate control (11 R244, R254, R257) -/

/-- Budget weights in quarters and temporal layers of a mode, by phase, Table 11.3. -/
def modeWeights (mode : Nat) : List Nat := if mode = 0 then [4] else if mode = 1 then [5, 3] else [6, 3, 4, 3]
def modeTl (mode : Nat) : List Nat := if mode = 0 then [0] else if mode = 1 then [0, 1] else [0, 2, 1, 2]

/-- Buffer of a rung in bits. -/
def rungBuf (x : EncCtx) (r : Rung) : Int := (r.rate.toNat * x.buf.toNat * 10 : Nat)

/-- The start of a picture of a rung: drain, budget and cap. -/
def rcBegin (x : EncCtx) (capX w : Nat) (r : Rung) : Rung :=
  let num := 1000 * r.rate.toNat + r.rem
  let drain := num / x.fps.toNat
  let b : Int := max ((drain / 4 : Nat) : Int) (((drain * w / 4 : Nat) : Int) + (rungBuf x r / 2 - r.full) / 8)
  { r with drain := drain, rem := num % x.fps.toNat, budget := max 0 (b - r.debt), debt := 0,
           cap := max 0 (min (rungBuf x r - r.full) ((capX * drain * w / 4 : Nat) : Int)) }

/-- The end of a picture of a rung. -/
def rcEnd (bits : Nat) (r : Rung) : Rung :=
  { r with full := max 0 (r.full + (bits : Int) - (r.drain : Int)), debt := max 0 ((bits : Int) - r.cap) }

/-- The rate that a rung takes at a picture boundary: a commanded rate, or the FOLLOW leg's target less its audio rate,
each once it has stood for 1 MP; F is clipped to the new buffer. -/
def takeRate (s : State) (x : EncCtx) (r : Rung) : Rung :=
  let due := match r.rateNext with | some (_, t) => decide ((unitsMp : Int) ≤ stampDiff s.clk t) | none => false
  let cmd := match due, r.rateNext with | true, some (v, _) => v | _, _ => r.rateCmd
  let t := (s.leg r.follow).tx
  let target := if (unitsMp : Int) ≤ stampDiff s.clk t.targetAt then t.target else t.targetPrev
  let rate := if r.follow = noId || !s.legOpen r.follow then cmd else
    BitVec.ofNat 24 (min cmd.toNat (target - (s.legLive r.follow).txAbr))
  let r' := { r with rate := rate, rateCmd := cmd, rateNext := if due then none else r.rateNext }
  { r' with full := if rate = r.rate then r.full else min r.full (rungBuf x r') }

/-! ## Coding (11 R245, R255, R256) -/

/-- What coding the rows of a part has come to; `dryFrom`, its first dry row. -/
structure RowAcc where
  used : Nat := 0
  dry : Bool := false
  dryFrom : Option Nat := none
  dryRows : Nat := 0
  late : Bool := false
  qps : List Nat := []
  deriving DecidableEq, Repr

/-- One part of a coded picture: its first row and column of units, its rows, units per row, and shares of budget and cap. -/
structure CodePart where
  index : Nat
  first : Nat
  col : Nat
  rows : Nat
  units : Nat
  budget : Int
  cap : Int
  deriving DecidableEq, Repr

/-- What the coding of a rung's picture depends on (11 R247): the context's parameters with the rung's rate-control state, the names of its
coding history and of its source picture, the vectors of its blocks, and the cost of a row of a part in the analysis. -/
structure CodeEnv where
  codec : Nat
  params : List Int
  hist : BitVec 64
  src : BitVec 64
  vectors : CodePart → Nat → List (Int × Int)
  cost : CodePart → Nat → Nat

/-- Height of a row, and the largest QP, of a codec. -/
def rowLines (codec : Nat) : Nat := if codec = 1 then 16 else 64
def maxQp (codec : Nat) : Nat := if codec = 3 then 255 else 51

/-- How many cores a picture is split across: the fewest of 1, 2 and 4 that bring each part below 450 Mpixel/s. -/
def coreParts (pix : Nat) : Nat := if pix ≤ 450000000 then 1 else if pix / 2 < 450000000 then 2 else 4

/-- A part's share of a figure, in proportion to its units. -/
def share (v : Int) (n all : Nat) : Int := v * (n : Int) / (all : Int)

/-- The parts of a rung's picture: tile columns, or for AVC slices of whole macroblock rows; the cap and the budget are
divided in proportion to the units. -/
def codeParts (x : EncCtx) (r : Rung) : List CodePart :=
  let w := rungDim x.width r.scale.toNat
  let h := rungDim x.height r.scale.toNat
  let u := rowLines x.codec.toNat
  let cols := (w + u - 1) / u
  let rows := (h + u - 1) / u
  let n := coreParts (pixRate w h x.fps.toNat)
  (List.range n).map fun (j : Nat) =>
    if x.codec = 1 then
      let a := rows * j / n
      let b := rows * (j + 1) / n
      { index := j, first := a, col := 0, rows := b - a, units := cols, budget := share r.budget (b - a) rows,
        cap := share r.cap (b - a) rows }
    else
      let a := cols * j / n
      let b := cols * (j + 1) / n
      { index := j, first := 0, col := a, rows := rows, units := b - a, budget := share r.budget (b - a) cols,
        cap := share r.cap (b - a) cols }

/-- The key of a row in the free figures of a picture: parts of one picture do not share rows. -/
def rowKey (p : CodePart) (i : Nat) : Nat := 4096 * p.index + p.first + i

/-- QP of a row: the base, moved by how far the bits used run from the plan. -/
def rowQp (e : CodeEnv) (p : CodePart) (i used : Nat) : Nat :=
  let figure (kind row : Nat) : Int := (Config.codingFigure kind e.params e.hist e.src row : Nat)
  let cost := (List.range p.rows).map (e.cost p)
  let all : Nat := cost.foldl (· + ·) 0
  let before : Nat := (cost.take i).foldl (· + ·) 0
  let plan : Int := if all = 0 then figure 5 (rowKey p i) else p.budget * (before : Int) / (all : Int)
  let q : Int := if p.budget = 0 then figure 4 (rowKey p i) else ((used : Int) - plan) * 8 / p.budget
  (clampI 0 (maxQp e.codec) (figure 3 0 + clampI (-3) 6 q)).toNat

/-- Bits of a dry row: at most 32 + 8 × units. -/
def dryBits (e : CodeEnv) (p : CodePart) (i : Nat) : Nat := min (32 + 8 * p.units) (Config.codingFigure 0 e.params e.hist e.src (rowKey p i))

/-- Codes row `i` of a part: staged and committed within the cap, else dry with every row after it; dry from the first
late row on. -/
def codeRow (e : CodeEnv) (p : CodePart) (late : Option Nat) (a : RowAcc) (i : Nat) : RowAcc :=
  let isLate := match late with | some r => decide (r ≤ p.first + i) | none => false
  let goDry (a : RowAcc) (budget : Bool) : RowAcc :=
    { a with used := a.used + dryBits e p i, dry := true, dryFrom := some (a.dryFrom.getD i), dryRows := a.dryRows + (if budget then 1 else 0),
             qps := maxQp e.codec :: a.qps }
  if a.dry then goDry a (!a.late)
  else if isLate then goDry { a with late := true } false
  else
    let qp := rowQp e p i a.used
    let bits := Config.rowBits e.params e.hist e.src (rowKey p i) (e.vectors p i) qp
    if ((a.used + bits : Nat) : Int) ≤ p.cap then { a with used := a.used + bits, qps := qp :: a.qps } else goDry a true

/-- Codes a part; the picture's headers count in the first one. -/
def codePart (e : CodeEnv) (late : Option Nat) (skip : Bool) (p : CodePart) : RowAcc :=
  let head := if p.index = 0 then Config.codingFigure 1 e.params e.hist e.src 0 else 0
  (List.range p.rows).foldl (codeRow e p late) { used := head, dry := skip || decide (p.cap < (head : Int)), late := skip }

/-- Whether a 16 × 16 block of a rung's picture lies in row `i` of a part. -/
def inRow (codec : Nat) (p : CodePart) (i x y : Nat) : Bool :=
  let u := rowLines codec
  y / u == p.first + i && decide (p.col ≤ x / u) && decide (x / u < p.col + p.units)

/-- The size of a rung's picture. -/
def rungW (x : EncCtx) (r : Rung) : Nat := rungDim x.width r.scale.toNat
def rungH (x : EncCtx) (r : Rung) : Nat := rungDim x.height r.scale.toNat

/-- Whether a rung may use a vector for a block of `n` × `n` at (x, y): any, but of a tile stream only one that stays inside the slot's
rectangle (11 R249). -/
def rungVecOk (x : EncCtx) (r : Rung) (px py n : Nat) (v : Int × Int) : Bool := x.kind != 2 || vecInside (rungW x r) (rungH x r) px py n v

/-- The parameters of a context and the rate-control state of a rung, on which its coded pictures depend. -/
def codeParams (x : EncCtx) (r : Rung) : List Int :=
  [x.kind.toNat, x.codec.toNat, if x.main10 then 1 else 0, x.mode.toNat, x.fps.toNat, x.width, x.height, r.scale.toNat, r.level, r.rate.toNat,
   x.buf.toNat, r.curPhase, if r.curIntra then 1 else 0, r.full, r.budget, r.cap]

/-- The vectors of a rung's blocks before any row is dry: those of the analysis, refined in the rung's own picture; none of an intra
picture. -/
def plannedVectors (x : EncCtx) (r : Rung) : List (Int × Int) :=
  if r.curIntra || x.skipping then []
  else
    let qp := Config.codingFigure 3 (codeParams x r) r.hist r.src 0
    rungVectors (rungW x r) (rungH x r) r.scale.toNat (blocks16 x.width) x.analysis
      (fun bx by_ v => Config.interSatd r.src r.hist bx by_ v + Config.lambda qp * Config.vectorBits v [])
      (fun bx by_ v => rungVecOk x r (16 * bx) (16 * by_) 16 v)

/-- What the coding of a rung's running picture depends on. A row's cost is the sum of min(inter, intra) over the analysis blocks that
lie in it. -/
def codeEnv (x : EncCtx) (r : Rung) (vecs : List (Int × Int)) : CodeEnv :=
  let cols := blocks16 (rungW x r)
  let srcCols := blocks16 x.width
  { codec := x.codec.toNat, params := codeParams x r, hist := r.hist, src := r.src
    vectors := fun p i => ((List.range vecs.length).filter fun b => inRow x.codec.toNat p i (16 * (b % cols)) (16 * (b / cols))).filterMap fun b => vecs[b]?
    cost := fun p i => (((List.range x.analysis.length).filter fun b =>
      inRow x.codec.toNat p i (16 * (b % srcCols) / 2 ^ r.scale.toNat) (16 * (b / srcCols) / 2 ^ r.scale.toNat)).filterMap fun b =>
        (x.analysis[b]?).map fun m => min m.inter m.intra).foldl (· + ·) 0 }

/-- Vectors of a rung's blocks as coded: in a dry row those of the units' skip candidates (11 R255). -/
def codedVectors (x : EncCtx) (r : Rung) (vecs : List (Int × Int)) (parts : List (CodePart × RowAcc)) : List (Int × Int) :=
  let cols := blocks16 (rungW x r)
  let u := rowLines x.codec.toNat
  let ps := codeParams x r
  let dryAt (px py : Nat) : Bool := parts.any fun e => match e.2.dryFrom with
    | some i => (List.range (e.1.rows - i)).any fun j => inRow x.codec.toNat e.1 (i + j) px py
    | none => false
  if r.curIntra && !parts.any (·.2.dry) then []
  else (List.range (cols * blocks16 (rungH x r))).map fun b =>
    let px := 16 * (b % cols)
    let py := 16 * (b / cols)
    if dryAt px py then
      skipChoice ((List.range (if x.codec = 2 then 5 else 1)).map (Config.skipVector ps r.hist r.src (px / u) (py / u)))
        (Config.skipSad ps r.hist r.src (px / u) (py / u)) (rungVecOk x r (px / u * u) (py / u * u) u)
    else (vecs[b]?).getD (0, 0)

/-- The running picture of a rung as coded to its end: its bits, budget dry rows, mean QP, vectors and the coding history after it. -/
structure CodedRung where
  bits : Nat
  dry : Nat
  qp : Nat
  vectors : List (Int × Int)
  hist : BitVec 64

/-- Codes the running picture of a rung. -/
def codeRung (x : EncCtx) (r : Rung) : CodedRung :=
  let vecs := plannedVectors x r
  let e := codeEnv x r vecs
  let parts := (codeParts x r).map fun p => (p, codePart e r.lateFirst x.skipping p)
  let qps := parts.flatMap (·.2.qps)
  { bits := (parts.map (·.2.used)).foldl (· + ·) 0, dry := (parts.map (·.2.dryRows)).foldl (· + ·) 0,
    qp := if qps.isEmpty then 0 else qps.foldl (· + ·) 0 / qps.length, vectors := codedVectors x r vecs parts,
    hist := Config.codedHistory e.params r.hist r.src qps }

/-- The late-dry row of a rung's picture: in a standby, that of the active unit's ledger. -/
def lateRowOf (s : State) (c : BitVec 16) (k n : Nat) (own : Option Nat) : Option Nat :=
  if standsBy s then
    s.pair.ledger.findSome? fun e => match e with
      | .lateDry c' k' n' row => if c' = c && k' = k && n' = n then some row else none
      | _ => none
  else own

/-- Rung `k` of a running picture ends: F, debt, QP, the rate window and the dry rows. -/
def endRung (c : BitVec 16) (m : Nat) (k : Nat) (s : State) : State :=
  let x := s.enc c
  match x.rungs[k]? with
  | none => s
  | some r =>
    let r := { r with lateFirst := lateRowOf s c k x.number r.lateFirst }
    let z := codeRung x r
    let bits := z.bits
    let dry := z.dry
    let excess := ((bits : Int) - r.cap).toNat
    let tl := (modeTl x.mode.toNat).getD r.curPhase 0
    let late := r.lateFirst.isSome
    let d := encDie c
    let r' := { rcEnd bits r with qp := BitVec.ofNat 8 z.qp, lateFirst := none, vectors := z.vectors, hist := z.hist, sent := (m, bits, tl) :: within m 1000 r.sent }
    let s := s.modEnc c fun x => { modRung k (fun _ => r') x with
      dryRows := x.dryRows + BitVec.ofNat 32 dry, dryPics := if dry = 0 then x.dryPics else x.dryPics + 1
      lateDry := if late then x.lateDry + 1 else x.lateDry
      overshoot := x.overshoot + BitVec.ofNat 32 excess, lastOvershoot := if excess = 0 then x.lastOvershoot else BitVec.ofNat 32 excess }
    let s := if late then venCnt d 5 s else s
    let s := if dry = 0 then s else
      raiseOnce d (encReq c) 0x0B01 (c.setWidth 64) (c.setWidth 64)
        (forAll (List.range dry) (fun _ s => venCnt d 4 s) (venCnt d 3 (venEv d 0 s)))
    sendCoded c k tl (1000 * x.number / max 1 x.fps.toNat) r.curIntra (Config.codedPackets z.hist bits) s

/-- The running picture of a context ends. -/
def endPicture (c : BitVec 16) (m : Nat) (s : State) : State :=
  let x := s.enc c
  if !x.running then s
  else
    let s := forAll (List.range x.rungs.length) (endRung c m) s
    let intra := !x.skipping && x.rungs.any (·.curIntra)
    let d := encDie c
    let s := venCnt d 0 (s.modEnc c fun x => { x with
      running := false, pics := x.pics + 1, intra := if intra then x.intra + 1 else x.intra
      lastIntraMp := if intra then BitVec.ofNat 64 (1000 * x.number / max 1 x.fps.toNat) else x.lastIntraMp })
    if intra then venCnt d 1 s else s

/-- A rung starts its picture: rate, intra, phase, budget and cap. -/
def beginRung (s : State) (capX : Nat) (x : EncCtx) (intra : Bool) (r : Rung) : Rung :=
  let r := takeRate s x r
  let ph := if intra then 0 else r.phase
  let ws := modeWeights x.mode.toNat
  rcBegin x capX (if intra then 16 else ws.getD ph 4)
    { r with curIntra := intra, curPhase := ph, phase := (ph + 1) % ws.length, lateFirst := none,
             intraReq := r.intraReq && !intra, lastIntra := if intra then some s.clk else r.lastIntra }

/-- KEY_INT seconds after the last intra picture of a rung, an intra request. -/
def keyIntRequests (c : BitVec 16) (s : State) : State :=
  let x := s.enc c
  if x.keyInt = 0 then s
  else forAll ((List.range x.rungs.length).filter fun k => match (x.rungs.getD k {}).lastIntra with
    | some t => decide ((unitsSec * x.keyInt.toNat : Int) ≤ stampDiff s.clk t)
    | none => false) (fun k s => intraRequest c (2 ^ k) s) s

/-- A source picture: its key, taint and size. -/
abbrev SrcPic := (Nat × Nat) × Bool × Nat × Nat

/-- A sample of the picture that a context codes: the canvas that is out, or the newest picture of the decode context. -/
def sourceSample (s : State) (x : EncCtx) (key : Nat × Nat) (w : Nat) : Nat → Nat → Nat → Nat :=
  let k := BitVec.ofNat 16 key.1
  if x.kind = 0 then slotSample s (devAddr (layDie k) (canvasOffset s k (s.lay k).cur)) w
  else match (findPic s k key.2).bind fun p => p.bufs.find? (·.size == 0) with
    | some b => slotSample s (devAddr (decDie k) (slotOffset s (decDie k) b.slot)) w
    | none => fun _ _ _ => 512

/-- The name of a context's source at a rung's size: downscaled `sc` times, padded to even by edge repeat (11 R245). How
a picture is brought to the size of a tile is not given; its own samples name it (log 148). -/
def sourceName (s : State) (x : EncCtx) (key : Nat × Nat) (w h sc : Nat) : BitVec 64 :=
  if x.kind = 2 then match findPic s (BitVec.ofNat 16 key.1) key.2 with
    | some p => Config.pictureName (bufferBytes p.width p.height (sourceSample s x key p.width))
    | none => 0
  else
  let f := sourceSample s x key w
  let plane (p : Nat) : Nat → Nat → Nat := downscale sc (if p = 0 then w else (w + 1) / 2) (if p = 0 then h else (h + 1) / 2) (f p)
  let cw := sizeDim w sc
  let ch := sizeDim h sc
  Config.pictureName (bufferBytes (rungDim w sc) (rungDim h sc) fun p i j =>
    if p = 0 then plane 0 (min i (cw - 1)) (min j (ch - 1)) else plane p (min i ((cw + 1) / 2 - 1)) (min j ((ch + 1) / 2 - 1)))

/-- Candidate 2 of a block: how far the top layer that covers its centre has moved between the two canvases, towards where it was, plus
that layer's decoder-side vector scaled by its destination to its source (log 148). -/
def galleryVec (l : Layout) (bx by_ : Nat) : List (Int × Int) :=
  let x : Int := 16 * bx + 8
  let y : Int := 16 * by_ + 8
  let covers (p : PlacedLayer) : Bool := decide (p.dx ≤ x) && decide (x < p.dx + p.dw) && decide (p.dy ≤ y) && decide (y < p.dy + p.dh)
  match (l.placed.filter covers).getLast? with
  | none => []
  | some p =>
    if p.kind = 2 then []
    else
      let old := (l.before.find? (·.index == p.index)).getD p
      let sx := p.ox + (x - p.dx).toNat * p.sw / max 1 p.dw
      let sy := p.oy + (y - p.dy).toNat * p.sh / max 1 p.dh
      let v := (p.content.bind fun c => Config.picVector c sx sy).getD (0, 0)
      [(4 * (old.dx - p.dx) + v.1 * p.dw / (max 1 p.sw : Nat), 4 * (old.dy - p.dy) + v.2 * p.dh / (max 1 p.sh : Nat))]

/-- Candidate 2 or 3 of a block of a context's source. -/
def extraVec (s : State) (x : EncCtx) (key : Nat × Nat) (bx by_ : Nat) : List (Int × Int) :=
  if x.kind = 0 then galleryVec (s.lay x.source) bx by_
  else if x.kind = 1 then match (findPic s x.source key.2).bind fun p => Config.picVector p.content (16 * bx) (16 * by_) with
    | some v => [v]
    | none => []
  else []

/-- The analysis of a context's new source picture; `anaName` then names it for the next one. -/
def analysePicture (s : State) (x : EncCtx) (key : Nat × Nat) (w h : Nat) : EncCtx :=
  let name := sourceName s x key w h 0
  let r : Rung := x.rungs.headD {}
  let qp := Config.codingFigure 3 (codeParams x r) r.hist name 0
  let job : AnaJob := {
    w := x.width, h := x.height, intra := Config.intraSatd name, extra := extraVec s x key, prev := x.analysis
    cost := fun bx by_ near v => Config.interSatd name x.anaName bx by_ v + Config.lambda qp * Config.vectorBits v near
    ok := fun bx by_ v => rungVecOk x r (16 * bx) (16 * by_) 16 v }
  { x with analysis := analyse job, anaName := name
           rungs := x.rungs.map fun r => { r with src := sourceName s x key w h r.scale.toNat } }

/-- Picture `n` of a context begins with a source, or as a skip picture where there is no new one or its block check
fails (R251, R253), and the first after a takeover (16 R363). A new size restarts the context with an intra picture. A new source
is analysed once, for all rungs. -/
def beginPicture (c : BitVec 16) (n : Nat) (src : Option SrcPic) (fail : Bool) (s : State) : State :=
  let s := keyIntRequests c s
  let d := encDie c
  let isNew := match src with | some (key, _) => (s.enc c).lastSource != some key | none => false
  let skip := !isNew || fail || (s.enc c).takeover
  let s := match src, skip with
    | some (key, taint, w, h), false =>
      let t := s
      s.modEnc c fun x =>
        let same := x.width == w && x.height == h
        let x := { x with lastSource := some key, tainted := taint, width := w, height := h, analysis := if same then x.analysis else []
                          rungs := x.rungs.map fun r => if same then r else
                            { r with lastIntra := none, level := (rungLevel x.codec.toNat w h x.fps.toNat r).getD 51 } }
        analysePicture t x key w h
    | some (key, _), true => s.modEnc c fun x => { x with lastSource := some key }
    | none, _ => s
  let x : EncCtx := s.enc c
  let wants (r : Rung) : Bool := !skip && (r.intraReq || r.lastIntra.isNone)
  let all := (x.mode == 3 || x.mode == 4) && x.rungs.any wants
  let reqs := (x.rungs.filter fun r => !skip && r.intraReq).length
  let rungs := x.rungs.map fun r => beginRung s (s.die d).ven.capX.toNat x (all || wants r) r
  let s := s.modEnc c fun x => { x with rungs := rungs, guard := (s.die d).ven.dryGuard, takeover := false, running := true, skipping := skip, number := n, req := x.req + BitVec.ofNat 32 reqs,
                                        skip := if skip then x.skip + 1 else x.skip }
  if fail then raiseFrom d (encReq c) 0x0B04 (c.setWidth 64) (venEv d 3 (venCnt d 7 (venEv d 2 (venCnt d 2 s))))
  else if skip then raiseFrom d (encReq c) 0x0B03 (c.setWidth 64) (venEv d 2 (venCnt d 2 s))
  else s

/-- A picture boundary of a context at MP `m`: the running picture ends, a commanded close takes effect, else the next
picture begins. -/
def encTick (c : BitVec 16) (m : Nat) (src : Option SrcPic) (fail : Bool) (s : State) : State :=
  match pictureAt (s.enc c).fps.toNat m with
  | none => s
  | some n =>
    let s := endPicture c m s
    if (s.enc c).closing then closeEnc c none s else beginPicture c n src fail s

/-- The newest picture of a decode context completed before this instant, of those that a buffer of a size still holds. -/
def newestPic (s : State) (k : BitVec 16) (size : PicBuf → Bool) : Option Pic :=
  ((s.dec k).pics.filter fun p => p.done && p.bufs.any size && decide (stampDiff p.doneAt s.clk < 0)).getLast?

/-- The source of a transcode context or, with `k`, of a tile context: the newest picture of a decode context. -/
def decSource (s : State) (k : BitVec 16) : Option SrcPic :=
  (newestPic s k (·.size == 0)).map fun p => ((k.toNat, p.pid), p.taint, p.width, p.height)

/-- The transcode contexts of a die at MP `m`. -/
def transcodeTick (d m : Nat) (failed : List (BitVec 16)) (s : State) : State :=
  forAll ((s.openEncs d).filter fun c => (s.enc c).kind == 1 && !s.moves.any fun m => m.ctxs.any fun e => e.1 && e.2.2 == c) (fun c s =>
    let k := (s.enc c).source
    trimPics k (encTick c m (decSource s k) (failed.contains c) s)) s

/-- LATE_DRY_GUARD: VEN_DRY_GUARD µs before the picture's next boundary, the row in progress is abandoned: it and every
later row are coded dry. A standby takes the row from the ledger. -/
def execLateDryGuard (ctx : BitVec 16) (rung row : Nat) (s : State) : Host.Outcome State Fault Refusal :=
  let x := s.enc ctx
  let d := encDie ctx
  let fps := max 1 x.fps.toNat
  match x.rungs[rung]? with
  | none => .next s
  | some r =>
    if x.state ≠ .opened || !x.running || r.lateFirst.isSome || standsBy s then .next s
    else
      let next := unitsMp * (1000 * (x.number + 1) / fps)
      let s := s.advanceTo d (next - unitsUs * x.guard.toNat)
      let s := s.modEnc ctx (modRung rung fun r => { r with lateFirst := some row })
      .next (ledger d (.lateDry ctx rung x.number row) (raiseFrom d (encReq ctx) 0x0B02 (ctx.setWidth 64) (venEv d 1 s)))

/-! ## Report (11 R258) -/

/-- The encode report of a context at boundary `b`, Table 11.6. -/
def encReport (b : Nat) (x : EncCtx) : List Word :=
  let st : BitVec 2 := match x.state with | .closed => 0 | .opened => 1 | .moved => 2
  let rung (k : Nat) : Word := match x.rungs[k]? with
    | none => 0
    | some r => put (BitVec.ofNat 24 (((within b 1000 r.sent).map fun e => e.2.1).foldl (· + ·) 0 / 1000)) 0 ||| put r.qp 24 |||
        put (BitVec.ofInt 32 r.full) 32
  [BitVec.ofNat 64 b, put x.source 0 ||| put x.kind 16 ||| put st 18 ||| putB x.tainted 20 ||| put x.movedTo 32,
   put x.pics 0 ||| put x.intra 32, put x.skip 0 ||| put x.dryPics 32, put x.dryRows 0 ||| put x.lateDry 32,
   put x.overshoot 0 ||| put x.lastOvershoot 32, rung 0, rung 1, rung 2, rung 3, x.lastIntraMp, put x.req 0 ||| put x.reqMerged 32,
   0, 0, 0, BitVec.ofNat 64 b]

/-- The encode reports of a die at boundary `b`. -/
def encReports (d b : Nat) (s : State) : State :=
  s.modDie d fun x => { x with ven := { x.ven with ctx := x.ven.ctx.map fun e => (e.1, { e.2 with pub := encReport b e.2 }) } }

end Sys2Proof.Machine
end

