-- ==== Sys2Proof/Machine/Compose.lean ====
section
/-! DEFINITION. Gallery composition: a layer's source and destination, scaling, blending, the finished canvas, culled
and fetched blocks (10 R220 to R226, R231, R233). -/

namespace Sys2Proof.Machine

/-! ## Sources and destinations (10 R221, R222) -/

/-- A layer resolved for one output picture: its source picture at a size, its crop in that size's pixels, and its
destination on the canvas. -/
structure Drawn where
  layer : GalLayer
  pic : Option Pic
  size : Nat
  srcW : Nat
  srcH : Nat
  cropX : Nat
  cropY : Nat
  cropW : Nat
  cropH : Nat
  dx : Int
  dy : Int
  dw : Nat
  dh : Nat
  deriving DecidableEq, Repr

/-- The output sizes that a context has, and those at which a picture still stands in a buffer. -/
def ctxSizes (x : DecCtx) : List Nat := (decSizes x).map fun e => e.1.toNat
def picSizes (p : Pic) : List Nat := p.bufs.map fun b => b.size.toNat

/-- Crop length in full-size pixels: 0 runs to the source's edge. -/
def cropLen (crop origin full : Nat) : Nat := if crop = 0 then full - origin else crop

/-- A destination length: as given, or the crop times SCALE. -/
def dstLen (y : GalLayer) (given crop : Nat) : Nat := if y.scaleMode then (crop * y.scale + 2048) / 4096 else given

/-- A layer with a source of full size `w` × `h`: AUTO takes the smallest output that is at least the destination in both
directions, else the full size. -/
def placeLayer (y : GalLayer) (sizes : List Nat) (pic : Option Pic) (w h : Nat) (forced : Option Nat) : Drawn :=
  let cw := cropLen y.cropW y.cropX w
  let ch := cropLen y.cropH y.cropY h
  let dw := dstLen y y.dstW cw
  let dh := dstLen y y.dstH ch
  let fit (k : Nat) : Bool := decide (dw ≤ sizeDim w k) && decide (dh ≤ sizeDim h k)
  let auto := ((sizes.filter fit).getLast?).getD 0
  let k := forced.getD (if y.srcKind ≠ 0 then 0 else if y.srcSize = 3 then auto else y.srcSize)
  { layer := y, pic := pic, size := k, srcW := sizeDim w k, srcH := sizeDim h k, cropX := y.cropX / 2 ^ k, cropY := y.cropY / 2 ^ k,
    cropW := cw / 2 ^ k, cropH := ch / 2 ^ k, dx := y.dstX, dy := y.dstY, dw := dw, dh := dh }

/-- The resolved layer as the checks at commit see it: a context that has completed no picture counts with its largest
size (log 32); a solid layer is all destination. -/
def layerAtCommit (s : State) (y : GalLayer) : Drawn :=
  if y.srcKind = 0 then
    let x := s.dec y.ctx
    match newestPic s y.ctx (fun _ => true) with
    | some p => placeLayer y (picSizes p) (some p) p.width p.height none
    | none => placeLayer y (ctxSizes x) none x.maxW.toNat x.maxH.toNat none
  else if y.srcKind = 1 then placeLayer y [0] none y.surfW y.surfH none
  else placeLayer { y with cropW := y.dstW, cropH := y.dstH, cropX := 0, cropY := 0 } [0] none y.dstW y.dstH none

/-- Whether the ratio of source to destination length is at most 8 in both directions. -/
def ratioOk (r : Drawn) : Bool := decide (r.cropW ≤ 8 * r.dw) && decide (r.cropH ≤ 8 * r.dh)

/-- The coefficient bank of a direction; none where equal lengths are copied (log 33). -/
def bankOf (src dst : Nat) : Option Nat :=
  if src = dst then none else if src ≤ dst then some 0 else if src ≤ 2 * dst then some 1 else if src ≤ 4 * dst then some 2 else some 3

/-- The coefficient words that a picture started now uses: each as last written, unless that was less than 1 µs ago
(10 Table 10.7). -/
def coefNow (s : State) (d i : Nat) : BitVec 60 :=
  let g := (s.die d).gal
  if (unitsUs : Int) ≤ stampDiff s.clk (tget 0 g.coefAt i) then tget 0 g.coef i else tget 0 g.coefUse i

/-- Tap `t` of a coefficient word. -/
def tapOf (w : BitVec 60) (t : Nat) : Int := (w.extractLsb' (10 * t) 10).toInt

/-- Whether every phase of a bank sums to 256. -/
def bankValid (s : State) (d b : Nat) : Bool :=
  (List.range 64).all fun p => ((List.range 6).map (tapOf (coefNow s d (64 * b + p)))).foldl (· + ·) 0 == 256

/-- Whether the banks that a layer's scaled directions use are valid. -/
def banksOk (s : State) (d : Nat) (r : Drawn) : Bool :=
  [bankOf r.cropW r.dw, bankOf r.cropH r.dh].all fun b => match b with | none => true | some b => bankValid s d b

/-- The clipped destination of a layer: first column and row, and one past the last. -/
def clipRect (h : LayHalf) (r : Drawn) : Nat × Nat × Nat × Nat :=
  (r.dx.toNat, r.dy.toNat, (min (h.width : Int) (r.dx + r.dw)).toNat, (min (h.height : Int) (r.dy + r.dh)).toNat)

/-- Visible width and rows of a layer. -/
def visibleW (h : LayHalf) (r : Drawn) : Nat := (clipRect h r).2.2.1 - (clipRect h r).1
def visibleH (h : LayHalf) (r : Drawn) : Nat := (clipRect h r).2.2.2 - (clipRect h r).2.1

/-! ## Culling and fetches (10 R225, R233) -/

/-- The canvas blocks, as first column and row and one past the last, cut at the edges. -/
def canvasBlocks (h : LayHalf) : List (Nat × Nat × Nat × Nat) :=
  (List.range (blocks64 h.height)).flatMap fun by_ => (List.range (blocks64 h.width)).map fun bx =>
    (64 * bx, 64 * by_, min (64 * bx + 64) h.width, min (64 * by_ + 64) h.height)

/-- Whether a layer touches a block, and whether it is opaque on it. -/
def touches (h : LayHalf) (r : Drawn) (b : Nat × Nat × Nat × Nat) : Bool :=
  let (x0, y0, x1, y1) := clipRect h r
  decide (x0 < b.2.2.1) && decide (b.1 < x1) && decide (y0 < b.2.2.2) && decide (b.2.1 < y1)
def opaqueOn (h : LayHalf) (r : Drawn) (b : Nat × Nat × Nat × Nat) : Bool :=
  let (x0, y0, x1, y1) := clipRect h r
  decide (x0 ≤ b.1) && decide (b.2.2.1 ≤ x1) && decide (y0 ≤ b.2.1) && decide (b.2.2.2 ≤ y1) &&
    (r.layer.alphaMode == 0 || (r.layer.alphaMode == 1 && r.layer.galpha == 255))

/-- The blocks of a layer that are drawn, and how many are culled: touched, with a higher layer opaque on them. -/
def layerBlocks (h : LayHalf) (r : Drawn) (above : List Drawn) : List (Nat × Nat × Nat × Nat) × Nat :=
  let mine := (canvasBlocks h).filter (touches h r)
  let kept := mine.filter fun b => !above.any fun a => opaqueOn h a b
  (kept, mine.length - kept.length)

/-- The source blocks of one direction that a destination range maps onto, widened by 3 samples where it is filtered. -/
def srcRange (dst0 dst1 origin crop dst ns : Nat) : List Nat :=
  let wide := if crop = dst then 0 else 3
  let lo := origin + dst0 * crop / dst - wide
  let hi := min (ns - 1) (origin + (dst1 * crop + dst - 1) / dst - 1 + wide)
  (List.range (hi / 64 + 1)).filter fun b => decide (lo / 64 ≤ b)

/-- The source blocks fetched for a layer's drawn blocks; a solid layer fetches none. -/
def fetchedBlocks (h : LayHalf) (r : Drawn) (kept : List (Nat × Nat × Nat × Nat)) : List (Nat × Nat) :=
  if r.layer.srcKind = 2 then []
  else
    let (x0, y0, x1, y1) := clipRect h r
    (kept.flatMap fun b =>
      let cols := srcRange ((max x0 b.1 : Int) - r.dx).toNat ((min x1 b.2.2.1 : Int) - r.dx).toNat r.cropX r.cropW r.dw r.srcW
      let rows := srcRange ((max y0 b.2.1 : Int) - r.dy).toNat ((min y1 b.2.2.2 : Int) - r.dy).toNat r.cropY r.cropH r.dh r.srcH
      cols.flatMap fun x => rows.map fun y => (x, y)).eraseDups

/-- Of a picture's layers, lowest first: blocks culled, source blocks fetched, alpha blocks fetched. -/
def pictureBlocks (h : LayHalf) : List Drawn → Nat × Nat × Nat
  | [] => (0, 0, 0)
  | r :: above =>
    let (c, f, a) := pictureBlocks h above
    let (kept, culled) := layerBlocks h r above
    let n := (fetchedBlocks h r kept).length
    (c + culled, f + n, a + if 2 ≤ r.layer.alphaMode then n else 0)

/-- Class 2 estimate of a layout in bytes/s. -/
def galBw (h : LayHalf) (layers : List Drawn) : Nat :=
  let (_, f, a) := pictureBlocks h layers
  h.fps * (7680 * (blocks64 h.width * blocks64 h.height + f) + 4096 * a)

/-! ## Samples (10 R221, R223) -/

/-- A sample of a layer's source: a decoded picture, a surface or a solid colour. -/
def srcSample (s : State) (r : Drawn) (plane x y : Nat) : Nat :=
  if r.layer.srcKind = 0 then
    let d := decDie r.layer.ctx
    match r.pic.bind fun p => p.bufs.find? (·.size.toNat == r.size) with
    | some b => slotSample s (devAddr d (slotOffset s d b.slot)) r.srcW plane x y
    | none => 512
  else slotSample s r.layer.surf r.layer.surfW plane x y

/-- The alpha of a source pixel: one 4 KiB block of 64 × 64 values for each block of the source. -/
def alphaSample (s : State) (r : Drawn) (x y : Nat) : Nat :=
  leNat (devRd s (r.layer.alpha + 4096 * (y / 64 * blocks64 r.srcW + x / 64) + 64 * (y % 64) + x % 64) 1)

/-- One output value of a line, by the loop of R223: `vert` for the vertical direction, `chroma` for chroma planes, `ns`
source samples, `f` the line. -/
def scaleLine (coef : Nat → BitVec 60) (vert chroma : Bool) (ns crop nd off i : Nat) (f : Nat → Int) : Int :=
  let step := 65536 * crop / nd
  let pos : Int := ((65536 * off + step / 2 + i * step : Nat) : Int) - 32768
  let p := if !chroma then pos else if vert then (pos - 32768) / 2 else pos / 2
  let base := p / 65536
  let ph := (p / 1024 % 64).toNat
  let get (k : Int) : Int := f (clampI 0 ((ns : Int) - 1) k).toNat
  match bankOf crop nd with
  | none => if vert then clampI 0 1023 ((get base + 2) / 4) else get base * 4
  | some b =>
    let w := coef (64 * b + ph)
    let acc := ((List.range 6).map fun t => tapOf w t * get (base - 2 + (t : Int))).foldl (· + ·) 0
    if vert then clampI 0 1023 ((acc + 512) / 1024) else clampI 0 4095 ((acc + 32) / 64)

/-- A plane scaled to a destination pixel: horizontally, then vertically. -/
def scalePixel (coef : Nat → BitVec 60) (r : Drawn) (chroma : Bool) (f : Nat → Nat → Int) (i j : Nat) : Int :=
  let w := if chroma then (r.srcW + 1) / 2 else r.srcW
  let h := if chroma then (r.srcH + 1) / 2 else r.srcH
  scaleLine coef true chroma h r.cropH r.dh r.cropY j fun row =>
    scaleLine coef false chroma w r.cropW r.dw r.cropX i fun col => f col row

/-! ## Blending (10 R224) -/

/-- Nearest quotient by 255. -/
def div255 (v : Int) : Int := (v + 127) / 255

/-- A layer blended onto a component of the canvas; `pa` is the pixel's alpha. -/
def blend (y : GalLayer) (plane : Nat) (pa c d : Int) : Int :=
  let ga : Int := y.galpha
  if y.alphaMode = 3 then
    let z : Int := if plane = 0 then 64 else 512
    let c := z + div255 ((c - z) * ga)
    clampI 0 1023 (c + div255 ((255 - div255 (ga * pa)) * (d - z)))
  else
    let a := if y.alphaMode = 0 then 255 else div255 (ga * pa)
    div255 (a * c + (255 - a) * d)

/-- One component of a 4:4:4 canvas pixel. -/
def canvasPixel (s : State) (coef : Nat → BitVec 60) (h : LayHalf) (layers : List Drawn) (plane x y : Nat) : Int :=
  layers.foldl (fun d r =>
    let (x0, y0, x1, y1) := clipRect h r
    if x < x0 || x1 ≤ x || y < y0 || y1 ≤ y then d
    else
      let i := ((x : Int) - r.dx).toNat
      let j := ((y : Int) - r.dy).toNat
      let c : Int := if r.layer.srcKind = 2 then ((r.layer.colour.extractLsb' (10 * plane) 10).toNat : Int)
        else scalePixel coef r (plane != 0) (fun a b => (srcSample s r plane a b : Int)) i j
      let pa : Int := if r.layer.alphaMode < 2 then 255
        else min 255 ((scalePixel coef r false (fun a b => (4 * alphaSample s r a b : Nat)) i j + 2) / 4)
      blend r.layer plane pa c d)
    ((h.bg.extractLsb' (10 * plane) 10).toNat : Int)

/-- A luma sample, and a 4:2:0 chroma sample, of the finished canvas. -/
def canvasSample (s : State) (coef : Nat → BitVec 60) (h : LayHalf) (layers : List Drawn) (plane x y : Nat) : Nat :=
  let px (x y : Nat) : Int := canvasPixel s coef h layers plane (min x (h.width - 1)) (min y (h.height - 1))
  if plane = 0 then (px x y).toNat
  else ((px (2 * x - 1) (2 * y) + 2 * px (2 * x) (2 * y) + px (2 * x + 1) (2 * y) + px (2 * x - 1) (2 * y + 1) +
    2 * px (2 * x) (2 * y + 1) + px (2 * x + 1) (2 * y + 1) + 4) / 8).toNat

/-- The finished canvas as a buffer in block slots (09 Table 9.3), edge samples repeated beyond the edges. -/
def canvasBytes (s : State) (coef : Nat → BitVec 60) (h : LayHalf) (layers : List Drawn) : List Byte :=
  bufferBytes h.width h.height fun plane x y => canvasSample s coef h layers plane x y

end Sys2Proof.Machine
end

