-- ==== Sys2Proof/Machine/Seam.lean ====
section
/-! DEFINITION. The Seam: layouts, viewers, tile streams and their encodes, splicing, starts and restarts (10 R234 to
R239, 11 R250). -/

namespace Sys2Proof.Machine

/-! ## Boundaries -/

/-- The next MP boundary that has not been processed: the first at or after this instant (02 R28; log 34). -/
def State.nextMp (s : State) : Nat :=
  let c := (s.time 0 + unitsMp - 1) / unitsMp
  match s.lastMp with
  | some m => max c (m + 1)
  | none => c

/-- Moves device time to the next MP boundary. -/
def State.toBoundary (s : State) : State := s.advanceTo 0 (unitsMp * s.nextMp)

/-! ## Layouts (10 R234) -/

/-- Canvas size limits of R220. -/
def canvasOk (h : LayHalf) : Bool :=
  decide (64 ≤ h.width) && decide (h.width ≤ 8192) && h.width % 8 == 0 && decide (64 ≤ h.height) && decide (h.height ≤ 4352) &&
    decide (h.width * h.height ≤ 8912896)

/-- First tile's start and last tile's end of a run of grid tiles, in CTBs. -/
def gridSpan (sizes : List Nat) (first n : Nat) : Nat × Nat :=
  (((sizes.take first)).foldl (· + ·) 0, ((sizes.take (first + n))).foldl (· + ·) 0)

/-- Size of a slot in pixels, cut at the canvas edges, and in CTBs. -/
def slotPx (h : LayHalf) (x : SlotDef) : Nat × Nat :=
  let (a, b) := gridSpan h.colW x.col x.nCols
  let (c, d) := gridSpan h.rowH x.row x.nRows
  (min (64 * b) h.width - 64 * a, min (64 * d) h.height - 64 * c)
def slotCtbs (h : LayHalf) (x : SlotDef) : Nat := blocks64 (slotPx h x).1 * blocks64 (slotPx h x).2

/-- The slots in use, with their indexes. -/
def slotsOn (h : LayHalf) : List (Nat × SlotDef) := ((List.range 64).zip h.slots).filter fun e => e.2.en

/-- Whether a slot lies in the grid and its fields are in range. -/
def slotDefOk (s : State) (h : LayHalf) (x : SlotDef) : Bool :=
  decide (x.rule ≤ 2) && (x.rule != 2 || decide (x.rank ≤ 7)) && (x.rule != 0 || legIdOk s x.leg) &&
    decide (x.col + x.nCols ≤ h.cols) && decide (x.row + x.nRows ≤ h.rows)

/-- Whether two slots share a grid tile. -/
def slotsClash (a b : SlotDef) : Bool :=
  decide (a.col < b.col + b.nCols) && decide (b.col < a.col + a.nCols) && decide (a.row < b.row + b.nRows) && decide (b.row < a.row + a.nRows)

/-- Whether the elements of a list are in pairs free of a relation. -/
def allPairs {α : Type} (p : α → α → Bool) : List α → Bool
  | [] => true
  | a :: l => l.all (p a) && allPairs p l

/-- The rules of R234 for an enabled Seam layout half. -/
def seamHalfOk (s : State) (h : LayHalf) : Bool :=
  canvasOk h && h.height % 8 == 0 && decide (1 ≤ h.fps) && decide (h.fps ≤ 60) && decide (1 ≤ h.cols) && decide (h.cols ≤ 10) &&
    decide (1 ≤ h.rows) && decide (h.rows ≤ 11) && (h.colW.take h.cols).all (fun w => decide (4 ≤ w)) &&
    (h.rowH.take h.rows).all (fun w => decide (1 ≤ w)) && (h.colW.take h.cols).foldl (· + ·) 0 == blocks64 h.width &&
    (h.rowH.take h.rows).foldl (· + ·) 0 == blocks64 h.height && (slotsOn h).all (fun e => slotDefOk s h e.2) &&
    allPairs (fun a b => !slotsClash a b) ((slotsOn h).map (·.2))

/-- The mosaic's level, times 10, the lowest of 3.1, 4.1 and 5.1 whose limits cover it, and that level's Main-tier bitrate
(10 R237). -/
def mosaicLevel (h : LayHalf) : Nat :=
  let px := h.width * h.height
  if px ≤ 983040 && px * h.fps ≤ 33177600 && h.cols ≤ 3 && h.rows ≤ 3 then 31
  else if px ≤ 2228224 && px * h.fps ≤ 133693440 && h.cols ≤ 5 && h.rows ≤ 5 then 41
  else 51
def levelRate (level : Nat) : Nat := if level = 31 then 10000 else if level = 41 then 20000 else 40000
def mosaicRate (h : LayHalf) : Nat := levelRate (mosaicLevel h)

/-- Encode and analysis load and class 1 bandwidth that a Seam layout reserves: one tile encode for each slot, and one
more for its largest (11 R242). -/
def seamReserve (h : LayHalf) : Nat × Nat × Nat :=
  let sizes := (slotsOn h).map fun e => slotPx h e.2
  let pix (z : Nat × Nat) : Nat := pixRate z.1 z.2 h.fps
  let largest := sizes.foldl (fun b z => if pix b < pix z then z else b) (0, 0)
  let all := if sizes.isEmpty then [] else largest :: sizes
  ((all.map fun z => encLoad z.1 z.2 h.fps [0]).foldl (· + ·) 0, (all.map fun z => anaLoad z.1 z.2 h.fps).foldl (· + ·) 0,
   (all.map fun z => encBw z.1 z.2 h.fps [0]).foldl (· + ·) 0)

/-! ## Viewers (10 R219, R235, R239) -/

/-- The viewers of a Seam layout. -/
def viewersOf (s : State) (lay : BitVec 16) : List (BitVec 16) := s.allOpenLegs.filter fun l => seamOf s l == some lay

/-- Mosaic pictures and slices per second that the viewers of a die count. -/
def seaLoad (s : State) (d : Nat) : Nat × Nat :=
  (s.openLegs d).foldl (fun n l => match seamOf s l with
    | some lay =>
      let h := s.layLive lay
      if s.layOn lay then (n.1 + h.fps, n.2 + h.fps * (h.cols * h.rows)) else n
    | none => n) (0, 0)

/-- Whether a die's mosaics fit SEA_CAP, whose slices are in thousands per second. -/
def seaFits (s : State) (d : Nat) : Bool :=
  let c := if (s.die d).cap.seam then (s.die d).gal.seaPicCap.toNat else 0
  let n := if (s.die d).cap.seam then 1000 * (s.die d).gal.seaSliceCap.toNat else 0
  decide ((seaLoad s d).1 ≤ c) && decide ((seaLoad s d).2 ≤ n)

/-- SEA_USE of every die follows the viewers. -/
def refreshSea (s : State) : State :=
  forAll s.dieList (fun d s => s.modDie d fun x =>
    { x with gal := { x.gal with seaPics := (seaLoad s d).1, seaSlices := (seaLoad s d).2 } }) s

/-- The open decode context of a leg with the largest output. -/
def largestDec (s : State) (l : BitVec 16) : Option (BitVec 16) :=
  ((s.openDecs (legDie l)).filter fun k => (s.dec k).leg == l).foldl (fun best k =>
    let area (k : BitVec 16) : Nat := (s.dec k).maxW.toNat * (s.dec k).maxH.toNat
    match best with
    | none => some k
    | some b => if area b < area k then some k else best) none

/-- The source leg that a slot resolves to for a viewer; `noId` is grey. -/
def slotSource (s : State) (v : BitVec 16) (x : SlotDef) : BitVec 16 :=
  let c := s.confOf v
  let list := (s.conf c).talkers.filter fun l => !(x.skipSelf && l == v)
  let l := if x.rule = 1 then list.getD x.rank noId else if x.rule = 2 then (s.confLive c).pinned.getD x.rank noId else x.leg
  let l := if l = noId then noId else resolveLeg s l
  if l = noId || (x.skipSelf && l == v) || !s.legOpen l || (largestDec s l).isNone then noId else l

/-- A slot's size as tile streams carry it. -/
def slotSize (h : LayHalf) (x : SlotDef) : BitVec 32 := BitVec.ofNat 32 ((slotPx h x).1 + 65536 * (slotPx h x).2)

/-- The stream of a source at a size, as an index of the layout's die, and its picture for this boundary. -/
def tileIdx (s : State) (lay src : BitVec 16) (size : BitVec 32) : Option Nat :=
  (s.die (layDie lay)).gal.tiles.findIdx? fun t => t.layout == lay && t.source == src && t.size == size
def tilePicture (s : State) (lay src : BitVec 16) (size : BitVec 32) : Option TilePic :=
  (tileIdx s lay src size).bind fun i => ((s.die (layDie lay)).gal.tiles[i]?).bind (·.picture)
def tileIsIntra (s : State) (lay src : BitVec 16) (size : BitVec 32) : Bool :=
  src == noId || match tilePicture s lay src size with | some p => p.intra | none => false

/-- Changes a slot of a viewer. -/
def modSlotOf (v : BitVec 16) (i : Nat) (f : SeamSlot → SeamSlot) (s : State) : State :=
  s.modLeg v fun x => { x with viewer := x.viewer.map fun w => { w with slots := tmod {} w.slots i f } }

/-- One slot of a running mosaic: it switches to its resolved source at an intra picture of that source's stream, grey at
once; an absent tile picture gives a skip tile (R238). -/
def spliceSlot (v lay : BitVec 16) (i : Nat) (x : SlotDef) (s : State) : State :=
  let d := legDie v
  let h := s.layLive lay
  let size := slotSize h x
  let cur := match (s.leg v).viewer with | some w => tget ({} : SeamSlot) w.slots i | none => {}
  let want := slotSource s v x
  let s := if want ≠ cur.want && want ≠ noId then
      match tileIdx s lay want size with | some t => tileIntra (layDie lay) t s | none => s
    else s
  let shown := if tileIsIntra s lay want size then want else cur.shown
  let s := if shown ≠ cur.shown then seaCnt d 2 s else s
  let pic := tilePicture s lay shown size
  let tainted := if shown = noId then false else match pic with | some p => p.tainted | none => cur.tainted
  let s := modSlotOf v i (fun _ => { shown := shown, want := want, tainted := tainted }) s
  if shown ≠ noId && pic.isNone then
    let key : BitVec 64 := put shown 0 ||| put size 16 ||| put lay 48
    raiseAnyOnce d (engineReq 4) 0x0A08 key (seaEv d 1 (seaCnt d 1 s))
  else s

/-- A mosaic's IDR: every slot shows its source, or grey where its stream has no intra picture. -/
def startMosaic (v lay : BitVec 16) (s : State) : State :=
  let h := s.layLive lay
  let slots := (slotsOn h).foldl (fun t e =>
    let want := slotSource s v e.2
    let size := slotSize h e.2
    let shown := if tileIsIntra s lay want size then want else noId
    let tainted := match tilePicture s lay shown size with | some p => p.tainted | none => false
    tset {} t e.1 { shown := shown, want := want, tainted := tainted }) []
  s.modLeg v fun x => { x with viewer := x.viewer.map fun w => { w with started := true, startAt := none, slots := slots, poc := 0 } }

/-- The slots of a viewer that lack an intra picture. -/
def lackingSlots (s : State) (v lay : BitVec 16) : Nat :=
  let h := s.layLive lay
  ((slotsOn h).filter fun e => !tileIsIntra s lay (slotSource s v e.2) (slotSize h e.2)).length

/-- The parameter sets of a mosaic of a layout. -/
def mosaicSets (h : LayHalf) : MosaicSets :=
  { width := h.width, height := h.height, colW := h.colW.take h.cols, rowH := h.rowH.take h.rows, level := mosaicLevel h, main10 := h.main10,
    tools := { tiles := decide (1 < h.cols * h.rows) } }

/-- What a grid tile of a viewer's mosaic carries: the slice of the slot's tile picture, a skip tile where that picture is absent,
grey outside every slot and where a slot shows none (10 R237). -/
def gridTile (s : State) (v lay : BitVec 16) (c r : Nat) : TileData :=
  let h := s.layLive lay
  match (slotsOn h).find? fun e => decide (e.2.col ≤ c) && decide (c < e.2.col + e.2.nCols) && decide (e.2.row ≤ r) && decide (r < e.2.row + e.2.nRows) with
  | none => .grey
  | some (i, x) =>
    let shown := match (s.leg v).viewer with | some w => (tget ({} : SeamSlot) w.slots i).shown | none => noId
    if shown = noId then .grey
    else match tilePicture s lay shown (slotSize h x) with
      | none => .skip
      | some p => match p.slices[(r - x.row) * x.nCols + (c - x.col)]? with
        | some sl => .copy sl
        | none => .skip

/-- The slices of a mosaic picture, in tile-scan order. slice_segment_address counts CTBs in raster order (log 147). -/
def mosaicSlices (s : State) (v lay : BitVec 16) (poc : BitVec 16) : List MosaicSlice :=
  let h := s.layLive lay
  (List.range h.rows).flatMap fun r => (List.range h.cols).map fun c =>
    { first := r == 0 && c == 0, address := (gridSpan h.rowH r 0).1 * blocks64 h.width + (gridSpan h.colW c 0).1, poc := poc,
      data := gridTile s v lay c r }

/-- A mosaic picture of a viewer goes out: its parameter sets where they have changed, its slices, its taint (10 R237, R238). -/
def emitMosaic (v lay : BitVec 16) (idr : Bool) (s : State) : State :=
  match (s.leg v).viewer with
  | none => s
  | some w =>
    let sets := mosaicSets (s.layLive lay)
    let tainted := w.slots.any fun e => e.2.tainted
    let slices := mosaicSlices s v lay w.poc
    let s := emit (.mosaic v idr tainted (if w.sets = some sets then none else some sets) slices) s
    let s := sendOwnVideo v (s.mpNo 0) (Config.mosaicPackets (slices.map fun x => match x.data with | .copy t => t.data | .skip | .grey => [])) s
    seaCnt (legDie v) 0 (s.modLeg v fun x => { x with viewer := x.viewer.map fun w => { w with sets := some sets } })

/-- A viewer's mosaic at a picture boundary: it starts, waits for its IDR, or is spliced (R237, R238). -/
def spliceViewer (v lay : BitVec 16) (s : State) : State :=
  match (s.leg v).viewer with
  | none => startViewer v lay s
  | some w =>
    if w.layout ≠ lay then startViewer v lay s
    else if !w.started then (if lackingSlots s v lay = 0 then emitMosaic v lay true (startMosaic v lay s) else s)
    else
      let s := forAll (slotsOn (s.layLive lay)) (fun e s => spliceSlot v lay e.1 e.2 s) s
      emitMosaic v lay false (s.modLeg v fun x => { x with viewer := x.viewer.map fun w => { w with poc := w.poc + 1 } })

/-- SEAM_START_WAIT_EXPIRY: SEA_START_WAIT ms after a start, the IDR goes out; slots that still lack an intra picture carry
grey: error 0x0A09. -/
def execSeamStartWaitExpiry (leg : BitVec 16) (s : State) : Host.Outcome State Fault Refusal :=
  let d := legDie leg
  match (s.leg leg).viewer with
  | none => .next s
  | some v =>
    match v.started, v.startAt with
    | false, some t =>
      let s := s.advanceMs t (s.die d).gal.seaWait.toNat
      let n := lackingSlots s leg v.layout
      let s := emitMosaic leg v.layout true (startMosaic leg v.layout s)
      if n = 0 then .next s
      else .next (raiseAny d (engineReq 4) 0x0A09 (seaEv d 3 (forAll (List.range n) (fun _ s => seaCnt d 4 s) s)))
    | _, _ => .next s

/-! ## Tile streams (10 R235, R236, 11 R250) -/

/-- The streams that the viewers of a layout need: of each slot, what it shows and what it is to show, at its size. -/
def neededTiles (s : State) (lay : BitVec 16) : List (BitVec 16 × BitVec 32) :=
  let h := s.layLive lay
  ((viewersOf s lay).flatMap fun v => (slotsOn h).flatMap fun e =>
    let cur := match (s.leg v).viewer with | some w => tget ({} : SeamSlot) w.slots e.1 | none => {}
    ([slotSource s v e.2, cur.shown].filter fun l => l != noId && s.legOpen l).map fun l => (l, slotSize h e.2)).eraseDups

/-- Rate of a tile stream: its CTBs times the smallest, over the die's Seam layouts that show it at its size, of 0.9 × the
level bitrate ÷ the grid's CTBs. -/
def tileRate (s : State) (lay : BitVec 16) (t : BitVec 16 × BitVec 32) : Nat :=
  let ctbs := blocks64 (t.2.extractLsb' 0 16).toNat * blocks64 (t.2.extractLsb' 16 16).toNat
  let lays := (s.layoutsOn (layDie lay)).filter fun x => (s.lay x).kind && (x == lay || (tileIdx s x t.1 t.2).isSome)
  let rates := lays.map fun x => ctbs * 9 * mosaicRate (s.layLive x) / (10 * max 1 (blocks64 (s.layLive x).width * blocks64 (s.layLive x).height))
  rates.foldl min (rates.headD 0)

/-- Starts a tile stream and its encode context: HEVC, one rung, L1T1, BUF 50. -/
def startTile (lay : BitVec 16) (t : BitVec 16 × BitVec 32) (s : State) : State :=
  let d := layDie lay
  let h := s.layLive lay
  let stream : TileStream := { layout := lay, source := t.1, size := t.2 }
  let s := s.modDie d fun x => { x with gal := { x.gal with tiles := x.gal.tiles ++ [stream] } }
  let rate := BitVec.ofNat 24 (tileRate s lay t)
  let rung : Rung := { rate := rate, rateCmd := rate }
  let ctx : EncCtx := { state := .opened, source := lay, kind := 2, tileLeg := t.1, codec := 2, main10 := h.main10, mode := 0,
                        fps := BitVec.ofNat 8 h.fps, buf := 50, width := (t.2.extractLsb' 0 16).toNat,
                        height := (t.2.extractLsb' 16 16).toNat, rungs := [rung] }
  match freeEnc s d with
  | some i => openEnc d i ctx s
  | none => s

/-- Stops the streams of a layout that no viewer needs, with their contexts. -/
def stopTiles (lay : BitVec 16) (keep : List (BitVec 16 × BitVec 32)) (s : State) : State :=
  let d := layDie lay
  let gone := (s.die d).gal.tiles.filter fun t => t.layout == lay && !keep.contains (t.source, t.size)
  let s := forAll gone (fun t s => match tileCtx s t with | some c => closeEnc c none s | none => s) s
  s.modDie d fun x => { x with gal := { x.gal with tiles := x.gal.tiles.filter fun t => !gone.contains t } }

/-- The picture boundary of a Seam layout at MP `m`: its viewers are spliced, its streams follow their needs, and the
next tile pictures begin. -/
def seamBoundary (lay : BitVec 16) (m : Nat) (failed : List (BitVec 16)) (s : State) : State :=
  let d := layDie lay
  let s := forAll (s.allOpenLegs.filter fun l => match (s.leg l).viewer with
      | some w => w.layout == lay && seamOf s l != some lay
      | none => false) (fun l s => s.modLeg l fun x => { x with viewer := none }) s
  let s := forAll (viewersOf s lay) (fun v s => spliceViewer v lay s) s
  let need := neededTiles s lay
  let s := stopTiles lay need s
  let s := forAll (need.filter fun t => (tileIdx s lay t.1 t.2).isNone) (fun t s => startTile lay t s) s
  let s := s.modDie d fun x => { x with gal := { x.gal with
    tiles := x.gal.tiles.map fun t => if t.layout = lay then { t with picture := none } else t } }
  forAll ((s.openEncs d).filter fun c => (s.enc c).kind == 2 && (s.enc c).source == lay) (fun c s =>
    encTick c m ((largestDec s (s.enc c).tileLeg).bind fun k => (decSource s k).map fun p =>
      (p.1, p.2.1, (s.enc c).width, (s.enc c).height)) (failed.contains c) s) s

/-- Whether a tile picture meets what Table 10.6 asks of its headers: profile and format, the slot's size, one tile for each grid tile of a
slot of that size with the grid's widths, each its own independent slice, one reference to the previous picture, POC step 1,
TemporalId 0, the Seam tool set with no filter across tiles or slices. -/
def tilePicOk (h : LayHalf) (size : BitVec 32) (t : TilePic) : Bool :=
  (t.profile == 1 || (t.profile == 2 && h.main10)) && t.chroma == 1 &&
    BitVec.ofNat 32 (t.width + 65536 * t.height) == size && t.independent && t.pocStep == 1 && t.tid == 0 && t.refs == (if t.intra then [] else [-1]) &&
    t.slices.length == t.colW.length * t.rowH.length && t.tools == { tiles := decide (1 < t.slices.length) } &&
    (slotsOn h).any fun e => slotSize h e.2 == size && t.colW == (h.colW.drop e.2.col).take e.2.nCols && t.rowH == (h.rowH.drop e.2.row).take e.2.nRows

/-- TILE_PICTURE_RECEIVE: a picture that meets Table 10.6 waits for the next splice; one that does not is refused and
counts as missing: error 0x0A07 at most once per stream and second. -/
def execTilePictureReceive (die i : Nat) (t : TilePic) (s : State) : Host.Outcome State Fault Refusal :=
  match (s.die die).gal.tiles[i]? with
  | none => .next s
  | some x =>
    if tilePicOk (s.layLive x.layout) x.size t then .next (s.modTile die i fun x => { x with picture := some t })
    else
      let key : BitVec 64 := put x.source 0 ||| put x.size 16 ||| put x.layout 48
      .next (raiseAnyOnce die (engineReq 4) 0x0A07 key (seaEv die 0 (seaCnt die 5 s)))

end Sys2Proof.Machine
end

