-- ==== Sys2Proof/Machine/Gallery.lean ====
section
/-! DEFINITION. Layout commands, fences, flip groups and their commit, and the picture boundary of a layout
(10 R217 to R233). -/

namespace Sys2Proof.Machine

/-! ## Layout commands (10 R228) -/

/-- Whether a function owns a layout. -/
def ownsLay (s : State) (f : Nat) (h : BitVec 16) : Bool := isPf f || (s.lay h).alloc == some f

/-- LAYOUT_ALLOC: the free layout of lowest index. -/
def execLayoutAlloc (c : Cmd) (s : State) : Host.Outcome State Fault Refusal :=
  .next (runCmd 0x80 c (fun s =>
    let d := fldN c.w1 0 3
    if !s.hasDie d || !only c.w1 0x1F then (.st 2, s)
    else match findIdx (fun i => (tget {} (s.die d).gal.layouts i).alloc.isNone) 64 0 with
      | none => (.st 7, s)
      | some i =>
        let h := layHandle d i
        (.done 0 h 0 0, s.modLay h fun x => { x with alloc := some c.func, kind := bit c.w1 4, unit := bit c.w1 3 })) s)

/-- Whether an encode context names a layout. -/
def layNamed (s : State) (h : BitVec 16) : Bool :=
  (s.openEncs (layDie h)).any fun c => (s.enc c).kind == 0 && (s.enc c).source == h

/-- LAYOUT_FREE: INVALID if live ENABLE = 1, BUSY if a flip is pending, REFERENCED while an encoder names it. -/
def execLayoutFree (c : Cmd) (s : State) : Host.Outcome State Fault Refusal :=
  .next (runCmd 0x81 c (fun s =>
    let h := argOf c
    if !ownsLay s c.func h then (.st 4, s)
    else if !layOk s h || !only c.w1 0xFFFF || (s.lay h).alloc.isNone || (s.layLive h).enable then (.st 2, s)
    else if (s.lay h).pending then (.st 5, s)
    else if layNamed s h then (.st 8, s)
    else (.st 0, s.modLay h fun x => { live := x.live })) s)

/-- The group that a FLIP names. -/
def flipGroup (c : Cmd) : FlipGroup :=
  let n := fldN c.w1 0 3 + 1
  let items := [(fld c.w3 0 16, fld c.w3 16 16), (fld c.w3 32 16, fld c.w3 48 16), (fld c.w4 0 16, fld c.w4 16 16), (fld c.w4 32 16, fld c.w4 48 16)]
  let fences := [c.w5, c.w6, c.w7].map fun w => ((fld w 0 8 : BitVec 8), (fld w 32 32 : BitVec 32))
  { func := c.func, tag := tagOf c, items := items.take n, fences := fences.take (fldN c.w1 3 2), trigDl := bit c.w1 5, deadline := c.w2 }

/-- The frame rate that sets a layout's boundaries: its live one, before its first commit that of the shadow half. -/
def flipFps (s : State) (h : BitVec 16) : Nat := if s.layOn h then (s.layLive h).fps else (s.layHalf h (!(s.lay h).live)).fps

/-- FLIP: a group of up to 4 distinct layouts of one die with one FPS waits for its picture boundaries; any other group
has no boundary to be evaluated at and completes INVALID at once (log 35). -/
def execFlip (c : Cmd) (s : State) : Host.Outcome State Fault Refusal :=
  .next (runCmd 0x82 c (fun s =>
    let g := flipGroup c
    let hs := g.items.map (·.1)
    let h := hs.headD 0
    let ok := decide (fldN c.w1 0 3 < 4) && only c.w1 0x3F && hs.all (fun x => layOk s x && layDie x == layDie h && flipFps s x == flipFps s h) &&
      decide (hs.eraseDups.length = hs.length) && decide (1 ≤ flipFps s h)
    if !ok then (.st 2, s)
    else
      let g := { g with clash := hs.any fun x => (s.lay x).pending }
      let s := forAll hs (fun x s => s.modLay x fun l => { l with pending := true }) s
      (.later, s.modDie (layDie h) fun x => { x with gal := { x.gal with flips := x.gal.flips ++ [g] } })) s)

/-- FENCE_BIND: a decode context adds 1 to a fence of its die for each picture it completes; or no longer does. -/
def execFenceBind (c : Cmd) (s : State) : Host.Outcome State Fault Refusal :=
  .next (runCmd 0x83 c (fun s =>
    let k := argOf c
    if !ownsLeg s c.func (s.dec k).leg then (.st 4, s)
    else if !decOk s k || (s.dec k).state ≠ .opened || !only c.w1 0x1FFFFFF then (.st 2, s)
    else (.st 0, s.modDec k fun x => { x with fence := if bit c.w1 24 then none else some (fldN c.w1 16 8) })) s)

/-- A fence takes a value whose signed difference to the old one is greater than 0; other writes are ignored (10 R227). -/
def fenceSet (d i : Nat) (new : BitVec 32) (s : State) : State :=
  let old := tget 0 (s.die d).gal.fence i
  if 0 < (new - old).toInt then s.modDie d fun x => { x with gal := { x.gal with fence := tset 0 x.gal.fence i new } } else s

/-- GAL_FENCE_WRITE: a write takes effect only if it advances the value, by the signed difference (10 R227). -/
def execGalFenceWrite (die i : Nat) (v : Word) (s : State) : Host.Outcome State Fault Refusal :=
  if s.off die then .next s else
  .next (fenceSet die i (fld v 0 32) s)

/-! ## Checks at commit (10 R229) -/

/-- Whether a layer of a Gallery half is valid: ranges, a surface and alpha plane where they are needed, valid banks, a
ratio of at most 8, a visible width of at most 4,096. -/
def layerOk (s : State) (d : Nat) (h : LayHalf) (y : GalLayer) : Bool :=
  let r := layerAtCommit s y
  decide (y.srcKind ≤ 2) && (y.srcKind != 0 || decOk s y.ctx) &&
    (if y.scaleMode then decide (512 ≤ y.scale) else decide (1 ≤ y.dstW) && decide (y.dstW ≤ 16384) && decide (1 ≤ y.dstH) && decide (y.dstH ≤ 16384)) &&
    (y.srcKind != 1 || (decide (1 ≤ y.surfW) && decide (y.surfW ≤ 8192) && decide (1 ≤ y.surfH) && decide (y.surfH ≤ 4352) &&
      y.surf != 0 && y.surf % 8192 == 0 && devOk s y.surf (8192 * bufSlots y.surfW y.surfH))) &&
    (decide (y.alphaMode < 2) || (y.alpha != 0 && y.alpha % 4096 == 0 && devOk s y.alpha (4096 * bufSlots r.srcW r.srcH))) &&
    (y.srcKind == 2 || (banksOk s d r && ratioOk r && decide (1 ≤ r.dw) && decide (1 ≤ r.dh))) && decide (visibleW h r ≤ 4096)

/-- The layers of a half that are drawn. -/
def layersOn (h : LayHalf) : List (Nat × GalLayer) := ((List.range 32).zip h.layers).filter fun e => e.2.en

/-- Whether a half is valid for its layout. A half with ENABLE = 0 is judged on its reserved bits alone (log 36). -/
def layHalfOk (s : State) (l : BitVec 16) (h : LayHalf) : Bool :=
  if (s.lay l).kind then h.seamOk && h.slots.all (·.reservedOk) && (!h.enable || seamHalfOk s h)
  else h.galOk && h.layers.all (·.reservedOk) &&
    (!h.enable || (canvasOk h && decide (1 ≤ h.fps) && decide (h.fps ≤ 60) && (layersOn h).all fun e => layerOk s (layDie l) h e.2))

/-- What a half of a layout takes once live: pixel rate, bandwidth (class 2, or class 1 for a Seam layout), slots of an output buffer,
and reserved encode and analysis load. -/
structure LayLoad where
  pix : Nat := 0
  bw : Nat := 0
  slots : Nat := 0
  enc : Nat := 0
  ana : Nat := 0
  deriving DecidableEq, Repr

/-- The three output buffers of a load, each of `slots` block slots (10 R220). -/
def canvasBufs (n : LayLoad) : List (BitVec 2 × Nat) := if n.slots = 0 then [] else List.replicate 3 (0, n.slots)

/-- The load of a half. -/
def layLoad (s : State) (l : BitVec 16) (h : LayHalf) : LayLoad :=
  if !h.enable then {}
  else if (s.lay l).kind then let (e, a, b) := seamReserve h; { bw := b, enc := e, ana := a }
  else { pix := pixRate h.width h.height h.fps, bw := galBw h ((layersOn h).map fun e => layerAtCommit s e.2), slots := bufSlots h.width h.height }

/-- A die without the load of a layout, and with a new one; SEA and unit registers follow. -/
def dropLayLoad (l : BitVec 16) (s : State) : State :=
  let d := layDie l
  let x := s.lay l
  let s := modPool d (fun v => { v with runs := v.runs.filter fun r => r.kind != .canvas || r.owner != l }) s
  let s := if x.kind then encSub d x.enc x.ana x.bw s else bwSub d 2 x.bw s
  s.modDie d fun y => { y with gal := { y.gal with
    pix0 := if x.unit then y.gal.pix0 else y.gal.pix0 - x.pix, pix1 := if x.unit then y.gal.pix1 - x.pix else y.gal.pix1 } }
def addLayLoad (l : BitVec 16) (n : LayLoad) (s : State) : State :=
  let d := layDie l
  let x := s.lay l
  let s := s.modLay l fun y => { y with pix := n.pix, bw := n.bw, enc := n.enc, ana := n.ana }
  let s := modPool d (fun v => (takeRuns .canvas l (canvasBufs n) v).getD v) s
  let s := if x.kind then encAdd d n.enc n.ana n.bw s else bwAdd d 2 n.bw s
  s.modDie d fun y => { y with gal := { y.gal with
    pix0 := if x.unit then y.gal.pix0 else y.gal.pix0 + n.pix, pix1 := if x.unit then y.gal.pix1 + n.pix else y.gal.pix1 } }

/-- Whether the class 2 allocation takes a layout's load, and whether its unit, the pool, the encoders and the class 1
allocation do. -/
def layBudget (l : BitVec 16) (n : LayLoad) (s : State) : Bool := (s.lay l).kind || bwFits s (layDie l) 2 n.bw
def layCapacity (l : BitVec 16) (n : LayLoad) (s : State) : Bool :=
  let d := layDie l
  let g := (s.die d).gal
  if (s.lay l).kind then encFits s d n.enc n.ana && bwFits s d 1 n.bw
  else decide ((if (s.lay l).unit then g.pix1 else g.pix0) + n.pix ≤
      if (s.die d).cap.units.contains (if (s.lay l).unit then 43 else 42) then 0 else 1000000 * g.pixCap.toNat) && (takeRuns .canvas l (canvasBufs n) (s.die d).vdc).isSome

/-- Whether the loads of a group fit, one after the other on top of what the rest of the die carries. -/
def groupFits (fits : BitVec 16 → LayLoad → State → Bool) (hs : List (BitVec 16 × LayLoad)) (s : State) : Bool :=
  let s0 := forAll hs (fun e s => dropLayLoad e.1 s) s
  (hs.foldl (fun (acc : Bool × State) e => (acc.1 && fits e.1 e.2 acc.2, addLayLoad e.1 e.2 acc.2)) (true, s0)).1

/-- A layout's shadow half, whose load the die carries, goes live. A viewer's mosaic restarts where the canvas or the grid
changes (R238). -/
def commitLayout (l : BitVec 16) (s : State) : State :=
  let old := s.layLive l
  let s := s.modLay l fun x => { x with live := !x.live }
  let new := s.layLive l
  if (s.lay l).kind then
    if !new.enable then stopTiles l [] s
    else if old.enable && (old.width != new.width || old.height != new.height || old.cols != new.cols || old.rows != new.rows ||
        old.colW != new.colW || old.rowH != new.rowH) then
      forAll (viewersOf s l) (fun v s => if (s.leg v).viewer.isSome then startViewer v l s else s) s
    else s
  else if !new.enable then s.modLay l fun x => { x with composing := false, drawn := [], inStrip := 0, strip := false, held := false }
  else s

/-- The state after a group's commit, of which the Seam capacity is judged. -/
def commitGroup (hs : List (BitVec 16 × LayLoad)) (s : State) : State :=
  let s := forAll hs (fun e s => addLayLoad e.1 e.2 s) (forAll hs (fun e s => dropLayLoad e.1 s) s)
  refreshSea (forAll hs (fun e s => commitLayout e.1 s) s)

/-- The new halves of a group, with their loads. -/
def groupLoads (s : State) (g : FlipGroup) : List (BitVec 16 × LayLoad) :=
  g.items.map fun e => (e.1, layLoad s e.1 (s.layHalf e.1 (!(s.lay e.1).live)))

/-- Whether a group's versions are live + 1 and stand in the shadow halves. -/
def groupFresh (s : State) (g : FlipGroup) : Bool :=
  g.items.all fun e => e.2 == (s.layLive e.1).version + 1 && e.2 == (s.layHalf e.1 (!(s.lay e.1).live)).version

/-- The status of the checks of a group, in order; 0 where it commits. -/
def groupStatus (s : State) (g : FlipGroup) : BitVec 8 :=
  let loads := groupLoads s g
  if g.clash then 5
  else if !g.items.all (fun e => (s.lay e.1).alloc.isSome && ownsLay s g.func e.1) then 4
  else if !groupFresh s g then 1
  else if !g.items.all (fun e => layHalfOk s e.1 (s.layHalf e.1 (!(s.lay e.1).live))) then 2
  else if !groupFits layBudget loads s then 3
  else if !groupFits layCapacity loads s then 7
  else
    let t := commitGroup loads s
    if s.dieList.all (fun d => seaFits t d || decide (seaLoad t d = seaLoad s d)) then 0 else 7

/-- A group commits: every layout applies its new version; the ledger records it with the halves. -/
def commitFlip (d : Nat) (g : FlipGroup) (m : Nat) (s : State) : State :=
  let s := commitGroup (groupLoads s g) s
  let s := galCnt d 4 (endFlip d g 0 s)
  ledger d (.flip true (BitVec.ofNat 64 m) (g.items.map fun e => (e.1, rdBytes s.tables (layHalfAt e.1 (s.lay e.1).live) 4096))) s

/-- A group is cancelled at its deadline, in the standby too. -/
def cancelDue (die : Nat) (g : FlipGroup) (m : Nat) (s : State) : State :=
  ledger die (.flip false (BitVec.ofNat 64 m) (g.items.map fun e => (e.1, []))) (cancelFlip die g s)

/-- A group fails a check, with error 0x0A01 where the check is one of its halves. -/
def failFlip (die : Nat) (g : FlipGroup) (st : BitVec 8) (s : State) : State :=
  let s := galEv die 0 (endFlip die g st s)
  if st = 2 then raiseAny die (engineReq 3) 0x0A01 s else s

/-- Whether every fence of a group has reached its value. -/
def fencesReached (s : State) (die : Nat) (g : FlipGroup) : Bool :=
  g.fences.all fun e => decide (0 ≤ (tget 0 (s.die die).gal.fence e.1.toNat - e.2).toInt)

/-- A group at a boundary: `here`, a picture boundary of its layouts; `due`, its deadline. -/
def evalFlip (die : Nat) (g : FlipGroup) (due here : Bool) (m : Nat) (s : State) : State :=
  if !here || !fencesReached s die g then (if due then cancelDue die g m s else s)
  else if groupStatus s g = 0 then commitFlip die g m s
  else failFlip die g (groupStatus s g) s

/-- FLIP_EVALUATE: a waiting group at the next MP boundary: at a picture boundary of its layouts it waits on its fences,
fails a check or commits; at DEADLINE_MP it is cancelled unless it commits there. A standby commits by the ledger. -/
def execFlipEvaluate (die i : Nat) (atDeadline : Bool) (s : State) : Host.Outcome State Fault Refusal :=
  let m := s.nextMp
  match (s.die die).gal.flips[i]? with
  | none => .next s
  | some g =>
    let due := g.deadline != 0 && decide (g.deadline.toNat ≤ m)
    let here := !atDeadline && (pictureAt (flipFps s (g.items.headD (0, 0)).1) m).isSome
    if standsBy s || (!here && !due) then .next s
    else .next (evalFlip die g due here m s.toBoundary)

/-! ## Picture boundaries (10 R218, R231, R232) -/

/-- A layer resolved for the picture that begins now: what is drawn; whether it is held; whether it is in strip mode; and
the pixel slots of strip work it adds. -/
structure LayerNow where
  index : Nat
  drawn : Option Drawn
  held : Bool := false
  strip : Bool := false
  late : Bool := false
  ratio : Bool := false
  deriving DecidableEq, Repr

/-- The picture that a layer drew last, placed again. -/
def heldLayer (s : State) (y : GalLayer) (last : Option (Nat × Nat × Nat)) : Option Drawn :=
  match last with
  | some (k, pid, size) =>
    let c := BitVec.ofNat 16 k
    (findPic s c pid).map fun p => placeLayer y (picSizes p) (some p) p.width p.height (some size)
  | none => none

/-- The layers of a picture, in ascending order, each checked again; strip mode is taken while the added work stays within
one ninth of the canvas. -/
def resolveLayers (s : State) (d : Nat) (x : Layout) (h : LayHalf) : List (Nat × GalLayer) → Nat → List LayerNow
  | [], _ => []
  | (i, y) :: rest, used =>
    let last := tget none x.drawn i
    let cur : Option Drawn :=
      if y.srcKind = 0 then (newestPic s y.ctx fun _ => true).map fun p => placeLayer y (picSizes p) (some p) p.width p.height none
      else some (layerAtCommit s y)
    match cur with
    | none => { index := i, drawn := none } :: resolveLayers s d x h rest used
    | some r =>
      let w := visibleW h r
      let extra := ((w + 4095) / 4096 - 1) * visibleH h r * 64
      let hold := if y.srcKind = 0 then heldLayer s y last else some r
      if y.srcKind ≠ 2 && (!ratioOk r || !banksOk s d r) then
        { index := i, drawn := hold, held := true, ratio := true } :: resolveLayers s d x h rest used
      else if w ≤ 4096 then { index := i, drawn := some r } :: resolveLayers s d x h rest used
      else if (used + extra) * 9 ≤ 4096 * (blocks64 h.width * blocks64 h.height) then
        { index := i, drawn := some r, strip := true } :: resolveLayers s d x h rest (used + extra)
      else { index := i, drawn := hold, held := true, late := true } :: resolveLayers s d x h rest used

/-- The reports of a picture's layers: strip entries, layer-late and ratio (R231). -/
def reportLayers (d : Nat) (x : Layout) (ls : List LayerNow) (s : State) : State :=
  forAll ls (fun l s =>
    let s := if l.strip && !x.inStrip.getLsbD l.index then raiseAny d (engineReq 3) 0x0A02 (galEv d 1 (galCnt d 3 s)) else s
    let s := if l.late then raiseAny d (engineReq 3) 0x0A03 (galEv d 2 (galCnt d 2 s)) else s
    if l.ratio then raiseAny d (engineReq 3) 0x0A04 (galEv d 3 s) else s) s

/-- Whether a picture is tainted: a drawn block of a layer comes from a tainted picture (R226). -/
def canvasTaint (h : LayHalf) : List Drawn → Bool
  | [] => false
  | r :: above => (match r.pic with | some p => p.taint && !(layerBlocks h r above).1.isEmpty | none => false) || canvasTaint h above

/-- The coefficients in use from now on: the words of each bank that is valid. -/
def takeCoefs (d : Nat) (s : State) : State :=
  let g := (s.die d).gal
  if g.coef = g.coefUse then s
  else
    let ok := (List.range 4).map (bankValid s d)
    let use := (List.range 256).foldl (fun t i => if ok.getD (i / 64) false then tset 0 t i (coefNow s d i) else t) g.coefUse
    s.modDie d fun x => { x with gal := { x.gal with coefUse := use } }

/-- The picture being composed becomes the output picture, or, incomplete, is discarded and the previous one repeated
(R232). -/
def finishCanvas (l : BitVec 16) (late : Bool) (s : State) : State :=
  let d := layDie l
  let x := s.lay l
  if !x.composing then s
  else if late then
    raiseAny d (engineReq 3) 0x0A05 (galEv d 4 (galCnt d 1 (s.modLay l fun x => { x with composing := false, repeated := true })))
  else galCnt d 0 (s.modLay l fun x =>
    { x with composing := false, repeated := false, cur := (x.cur + 1) % 3, pics := x.pics + 1, taint := x.newTaint, before := x.placed,
             placed := x.placing })

/-- Where a layer is drawn, with its crop in full-size pixels (11 R246). -/
def placedOf (e : Nat × Drawn) : PlacedLayer :=
  let r := e.2
  { index := e.1, kind := r.layer.srcKind, content := r.pic.map (·.content), dx := r.dx, dy := r.dy, dw := r.dw, dh := r.dh, ox := r.cropX * 2 ^ r.size,
    oy := r.cropY * 2 ^ r.size, sw := r.cropW * 2 ^ r.size, sh := r.cropH * 2 ^ r.size }

/-- Composition of a picture begins: layers, marks, counts, and the canvas in the next output buffer. -/
def beginCanvas (l : BitVec 16) (m : Nat) (s : State) : State :=
  let d := layDie l
  let x := s.lay l
  let h := s.layLive l
  let s := takeCoefs d s
  let ls := resolveLayers s d x h (layersOn h) 0
  let drawn := ls.filterMap (·.drawn)
  let (culled, fetched, _) := pictureBlocks h drawn
  let coef (i : Nat) : BitVec 60 := tget 0 (s.die d).gal.coefUse i
  let base := canvasOffset s l ((x.cur + 1) % 3)
  let bytes := canvasBytes s coef h drawn
  let s := reportLayers d x ls s
  let kept := ls.foldl (fun t e => match e.drawn with
    | some r => match r.pic with
      | some p => tset none t e.index (some (r.layer.ctx.toNat, p.pid, r.size))
      | none => t
    | none => t) []
  let mask := ls.foldl (fun (v : BitVec 32) e => if e.strip then v ||| (1 <<< e.index) else v) 0
  let s := s.modLay l fun x => { x with composing := true, curMp := BitVec.ofNat 64 m, newTaint := canvasTaint h drawn, drawn := kept, inStrip := mask, placing := ls.filterMap fun e => e.drawn.map fun r => placedOf (e.index, r)
                                        strip := mask != 0, held := ls.any (·.held) }
  let s := s.modDie d fun y => { y with dram := wrBytes y.dram base bytes }
  s.modDie d fun y => { y with gal := { y.gal with
    cnt := tmod 0 (tmod 0 y.gal.cnt 6 (· + BitVec.ofNat 32 culled)) 7 (· + BitVec.ofNat 32 fetched) } }

/-- The source of a Gallery encode: the output picture now available; a repeated one is no new picture. -/
def gallerySource (s : State) (l : BitVec 16) : Option SrcPic :=
  let x := s.lay l
  if x.pics = 0 then none else some ((l.toNat, x.pics.toNat), x.taint, (s.layLive l).width, (s.layLive l).height)

/-- The Gallery contexts of a layout take their picture. -/
def galleryTick (l : BitVec 16) (m : Nat) (failed : List (BitVec 16)) (s : State) : State :=
  forAll ((s.openEncs (layDie l)).filter fun c => (s.enc c).kind == 0 && (s.enc c).source == l) (fun c s =>
    encTick c m (gallerySource s l) (failed.contains c) s) s

/-- PICTURE_BOUNDARY: the next MP boundary, where it is a picture boundary of an enabled layout: the picture composed so far
goes out or is late, the next composition begins, viewers are spliced, and the encoders take their sources. -/
def execPictureBoundary (die idx : Nat) (late : Bool) (failed : List (BitVec 16)) (s : State) : Host.Outcome State Fault Refusal :=
  let l := layHandle die idx
  let m := s.nextMp
  if !s.layOn l || (pictureAt (s.layLive l).fps m).isNone || !(s.die die).counting then .next s
  else
    let s := s.toBoundary
    if (s.lay l).kind then .next (seamBoundary l m failed s)
    else
      let s := galleryTick l m failed (beginCanvas l m (finishCanvas l late s))
      .next (forAll (s.dieList.flatMap s.openDecs) trimPics s)

end Sys2Proof.Machine
end

