-- ==== Sys2Proof/Machine/Tables.lean ====
section
/-! DEFINITION. The table aperture and the staging slices as a host writes them, the locks of table entries, and
doorbells (04 R78, R86 to R89, R96, 19 R407). -/

namespace Sys2Proof.Machine

/-- A write, or a read, that falls on an absent or reserved range: error 0x1301 (19 R404, R407). -/
def rangeError (d f : Nat) (s : State) : State := raiseAny d (hostReq f) 0x1301 s

/-! ## Locks (04 R87) -/

/-- The entries reached from a subscription list's head, whether or not the list ends. -/
def subReach (s : State) (d : Nat) : (fuel i : Nat) → List Nat
  | 0, _ => []
  | n + 1, i => if (s.sub d i).last then [i] else i :: subReach s d n (s.sub d i).next

/-- The subscription entries that a half of a leg reaches. -/
def halfSubs (s : State) (l : BitVec 16) (h : Bool) : List Nat :=
  let x := s.legHalf l h
  if x.subEn then subReach s (legDie l) 1024 x.subHead else []

/-- Whether a doorbell or SAFE_LOAD of an entry is pending: rung and not yet completed, BUSY ones among them. -/
def bellPending (s : State) (isConf : Bool) (id : BitVec 16) : Bool :=
  if isConf then (s.conf id).db.isSome || !(s.conf id).busyDbs.isEmpty else (s.leg id).db.isSome || !(s.leg id).busyDbs.isEmpty

/-- Whether a move locks an entry in MP `mp`: from the MP after the one it was posted in (04 Table 4.12 step 2). -/
def moveLocks (s : State) (isConf : Bool) (id : BitVec 16) (mp : Nat) : Bool :=
  (if isConf then (s.conf id).locked else (s.leg id).locked) &&
    s.moves.all fun m => !(m.isConf == isConf && (m.src == id || m.dst == id)) || decide (m.posted < mp)

/-- Whether an entry's shadow half is locked: between its doorbell and that doorbell's completion, or by a move. -/
def shadowLocked (s : State) (isConf : Bool) (id : BitVec 16) : Bool :=
  bellPending s isConf id || moveLocks s isConf id (s.mpNo 0)

/-- Whether a subscription entry is locked: a live list reaches it, or a locked shadow half's list. -/
def subLocked (s : State) (d i : Nat) : Bool :=
  (s.legsOf d).any fun l =>
    (halfSubs s l (s.leg l).live).contains i || (shadowLocked s false l && (halfSubs s l (!(s.leg l).live)).contains i)

/-! ## Writes (04 R78, R87, R96, 10 R217, 19 R407) -/

/-- Where the unit of the aperture that holds an offset ends: a half, a subscription entry, or a region. -/
def unitEnd (a : Nat) : Nat :=
  if a < 0x400000 then (a / 256 + 1) * 256 else if a < 0x440000 then (a / 128 + 1) * 128
  else if a < 0x800000 then 0x800000 else if a < 0xC00000 then (a / 128 + 1) * 128
  else if a < 0x1000000 then 4096 * (a / 4096 + 1) else (a / 32 + 1) * 32

/-- What becomes of a host write of function `f` at an offset of the aperture. -/
inductive Verd where
  | store
  | discard
  | error (die : Nat) (code : BitVec 16)
  deriving DecidableEq, Repr

/-- The verdict on a write to a leg half, a conference half, a layout half and a subscription entry. A write both outside
the writer's ownership and to a locked place raises 0x0402 alone: the order is the model's (log 137). -/
def legVerd (s : State) (f a : Nat) : Verd :=
  let l : BitVec 16 := BitVec.ofNat 16 (a / 512)
  if !legIdOk s l then .error 0 0x1301
  else if !isPf f && (s.leg l).alloc != some f then .error (legDie l) 0x0402
  else if (a / 256 % 2 == 1) == (s.leg l).live || shadowLocked s false l then .error (legDie l) 0x0401
  else .store
def confVerd (s : State) (f a : Nat) : Verd :=
  let c : BitVec 16 := BitVec.ofNat 16 ((a - 0x400000) / 256)
  if !confIdOk s c then .error 0 0x1301
  else if !ownsConf s f c then .error (confDie c) 0x0402
  else if (a / 128 % 2 == 1) == (s.conf c).live || shadowLocked s true c then .error (confDie c) 0x0401
  else .store
def layVerd (s : State) (f a : Nat) : Verd :=
  let o := a - 0xC00000
  let h := layHandle (o / 0x80000) (o % 0x80000 / 0x2000)
  if !layOk s h then .error 0 0x1301
  else if !isPf f && (s.lay h).alloc != some f then .error (layDie h) 0x0402
  else if (a / 0x1000 % 2 == 1) == (s.lay h).live || (s.lay h).pending then .error (layDie h) 0x0401
  else .store
def subVerd (s : State) (f a : Nat) : Verd :=
  let o := a - 0x1000000
  let d := o / 0x200000
  let i := o % 0x200000 / 32
  let r := tget 0 (s.die d).lblk.subRange f
  if !s.hasDie d then .error 0 0x1301
  else if !isPf f && !(decide (fldN r 0 16 ≤ i) && decide (i < fldN r 0 16 + fldN r 16 17)) then .error d 0x0402
  else if subLocked s d i then .error d 0x0401
  else .store

/-- The verdict on a write at an offset: published entries are read-only, reserved ranges discard it with an error. -/
def tableVerd (s : State) (f a : Nat) : Verd :=
  if (s.die 0).str.state = .none then .error 0 0x1301
  else if a < 0x400000 then legVerd s f a
  else if a < 0x440000 then confVerd s f a
  else if a < 0x800000 || (0xA20000 ≤ a && a < 0xB00000) then .error 0 0x1301
  else if a < 0xC00000 then .discard
  else if a < 0x1000000 then layVerd s f a
  else if a < 0x2000000 then subVerd s f a
  else .error 0 0x1301

/-- A write carried out unit by unit; the detail of a lock or ownership error is the BAR2 offset (04 R104). -/
def tableWrite (f : Nat) : (fuel a : Nat) → List Byte → State → State
  | 0, _, _, s => s
  | _, _, [], s => s
  | n + 1, a, bs, s =>
    let k := unitEnd a - a
    let now := bs.take k
    let s := match tableVerd s f a with
      | .store => { s with tables := wrBytes s.tables a now }
      | .discard => s
      | .error d code => if code = 0x1301 then rangeError d f s else raiseFrom d (hostReq f) code (BitVec.ofNat 64 a) s
    tableWrite f n (a + k) (bs.drop k) s

/-- BAR2_TABLE_WRITE: a host write to the aperture, discarded by a unit that stands by (16 R354). -/
def execBar2TableWrite (func off : Nat) (bytes : List Byte) (s : State) : Host.Outcome State Fault Refusal :=
  .next (if standsBy s then s else tableWrite func bytes.length off bytes s)

/-! ## Published statistics (05 R133, 12 R285) -/

/-- A count as a 32-bit half of a word. -/
def put32 (x : BitVec 32) (hi : Bool) : Word := put x (if hi then 32 else 0)

/-- The receive-statistics entry of a leg at boundary `b`, Table 5.7. -/
def rxStats (b : Nat) (x : Leg) : List Word :=
  let r := x.rx
  let two (lo hi : BitVec 32) : Word := put32 lo false ||| put32 hi true
  [BitVec.ofNat 64 b, r.rxPkts, r.rxBytes, two r.lost r.recovered, two r.late r.early, two r.dup r.ssrcUnknown,
   two r.policeDrop r.policeMark, two r.tagFail r.carryFail, two r.concealMp r.silentMp,
   putN 16 x.jb.target 0 ||| put (BitVec.ofInt 16 x.jb.playout) 16 ||| put (BitVec.ofInt 32 r.stretch) 32,
   two (BitVec.ofNat 32 (x.jb.jitter / 16)) r.nackSent, put32 r.ptUnknown false, 0, 0, 0, BitVec.ofNat 64 b]

/-- The sent rate of a leg's video or audio over the last 500 MP, kb/s. -/
def sentRate (b : Nat) (video : Bool) (t : LegTx) : Nat :=
  (((within b 500 t.sentWindow).filter fun e => e.2.2 == video).foldl (fun n e => n + e.2.1) 0) * 8 / 500

/-- The transmit-statistics entry of a leg at boundary `b`, Table 12.4. -/
def txStats (b : Nat) (s : State) (l : BitVec 16) : List Word :=
  let t := (s.leg l).tx
  let two (lo hi : BitVec 32) : Word := put32 lo false ||| put32 hi true
  let subs := ((itemsOf s l).filter (·.isSome)).map (itemEntry s l)
  [BitVec.ofNat 64 b, t.txPkts, t.txBytes, putN 32 t.target 0 ||| put t.targetSrc 32, two t.queueDrop t.waitDrop, two t.nackRx t.rtxSent,
   two t.rtxMiss t.kfRx, putN 32 ((s.leg l).rx.rtt / 1000) 0 ||| put t.loss 32,
   two (BitVec.ofNat 32 (sentRate b true t)) (BitVec.ofNat 32 (sentRate b false t)),
   putN 16 (subs.filter (·.active)).length 0 ||| putN 16 (subs.filter (·.paused)).length 16 ||| put32 t.switches true, 0, 0, 0, 0, 0,
   BitVec.ofNat 64 b]

/-- The published entries of a leg as they read: a leg never used reads its counters' start values under the last MP. -/
def rxPub (s : State) (l : BitVec 16) : List Word :=
  let p := (s.leg l).rx.pub
  if p.isEmpty && s.hasDie (legDie l) then (s.lastMp.map fun b => rxStats b {}).getD [] else p
def txPub (s : State) (l : BitVec 16) : List Word :=
  let p := (s.leg l).tx.pub
  if p.isEmpty && s.hasDie (legDie l) then (s.lastMp.map fun b => txStats b s l).getD [] else p

/-- At an MP boundary the statistics of every leg but an aliased one are rewritten. -/
def publishStats (b : Nat) (s : State) : State :=
  forAll (s.dieList.flatMap s.legsOf) (fun l (s : State) =>
    if (s.leg l).aliasOf.isSome then s
    else
      let tx := txStats b s l
      s.modLeg l fun x => { x with rx := { x.rx with pub := rxStats b x }, tx := { x.tx with pub := tx } }) s

/-! ## Reads (04 R78, 19 R407) -/

/-- A byte of a published entry of 16 words. -/
def pubByte (words : List Word) (o : Nat) : Byte := (words.getD (o / 8) 0).extractLsb' (8 * (o % 8)) 8

/-- The byte a host reads below the staging slices: tables and layouts, statistics and reports; 0 in a reserved range, for an
entry of an absent die, and in structure state NONE (04 R78, 19 Table 19.3). -/
def tableByte (s : State) (a : Nat) : Byte :=
  let id16 (n : Nat) : BitVec 16 := BitVec.ofNat 16 n
  if (s.die 0).str.state = .none then 0
  else if a < 0x400000 then if legIdOk s (id16 (a / 512)) then rdByte s.tables a else 0
  else if a < 0x440000 then if confIdOk s (id16 ((a - 0x400000) / 256)) then rdByte s.tables a else 0
  else if a < 0x800000 then 0
  else if a < 0x900000 then pubByte (rxPub s (id16 ((a - 0x800000) / 128))) (a % 128)
  else if a < 0xA00000 then pubByte (txPub s (id16 ((a - 0x900000) / 128))) (a % 128)
  else if a < 0xA20000 then pubByte (s.conf (id16 ((a - 0xA00000) / 128))).pub (a % 128)
  else if a < 0xB00000 then 0
  else if a < 0xB80000 then pubByte (s.dec (ctxHandle ((a - 0xB00000) / 0x10000) ((a - 0xB00000) % 0x10000 / 128))).pub (a % 128)
  else if a < 0xC00000 then pubByte (s.enc (ctxHandle ((a - 0xB80000) / 0x8000) ((a - 0xB80000) % 0x8000 / 128))).pub (a % 128)
  else if a < 0x1000000 then if s.hasDie ((a - 0xC00000) / 0x80000) then rdByte s.tables a else 0
  else if s.hasDie ((a - 0x1000000) / 0x200000) then rdByte s.tables a else 0

/-- BAR2_STAGING_WRITE: a host access to a staging slice goes to its die's DRAM; outside the function's window a read
returns 0 and a write is discarded with 0x0402; beyond the slice it is reserved. A read below the slices returns what the
rest of BAR2 holds (log 10). -/
def execBar2StagingWrite (func off : Nat) (acc : StageAccess) (s : State) : Host.Outcome State Fault Refusal :=
  let d := (stageOf off).map (·.1) |>.getD 0
  let o := (stageOf off).map (·.2) |>.getD 0
  let n := match acc with | .write bs => bs.length | .read n => n
  let inside := (stageOf off).isSome && stageIn s d (o + n - 1)
  let may := stageMay s func o && stageMay s func (o + n - 1)
  match acc with
  | .write bs =>
    if !inside then .next (rangeError (if s.hasDie d then d else 0) func s)
    else if !may then .next (raiseFrom d (hostReq func) 0x0402 (BitVec.ofNat 64 off) s)
    else .next (s.modDie d fun x => { x with dram := wrBytes x.dram (stageAddr s d o) bs })
  | .read n =>
    if off < 0x2000000 then .next { s with readData := (List.range n).map fun (i : Nat) => tableByte s (off + i) }
    else .next { s with readData := if inside && may then rdBytes (s.die d).dram (stageAddr s d o) n else List.replicate n 0 }

/-! ## Doorbells (04 R88, R89) -/

/-- The number of the first MP boundary at least 20 µs after this instant on a die, and whether the next boundary is
nearer than that. -/
def bellMp (s : State) (d : Nat) : Nat := (s.time d + 20 * unitsUs + unitsMp - 1) / unitsMp
def bellLate (s : State) (d : Nat) : Bool := decide (unitsMp < s.time d % unitsMp + 20 * unitsUs)

/-- TABLE_DOORBELL: the home die stamps it, and it pends for its boundary or, with HOLD, for RELEASE_HELD; one whose ID
names no entry pends on die 0 (log 41). A standby answers STANDBY at once. -/
def execTableDoorbell (func : Nat) (v : Word) (s : State) : Host.Outcome State Fault Refusal :=
  let id : BitVec 16 := fld v 0 16
  let isConf := bit v 16
  let home := if isConf then confDie id else legDie id
  let ok := if isConf then confIdOk s id else legIdOk s id
  if standsBy s then
    .next (postCompletion func { id := id, kind := if isConf then 1 else 0, status := 0x13, version := liveVersion isConf id s,
                                 tag := fld v 48 16, mp := mpField s } s)
  else
    let home := if ok then home else 0
    let hold := bit v 17
    let db : Doorbell :=
      { func := func, tag := fld v 48 16, version := fld v 32 16, hold := hold
        atMp := if hold then none else some (BitVec.ofNat 64 (bellMp s home))
        late := !hold && bellLate s home
        bad := !only v 0xFFFFFFFF0003FFFF }
    .next (if ok then ringEntry isConf id db s else { s with badBells := s.badBells ++ [(isConf, id, db)] })

end Sys2Proof.Machine
end

