-- ==== Sys2Proof/Machine/Adopt.lean ====
section
/-! DEFINITION. Adoption of leg and conference entries: the checks of Table 4.8 and what an adopted half changes
(04 R81 to R90, R95; 05 R108, R114, R119; 06 R138; 07 R157, R167, R175; 10 R219; 12 R264, R274). -/

namespace Sys2Proof.Machine

/-! ## Ends of MPs -/

/-- A frame that covers the running MP fails C2 at its decoder: it leaves the buffer and the MP is concealed (05 R118,
06 R149). -/
def frameC2Fail (l : BitVec 16) (s : State) : State :=
  let j := (s.leg l).jb
  match coverAt j.frames j.pos with
  | none => s
  | some f =>
    if j.mode ≠ 1 then s
    else
      let (v, s) := draw s
      let s := jbPoolSub (legDie l) f.size (s.modLeg l fun x => { x with
        jb := { x.jb with mode := 3, frames := x.jb.frames.filter (·.seq != f.seq) }
        rx := { x.rx with concealMp := x.rx.concealMp + 1 } })
      checkFail (legDie l) (0x40#8 + BitVec.ofNat 8 (v.toNat % 17)) 0x0506 l 0 s

/-- The end of the MP before boundary `b`, whose work is done once however many events fall on that boundary: the frames that
fail C2 are replaced by concealment (05 R118), then the legs'
blocks whose check fails are replaced by concealment (05 R118), then the mixes are made (07 R159 to R173). -/
def endMp (b : Nat) (s : State) : State :=
  if s.endedMp == some b then s
  else
    let s := match s.lastMp with
      | some m =>
        let s := forAll s.c2Faults frameC2Fail s
        let s := forAll s.audioFaults (fun l (s : State) =>
          if (s.leg l).jb.mode == 1 || (s.leg l).jb.mode == 2 then
            blockFail (legDie l) (engineReq 2) l (s.modLeg l fun x =>
              { x with jb := { x.jb with mode := 3 }, rx := { x.rx with concealMp := x.rx.concealMp + 1 } })
          else s) s
        audioEnd m s
      | none => s
    { s with endedMp := some b, c2Faults := [], audioFaults := [], absentBlocks := [], lateDecodes := [], lateEncodes := [] }

/-! ## Values in range (04 R80, R81, 05 R119, 07 R157, R167, 12 R264) -/

/-- Whether a 16-bit signed field lies within bounds. -/
def signedIn (v : BitVec 16) (lo hi : Int) : Bool := decide (lo ≤ v.toInt) && decide (v.toInt ≤ hi)

/-- The audio fields of a leg half: codecs of Table 7.1, gains and the compressor. -/
def legAudioOk (h : LegHalf) : Bool :=
  decide (h.rxAc ≤ 6) && decide (h.txAc ≤ 6) &&
    (if h.txAc = 1 then [10, 20, 40, 60].contains h.txFrame && decide (6 ≤ h.txAbr) && decide (h.txAbr ≤ 510) && decide (h.complexity ≤ 10)
     else if h.txAc = 2 || h.txAc = 3 || h.txAc = 4 then [10, 20, 40].contains h.txFrame && !h.stereo
     else true) &&
    signedIn h.inGain (-32768) 6144 && signedIn (fld h.comp 48 16) 0 6144 &&
    (!h.times.getLsbD 32 ||
      (signedIn (fld h.comp 0 16) (-24576) 0 && decide (256 ≤ fldN h.comp 16 16) && decide (fldN h.comp 16 16 ≤ 16384) &&
        decide (fldN h.comp 32 16 ≤ 6144) && h.times.extractLsb' 0 16 != 0 && h.times.extractLsb' 16 16 != 0))

/-- The subport a leg half names: present in its die's Ethernet mode, and not the die's Adit subport. -/
def legPortOk (s : State) (h : LegHalf) : Bool :=
  let x := (s.die h.ethDie).ing
  s.hasDie h.ethDie && x.present.getLsbD h.ethIdx && !x.adit.getLsbD h.ethIdx

/-- The keys of a leg half: identifiers always; slots, types and owners of an open half. -/
def legKeyIds (s : State) (l : BitVec 16) (h : LegHalf) : Bool :=
  [h.rxKey, h.txKey].all fun k => !k.getLsbD 15 && s.hasDie (keyDie k) && (keySlot k == 0 || keyDie k == legDie l)
def legKeyOk (s : State) (f : Nat) (h : LegHalf) (k : BitVec 16) (carries : Bool) : Bool :=
  let x := slotOf s k
  if h.xform = 0 then k == 0
  else if keySlot k = 0 then !carries
  else handleOk s k && x.usage.getLsbD 0 && x.ktype == (if h.xform = 1 || h.xform = 2 || h.xform = 5 then 3 else 4) &&
    (isPf f || x.owner == BitVec.ofNat 6 f)

/-- The SSRCs of a leg: the non-zero received ones are distinct, and differ from those it sends. -/
def legSsrcOk (h : LegHalf) : Bool :=
  let rx := [h.rxSsrcA, h.rxSsrcV0, h.rxSsrcV1, h.rxSsrcV2, h.rxSsrcRtx].filter (· != 0)
  rx.eraseDups.length == rx.length && !rx.any fun x => [h.txSsrcA, h.txSsrcV, h.txSsrcRtx].contains x

/-- Whether two halves have the same five values of R108. -/
def sameTuple (a b : LegHalf) : Bool :=
  a.ethIdx == b.ethIdx && a.ethDie == b.ethDie && a.localAddr == b.localAddr && a.localPort == b.localPort &&
    a.remoteAddr == b.remoteAddr && a.remotePort == b.remotePort

/-- Whether an open leg, other than the leg itself and the source of its move, has the five values of a half. -/
def aliased (s : State) (l : BitVec 16) (h : LegHalf) : Bool :=
  s.allOpenLegs.any fun o => o != l && !(s.moves.any fun m => !m.isConf && m.src == o && m.dst == l) && sameTuple (s.legLive o) h

/-- A leg half's subscription list (04 R84, R85, 12 R264). -/
def legSubsOk (s : State) (f : Nat) (l : BitVec 16) (h : LegHalf) : Bool :=
  match subChain s (legDie l) 1024 h.subHead with
  | none => false
  | some is =>
    let es := is.map fun i => s.sub (legDie l) i
    let outs := (es.filter (·.ssrcRw)).map (·.outSsrc)
    outs.eraseDups.length == outs.length &&
      outs.all (fun o => o != 0 && !([h.txSsrcA, h.txSsrcV, h.txSsrcRtx].contains o)) &&
      es.all fun e => e.reservedOk && e.valid && e.receiver == l && s.legOpen e.source && (s.leg e.source).aliasOf.isNone &&
        (isPf f || (s.leg e.source).alloc == (s.leg l).alloc) && decide (e.kind ≤ 1) && decide (e.maxS ≤ 2) && decide (e.maxT ≤ 2) &&
        (e.kind == 0 || (e.ssrcRw && h.video && h.txVc != 0))

/-- Check 4 of a leg half rung by function `f`; `t` is the state with every half adopted at the boundary live. Only the alias
rule of 05 R108 is about open legs alone. -/
def legHalfOk (s t : State) (f : Nat) (l : BitVec 16) (h : LegHalf) : Bool :=
  h.reservedOk && (s.leg l).aliasOf.isNone &&
    (h.conf == noId || (confIdOk s h.conf && (s.conf h.conf).aliasOf.isNone)) && legKeyIds s l h &&
    (!h.subEn || legSubsOk t f l h) && legPortOk s h && h.levelExt != 15 && decide (h.xform ≤ 6) && decide (h.rxVc ≤ 3) &&
    decide (h.txVc ≤ 3) && decide (2 ≤ h.jbMin) && decide (h.jbMin ≤ h.jbInit) && decide (h.jbInit ≤ h.jbMax) &&
    decide (h.jbMax ≤ 200) && legAudioOk h && legKeyOk s f h h.rxKey h.rxEn && legKeyOk s f h h.txKey (h.rxEn || h.txEn) &&
    legSsrcOk h && (!h.enable || !aliased t l h)

/-- Whether a leg belongs to a conference at boundary `b`: by the half that is live until it, or by the one live from it. -/
def belongsAt (s t : State) (b : Nat) (c l : BitVec 16) : Bool :=
  (s.legOpen l && s.confOf l == c) || (t.legOpen l && t.confOf l == c) ||
    ((s.leg l).adoptedMp == some b && let h := s.legHalf l (!(s.leg l).live); h.enable && h.conf == c)

/-- Whether a layout reference of a conference is empty or names an enabled layout of its kind and owner. -/
def layRefOk (s : State) (c h : BitVec 16) (seam : Bool) : Bool :=
  h == noId || (layOk s h && s.layOn h && (s.lay h).kind == seam && (s.lay h).alloc == some (confOwnerOf s c))

/-- Check 4 of a conference half at boundary `b`. -/
def confHalfOk (s t : State) (b : Nat) (c : BitVec 16) (h : ConfHalf) : Bool :=
  let pins := h.pinned.filter (· ≠ noId)
  h.reservedOk && pins.all (fun l => legIdOk s l && (s.leg l).aliasOf.isNone) && decide (1 ≤ h.k) && decide (h.k ≤ 32) &&
    signedIn h.ceiling (-5120) (-26) && layRefOk s c h.galLayout false && layRefOk s c h.seamLayout true &&
    pins.eraseDups.length == pins.length && decide (pins.length ≤ h.k) && pins.all (belongsAt s t b c) &&
    h.routes.all fun r => let x := rdRoute r; r.extractLsb' 20 12 == 0 && decide (x.chFirst + x.chCount ≤ 32) && s.hasDie x.die

/-! ## What an adopted half changes -/

/-- The stamp at which the grace of a leg's previous RX key ends. -/
def graceEnd (s : State) (l : BitVec 16) : BitVec 64 :=
  s.clk + BitVec.ofNat 64 (unitsMp * (s.die (legDie l)).cip.rxGrace.toNat)

/-- The BYEs of the sent SSRCs that an open leg gives up (05 R120). -/
def sendByes (l : BitVec 16) (old new : LegHalf) (s : State) : State :=
  if !old.enable || !new.enable then s
  else forAll ((([old.txSsrcA, old.txSsrcV, old.txSsrcRtx]).zip [new.txSsrcA, new.txSsrcV, new.txSsrcRtx]).filter
    fun e => e.1 != 0 && e.1 != e.2) (fun e s => sendRtcp l (.bye e.1) s) s

/-- The decode contexts of a leg that the bridge closes itself: all where it closes or its RX_VC changes, and those of a
stream whose SSRC changes (09 R199). -/
def closeDecs (l : BitVec 16) (old new : LegHalf) (s : State) : State :=
  forAll ((s.openDecs (legDie l)).filter fun k =>
    (s.dec k).leg == l && (!new.enable || old.rxVc != new.rxVc ||
      rxVideoSsrc old (s.dec k).stream.toNat != rxVideoSsrc new (s.dec k).stream.toNat)) bridgeCloseDec s

/-- The buckets of a leg at an adoption: full when it opens, else clipped to a new cap (05 R114, 12 R280). -/
def adoptBucket (opens : Bool) (cap : Nat) (t : BitVec 64) (changed : Bool) (b : Nat × BitVec 64) : Nat × BitVec 64 :=
  if opens then (cap, t) else if changed then (min cap b.1, b.2) else b

/-- The receive side of a leg whose half is adopted. -/
def adoptRx (opens : Bool) (old new : LegHalf) (t : BitVec 64) (r : LegRx) : LegRx :=
  let b := adoptBucket opens (8000000 * new.inBurst) t (old.inRate != new.inRate || old.inBurst != new.inBurst) (r.tok, r.last)
  let r : LegRx := if opens then {} else r
  { r with tok := b.1, last := b.2 }

/-- The target rate after an adoption: as given, the start value, or held within the controller's bounds (12 R274). -/
def adoptTarget (s : State) (l : BitVec 16) (opens : Bool) (new : LegHalf) : Nat × BitVec 2 :=
  let t := (s.leg l).tx
  let g := (s.die (legDie l)).egr
  if new.rateHost then (new.targetRate, 0)
  else if opens then (min g.ccStart.toNat new.targetRate, 2)
  else (clampN (min g.ccMin.toNat new.targetRate) new.targetRate t.target, if t.targetSrc = 0 then 1 else t.targetSrc)

/-- The send side of a leg whose half is adopted. A leg that opens keeps the sequence numbers and timestamp bases of its
SSRCs, since their SRTP indexes go on (06 R437). -/
def adoptTx (opens : Bool) (old new : LegHalf) (t : BitVec 64) (mp : Nat) (x : LegTx) : LegTx :=
  let b := adoptBucket opens (8000000 * new.outBurst) t (old.outRate != new.outRate || old.outBurst != new.outBurst) (x.tok, x.last)
  let x : LegTx := if opens then { tsBase := x.tsBase, seqBase := x.seqBase, lastFeedback := mp } else x
  { x with tok := b.1, last := b.2
           ready := x.ready && old.ethIdx == new.ethIdx && old.ethDie == new.ethDie && old.cls == new.cls }

/-- What a leg holds of its die's pools. -/
def legJbBytes (x : Leg) : Nat := x.jb.frames.foldl (fun n f => n + f.size) 0
def legPktBytes (x : Leg) : Nat :=
  x.vframes.foldl (fun n f => n + f.size) 0 + x.tx.held.foldl (fun n h => n + h.pkt.ipLen) 0

/-- A leg's buffers, queue and held packets go, and their bytes return to the pools. -/
def emptyLeg (l : BitVec 16) (s : State) : State :=
  let x := s.leg l
  let d := legDie l
  let s := pktPoolSub d (legPktBytes x) (jbPoolSub d (legJbBytes x) s)
  s.modLeg l fun x => { x with jb := {}, vframes := [], layers := [], kf := [], viewer := none
                               tx := { x.tx with queue := [], held := [], ready := false, frameAcc := [], ownEnc := false, encSt := 0 } }

/-- The class 3 load of a leg's half while it is open: a free estimate of its content (log 37). -/
def legBw (s : State) (l : BitVec 16) (h : Bool) : Nat :=
  if (s.legHalf l h).enable then Config.legBandwidth (rdBytes s.tables (legHalfAt l h) 256) else 0

/-- The class 3 load that a leg holds becomes `n`. -/
def setLegLoad (l : BitVec 16) (n : Nat) (s : State) : State :=
  (bwAdd (legDie l) 3 n (bwSub (legDie l) 3 (s.leg l).loadBw s)).modLeg l fun x => { x with loadBw := n }

/-- A half that is live no longer leaves its die's cache (04 R91). -/
def dropCached (i : Nat) (x : LegBlk) : LegBlk := { x with cache := x.cache.erase i }

/-- A live half is looked up in its die's cache: a hit, or a miss that replaces the least recently used of 256. -/
def lookCached (i : Nat) (x : LegBlk) : LegBlk :=
  if x.cache.contains i then { x with cache := i :: x.cache.erase i, cacheHit := x.cacheHit + 1 }
  else { x with cache := (i :: x.cache).take 256, cacheMiss := x.cacheMiss + 1 }

/-- Once in each MP the live half of every open leg is looked up, by index (04 R91, log 138). -/
def cacheMp (s : State) : State :=
  forAll s.dieList (fun d s =>
    forAll (s.openLegs d) (fun l s => s.modDie d fun x => { x with lblk := lookCached (legIdx l) x.lblk }) s) s

/-- The shadow half of a leg becomes live at boundary `b`, its audio set in use from a sample of that MP. -/
def flipLeg (l : BitVec 16) (b smp : Nat) (s : State) : State :=
  let x := s.leg l
  let old := s.legLive l
  let new := s.legHalf l (!x.live)
  let opens := new.enable && !old.enable
  let s := setLegLoad l (legBw s l (!x.live)) (s.modDie (legDie l) fun y => { y with lblk := dropCached (legIdx l) y.lblk })
  let s := if opens || !new.enable then excludeLeg l s else s
  let s := sendByes l old new s
  let s := if opens || !new.enable then emptyLeg l s else s
  let t := mpStamp b
  let s := s.modLeg l fun x => { x with
    live := !x.live, opened := true, badHalf := false, adoptedMp := some b, classified := new.enable && new.rxEn
    cry := if new.enable then adoptedCrypto new (some (graceEnd s l)) x.cry else x.cry
    aud := if opens then { set := audioSetOf new, next := some (smp, audioSetOf new) } else { x.aud with next := some (smp, audioSetOf new) }
    rx := adoptRx opens old new t x.rx, tx := adoptTx opens old new t (s.mpNo 0) x.tx
    jb := if opens then { target := 48 * new.jbInit } else x.jb }
  let (rate, src) := adoptTarget s l opens new
  let s := if !new.enable then s
    else if rate = (s.leg l).tx.target && src = (s.leg l).tx.targetSrc && !opens then s else setTarget l rate src s
  closeDecs l old new s

/-- The shadow half of a conference becomes live, its audio set in use from a sample of the MP that begins. -/
def flipConf (c : BitVec 16) (smp : Nat) (s : State) : State :=
  let x := s.conf c
  let old := s.confLive c
  let new := s.confHalf c (!x.live)
  s.modConf c fun x =>
    let x := { x with live := !x.live, opened := true, badHalf := false, next := some (smp, confSetOf new) }
    if new.enable && !old.enable then
      { x with set := { ceiling := new.ceiling, ceilLin := ceilLin new.ceiling }, talkers := [], departing := [], lim := [], encs := [],
               changes := 0, clamps := 0, peak := 0, lowGain := limOne, fades := [], outFades := [], held := none }
    else if !new.enable then { x with talkers := [], departing := [], next := none, fades := [], outFades := [], held := none }
    else x

/-- What follows every adoption: the Face load of every die and SEA_USE (07 R175, 10 R239). -/
def refreshLoads (s : State) : State :=
  refreshSea (forAll s.dieList (fun d t => t.modDie d fun x => { x with mix := { x.mix with faceUse := BitVec.ofNat 32 (faceLoad s d) } }) s)

/-! ## The checks of Table 4.8 (04 R89) -/

/-- The legs that hold an entry of a die's classifier; the two legs of a move that share one count once. -/
def classifierCount (s : State) (d : Nat) : Nat :=
  (s.allOpenLegs.filter fun l => (s.leg l).classified && (s.legLive l).ethDie == d &&
    !(s.moves.any fun m => !m.isConf && m.dst == l && sameTuple (s.legLive m.src) (s.legLive l))).length

/-- Check 8 of an adoption: what changes from `s` to `t` fits DIE_CAP, the classifier, MIX_FACE_CAP and SEA_CAP. -/
def capacityOk (isConf : Bool) (id : BitVec 16) (s t : State) : Bool :=
  let d := if isConf then confDie id else legDie id
  let n (u : State) : Nat := if isConf then (u.openConfs d).length else (u.openLegs d).length
  let cap := if isConf then (s.die d).cap.confs.toNat else (s.die d).cap.legs.toNat
  (decide (n t ≤ cap) || decide (n t ≤ n s)) &&
    s.dieList.all fun d =>
      (decide (classifierCount t d ≤ 4096) || decide (classifierCount t d ≤ classifierCount s d)) &&
        (decide (faceLoad t d ≤ (s.die d).mix.faceCap.toNat) || decide (faceLoad t d ≤ faceLoad s d)) &&
        (seaFits t d || (decide ((seaLoad t d).1 ≤ (seaLoad s d).1) && decide ((seaLoad t d).2 ≤ (seaLoad s d).2)))

/-- The state as far as capacity is judged, with the entry's shadow half live. -/
def withShadow (isConf : Bool) (id : BitVec 16) (s : State) : State :=
  if isConf then s.modConf id fun x => { x with live := !x.live, opened := true }
  else
    let h := s.legHalf id (!(s.leg id).live)
    (setLegLoad id (legBw s id (!(s.leg id).live)) s).modLeg id fun x =>
      { x with live := !x.live, opened := true, classified := h.enable && h.rxEn }

/-- Versions of an entry: of the live half and of the shadow half, and whether each has ENABLE. -/
def entryVersions (isConf : Bool) (id : BitVec 16) (s : State) : (BitVec 16 × Bool) × (BitVec 16 × Bool) :=
  if isConf then
    let a := s.confLive id
    let b := s.confHalf id (!(s.conf id).live)
    ((a.version, a.enable), (b.version, b.enable))
  else
    let a := s.legLive id
    let b := s.legHalf id (!(s.leg id).live)
    ((a.version, a.enable), (b.version, b.enable))

/-- Checks 2 to 4 of an entry's shadow half for a version rung by function `f` at boundary `b`; `bad` says that a reserved
bit of the doorbell was set, `t` is the state with every half adopted at that boundary live. -/
def formStatus (isConf : Bool) (id : BitVec 16) (f : Nat) (version : BitVec 16) (bad : Bool) (b : Nat) (s t : State) : BitVec 8 :=
  let ((v, _), (v', _)) := entryVersions isConf id s
  let c := (s.legHalf id (!(s.leg id).live)).conf
  let owned := if isConf then ownsConf s f id
    else ownsLeg s f id && (isPf f || c == noId || (confIdOk s c && ownsConf s f c))
  let ok := !bad && (if isConf then confHalfOk s t b id (s.confHalf id (!(s.conf id).live)) else legHalfOk s t f id (s.legHalf id (!(s.leg id).live)))
  if !owned then 4
  else if version ≠ v + 1 || version ≠ v' then 1
  else if !ok then 2
  else 0

/-- Whether the class 3 load of a leg's shadow half fits beside what its die has admitted, its own live load apart
(03 R67); the manual names no load of a conference (log 37). -/
def legBudget (id : BitVec 16) (s : State) : Bool :=
  let n := legBw s id (!(s.leg id).live)
  decide (n ≤ (s.leg id).loadBw) || bwFits (bwSub (legDie id) 3 (s.leg id).loadBw s) (legDie id) 3 n

/-- Checks 5 to 8 of an entry's shadow half on top of what `s` carries. -/
def loadStatus (isConf : Bool) (id : BitVec 16) (s : State) : BitVec 8 :=
  let ((_, was), (_, will)) := entryVersions isConf id s
  if will && !was && (s.die (if isConf then confDie id else legDie id)).str.draining then 6
  else if isConf && will && !was && (s.conf id).aliasOf.isSome then 8
  else if !isConf && !legBudget id s then 3
  else if capacityOk isConf id s (withShadow isConf id s) then 0 else 7

/-! ## ENTRY_ADOPTION (04 R89, R95, 07 R174) -/

/-- The key slots that an adopted half names, as the active unit sends them ahead of the record. -/
def keyCopies (s : State) (h : LegHalf) : List KeyCopy :=
  ([h.rxKey, h.txKey].filter fun k => keySlot k != 0).eraseDups.map fun k =>
    let x := slotOf s k
    { handle := k, ktype := x.ktype, usage := x.usage, owner := x.owner, persist := x.persist, two := x.two,
      gcmCount := x.gcmCount, value := keyValue s k }

/-- The ADOPT record of an entry whose shadow half is about to become live. -/
def adoptRecord (isConf : Bool) (id : BitVec 16) (b : Nat) (sample : Option (BitVec 6)) (s : State) : LedgerRec :=
  if isConf then
    let h := !(s.conf id).live
    .adopt true id (s.confHalf id h).version (BitVec.ofNat 64 b) sample (rdBytes s.tables (confHalfAt id h) 128) [] []
  else
    let h := !(s.leg id).live
    let x := s.legHalf id h
    .adopt false id x.version (BitVec.ofNat 64 b) sample (rdBytes s.tables (legHalfAt id h) 256)
      ((subList s id x).map fun i => (i, rdBytes s.tables (subAt (legDie id) i) 32)) (keyCopies s x)

/-- A checked entry is adopted at boundary `b`: recorded in the ledger, made live, and the loads follow. -/
def adoptEntry (isConf : Bool) (id : BitVec 16) (b : Nat) (sample : Option (BitVec 6)) (s : State) : State :=
  let d := if isConf then confDie id else legDie id
  let s := ledger d (adoptRecord isConf id b sample s) s
  let smp := (sample.getD 0).toNat
  refreshLoads (if isConf then flipConf id smp s else flipLeg id b smp s)

/-! ## The doorbells of one boundary, together (04 R90) -/

/-- A doorbell or SAFE_LOAD with its entry. -/
abbrev DueBell := (Bool × BitVec 16) × Doorbell

/-- The doorbells of an entry that await a boundary. -/
def dueBells (isConf : Bool) (id : BitVec 16) (s : State) : List Doorbell :=
  ((entryDb s isConf id).toList ++ (if isConf then (s.conf id).busyDbs else (s.leg id).busyDbs)).filter
    fun x => x.atMp.isSome && !x.adopted

/-- Whether a full completion queue defers a function's adoptions (04 R95). -/
def defers (s : State) (f : Nat) : Bool := cqFull (s.fq f) || !(s.fq f).waiting.isEmpty

/-- Every doorbell of the package due up to boundary `b`, legs first, by ID. -/
def allDue (b : Nat) (s : State) : List DueBell :=
  ((s.dieList.flatMap s.legsOf).flatMap (fun l => (dueBells false l s).map fun x => ((false, l), x)) ++
    (s.dieList.flatMap fun d => (s.die d).confs.map fun e => confId d e.1).flatMap
      fun c => (dueBells true c s).map fun x => ((true, c), x)).filter
    fun e => decide ((e.2.atMp.getD 0).toNat ≤ b) && !defers s e.2.func

/-- Whether check 1 turns a doorbell away at boundary `b`. -/
def bellBusy (b : Nat) (s : State) (e : DueBell) : Bool := e.2.busy || moveLocks s e.1.1 e.1.2 b

/-- Checks 2 to 4 of a doorbell, the halves of `t` being live from the boundary on. -/
def bellForm (b : Nat) (s t : State) (e : DueBell) : BitVec 8 := formStatus e.1.1 e.1.2 e.2.func e.2.version e.2.bad b s t

/-- Whether a doorbell closes its entry. -/
def bellCloses (s : State) (e : DueBell) : Bool := !(entryVersions e.1.1 e.1.2 s).2.2

/-- The first doorbell whose load does not fit, each on top of those before it. -/
def firstOverload : List DueBell → State → Option (DueBell × BitVec 8)
  | [], _ => none
  | e :: es, s =>
    let st := loadStatus e.1.1 e.1.2 s
    if st ≠ 0 then some (e, st) else firstOverload es (withShadow e.1.1 e.1.2 s)

/-- The doorbells of a boundary that fail a check, with the status: the checks assume that the others are adopted, so a
refusal judges the rest again; loads count those that close an entry first (log 41). -/
def refusals (b : Nat) (s : State) : (fuel : Nat) → List DueBell → List (DueBell × BitVec 8)
  | 0, _ => []
  | n + 1, es =>
    let t := forAll es (fun e t => withShadow e.1.1 e.1.2 t) s
    match es.find? (fun e => bellForm b s t e != 0) with
    | some e => (e, bellForm b s t e) :: refusals b s n (es.erase e)
    | none =>
      match firstOverload (es.filter (bellCloses s) ++ es.filter fun e => !bellCloses s e) s with
      | some r => r :: refusals b s n (es.erase r.1)
      | none => []

/-- A doorbell leaves its entry. -/
def dropBell (e : DueBell) (s : State) : State :=
  if e.2.busy then setDb e.1.1 e.1.2 (fun o => o) (·.erase e.2) s else setDb e.1.1 e.1.2 (fun _ => none) (fun l => l) s

/-- The end of a doorbell at boundary `b`: refused with a status, or its entry adopted; a SAFE_LOAD that passes completes
with its sample. -/
def endDue (b : Nat) (st : BitVec 8) (e : DueBell) (s : State) : State :=
  let ((isConf, id), db) := e
  let d := if isConf then confDie id else legDie id
  if st ≠ 0 then endBell isConf id db st (dropBell e s)
  else
    let s := if db.late then s.modDie d fun x => { x with lblk := { x.lblk with dbLate := x.lblk.dbLate + 1 } } else s
    let s := adoptEntry isConf id b db.sample s
    if db.sample.isSome then setDb isConf id (fun _ => some { db with adopted := true, atMp := some (BitVec.ofNat 64 b) }) (fun l => l) s
    else endBell isConf id db 0 (dropBell e s)

/-- The status with which boundary `b` ends a doorbell, given the refusals. -/
def bellStatus (b : Nat) (s : State) (no : List (DueBell × BitVec 8)) (e : DueBell) : BitVec 8 :=
  if bellBusy b s e then 5 else ((no.find? fun r => r.1 == e).map (·.2)).getD 0

/-- Every doorbell due up to MP `m` is judged, and adopted at boundary `b`, together with the others. -/
def adoptUpTo (m b : Nat) (s : State) : State :=
  let es := allDue m s
  let free := es.filter fun e => !bellBusy b s e
  let no := refusals b s free.length free
  forAll (es.map fun e => (e, bellStatus b s no e)) (fun r s => endDue b r.2 r.1 s) s

/-- ENTRY_ADOPTION: at the entry's boundary, or the first one after it at which the function's completion queue has a slot,
every doorbell due in the package is judged and adopted together (04 R90); an entry with nothing due does nothing. -/
def execEntryAdoption (die : Nat) (isConf : Bool) (idx : Nat) (s : State) : Host.Outcome State Fault Refusal :=
  let id := if isConf then confId die idx else legId die idx
  match dueBells isConf id s with
  | [] => .next s
  | x :: xs =>
    let first := xs.foldl (fun n y => min n (y.atMp.getD 0).toNat) (x.atMp.getD 0).toNat
    let b := max s.nextMp first
    .next (adoptUpTo b b (endMp b (s.advanceTo 0 (unitsMp * b))))

/-- The doorbells that name no entry complete at their boundary: DENIED for a VF, INVALID for the PF (04 R89, log 41). -/
def endBadBells (b : Nat) (s : State) : State :=
  let due := s.badBells.filter fun e =>
    (match e.2.2.atMp with | some m => decide (m.toNat ≤ b) | none => false) && !defers s e.2.2.func
  forAll due (fun e s => endBell e.1 e.2.1 e.2.2 (if isPf e.2.2.func then 2 else 4)
    { s with badBells := s.badBells.erase e }) s

end Sys2Proof.Machine
end

