-- ==== Sys2Proof/Machine/BootLoad.lean ====
section
/-! DEFINITION. The boot load of the structure image and DRAM training (03 R62 to R64, 15 R332). -/

namespace Sys2Proof.Machine

/-- Every die's training has ended. -/
def allTrained (s : State) : Bool := s.dieList.all fun d => (s.die d).drc.trained

/-- Steps 6 and 7: the semantic checks, then the sections on every die: STATE LOADED; or the failed check. -/
def finishLoad (b : Nat) (img : ImageDef) (s : State) : Except (BitVec 16 × Nat) State :=
  match checkAllDies s img s.dieList with
  | some e => .error e
  | none =>
    let s := forAll s.dieList (loadDie img) s
    let s := s.mapDies fun _ x => { x with str := { x.str with bank := b == 1 } }
    let s := loadServo img (loadPair img { s with bootStep := 7, bootImage := none })
    .ok (armMpStart (servoEval 0 s))

/-- The second attempt: the other bank; where it fails too, the state is NONE (03 R64). -/
def bootSecondBank (b : Nat) (s : State) : State :=
  let s := { s with bootSecond := true, bootImage := none }
  match checkBank s b with
  | .error e => { rejectBoot e s with bootStep := 0 }
  | .ok img =>
    if allTrained s then
      match finishLoad b img s with
      | .error e => { rejectBoot e s with bootStep := 0 }
      | .ok s' => s'
    else { s with bootStep := 5, bootImage := some img }

/-- A failed first attempt: a trial bank whose manifest or parts fail falls back; another bank is tried once (03 R64, 18
R399). -/
def bootFailed (e : BitVec 16 × Nat) (s : State) : State :=
  let s := rejectBoot e s
  let p := bankPtr s
  if p.trial && e.1 == 0x1204 && !s.bootSecond then fallBack s
  else if s.bootSecond then { s with bootStep := 0, bootImage := none }
  else bootSecondBank (1 - p.bank) s

/-- The first attempt, from the bank that the pointer names. -/
def bootFirstBank (s : State) : State :=
  let b := (bankPtr s).bank
  match checkBank s b with
  | .error e => bootFailed e s
  | .ok img =>
    if allTrained s then
      match finishLoad b img s with
      | .error e => bootFailed e s
      | .ok s' => s'
    else { s with bootStep := 5, bootImage := some img }

/-- BOOT_LOAD: steps 1 to 5 of Table 3.4, and 6 to 8 where training has ended (03 R62). A boot that finds
TRIAL and TRIED set falls back; a trial's first boot sets TRIED (18 R399). Runs only once after a reset. -/
def execBootLoad (s : State) : Host.Outcome State Fault Refusal :=
  if s.bootStep ≠ 0 || (s.die 0).str.state ≠ .none then .next s
  else
    let s := { s with inReset := none, bootStep := 1, bootSecond := false, pair := { s.pair with aliveOut := true } }
    let s := s.mapDies fun _ x => trainLinks x
    let s := s.modDie 0 fun x => { x with cip := { x.cip with slots := (tget ({} : Flash) s.flash 0).sealed } }
    let p := bankPtr s
    if p.trial && p.tried then .next (fallBack s)
    else if p.trial then
      let s := writePtr { p with tried := true } s
      .next (bootFirstBank { s with upd := { s.upd with state := .trial, window := BitVec.ofNat 16 p.window,
                                                         confirmed := false, lockstepStop := false } })
    else .next (bootFirstBank s)

/-! ## DRAM training (15 R332) -/

/-- Capacity of a channel, Table 15.1, GiB. -/
def channelGib (r : Training) : Nat :=
  (if r.device = 0 then 16 else if r.device = 3 then 64 else 32) * (if r.twoRanks then 2 else 1)

/-- The registers that training sets on a die. -/
def trainedDrc (r : Training) (c : Drc) : Drc :=
  { c with trained := true,
           chOk := (if r.ch0.isSome then 1 else 0) ||| (if r.ch1.isSome then 2 else 0),
           speed0 := r.ch0.getD 3, speed1 := r.ch1.getD 3,
           device := r.device, twoRanks := r.twoRanks, twoCh := r.ch0.isSome && r.ch1.isSome,
           gib := BitVec.ofNat 8 ((r.ch0.isSome.toNat + r.ch1.isSome.toNat) * channelGib r) }

/-- DRAM_TRAINING_DONE: each channel's speed; a channel below 6,400 MT/s or disabled raises 0x0F03 with its
number. When the last die's training ends, a boot that waits for it goes on with step 6 (03 R62). -/
def execDramTrainingDone (die : Nat) (r : Training) (s : State) : Host.Outcome State Fault Refusal :=
  let s := s.modDie die fun x => { x with drc := trainedDrc r x.drc }
  let bad := [(0, r.ch0), (1, r.ch1)].filter fun e => e.2 != some 0
  let s := forAll bad (fun e s => drcEv die 5 (raiseFrom die dukenCheck 0x0F03 (BitVec.ofNat 64 e.1) s)) s
  match s.bootImage with
  | some img =>
    if allTrained s then
      let b := if s.bootSecond then 1 - (bankPtr s).bank else (bankPtr s).bank
      match finishLoad b img s with
      | .error e => .next (bootFailed e s)
      | .ok s' => .next s'
    else .next s
  | none => .next s

end Sys2Proof.Machine
end

