-- ==== Sys2Proof/Machine/Hoist.lean ====
section
/-! DEFINITION. The Hoist: tubs, ready lists, back-pressure, the Tally and its observability (chapter 13). -/

namespace Sys2Proof.Machine

/-! ## Tubs (13 R288) -/

/-- Fields of a tub's words. -/
def tubWord (t : Tub) (i : Nat) : Word := t.w.getD i 0
def tubHandler (t : Tub) : Nat := fldN (tubWord t 0) 0 16
def tubLevel (t : Tub) : Nat := fldN (tubWord t 0) 16 3
def tubClass (t : Tub) : Nat := fldN (tubWord t 0) 19 2
def tubOrdered (t : Tub) : Bool := bit (tubWord t 0) 21
def tubFlow (t : Tub) : Nat := fldN (tubWord t 0) 22 10
def tubMask (t : Tub) : BitVec 16 := fld (tubWord t 0) 32 16
def tubTag (t : Tub) : BitVec 16 := fld (tubWord t 2) 16 16
def tubCustomer (t : Tub) : Bool := decide (0x8000 ≤ tubHandler t)

/-- The eight words as the Hoist writes them: SOURCE, ENQ_STAMP and SEQ are its own. -/
def tubWords (t : Tub) : List (BitVec 64) :=
  [(tubWord t 0 &&& 0xFF00FFFFFFFFFFFF) ||| put t.src 48, t.stamp, (tubWord t 2 &&& 0xFFFFFFFFFFFF0000) ||| put t.seq 0,
   tubWord t 3, tubWord t 4, tubWord t 5, tubWord t 6, tubWord t 7]

/-- The Hoist of a die, changed. -/
def State.modHst (s : State) (d : Nat) (f : Hst → Hst) : State := s.modDie d fun x => { x with hst := f x.hst }

/-- The index of a core in HST_LOAD, by class (13 R300). -/
def loadIndex (cls core : Nat) : Nat := if cls = 0 then core else if cls = 1 then 32 + core else 64 + core

/-- The requester ID of a core, by class (13 R289). -/
def coreReq (cls core : Nat) : Byte := if cls = 0 then faceReq core else if cls = 1 then packetReq core else codecReq core

/-! ## Cores (13 R289, R290, 16 R366) -/

/-- The packet cores at work: the first 16 that are not retired. -/
def packetActive (s : State) (d core : Nat) : Bool :=
  let up := (List.range 17).filter fun i => !(s.die d).cap.units.contains (17 + i)
  (up.take 16).contains core

/-- Whether a core of a tub's class could ever take it: active, of the handler's kind, admitted by MASK. The role that a codec
handler is for is free (log 150). -/
def coreSuits (s : State) (d : Nat) (t : Tub) (core : Nat) : Bool :=
  (tubMask t == 0 || (decide (core < 16) && (tubMask t).getLsbD core)) &&
    (if tubClass t = 0 then
       let x := tget ({} : FaceCore) (s.die d).face core
       decide (core < 17) && x.state != .retired && x.role == (if tubCustomer t then 1 else 0)
     else if tubClass t = 1 then packetActive s d core
     else decide (core < 8) && !(s.die d).cap.units.contains (34 + core) &&
       tget 0 (s.die d).str.codecRole core != 0 && tget 0 (s.die d).str.codecRole core == Config.codecHandlerRole (tubHandler t))

/-- Whether a requester may enqueue a handler: customer code and the PF only CLASS 0 tubs with customer handlers. -/
def mayEnqueue (s : State) (d : Nat) (src : Byte) (t : Tub) : Bool :=
  let customer := decide (0x40 ≤ src.toNat) && decide (src.toNat ≤ 0x50) && (tget {} (s.die d).face (src.toNat - 0x40)).role == 1
  if customer || src = hostReq 0 then tubClass t == 0 && tubCustomer t else decide (64 ≤ src.toNat)

/-- Whether the Hoist accepts the form of a tub. -/
def tubOk (s : State) (d : Nat) (src : Byte) (t : Tub) : Bool :=
  fld (tubWord t 0) 56 8 == (0 : BitVec 8) && fld (tubWord t 2) 32 32 == (0 : BitVec 32) && decide (tubClass t ≤ 2) &&
    mayEnqueue s d src t && (List.range 17).any (coreSuits s d t)

/-! ## Observability (13 R298, R299) -/

/-- Whether the die's mode is trace. -/
def tracing (s : State) (d : Nat) : Bool := (s.die d).str.hoistTrace

/-- A trace record, Table 13.2, for an event of a tub. -/
def traceRecord (s : State) (d event core : Nat) (t : Tub) (src : Byte) (waitNs : Nat) : List (BitVec 64) :=
  [s.now d,
   BitVec.ofNat 64 event ||| put (BitVec.ofNat 3 (tubLevel t)) 4 ||| put (BitVec.ofNat 2 (tubClass t)) 7 ||| putB (tubOrdered t) 9 |||
     put (BitVec.ofNat 7 core) 16 ||| put src 24 ||| put (BitVec.ofNat 10 (tubFlow t)) 32 ||| put t.seq 48,
   put (BitVec.ofNat 16 (tubHandler t)) 0 ||| put (tubTag t) 16 ||| put (BitVec.ofNat 13 (s.die d).hst.ready.length) 32,
   BitVec.ofNat 64 waitNs]

/-- A record joins the buffer of 64, or is lost: HST_TRACE_LOST and error 0x0D05 at most once per second. -/
def trace (d event core : Nat) (t : Tub) (src : Byte) (waitNs : Nat) (s : State) : State :=
  if !tracing s d then s
  else if (s.die d).hst.traceBuf.length < 64 then
    let r := traceRecord s d event core t src waitNs
    s.modHst d fun h => { h with traceBuf := h.traceBuf ++ [r] }
  else
    raiseOnce d src 0x0D05 0 (src.setWidth 64) (hstEv d 4 (s.modHst d fun h => { h with traceLost := h.traceLost + 1 }))

/-- The oldest buffered records go to the trace ring, as many as class 6 was granted bytes for. -/
def drainTrace (d : Nat) : (fuel : Nat) → State → State
  | 0, s => s
  | n + 1, s =>
    match (s.die d).hst.traceBuf with
    | [] => s
    | r :: rest =>
      let h := (s.die d).hst
      if h.traceSize = 0 then s
      else
        let at_ := devOff (h.traceBase.toNat / 32 * 32) + 32 * h.traceNext.toNat
        let wraps := h.traceNext.toNat + 1 = h.traceSize.toNat
        let s := s.modDie d fun x => { x with dram := wrBytes x.dram at_ (r.flatMap fun w => leBytes w.toNat 8) }
        drainTrace d n (s.modHst d fun h => { h with
          traceBuf := rest
          traceNext := if wraps then 0 else h.traceNext + 1
          traceWraps := if wraps then h.traceWraps + 1 else h.traceWraps })

/-- Whole ns between two stamps. -/
def nsBetween (a b : BitVec 64) : Nat := (stampDiff a b / 65536).toNat

/-- The bin of a waiting time: 0 under 250 ns, b up to 250 × 2^b ns, 15 from 4.096 ms. -/
def histBin (ns : Nat) : Nat := ((List.range 15).find? fun b => decide (ns < 250 * 2 ^ b)).getD 15

/-! ## Enqueues (13 R290, R291, R295, R296) -/

/-- Whether the pool accepts a tub of a level. -/
def listTakes (s : State) (d level : Nat) : Bool :=
  let h := (s.die d).hst
  if 6 ≤ level then decide (h.ready.length < 4096) else decide (h.ready.length < 4096 - h.reserve.toNat)

/-- Highest depth of each level since it was last read. -/
def notePeak (d level : Nat) (s : State) : State :=
  s.modHst d fun h =>
    let n := (h.ready.filter fun t => tubLevel t == level).length
    { h with peak := tmod 0 h.peak level fun p => if p.toNat < n then BitVec.ofNat 13 n else p }

/-- The pool accepts a tub: the Tally numbers an ordered one. -/
def acceptTub (d : Nat) (src : Byte) (t : Tub) (s : State) : State :=
  let f := tget ({} : Flow) (s.die d).hst.flows (tubFlow t)
  let t : Tub := { t with src := src, stamp := s.now d, seq := if tubOrdered t then f.next else 0 }
  let s := s.modHst d fun h => { h with
    ready := h.ready ++ [t]
    flows := if tubOrdered t then tmod {} h.flows (tubFlow t) fun x => { x with next := x.next + 1 } else h.flows }
  trace d 1 0x7F t src 0 (notePeak d (tubLevel t) (hstCnt d 0 s))

/-- An enqueue ends as BUSY. -/
def busyTub (d : Nat) (src : Byte) (t : Tub) (s : State) : State :=
  raiseOnce d src 0x0D01 (src.setWidth 64) (src.setWidth 64) (trace d 4 0x7F t src 0 (hstEv d 0 (hstCnt d 2 s)))

/-- A tub is refused. -/
def refuseTub (d : Nat) (src : Byte) (t : Tub) (s : State) : State :=
  raiseFrom d src 0x0D04 (src.setWidth 64) (trace d 8 0x7F t src 0 (hstEv d 3 (hstCnt d 5 s)))

/-- Result of an enqueue: 0 accepted, 1 BUSY, 2 REFUSED, 3 the source stalls. -/
def enqueueTub (d : Nat) (src : Byte) (t : Tub) (s : State) : Nat × State :=
  if !tubOk s d src t then (2, refuseTub d src t s)
  else if listTakes s d (tubLevel t) then (0, acceptTub d src t s)
  else if 64 ≤ src.toNat && tget false (s.die d).hst.stallCfg src.toNat then
    let s := s.modHst d fun h => { h with stalls := h.stalls ++ [{ src := src, tub := t, since := s.clk }] }
    (3, trace d 5 0x7F t src 0 (hstCnt d 3 s))
  else (1, busyTub d src t s)

/-- HST_ENQ_WRITE: the PF's write of word 7 enqueues the tub of the eight words last written; a VF's is ignored. -/
def execHstEnqWrite (func die : Nat) (v : Word) (s : State) : Host.Outcome State Fault Refusal :=
  if s.off die then .next s else
  if !isPf func || !s.hasDie die then .next s
  else
    let s := s.modHst die fun h => { h with enq := tset 0 h.enq 7 v }
    let e := (s.die die).hst.enq
    let t : Tub := { w := (List.range 8).map fun i => tget 0 e i }
    let (r, s) := enqueueTub die (hostReq 0) t s
    .next (s.modHst die fun h => { h with result := BitVec.ofNat 2 (r + 1), resTag := tubTag t })

/-! ## The Tally (13 R296, R297) -/

/-- The flow of a die. -/
def State.flow (s : State) (d i : Nat) : Flow := tget {} (s.die d).hst.flows i
def State.modFlow (s : State) (d i : Nat) (f : Flow → Flow) : State :=
  s.modHst d fun h => { h with flows := tmod {} h.flows i f }

/-- The newest stalled enqueue is one of the Tally's: its core does not wait for it. -/
def markReleased (h : Hst) : Hst :=
  { h with stalls := h.stalls.dropLast ++ (h.stalls.getLast?.map fun x => { x with released := true }).toList }

/-- A held hand-off is carried out; an enqueue may stall, and its core has gone on. -/
def handOn (d : Nat) (src : Byte) (h : HandOff) (s : State) : State :=
  match h with
  | .enq t =>
    let (r, s) := enqueueTub d src t s
    if r = 3 then s.modHst d markReleased else s
  | .send p => sendRtp p s

/-- Tubs that are done or skipped are released in the order of their SEQ, with what they handed on. -/
def releaseFlow (d i : Nat) : (fuel : Nat) → State → State
  | 0, s => s
  | n + 1, s =>
    let f := s.flow d i
    let q := f.oldest
    if f.done.contains q || f.skipped.contains q then
      let offs := ((f.held.find? (·.1 == q)).map (·.2)).getD []
      let s := s.modFlow d i fun f => { f with
        oldest := f.oldest + 1, done := f.done.erase q, held := f.held.filter (·.1 != q), taken := f.taken.filter (·.1 != q) }
      releaseFlow d i n (forAll offs (fun o s => handOn d (match o with | .enq t => t.src | .send _ => 0) o s) s)
    else s

/-- An ordered tub's SEQ is done; what a skipped one hands on is discarded. -/
def tallyDone (d : Nat) (t : Tub) (s : State) : State :=
  if !tubOrdered t then s
  else
    let i := tubFlow t
    if (s.flow d i).skipped.contains t.seq then s.modFlow d i fun f => { f with skipped := f.skipped.erase t.seq }
    else releaseFlow d i 65536 (s.modFlow d i fun f => { f with done := t.seq :: f.done })

/-- The Tally skips a tub: its hand-offs are discarded, HST_CNT 6 and error 0x0D03. What its core still hands on is
discarded too, unless the core has lost the tub and hands on nothing more. -/
def tallySkip (d : Nat) (t : Tub) (lost : Bool) (s : State) : State :=
  let i := tubFlow t
  let s := s.modFlow d i fun f => { f with
    held := f.held.filter (·.1 != t.seq)
    done := if lost then t.seq :: f.done else f.done, skipped := if lost then f.skipped else t.seq :: f.skipped }
  releaseFlow d i 65536 (raiseAny d t.src 0x0D03 (trace d 7 0x7F t t.src 0 (hstEv d 2 (hstCnt d 6 s))))

/-- TALLY_SKIP: the oldest unreleased tub of a flow is not done HST_TALLY_TMO µs after it was taken. -/
def execTallySkip (die flow : Nat) (s : State) : Host.Outcome State Fault Refusal :=
  let f := s.flow die flow
  match f.taken.find? (·.1 == f.oldest), (s.die die).hst.held.findSome? (fun e => match e.2 with
      | some (t, _) => if tubOrdered t && tubFlow t == flow && t.seq == f.oldest then some t else none
      | none => none) with
  | some (_, at_), some t =>
    let s := s.advance (((unitsUs * (s.die die).hst.tallyTmo.toNat : Nat) : Int) - stampDiff s.clk at_).toNat
    .next (tallySkip die t false s)
  | _, _ => .next s

/-- A hand-off carried out at once, with the result of its enqueue. -/
def carryOut (d : Nat) (src : Byte) (o : HandOff) (s : State) : Nat × State :=
  match o with
  | .enq u => enqueueTub d src u s
  | .send p => (0, sendRtp p s)

/-- A hand-off with its requester. -/
def signOff (src : Byte) : HandOff → HandOff
  | .enq u => .enq { u with src := src }
  | .send p => .send p

/-- Whether the Hoist refuses a hand-off. -/
def refusedOff (s : State) (d : Nat) (src : Byte) : HandOff → Option Tub
  | .enq u => if tubOk s d src u then none else some u
  | .send _ => none

/-- What a core hands on: held with the ordered tub it holds, discarded once that tub is skipped, else carried out at
once. The result is that of an enqueue. -/
def coreHands (d idx : Nat) (src : Byte) (o : HandOff) (s : State) : Nat × State :=
  match tget none (s.die d).hst.held idx with
  | none => carryOut d src o s
  | some (t, _) =>
    if !tubOrdered t then carryOut d src o s
    else match refusedOff s d src o with
      | some u => (2, refuseTub d src u s)
      | none =>
        if (s.flow d (tubFlow t)).skipped.contains t.seq then (0, s)
        else (0, s.modFlow d (tubFlow t) fun f =>
          let old := ((f.held.find? (·.1 == t.seq)).map (·.2)).getD []
          { f with held := (t.seq, old ++ [signOff src o]) :: f.held.filter (·.1 != t.seq) })

/-! ## DONE, retirement (13 R294, R298) -/

/-- A core's tub leaves it: the time since its take joins the core's load. -/
def dropTub (d idx : Nat) (s : State) : State :=
  match tget none (s.die d).hst.held idx with
  | none => s
  | some (_, at_) => s.modHst d fun h => { h with
      held := tset none h.held idx none, load := tmod 0 h.load idx (· + min (stampDiff s.clk at_).toNat (s.time d % unitsMp)) }

/-- DONE of the tub a core holds; without one it has no effect. -/
def doneTub (d idx : Nat) (s : State) : State :=
  match tget none (s.die d).hst.held idx with
  | none => s
  | some (t, at_) => tallyDone d t (trace d 3 idx t t.src (nsBetween s.clk at_) (dropTub d idx s))

/-- The tub of a core that faults or is stopped is discarded; an ordered one is skipped at once (14 R326). -/
def loseTub (d idx : Nat) (s : State) : State :=
  match tget none (s.die d).hst.held idx with
  | none => s
  | some (t, _) =>
    let s := dropTub d idx s
    if !tubOrdered t then s
    else if (s.flow d (tubFlow t)).skipped.contains t.seq then s.modFlow d (tubFlow t) fun f => { f with skipped := f.skipped.erase t.seq }
    else tallySkip d t true s

/-- The tub of a core that is retired goes back to the head of its level, keeping SEQ; its hand-offs are discarded. A tub that
the Tally has skipped stays skipped. -/
def requeueTub (d idx : Nat) (s : State) : State :=
  match tget none (s.die d).hst.held idx with
  | none => s
  | some (t, _) =>
    let s := dropTub d idx s
    let s := if tubOrdered t then s.modFlow d (tubFlow t) fun f => { f with
        held := f.held.filter (·.1 != t.seq), taken := f.taken.filter (·.1 != t.seq) } else s
    let s := notePeak d (tubLevel t) (s.modHst d fun h => { h with ready := t :: h.ready })
    raiseFrom d t.src 0x0D06 (t.src.setWidth 64) (trace d 6 idx t t.src 0 (hstEv d 5 (hstCnt d 7 s)))

/-! ## Takes (13 R292, R293) -/

/-- Whether a tub is eligible for a core that names a set of levels. -/
def eligible (s : State) (d cls core : Nat) (levels : Byte) (t : Tub) : Bool :=
  tubClass t == cls && levels.getLsbD (tubLevel t) && coreSuits s d t core &&
    (!tubOrdered t || decide ((t.seq - (s.flow d (tubFlow t)).oldest).toNat < 256))

/-- The tub a core is given: of the highest level, and within a level the one accepted earliest. -/
def bestTub (s : State) (d cls core : Nat) (levels : Byte) : Option Tub :=
  (List.range 8).reverse.findSome? fun l =>
    (s.die d).hst.ready.find? fun t => tubLevel t == l && eligible s d cls core levels t

/-- A stalled enqueue takes a freed slot: the highest level first, then the oldest. -/
def admitStalled (d : Nat) (s : State) : Option Stall × State :=
  match (List.range 8).reverse.findSome? fun l =>
      (s.die d).hst.stalls.find? fun x => tubLevel x.tub == l && listTakes s d l with
  | none => (none, s)
  | some x => (some x, acceptTub d x.src x.tub (s.modHst d fun h => { h with stalls := h.stalls.erase x }))

/-- A core takes a tub: it leaves the pool, its wait joins the histogram, the Tally notes the take. -/
def takeTub (d cls core : Nat) (t : Tub) (s : State) : State :=
  let idx := loadIndex cls core
  let wait := nsBetween (s.now d) t.stamp
  let key := 16 * tubLevel t + histBin wait
  let s := s.modHst d fun h => { h with
    ready := h.ready.erase t
    held := tset none h.held idx (some (t, s.clk))
    hist := if tracing s d then h.hist else bump h.hist key
    waits := h.waits.filter fun w => !(w.1 == cls && w.2.1 == core)
    flows := if tubOrdered t then tmod {} h.flows (tubFlow t) fun f => { f with taken := (t.seq, s.clk) :: f.taken } else h.flows }
  trace d 2 idx t t.src wait (hstCnt d 1 s)

/-! ## HST_LOAD (13 R298) -/

/-- At an MP boundary each core's load is shown in per mille of the MP; running tubs count up to it. -/
def hoistBoundary (d : Nat) (s : State) : State :=
  s.modHst d fun h =>
    let running := h.held.filterMap fun e => e.2.map fun x => (e.1, min unitsMp (stampDiff s.clk x.2).toNat)
    let idxs := ((h.load.map (·.1)) ++ running.map (·.1)).eraseDups
    let of (i : Nat) : Nat := tget 0 h.load i + ((running.find? (·.1 == i)).map (·.2)).getD 0
    { h with
      load := []
      loadPub := if (s.die d).str.hoistTrace then []
        else idxs.foldl (fun t i => tset 0 t i (BitVec.ofNat 10 (min 1000 (1000 * of i / unitsMp)))) [] }

end Sys2Proof.Machine
end

