-- ==== Sys2Proof/Machine/Legs.lean ====
section
/-! DEFINITION. Command and completion queues, and the table commands: ALLOC_LEG, FREE_LEG, RELEASE_HELD, NOP, unknown
opcodes, and the registers that own conferences and configure queues (04 R92 to R97, R103). -/

namespace Sys2Proof.Machine

/-! ## Queues (04 R92, R95, R103) -/

/-- The bridge fetches a function's commands up to the tail, unless its queue is disabled or its completions wait. -/
def fetchCmds (f : Nat) (s : State) : State :=
  let q := s.fq f
  if !q.sqEn || defers s f || q.inHost.isEmpty then s
  else s.modFq f fun q => { q with
    fetched := q.fetched ++ q.inHost, inHost := []
    sqHead := BitVec.ofNat 12 ((q.sqHead.toNat + q.inHost.length) % qSize q.sqLog2) }

/-- SQ_TAIL_WRITE: the tail moves; the operand is what host memory holds from LEG_SQ_HEAD up to it. -/
def execSqTailWrite (func : Nat) (tail : Word) (cmds : List Cmd) (s : State) : Host.Outcome State Fault Refusal :=
  let q := s.fq func
  let size := qSize q.sqLog2
  let t : BitVec 12 := fld tail 0 12
  let n := (t.toNat % size + size - q.sqHead.toNat % size) % size
  let l : List Cmd := ((cmds ++ List.replicate n ({ func := func } : Cmd)).take n).map fun (c : Cmd) => { c with func := func }
  .next (fetchCmds func (s.modFq func fun q => { q with sqTail := t, inHost := l }))

/-- CQ_HEAD_WRITE: slots return; waiting completions take them, and fetching goes on. -/
def execCqHeadWrite (func : Nat) (head : Word) (s : State) : Host.Outcome State Fault Refusal :=
  let s := s.modFq func fun q => { q with cqHead := fld head 0 12 }
  let s := drainCq func (s.fq func).waiting.length s
  let s := if defers s func then s else s.modFq func fun q => { q with deferring := false }
  .next (fetchCmds func s)

/-- The clamped LOG2_SIZE of a queue. -/
def clampLog2 (v : Word) : BitVec 4 := BitVec.ofNat 4 (clampN 4 12 (fldN v 0 4))

/-- QUEUE_CFG_WRITE: an enabled queue changes only its ENABLE, and clearing it resets head, tail and PHASE;
fetched commands stay only while the completion queue is enabled; a disabled one takes every field, LOG2_SIZE clamped. -/
def execQueueCfgWrite (func : Nat) (isCq : Bool) (v : Word) (s : State) : Host.Outcome State Fault Refusal :=
  if s.off 0 then .next s else
  let en := bit v 63
  .next (fetchCmds func (s.modFq func fun q =>
    if isCq then
      if q.cqEn then
        if en then q else { q with cqEn := false, cqTail := 0, cqPhase := true, cqHead := 0, waiting := [], deferring := false, fetched := [] }
      else { q with cqLog2 := clampLog2 v, cqVector := fld v 4 11, cqIrq := bit v 15, cqEn := en }
    else if q.sqEn then
      if en then q else { q with sqEn := false, sqHead := 0, sqTail := 0, inHost := [], fetched := if q.cqEn then q.fetched else [] }
    else { q with sqLog2 := clampLog2 v, sqEn := en }))

/-! ## NOP and unknown opcodes (04 R93) -/

/-- NOP: it completes after every earlier command of its queue; a standby completes it too (16 R354). -/
def execNop (c : Cmd) (s : State) : Host.Outcome State Fault Refusal :=
  if !startable 0x06 c s then .next s else
  let s := s.modFq c.func fun q => { q with fetched := q.fetched.erase c, running := q.running ++ [(tagOf c, true)] }
  .next (drainNops c.func ((s.fq c.func).running.length) s)

/-- The index in its queue of a fetched command that has not started. -/
def cmdIndex (s : State) (c : Cmd) : Nat :=
  let q := s.fq c.func
  let size := qSize q.sqLog2
  (q.sqHead.toNat + size * q.fetched.length + q.fetched.idxOf c - q.fetched.length) % size

/-- The opcodes that the manual defines: Tables 4.9, 6.3, 9.3, 10.8, 11.1, 07 R174, 12 R283. -/
def knownOpcode (op : BitVec 8) : Bool :=
  let n := op.toNat
  (1 ≤ n && n ≤ 6) || (0x50 ≤ n && n ≤ 0x5A) || n == 0x60 || (0x70 ≤ n && n ≤ 0x72) || (0x80 ≤ n && n ≤ 0x83) ||
    (0x90 ≤ n && n ≤ 0x93) || n == 0xA0

/-- UNKNOWN_OPCODE: INVALID, with error 0x0404 and the command index as its detail; nothing changes. -/
def execUnknownOpcode (c : Cmd) (s : State) : Host.Outcome State Fault Refusal :=
  let i := cmdIndex s c
  if knownOpcode (opOf c) then .next s
  else .next (runCmd (opOf c) c (fun s => (.st 2, raiseFrom 0 (hostReq c.func) 0x0404 (BitVec.ofNat 64 i) s)) s)

/-! ## Allocation (04 R93) -/

/-- Whether ALLOC_LEG may take a leg: allocated to no function, closed, no alias, no doorbell pending. -/
def legFree (s : State) (l : BitVec 16) : Bool :=
  let x := s.leg l
  x.alloc.isNone && !s.legOpen l && x.aliasOf.isNone && !bellPending s false l && !x.locked

/-- The free leg of lowest index of a die below DIE_CAP.LEGS. -/
def freeLegOf (s : State) (d : Nat) : Option (BitVec 16) :=
  (findIdx (fun i => legFree s (legId d i)) (min 1024 (s.die d).cap.legs.toNat) 0).map (legId d)

/-- A leg is allocated to a function: its next adoption counts as a change of every SSRC and of TX_KEY (06 R437). -/
def allocLeg (f : Nat) (l : BitVec 16) (s : State) : State :=
  s.modLeg l fun x => { x with alloc := some f, cry := { x.cry with fresh := true } }

/-- ALLOC_LEG. -/
def execAllocLeg (c : Cmd) (s : State) : Host.Outcome State Fault Refusal :=
  .next (runCmd 0x01 c (fun s =>
    let d := fldN c.w1 0 3
    let any := bit c.w1 3
    let others := (s.dieList.filter fun x => x != d && any && !(s.die x).str.draining)
    let order := (if any && (s.die d).str.draining then [] else [d]) ++ others
    if !s.hasDie d then (.st 2, s)
    else if !any && (s.die d).str.draining then (.st 6, s)
    else match order.findSome? (freeLegOf s) with
      | some l => (.done 0 l 0 0, allocLeg c.func l s)
      | none => (.st 7, s)) s)

/-- Whether a live entry names a leg: a subscription list as its source, or a conference's pinned list. -/
def legNamed (s : State) (l : BitVec 16) : Bool :=
  s.dieList.any fun d =>
    ((s.legsOf d).any fun r => (halfSubs s r (s.leg r).live).any fun i => (s.sub d i).source == l) ||
      ((s.die d).confs.any fun e => (s.confLive (confId d e.1)).pinned.contains l)

/-- FREE_LEG: a closed leg returns, its crypto area is zeroed and its alias ends (04 R99, 06 R437). A leg that takes part in
a move is BUSY (log 45). The completion carries the leg's live version (04 R94). -/
def execFreeLeg (c : Cmd) (s : State) : Host.Outcome State Fault Refusal :=
  .next (runCmd 0x02 c (fun s =>
    let l := argOf c
    let fin (st : BitVec 8) : Reply := .done st 0 0 (liveVersion false l s)
    if !legIdOk s l then (.st 2, s)
    else if !isPf c.func && (s.leg l).alloc != some c.func then (fin 4, s)
    else if s.legOpen l then (fin 2, s)
    else if bellPending s false l || (s.leg l).locked then (fin 5, s)
    else if legNamed s l then (fin 8, s)
    else (fin 0, s.modLeg l fun x => { x with alloc := none, aliasOf := none, cry := {} })) s)

/-- RELEASE_HELD: every held doorbell of the function, BUSY ones among them, is adopted at the MP; EARLY less than 2 MP
ahead. -/
def execReleaseHeld (c : Cmd) (s : State) : Host.Outcome State Fault Refusal :=
  .next (runCmd 0x05 c (fun s =>
    if c.w2.toNat < s.mpNo 0 + 2 then (.st 9, s)
    else
      let free (x : Doorbell) : Doorbell := if x.hold && x.func == c.func && x.atMp.isNone then { x with atMp := some c.w2 } else x
      let s : State := { s with badBells := s.badBells.map fun e => (e.1, e.2.1, free e.2.2) }
      (.st 0, s.mapDies fun _ y => { y with
        legs := y.legs.map fun e => (e.1, { e.2 with db := e.2.db.map free, busyDbs := e.2.busyDbs.map free })
        confs := y.confs.map fun e => (e.1, { e.2 with db := e.2.db.map free, busyDbs := e.2.busyDbs.map free }) })) s)

/-! ## Ownership (04 R97) -/

/-- LEG_CONF_OWNER_WRITE: the PF's write takes effect while the conference is closed; else error 0x0403. -/
def execLegConfOwnerWrite (func die i : Nat) (v : Word) (s : State) : Host.Outcome State Fault Refusal :=
  if s.off die then .next s else
  let c := confId die i
  if !isPf func || !s.hasDie die then .next (rangeError 0 func s)
  else if (s.confLive c).enable then .next (raiseFrom die (hostReq func) 0x0403 (c.setWidth 64) s)
  else .next (s.modDie die fun x => { x with lblk := { x.lblk with confOwner := tset 0 x.lblk.confOwner i (fld v 0 6) } })

end Sys2Proof.Machine
end

