-- ==== Sys2Proof/Machine/Moves.lean ====
section
/-! DEFINITION. Moving legs and conferences between dies: MIGRATE_LEG and REHOME_CONF with their steps
(04 R98 to R101, 09 R199, 11 R241). -/

namespace Sys2Proof.Machine

/-! ## Step 1 (04 Table 4.12) -/

/-- The contexts that move: whether encode, old handle, new handle. -/
abbrev CtxMoves := List (Bool × BitVec 16 × BitVec 16)

/-- A transcode context is admitted on a die for a moved decode context, as ENC_OPEN. -/
def reserveEnc (d : Nat) (new : BitVec 16) (e : BitVec 16) : Except (BitVec 8) (CtxMoves × State) → Except (BitVec 8) (CtxMoves × State)
  | .error st => .error st
  | .ok (l, s) =>
    let x := s.enc e
    if !bwFits s d 1 x.loadBw then .error 3
    else match encFits s d x.loadEnc x.loadAna, freeEnc s d with
      | true, some i =>
        let y : EncCtx := { x with
          source := new, running := false, pics := 0, intra := 0, skip := 0, dryPics := 0, dryRows := 0
          lateDry := 0, overshoot := 0, lastOvershoot := 0, lastIntraMp := 0, req := 0, reqMerged := 0, pub := [] }
        .ok (l ++ [(true, e, ctxHandle d i)], openEnc d i y s)
      | _, _ => .error 7

/-- A decode context of the leg is admitted on the target die, as DEC_OPEN, with its transcodes. -/
def reserveDec (leg' : BitVec 16) (at_ : BitVec 64) (k : BitVec 16) : Except (BitVec 8) (CtxMoves × State) → Except (BitVec 8) (CtxMoves × State)
  | .error st => .error st
  | .ok (l, s) =>
    let x := s.dec k
    let d := legDie leg'
    match decLoad s d x with
    | some st => .error st
    | none =>
      let i := (freeDec s d).getD 0
      let y : DecCtx := {
        state := .opened, leg := leg', stream := x.stream, op := x.op, maxW := x.maxW, maxH := x.maxH
        maxFps := x.maxFps, refs := x.refs, outHold := x.outHold, half := x.half, quarter := x.quarter, fir := x.fir, startMp := at_ }
      forAll ((s.openEncs (decDie k)).filter fun e => (s.enc e).kind == 1 && (s.enc e).source == k)
        (reserveEnc d (ctxHandle d i)) (.ok (l ++ [(false, k, ctxHandle d i)], openDec d i y s))

/-- Every context of a leg is admitted on the target die. -/
def reserveCtxs (leg leg' : BitVec 16) (at_ : BitVec 64) (s : State) : Except (BitVec 8) (CtxMoves × State) :=
  forAll ((s.openDecs (legDie leg)).filter fun k => (s.dec k).leg == leg) (reserveDec leg' at_) (.ok ([], s))

/-- Checks 2 to 8 of Table 4.8 on the target of a move, as if it alone were adopted. -/
def targetStatus (m : Migration) (version : BitVec 16) (s : State) : BitVec 8 :=
  let st := formStatus m.isConf m.dst m.func version false m.switchMp.toNat s (withShadow m.isConf m.dst s)
  if st ≠ 0 then st else loadStatus m.isConf m.dst s

/-- The status of the checks on the two entries of a move: BUSY, DENIED, STALE, INVALID, DRAINING, BUDGET, CAPACITY. The
target of a leg's move is an allocated leg; whether the other conditions of 04 R98 and R100 fail with INVALID or DENIED is
the model's choice (log 45). -/
def moveStatus (m : Migration) (s : State) : BitVec 8 :=
  if m.isConf then
    if !confIdOk s m.src || !confIdOk s m.dst then 2
    else if (s.conf m.src).locked || (s.conf m.dst).locked || bellPending s true m.src || bellPending s true m.dst then 5
    else if !ownsConf s m.func m.src || confOwnerOf s m.src != confOwnerOf s m.dst then 4
    else if !s.confOpen m.src || s.confOpen m.dst then 2
    else
      let h := s.confHalf m.dst (!(s.conf m.dst).live)
      if !h.enable then 2
      else if (s.die (confDie m.dst)).str.draining then 6
      else targetStatus m h.version s
  else
    if !legIdOk s m.src || !legIdOk s m.dst then 2
    else if (s.leg m.src).locked || (s.leg m.dst).locked || bellPending s false m.src || bellPending s false m.dst then 5
    else if !ownsLeg s m.func m.src || (s.leg m.src).alloc != (s.leg m.dst).alloc then 4
    else if !s.legOpen m.src || s.legOpen m.dst || (s.leg m.dst).alloc.isNone then 2
    else
      let h := s.legHalf m.dst (!(s.leg m.dst).live)
      if !h.enable then 2
      else if (s.die (legDie m.dst)).str.draining then 6
      else targetStatus m h.version { s with moves := m :: s.moves }

/-- Step 1 of a move: EARLY less than 10 MP ahead, the checks, the contexts; then both entries are locked. -/
def startMove (m : Migration) (s : State) : BitVec 8 × State :=
  if m.switchMp.toNat < s.mpNo 0 + 10 then (9, s)
  else
    let st := moveStatus m s
    if st ≠ 0 then (st, s)
    else match (if m.isConf then .ok ([], s) else reserveCtxs m.src m.dst m.switchMp s : Except (BitVec 8) (CtxMoves × State)) with
      | .error st => (st, s)
      | .ok (l, s) => (0, lockMove m true { s with moves := s.moves ++ [{ m with ctxs := l, posted := s.mpNo 0 }] })

/-- The move that a command posts. -/
def cmdMove (isConf : Bool) (c : Cmd) : Migration :=
  { isConf := isConf, src := fld c.w1 0 16, dst := fld c.w1 16 16, switchMp := c.w2, func := c.func, tag := tagOf c }

/-- MIGRATE_LEG and REHOME_CONF: refused at once, with the live version of L, or in progress until boundary S. -/
def postMove (isConf : Bool) (c : Cmd) (s : State) : State :=
  runCmd (if isConf then 0x04 else 0x03) c (fun s =>
    let (st, s) := startMove (cmdMove isConf c) s
    if st = 0 then (.later, s) else (.done st 0 0 (liveVersion isConf (argOf c) s), s)) s
def execMigrateLeg (c : Cmd) (s : State) : Host.Outcome State Fault Refusal := .next (postMove false c s)
def execRehomeConf (c : Cmd) (s : State) : Host.Outcome State Fault Refusal := .next (postMove true c s)

/-! ## Step 4: what die a sends (04 R98, R99) -/

/-- The move of a leg or conference that is in progress. -/
def moveOf (s : State) (isConf : Bool) (src : BitVec 16) : Option Migration :=
  s.moves.find? fun m => m.isConf == isConf && m.src == src

/-- Time stands at boundary S of a move, and the MP before it has ended. -/
def toSwitch (m : Migration) (s : State) : State :=
  let b := max s.nextMp m.switchMp.toNat
  endMp b (s.advanceTo 0 (unitsMp * b))

/-- MIGRATION_STATE_SEND: die a has produced the last MP of L, and its state is sent. -/
def execMigrationStateSend (leg : BitVec 16) (s : State) : Host.Outcome State Fault Refusal :=
  match moveOf s false leg with
  | none => .next s
  | some m =>
    let s := toSwitch m s
    .next { s with moves := s.moves.map fun x => if x = m then { x with sent := true } else x }

/-- An ID after a leg's move. -/
def renameLeg (a b x : BitVec 16) : BitVec 16 := if x = a then b else x

/-- A mixed MP whose output is still to be sent names the leg by its new ID. -/
def renameMixed (a b : BitVec 16) (m : MixedMp) : MixedMp :=
  { m with own := m.own.map fun e => (if e.1 = a.toNat then b.toNat else e.1, e.2),
           listeners := m.listeners.map fun e => (renameLeg a b e.1, e.2) }

/-- A leg's packets under its new ID. -/
def renamePkt (b : BitVec 16) (p : TxPacket) : TxPacket := { p with leg := b }

/-- The state of leg `x` taken over by the adopted leg `y`: its counters and published entries stay its own. -/
def takeOver (b : BitVec 16) (new : LegHalf) (x y : Leg) : Leg :=
  { y with
    jb := x.jb, vframes := x.vframes, layers := x.layers, kf := x.kf, viewer := x.viewer
    cry := { x.cry with txKey := y.cry.txKey, rxKey := y.cry.rxKey, fresh := false, own := y.cry.own }
    aud := { x.aud with next := y.aud.next }
    rx := { y.rx with nacks := x.rx.nacks, tops := x.rx.tops, got := x.rx.got, seen := x.rx.seen, vmap := x.rx.vmap, rtt := x.rx.rtt }
    tx := { x.tx with
      queue := x.tx.queue.map (renamePkt b), held := x.tx.held.map fun h => { h with pkt := renamePkt b h.pkt }
      txPkts := 0, txBytes := 0, queueDrop := 0, waitDrop := 0, nackRx := 0, rtxSent := 0, rtxMiss := 0, kfRx := 0, switches := 0
      target := if new.rateHost then new.targetRate else min x.tx.target new.targetRate
      targetSrc := if new.rateHost then 0 else x.tx.targetSrc, pub := y.tx.pub } }

/-- What names the leg elsewhere follows it: talker places, tile streams, rungs, and packets whose verdict is open. -/
def renameAll (a b : BitVec 16) (s : State) : State :=
  let mine := (s.die (legDie a)).ing.inFlight.filter (·.leg == a)
  let s := s.modDie (legDie a) fun x => { x with ing := { x.ing with inFlight := x.ing.inFlight.filter (·.leg != a) } }
  let s := s.modDie (legDie b) fun x => { x with ing := { x.ing with
    inFlight := x.ing.inFlight ++ mine.map fun r => { r with leg := b } } }
  s.mapDies fun _ x => { x with
    confs := x.confs.map fun e => (e.1, { e.2 with
      talkers := e.2.talkers.map (renameLeg a b), departing := e.2.departing.map (renameLeg a b)
      held := e.2.held.map (renameMixed a b) })
    legs := x.legs.map fun e => (e.1, { e.2 with
      aliasOf := e.2.aliasOf.map (renameLeg a b)
      viewer := e.2.viewer.map fun v => { v with slots := v.slots.map fun t =>
        (t.1, { t.2 with shown := renameLeg a b t.2.shown, want := renameLeg a b t.2.want }) } })
    gal := { x.gal with tiles := x.gal.tiles.map fun t => { t with source := renameLeg a b t.source } }
    ven := { x.ven with ctx := x.ven.ctx.map fun e => (e.1, { e.2 with
      tileLeg := renameLeg a b e.2.tileLeg, rungs := e.2.rungs.map fun r => { r with follow := renameLeg a b r.follow } }) } }

/-- A reference picture of a moved context is copied into full-size and smaller buffers of the new one's reservation (09 R199). -/
def copyPic (a b : BitVec 16) (p : Pic) (s : State) : State :=
  let y := s.dec b
  match pickBufs y b ((decSizes y).filter fun e => p.bufs.any (·.size == e.1)) (s.die (decDie b)).vdc with
  | none => s
  | some (bufs, v) =>
    let s := modPool (decDie b) (fun _ => v) (s.modDec b fun y => { y with pics := losePics bufs y.pics ++ [{ p with bufs := bufs }] })
    forAll bufs (fun n s => match p.bufs.find? (·.size == n.size) with
      | some o => storeBuf (decDie b) n (loadBuf s (decDie a) (sizeDim p.width n.size.toNat) (sizeDim p.height n.size.toNat) o) s
      | none => s) s

/-- A context moves: the new one takes its pictures or its coding state, the old one shows MOVED. -/
def moveCtx (e : Bool × BitVec 16 × BitVec 16) (s : State) : State :=
  let (enc, a, b) := e
  if enc then
    let x := s.enc a
    let s := s.modEnc b fun y => { y with
      rungs := x.rungs, lastSource := none, tainted := x.tainted, number := x.number, running := x.running, skipping := x.skipping,
      width := x.width, height := x.height, closing := x.closing, analysis := x.analysis, anaName := x.anaName }
    closeEnc a (some b) s
  else
    let x := s.dec a
    let moved := x.pics.filter fun p => p.done && (p.inRefs || x.holds.any fun e => e.2 == some p.pid)
    let s := s.modDec b fun y => { y with
      nextPid := max y.nextPid x.nextPid, tainted := x.tainted, cores := x.cores, lastW := x.lastW, lastH := x.lastH
      profile := x.profile, lastRefresh := x.lastRefresh, closing := x.closing, holds := x.holds, stoodIn := x.stoodIn, sinceSei := x.sinceSei }
    closeDec a (some b) (forAll moved (copyPic a b) s)

/-- The bridge closes L: its next version is its live content with ENABLE = 0 (log 38). -/
def closeHalf (at_ next : Nat) (len : Nat) (m : Mem) : Mem :=
  let bs := rdBytes m at_ len
  let v := (rd64 m at_).toNat
  wr64 (wrBytes m next bs) next (BitVec.ofNat 64 (65536 * (v / 65536) + (v + 1) % 65536) &&& ~~~0x10000)

/-- A leg after its move: closed, an alias of its target, its counters frozen. -/
def closeMoved (a b : BitVec 16) (s : State) : State :=
  let live := (s.leg a).live
  let s := setLegLoad a 0 { s with tables := closeHalf (legHalfAt a live) (legHalfAt a (!live)) 256 s.tables }
  let s := s.modDie (legDie a) fun x => { x with lblk := dropCached (legIdx a) x.lblk }
  s.modLeg a fun x => { x with
    live := !live, aliasOf := some b, locked := false, classified := false, jb := {}, vframes := [], layers := [], kf := [], viewer := none
    aud := { set := x.aud.set }, tx := { x.tx with queue := [], held := [], ready := false, frameAcc := [], ownEnc := false, encSt := 0 } }

/-- The switch of a leg's move at boundary S: L′ takes the state that was sent, its contexts move, L closes. -/
def switchLeg (m : Migration) (s : State) : State :=
  let a := m.src
  let b := m.dst
  let s := toSwitch m s
  let mp := s.mpNo 0
  let x := s.leg a
  let s := flipLeg b mp 0 (ledger (legDie b) (adoptRecord false b mp none s) s)
  let new := s.legLive b
  let s := s.modLeg b fun y => { takeOver b new x y with locked := false }
  let s := pktPoolAdd (legDie b) (legPktBytes x) (jbPoolAdd (legDie b) (legJbBytes x) s)
  let s := pktPoolSub (legDie a) (legPktBytes x) (jbPoolSub (legDie a) (legJbBytes x) s)
  let s := forAll m.ctxs moveCtx s
  let s := excludeLeg a (excludeLeg b (closeMoved a b (renameAll a b s)))
  refreshLoads (endMove m 0 new.version new.cookie s)

/-- MIGRATION_SWITCH: at boundary S, L′ is adopted with the state sent, its contexts move, L closes and becomes its alias. -/
def execMigrationSwitch (leg : BitVec 16) (s : State) : Host.Outcome State Fault Refusal :=
  match moveOf s false leg with
  | none => .next s
  | some m => if !m.sent then .next s else .next (switchLeg m s)

/-- The switch of a conference's move at boundary S: C′ takes over its talkers, its buses and its limiter; C closes. -/
def switchConf (m : Migration) (s : State) : State :=
  let a := m.src
  let b := m.dst
  let s := toSwitch m s
  let mp := s.mpNo 0
  let x := s.conf a
  let s := flipConf b 0 (ledger (confDie b) (adoptRecord true b mp none s) s)
  let s := s.modConf b fun y => { y with
    talkers := x.talkers, departing := x.departing, lim := x.lim, encs := x.encs, held := x.held, set := x.set, fades := x.fades, outFades := x.outFades, aliasOf := none
    locked := false }
  let live := x.live
  let s := { s with tables := closeHalf (confHalfAt a live) (confHalfAt a (!live)) 128 s.tables }
  let s := s.modConf a fun y => { y with
    live := !live, aliasOf := some b, locked := false, talkers := [], departing := [], next := none, fades := [], outFades := [], held := none }
  let s := s.mapDies fun _ d => { d with confs := d.confs.map fun e => (e.1, { e.2 with aliasOf := e.2.aliasOf.map (renameLeg a b) }) }
  let new := s.confLive b
  refreshLoads (endMove m 0 new.version new.cookie s)

/-- CONF_REHOME_SWITCH: at boundary S, C′ takes over the talker set, the bus state and the limiter gain of C, which closes
and becomes its alias. -/
def execConfRehomeSwitch (conf : BitVec 16) (s : State) : Host.Outcome State Fault Refusal :=
  match moveOf s true conf with
  | none => .next s
  | some m => .next (switchConf m s)

/-! ## Ends of aliases and of abandoned moves -/

/-- At a boundary a conference's alias ends when no live leg names it (04 R100). -/
def endConfAliases (s : State) : State :=
  let named := s.allOpenLegs.map fun l => (s.legLive l).conf
  s.mapDies fun d x => { x with confs := x.confs.map fun e =>
    (e.1, if e.2.aliasOf.isSome && !named.contains (confId d e.1) then { e.2 with aliasOf := none } else e.2) }

/-- Contexts that a move admitted and that no leg has, because the move ended with RESET, close. -/
def sweepCtxs (s : State) : State :=
  let awaited := s.moves.flatMap fun m => m.ctxs.map fun e => (e.1, e.2.2)
  let encs := s.dieList.flatMap fun d => (s.openEncs d).filter fun e =>
    let k := (s.enc e).source
    (s.enc e).kind == 1 && (s.dec k).state == .opened && !s.legOpen (s.dec k).leg && !awaited.contains (true, e)
  let decs := s.dieList.flatMap fun d => (s.openDecs d).filter fun k => !s.legOpen (s.dec k).leg && !awaited.contains (false, k)
  forAll decs (fun k s => closeDec k none s) (forAll encs (fun e s => closeEnc e none s) s)

end Sys2Proof.Machine
end

