-- ==== Sys2Proof/Machine/Relabel.lean ====
section
/-! DEFINITION. A step relabels the timeline (02 R45 to R47). What the machine counts in samples, MPs or
stamps of the running timeline moves with it; what is scheduled by MP number or stamp does not. -/

namespace Sys2Proof.Machine

/-- An MP number after a step of some ms. -/
def shiftMp (ms : Int) (m : Nat) : Nat := ((m : Int) + ms).toNat

/-- A stamp after a step. -/
def shiftStamp (ms : Int) (t : BitVec 64) : BitVec 64 := t + BitVec.ofInt 64 (unitsMp * ms)

/-- A window keyed by MP number after a step. -/
def shiftWindow {α : Type} (ms : Int) (w : List (Nat × α)) : List (Nat × α) := w.map fun e => (shiftMp ms e.1, e.2)

/-- A doorbell after a step: one that a boundary of its own awaits moves with the timeline, one for a named MP does not. -/
def shiftBell (ms : Int) (b : Doorbell) : Doorbell :=
  if b.hold || b.sample.isSome then b else { b with atMp := b.atMp.map fun m => m + BitVec.ofInt 64 ms }

/-- A leg after a step: its buffer, its buckets' stamps and its windows. -/
def relabelLeg (ms : Int) (x : Leg) : Leg :=
  { x with
    jb := relabelJb ms x.jb
    db := x.db.map (shiftBell ms), busyDbs := x.busyDbs.map (shiftBell ms), adoptedMp := x.adoptedMp.map (shiftMp ms)
    rx := { x.rx with last := shiftStamp ms x.rx.last }
    aud := { x.aud with lastActive := x.aud.lastActive.map (shiftMp ms) }
    tx := { x.tx with last := shiftStamp ms x.tx.last, sentWindow := shiftWindow ms x.tx.sentWindow,
                      riseFrom := shiftWindow ms x.tx.riseFrom, owd := shiftWindow ms x.tx.owd,
                      lastFeedback := shiftMp ms x.tx.lastFeedback,
                      departures := x.tx.departures.map fun e => (e.1, e.2.1, shiftStamp ms e.2.2) }
    layers := x.layers.map fun e => (e.1, { e.2 with window := shiftWindow ms e.2.window }) }

/-- A TDM ring after a step: each block under its new MP number, in the slot of that number. -/
def relabelRing (ms : Int) (t : Tab TdmBlock) : Tab TdmBlock :=
  t.foldl (fun t e =>
    let m := shiftMp ms e.2.mp.toNat
    tset {} t (8 * (e.1 / 8) + m % 8) { e.2 with mp := BitVec.ofNat 64 m }) []

/-- Rings of a die keyed by 8 × group + slot after a step: each entry in the slot of its new MP number. -/
def rotateSlots {α : Type} (ms : Int) (t : Tab α) : Tab α :=
  sortBy (fun a b => decide (a.1 ≤ b.1)) (t.map fun e => (8 * (e.1 / 8) + (((e.1 % 8 : Nat) + ms) % 8).toNat, e.2))

/-- The blocks of a die's TDM rings in DRAM after a step: block m lies in slot m mod 8 again (08 R187). -/
def rotateRings (s : State) (ms : Int) (d : Nat) (mem : Mem) : Mem :=
  forAll ((List.range 8).filter fun g => !(groupPorts s d g).isEmpty) (fun g mem =>
    forAll [false, true] (fun out mem =>
      let n := ringBytes s d g out
      let old := (List.range 8).map fun i => rdBytes mem (ringAt s d g out i) n
      (List.range 8).foldl (fun (m : Mem) (i : Nat) => wrBytes m (ringAt s d g out ((i : Int) + ms % 8 + 8).toNat) (old.getD i [])) mem) mem) mem

/-- A die after a step. -/
def relabelDie (s : State) (ms : Int) (d : Nat) (x : Die) : Die :=
  { x with
    dram := if x.tdm.inRing.isEmpty && x.tdm.outRing.isEmpty then x.dram else rotateRings s ms d x.dram
    tim := { x.tim with time := (((x.tim.time : Int) + unitsMp * ms) % (timeModulus : Int)).toNat }
    legs := x.legs.map fun e => (e.1, relabelLeg ms e.2)
    confs := x.confs.map fun e => (e.1, { e.2 with db := e.2.db.map (shiftBell ms), busyDbs := e.2.busyDbs.map (shiftBell ms) })
    ing := { x.ing with inFlight := x.ing.inFlight.map fun r =>
      { r with arrival := shiftStamp ms r.arrival, placed := shiftStamp ms r.placed } }
    tdm := { x.tdm with
      ports := x.tdm.ports.map fun e => (e.1, if e.2.state = .stopped then e.2 else
        { e.2 with startMp := BitVec.ofNat 64 (shiftMp ms e.2.startMp.toNat), lastFsync := e.2.lastFsync.map (shiftStamp ms) })
      inRing := relabelRing ms x.tdm.inRing, outRing := relabelRing ms x.tdm.outRing
      inDesc := rotateSlots ms x.tdm.inDesc, outDesc := rotateSlots ms x.tdm.outDesc
      playing := x.tdm.playing.map fun e => (e.1, { e.2 with mp := BitVec.ofNat 64 (shiftMp ms e.2.mp.toNat) }) }
    ven := { x.ven with ctx := x.ven.ctx.map fun e => (e.1, { e.2 with
      rungs := e.2.rungs.map fun r => { r with sent := shiftWindow ms r.sent } }) } }

/-- The whole machine after a step of some ms. -/
def relabel (ms : Int) (s : State) : State :=
  let s := s.mapDies (relabelDie s ms)
  { s with
    lastMp := s.lastMp.map (shiftMp ms), endedMp := s.endedMp.map (shiftMp ms)
    frameShift := (((s.frameShift : Int) + ms) % 120).toNat
    badBells := s.badBells.map fun e => (e.1, e.2.1, shiftBell ms e.2.2)
    moves := s.moves.map fun m => { m with posted := shiftMp ms m.posted }
    servo := { shiftRefs (unitsMp * ms) s.servo with stepPending := none } }

end Sys2Proof.Machine
end

