-- ==== Sys2Proof/Machine/Cipher.lean ====
section
/-! DEFINITION. The bulk engine of a die: its lock, jobs, save records, and the random source (06 R150 to R155). -/

namespace Sys2Proof.Machine

/-- Changes the CIP block of a die. -/
def State.modCip (s : State) (d : Nat) (f : Cip → Cip) : State := s.modDie d fun x => { x with cip := f x.cip }

/-- Requesters of the bulk engine: host functions, Face cores 0 to 16, the Duken core (06 R152). -/
def bulkReq (r : Byte) : Bool := decide (r.toNat < 64) || (decide (0x40 ≤ r.toNat) && decide (r.toNat ≤ 0x50)) || r == 0x60

/-! ## The lock (06 R152, R153) -/

/-- CIP_LOCK_ACQUIRE: of the IDs written in one cycle to a free lock the lowest wins; a write while the engine is held
sets WAITING. -/
def execCipLockAcquire (die : Nat) (ids : List Byte) (s : State) : Host.Outcome State Fault Refusal :=
  if s.off die then .next s else
  let ids := ids.filter bulkReq
  let g := (s.die die).cip
  match sortBy (fun (a b : Byte) => decide (a ≤ b)) ids with
  | [] => .next s
  | w :: _ =>
    if g.owner = 0xFF then .next (s.modCip die fun g => { g with owner := w, heldSince := s.clk })
    else .next (s.modCip die fun g => { g with waiting := true })

/-- CIP_LOCK_RELEASE: the holder releases the engine. -/
def execCipLockRelease (die : Nat) (req : Byte) (s : State) : Host.Outcome State Fault Refusal :=
  if s.off die then .next s else
  if (s.die die).cip.owner = req && req ≠ 0xFF then .next (s.modCip die fun g => { g with owner := 0xFF, waiting := false })
  else .next s

/-! ## Jobs (06 R150, R151) -/

/-- Fields of CIP_BLK_CTRL. -/
def blkMode (c : BitVec 32) : Nat := (c.extractLsb' 0 3).toNat
def blkDecrypt (c : BitVec 32) : Bool := c.getLsbD 3
def blkFirst (c : BitVec 32) : Bool := c.getLsbD 4
def blkLast (c : BitVec 32) : Bool := c.getLsbD 5
def blkSave (c : BitVec 32) : Bool := c.getLsbD 6
def blkRestore (c : BitVec 32) : Bool := c.getLsbD 7
def blkKey (c : BitVec 32) : BitVec 16 := c.extractLsb' 16 16

/-- Whether a requester may use the key of a job: an AES slot of the same die, its USE bit for the requester's kind, and for
host functions, the PF included, ownership. -/
def blkKeyOk (s : State) (d : Nat) (req : Byte) (k : BitVec 16) : Bool :=
  let x := slotOf s k
  handleOk s k && keyDie k == d && (x.ktype == 1 || x.ktype == 2) &&
    (if req.toNat < 64 then x.usage.getLsbD 1 && x.owner == BitVec.ofNat 6 req.toNat
     else if req = 0x60 then x.usage.getLsbD 3 else x.usage.getLsbD 2)

/-- Whether a job's length is allowed: at most 65,536 bytes, CBC whole blocks, the others a partial block only with
LAST. -/
def blkLenOk (c : BitVec 32) (len aad : Nat) : Bool :=
  decide (len ≤ 65536) && decide (aad ≤ 65536) && (len % 16 == 0 || (blkMode c != 0 && blkLast c))

/-- Whether every address of a customer core's job lies in the Face DMA region of its die (14 R303). -/
def faceJobOk (s : State) (d : Nat) (req : Byte) : Bool :=
  let x := s.die d
  let g := x.cip
  let inFace (a n : Nat) : Bool :=
    n == 0 || (devDie a == d && decide (a < 2 ^ 40) && decide (x.str.faceDmaBase ≤ devOff a) && decide (devOff a + n ≤ x.str.faceDmaBase + x.str.faceDmaLen))
  !(decide (0x40 ≤ req.toNat) && decide (req.toNat ≤ 0x50) && (tget {} x.face (req.toNat - 0x40)).role == 1) ||
    (inFace g.src.toNat g.len.toNat && inFace g.dst.toNat g.len.toNat &&
      (blkMode g.ctrl != 4 || inFace g.aad.toNat g.aadLen.toNat) &&
      (!(blkSave g.ctrl || blkRestore g.ctrl) || inFace g.saveAddr.toNat 96))

/-- The nonce of a save record: die and SAVE_SEQ. -/
def saveNonce (d seq : Nat) : List Byte := leBytes d 8 ++ leBytes seq 4

/-- The header of a save record, Table 6.5. -/
def saveHeader (s : State) (c : BitVec 32) (req : Byte) (seq : Nat) : List Byte :=
  let gcm := blkMode c == 4
  [BitVec.ofNat 8 (blkMode c) ||| (if blkDecrypt c then 8 else 0) ||| (if gcm then 16 else 0), req] ++
    leBytes (blkKey c).toNat 2 ++ leBytes seq 4 ++ [s.fuses.rootGen] ++ List.replicate 7 0

/-- Writes a save record of the running message to CIP_SAVE_ADDR and notes its SAVE_SEQ, the die's next, as the last issued to
the requester for the handle. -/
def writeSave (d : Nat) (req : Byte) (s : State) : State :=
  let g := (s.die d).cip
  let k := blkKey g.ctrl
  let seq := g.saveCtr + 1
  let hdr := saveHeader s g.ctrl req seq
  let body := (g.chain ++ List.replicate 64 0).take 64
  let (body, tag) := if blkMode g.ctrl = 4 then Config.gcmSeal (Config.saveKey s.fuses.rootGen.toNat d) (saveNonce d seq) hdr body
    else (body, List.replicate 16 0)
  let s := s.modCip d fun g => { g with saveCtr := seq }
  let s := s.modSlot d (keySlot k) fun x => { x with saveSeq := (req.toNat, seq) :: x.saveSeq.filter (·.1 != req.toNat) }
  devWr (engineReq 1) g.saveAddr.toNat (hdr ++ body.take 64 ++ tag.take 16) s

/-- The chaining state that a save record restores; none where it is refused: a GCM record is accepted once, on its die,
under the current ROOT_GEN, with the last SAVE_SEQ issued to the requester for the handle. -/
def readSave (s : State) (d : Nat) (req : Byte) (c : BitVec 32) : Option (List Byte) :=
  let g := (s.die d).cip
  let b := devRd s g.saveAddr.toNat 96
  let hdr := b.take 16
  if blkMode c ≠ 4 then some ((b.drop 16).take 64)
  else
    let seq := leAt b 4 4
    if hdr != saveHeader s c req seq || !((slotOf s (blkKey c)).saveSeq.contains (req.toNat, seq)) then none
    else Config.gcmOpen (Config.saveKey s.fuses.rootGen.toNat d) (saveNonce d seq) hdr ((b.drop 16).take 64) (b.drop 80)

/-- A job ends at once with an ERR. -/
def blkError (d : Nat) (err : BitVec 4) (s : State) : State :=
  s.modCip d fun g => { g with done := true, tagOk := false, err := err, busy := false }

/-- A GCM invocation under a slot is counted, in both slots of a two-slot key (06 R137); the first within the margin of the limit warns. -/
def countGcm (d : Nat) (k : BitVec 16) (s : State) : State :=
  let x := slotOf s k
  let margin := (s.die d).cip.guardGcm.toNat
  let warn := !x.gcmWarned && decide (2 ^ 32 - 1 ≤ x.gcmCount.toNat + 1 + 2 ^ margin)
  let up (y : Slot) : Slot := { y with gcmCount := satInc x.gcmCount, gcmWarned := x.gcmWarned || warn }
  let s := s.modSlot d (keySlot k) up
  let s := if x.two then s.modSlot d (keySlot k + 1) up else s
  let s := if x.persist then sealSlots s else s
  if warn then raiseFrom d (engineReq 1) 0x0603 (k.setWidth 64) (cipEv d 0 s) else s

/-- BULK_JOB_GO: a write of CIP_BLK_CTRL by the lock's holder; with GO it starts a job, whose key, length, GCM limit and
restore record are checked in this order. Any other requester's write is discarded with error 0x0605. -/
def execBulkJobGo (die : Nat) (req : Byte) (v : Word) (s : State) : Host.Outcome State Fault Refusal :=
  if s.off die then .next s else
  let g := (s.die die).cip
  if g.owner ≠ req || req = 0xFF then .next (raiseAny die (engineReq 1) 0x0605 s)
  else if g.busy then .next s
  else
    let c : BitVec 32 := fld v 0 32 &&& 0xFFFF00FF
    let s := s.modCip die fun g => { g with ctrl := c }
    let k := blkKey c
    let gcm := blkMode c == 4
    if !bit v 63 then .next s
    else if !blkKeyOk s die req k then .next (blkError die 1 s)
    else if !blkLenOk c g.len.toNat g.aadLen.toNat || !faceJobOk s die req then .next (blkError die 2 s)
    else if gcm && blkFirst c && !blkDecrypt c && (slotOf s k).gcmCount = 0xFFFFFFFF then
      .next (blkError die 3 (raiseFrom die (engineReq 1) 0x0604 (k.setWidth 64) (cipEv die 1 s)))
    else
      let start (chain : List Byte) (s : State) : State :=
        let s := s.modCip die fun g => { g with busy := true, done := false, tagOk := false, err := 0, chain := chain }
        if gcm && blkFirst c then countGcm die k s else s
      if blkRestore c then
        match readSave s die req c with
        | none => .next (blkError die 4 (raiseAny die (engineReq 1) 0x0607 s))
        | some ch =>
          let s := if gcm then s.modSlot die (keySlot k) fun x => { x with saveSeq := x.saveSeq.filter (·.1 != req.toNat) } else s
          .next (start ch s)
      else if blkFirst c then
        let aad := if gcm then devRd s g.aad.toNat g.aadLen.toNat else []
        .next (start (leBytes g.iv.toNat 16 ++ aad) s)
      else .next (start g.chain s)

/-- The running job of a die ends: its output is stored, its chaining state kept, a tag produced or compared at the end
of a GCM message, and a save record written where asked. -/
def endJob (d : Nat) (s : State) : State :=
  let g := (s.die d).cip
  if !g.busy then s
  else
    let c := g.ctrl
    let x := slotOf s (blkKey c)
    let data := devRd s g.src.toNat g.len.toNat
    let (out, chain) := Config.aesBulk x.ktype (blkMode c) (blkDecrypt c) x.value g.chain data
    let tag := BitVec.ofNat 128 (leNat (chain.take 16))
    let gcmEnd := blkMode c == 4 && blkLast c
    let s := devWr g.owner g.dst.toNat (out.take g.len.toNat) s
    let s := s.modCip d fun g => { g with
      busy := false, done := true, chain := chain
      tagOk := gcmEnd && (!blkDecrypt c || tag == g.tag)
      tag := if gcmEnd && !blkDecrypt c then tag else g.tag }
    if blkSave c then writeSave d g.owner s else s

/-- BULK_JOB_DONE. -/
def execBulkJobDone (die : Nat) (s : State) : Host.Outcome State Fault Refusal := .next (endJob die s)

/-- LOCK_PREEMPT: a holder with waiters whose lease has ended: the running job finishes, its state is saved where
CIP_SAVE_ADDR is not 0, the lock becomes free; PREEMPT and error 0x0606. -/
def execLockPreempt (die : Nat) (s : State) : Host.Outcome State Fault Refusal :=
  let g := (s.die die).cip
  if !g.waiting || g.owner = 0xFF then .next s
  else
    let s := s.advance ((unitsUs * g.lease.toNat + 1 : Int) - stampDiff s.clk g.heldSince).toNat
    let s := endJob die s
    let s := if g.saveAddr = 0 then s else writeSave die g.owner s
    .next (raiseAny die (engineReq 1) 0x0606 (cipEv die 3 (s.modCip die fun g => { g with
      owner := 0xFF, waiting := false, lastPreempted := g.owner })))

/-! ## The random source (06 R155) -/

/-- RNG_RESEED_FAILURE: RNG_OK clears; the RNG event and error 0x0609. -/
def execRngReseedFailure (die : Nat) (s : State) : Host.Outcome State Fault Refusal :=
  if !(s.die die).cip.rngOk then .next s
  else .next (raiseAny die (engineReq 1) 0x0609 (cipEv die 4 (s.modCip die fun g => { g with rngOk := false })))

/-- RNG_OK_RETURN. -/
def execRngOkReturn (die : Nat) (s : State) : Host.Outcome State Fault Refusal :=
  .next (s.modCip die fun g => { g with rngOk := true })

/-- A write of SC_MODE takes effect at the next MP boundary. -/
def scBoundary (s : State) : State := s.mapDies fun _ x => { x with cip := { x.cip with scActive := x.cip.scMode } }

end Sys2Proof.Machine
end

