-- ==== Sys2Proof/Machine/CipRegs.lean ====
section
/-! DEFINITION. The registers of the CIP block as a requester reads and writes them (06 R152, R156, Table 6.6). -/

namespace Sys2Proof.Machine

/-- CIP_LOCK as it reads. -/
def lockWord (g : Cip) : Word := put g.owner 0 ||| putB g.waiting 8 ||| put g.lastPreempted 16

/-- A CIP register as it reads, RC fields not yet cleared; 0 at an offset that holds none. -/
def cipRd (s : State) (d off : Nat) : Word :=
  let g := (s.die d).cip
  if off = 0x0 then putB g.scMode 0
  else if off = 0x8 then putB g.rngOk 0 ||| putB g.scActive 1 ||| (if d = 0 then put s.fuses.rootGen 8 else 0)
  else if off = 0x10 then put g.event 0
  else if off = 0x18 then put g.guardSrtp 0 ||| put g.guardSrtcp 8 ||| put g.guardGcm 16
  else if off = 0x20 then put g.rxGrace 0
  else if off = 0x40 then lockWord g
  else if off = 0x48 then put g.lease 0
  else if off = 0x50 then put g.saveAddr 0
  else if off = 0x80 then put g.ctrl 0 ||| putB g.busy 62
  else if off = 0x88 then put g.src 0
  else if off = 0x90 then put g.dst 0
  else if off = 0x98 then put g.len 0 ||| put g.aadLen 32
  else if off = 0xA0 then put g.aad 0
  else if off = 0xA8 then g.iv.setWidth 64
  else if off = 0xB0 then g.iv.extractLsb' 64 64
  else if off = 0xB8 then g.tag.setWidth 64
  else if off = 0xC0 then g.tag.extractLsb' 64 64
  else if off = 0xC8 then putB g.done 0 ||| putB g.tagOk 1 ||| put g.err 4
  else if 0x100 ≤ off ∧ off < 0x160 then if d = 0 then Config.devicePub ((off - 0x100) / 8) else 0
  else if 0x200 ≤ off ∧ off < 0x220 then put (tget 0 g.cnt ((off - 0x200) / 8)) 0
  else if 0x8000 ≤ off ∧ off < 0x10000 then slotAttr s d ((off - 0x8000) / 8)
  else 0

/-- A write of CIP_LOCK.OWNER: the holder releases with 0xFF, a requester asks with its own ID (06 R152). -/
def lockWrite (d : Nat) (req : Byte) (v : Word) (s : State) : State :=
  let run (o : Host.Outcome State Fault Refusal) : State := match o with | .next t => t | _ => s
  let id : Byte := fld v 0 8
  if id = 0xFF then run (execCipLockRelease d req s)
  else if id = req then run (execCipLockAcquire d [req] s)
  else s

/-- A 128-bit value with one of its 64-bit halves replaced. -/
def setHalf (old : BitVec 128) (hi : Bool) (v : Word) : BitVec 128 :=
  if hi then v ++ old.setWidth 64 else old.extractLsb' 64 64 ++ v

/-- A write of a CIP_BLK_ register other than CIP_BLK_CTRL by the lock's holder. -/
def blkWrite (d off : Nat) (v : Word) (s : State) : State :=
  s.modCip d fun g =>
    if off = 0x88 then { g with src := fld v 0 48 }
    else if off = 0x90 then { g with dst := fld v 0 48 }
    else if off = 0x98 then { g with len := fld v 0 17, aadLen := fld v 32 17 }
    else if off = 0xA0 then { g with aad := fld v 0 48 }
    else if off = 0xA8 then { g with iv := setHalf g.iv false v }
    else if off = 0xB0 then { g with iv := setHalf g.iv true v }
    else if off = 0xB8 then { g with tag := setHalf g.tag false v }
    else if off = 0xC0 then { g with tag := setHalf g.tag true v }
    else g

/-- A write of a CIP register by a requester. -/
def cipWr (d : Nat) (req : Byte) (off : Nat) (v : Word) (s : State) : State :=
  let g := (s.die d).cip
  if off = 0x0 then s.modCip d fun g => { g with scMode := bit v 0 }
  else if off = 0x10 then s.modCip d fun g => { g with event := w1c g.event (fld v 0 5) }
  else if off = 0x18 then s.modCip d fun g => { g with guardSrtp := fld v 0 6, guardSrtcp := fld v 8 6, guardGcm := fld v 16 6 }
  else if off = 0x20 then s.modCip d fun g => { g with rxGrace := fld v 0 16 }
  else if off = 0x40 then lockWrite d req v s
  else if off = 0x48 then s.modCip d fun g => { g with lease := fld v 0 32 }
  else if off = 0x50 then s.modCip d fun g => { g with saveAddr := fld v 0 48 &&& 0xFFFFFFFFFFE0 }
  else if off = 0x80 then match execBulkJobGo d req v s with | .next t => t | _ => s
  else if 0x80 < off ∧ off ≤ 0xC8 then
    if g.owner ≠ req || req = 0xFF then raiseAny d (engineReq 1) 0x0605 s else blkWrite d off v s
  else s

end Sys2Proof.Machine
end

