-- ==== Sys2Proof/Machine/FaceOps.lean ====
section
/-! DEFINITION. The operations of a Face core: fields and legality of operation words, registers by name, the
arithmetic of the ALU and MAC slots (14 R306 to R319). -/

namespace Sys2Proof.Machine

/-! ## Operation words (14 R309, Table 14.3) -/

def opPr (w : BitVec 32) : Nat := (w.extractLsb' 29 3).toNat
def opPn (w : BitVec 32) : Bool := w.getLsbD 28
def opCode (w : BitVec 32) : Nat := (w.extractLsb' 22 6).toNat
def opD (w : BitVec 32) : Nat := (w.extractLsb' 16 6).toNat
def opA (w : BitVec 32) : Nat := (w.extractLsb' 10 6).toNat
def opB (w : BitVec 32) : Nat := (w.extractLsb' 4 6).toNat
def opF (w : BitVec 32) : BitVec 4 := w.setWidth 4
def opImm10 (w : BitVec 32) : Int := (w.extractLsb' 0 10).toInt
def opImm16 (w : BitVec 32) : BitVec 16 := w.setWidth 16
def opOff22 (w : BitVec 32) : Int := (w.extractLsb' 0 22).toInt
/-- Formats M and X name their accumulator and their F field elsewhere. -/
def opAccM (w : BitVec 32) : Nat := (w.extractLsb' 20 2).toNat
def opFM (w : BitVec 32) : BitVec 4 := w.extractLsb' 16 4
def opAccX (w : BitVec 32) : Nat := (w.extractLsb' 14 2).toNat
def opShX (w : BitVec 32) : Nat := (w.extractLsb' 8 6).toNat
def opWidthX (w : BitVec 32) : Nat := (w.extractLsb' 4 2).toNat
/-- Format L. -/
def opStages (w : BitVec 32) : Nat := (w.extractLsb' 14 2).toNat + 1
def opRot (w : BitVec 32) : Nat := (w.extractLsb' 12 2).toNat + 1
def opLen (w : BitVec 32) : Nat := (w.extractLsb' 0 12).toNat
def opCount (w : BitVec 32) : Nat := (w.extractLsb' 16 6).toNat

/-- Slot `i` of a bundle. -/
def slotWord (b : BitVec 128) (i : Nat) : BitVec 32 := b.extractLsb' (32 * i) 32

/-- The word of a slot is NOP. -/
def isNop (w : BitVec 32) : Bool := opCode w == 0

/-! ## Legality (14 R311) -/

/-- Whether an ALU or control operation is legal in slot 0 or 1. -/
def aluLegal (slot : Nat) (w : BitVec 32) : Bool :=
  let f := opF w
  let lanes := !f.getLsbD 3 && f.setWidth 2 != (3 : BitVec 2)
  let small (n : Nat) : Bool := decide (n < 8)
  match opCode w with
  | 0x00 | 0x25 | 0x28 => (w.setWidth 22 == (0 : BitVec 22)) && (opCode w == 0 || slot == 0)
  | 0x01 | 0x02 | 0x0D | 0x0E => lanes
  | 0x03 | 0x10 | 0x11 => true
  | 0x04 | 0x05 | 0x06 | 0x07 | 0x08 | 0x09 | 0x17 | 0x18 => f == 0
  | 0x0A | 0x0B | 0x0C => w.extractLsb' 6 4 == (0 : BitVec 4)
  | 0x0F => lanes && opB w == 0
  | 0x12 => decide (opD w / 8 ≤ 5) && f.setWidth 3 == (0 : BitVec 3)
  | 0x13 => decide (opD w / 8 ≤ 5)
  | 0x14 => !f.getLsbD 3 && small (opD w) && small (opA w) && small (opB w)
  | 0x15 => !f.getLsbD 3
  | 0x16 => opB w == 0 && f.extractLsb' 1 3 == (0 : BitVec 3)
  | 0x19 => decide (opA w < 10) && opB w == 0 && f == 0
  | 0x1A => decide (opD w < 10) && opB w == 0 && f == 0
  | 0x20 | 0x21 | 0x23 => slot == 0
  | 0x22 => slot == 0 && opD w == 0 && opB w == 0 && f == 0
  | 0x24 => slot == 0 && opD w == 0 && f.extractLsb' 1 3 == (0 : BitVec 3)
  | 0x26 => slot == 0 && opB w == 0 && f == 0
  | 0x27 => slot == 0 && opD w == 0 && opA w == 0 && opB w == 0
  | _ => false

/-- Whether an operation is legal in slot 2, beside the operation of slot 3. -/
def macLegal (w mem : BitVec 32) : Bool :=
  let low := w.setWidth 3 == (0 : BitVec 3)
  match opCode w with
  | 0x00 => w.setWidth 22 == (0 : BitVec 22)
  | 0x01 | 0x02 | 0x03 => low
  | 0x04 | 0x05 => low && opAccM w == 0 && !w.getLsbD 3 && decide (opB w < 63)
  | 0x06 => low && !w.getLsbD 3 && !(opFM w).getLsbD 1 && isNop mem
  | 0x07 => opWidthX w != 3 && opF w == 0
  | 0x08 => opFM w == 0 && opF w == 0
  | 0x09 => w.setWidth 18 == (0 : BitVec 18)
  | 0x0A => w.setWidth 14 == (0 : BitVec 14)
  | 0x0B => opF w == 0
  | _ => false

/-- Whether an operation is legal in slot 3. -/
def memLegal (w : BitVec 32) : Bool :=
  match opCode w with
  | 0x00 => w.setWidth 22 == (0 : BitVec 22)
  | 0x01 | 0x02 | 0x03 | 0x04 | 0x05 | 0x08 | 0x09 | 0x0A | 0x11 | 0x12 | 0x13 | 0x14 | 0x15 | 0x18 | 0x19 | 0x1A => true
  | 0x06 | 0x0B | 0x16 | 0x1B => decide (opD w < 63)
  | 0x20 => opD w == 0 && opB w == 0 && (opF w).extractLsb' 2 2 == (0 : BitVec 2)
  | 0x21 => opA w == 0 && opB w == 0 && (opF w).extractLsb' 2 2 == (0 : BitVec 2)
  | _ => false

/-- Whether a bundle is legal as a whole. -/
def bundleLegal (b : BitVec 128) : Bool :=
  aluLegal 0 (slotWord b 0) && aluLegal 1 (slotWord b 1) && macLegal (slotWord b 2) (slotWord b 3) && memLegal (slotWord b 3)

/-! ## Destinations (14 R310) -/

/-- Whether a slot-3 operation updates its base register. -/
def postModifies (w : BitVec 32) : Bool := decide (0x11 ≤ opCode w) && decide (opCode w ≤ 0x1B)

/-- The destinations that an operation names. -/
def opDests (slot : Nat) (w : BitVec 32) : List Dest :=
  let op := opCode w
  if slot < 2 then
    if op = 0 ∨ op = 0x20 ∨ op = 0x22 ∨ op = 0x23 ∨ op = 0x24 ∨ op = 0x25 ∨ op = 0x27 ∨ op = 0x28 then []
    else if op = 0x12 ∨ op = 0x13 ∨ op = 0x14 then [.pred (opD w % 8)]
    else if op = 0x1A then [.ctl (opD w)]
    else if op = 0x21 then [.g 31]
    else [.g (opD w)]
  else if slot = 2 then
    match op with
    | 0x01 | 0x02 | 0x03 | 0x08 => [.acc (opAccM w)]
    | 0x04 | 0x05 => [.acc 0, .acc 1, .acc 2, .acc 3]
    | 0x06 => [.acc (opAccM w), .g (opB w)]
    | 0x07 | 0x0A | 0x0B => [.g (opD w)]
    | 0x09 => ((List.range 4).filter fun i => w.getLsbD (18 + i)).map fun i => .acc i
    | _ => []
  else
    let base := if postModifies w then [Dest.g (opA w)] else []
    let kind := op % 16
    if op = 0 ∨ op = 0x20 then []
    else if op = 0x21 then [.g (opD w)]
    else if kind ≤ 5 then .g (opD w) :: base
    else if kind = 6 then .g (opD w) :: .g (opD w + 1) :: base
    else base

/-- Whether two operations of a bundle name the same destination, whatever their predicates. -/
def collides (b : BitVec 128) : Bool :=
  let ds := (List.range 4).map fun (i : Nat) => opDests i (slotWord b i)
  (List.range 4).any fun i => (List.range i).any fun j => (ds.getD i []).any fun x => (ds.getD j []).contains x

/-! ## Registers by name (14 R306, R308) -/

/-- The physical register of a name. -/
def physReg (x : FaceCore) (n : Nat) : Nat := if n < 32 then n else 32 + (n - 32 + x.lb.toNat) % 32

/-- A g register as it reads: g0 is 0. -/
def gRd (x : FaceCore) (n : Nat) : BitVec 64 := if n = 0 then 0 else tget 0 x.g (physReg x n)

/-- A predicate as it reads: p0 is 1. -/
def pRd (x : FaceCore) (n : Nat) : Bool := n == 0 || x.p.getLsbD n

/-- Whether an operation takes effect. -/
def opActive (x : FaceCore) (w : BitVec 32) : Bool := pRd x (opPr w) != opPn w

/-- Bit `n` of a word set to a value. -/
def setBit {w : Nat} (v : BitVec w) (n : Nat) (b : Bool) : BitVec w :=
  if b then v ||| (1#w <<< n) else v &&& ~~~(1#w <<< n)

/-- A result lands; g0, p0 and read-only control registers ignore it. -/
def landOne (f : Flight) (x : FaceCore) : FaceCore :=
  match f.dest with
  | .none => x
  | .g n => if n = 0 then x else { x with g := tset 0 x.g n (f.val.setWidth 64) }
  | .acc n => { x with av := tset 0 x.av n f.val }
  | .pred n => if n = 0 then x else { x with p := setBit x.p n (f.val.getLsbD 0) }
  | .ctl n =>
    if n = 1 then { x with lb := f.val.setWidth 5 }
    else if n = 2 then { x with flags := f.val.setWidth 2 }
    else if n = 3 then { x with htab := f.val.setWidth 64 }
    else if n = 4 then { x with htabLen := f.val.setWidth 64 }
    else x

/-- Every result due by a cycle lands, in the order of cycles and, in one cycle, of issue; those of a bundle that stalls
wait. -/
def landDue (x : FaceCore) : FaceCore :=
  let due (f : Flight) : Bool := !f.held && decide (f.cycle ≤ x.cycle)
  let now := sortBy (fun (a b : Flight) => decide (a.cycle ≤ b.cycle)) (x.flights.filter due)
  forAll now landOne { x with flights := x.flights.filter fun f => !due f }

/-- Every result in flight lands: the core stops (14 R326). -/
def landAll (x : FaceCore) : FaceCore :=
  forAll (sortBy (fun (a b : Flight) => decide (a.cycle ≤ b.cycle)) x.flights) landOne { x with flights := [] }

/-- A result of the bundle that issues: it counts its cycles from the end of the bundle. -/
def give (latency : Nat) (dest : Dest) (v : BitVec 80) (y : FaceCore) : FaceCore :=
  { y with flights := y.flights ++ [{ cycle := latency, dest := dest, val := v, held := true }] }

/-- A result for a g register by its name, and the sticky SAT flag. -/
def giveG (x : FaceCore) (latency n : Nat) (v : BitVec 64) (y : FaceCore) : FaceCore :=
  give latency (.g (physReg x n)) (v.setWidth 80) y
def setSat (b : Bool) (y : FaceCore) : FaceCore := if b then { y with flags := y.flags ||| 1 } else y
def setOvf (b : Bool) (y : FaceCore) : FaceCore := if b then { y with flags := y.flags ||| 2 } else y

/-! ## Lanes (14 R315) -/

/-- Signed lane `i` of width `w`. -/
def laneOf (w i : Nat) (v : BitVec 64) : Int := (v.extractLsb' (w * i) w).toInt

/-- An operation carried out per signed lane, saturating or wrapping, and whether a lane was clamped. -/
def laneOp (w : Nat) (sat : Bool) (op : Int → Int → Int) (a b : BitVec 64) : BitVec 64 × Bool :=
  (List.range (64 / w)).foldl (init := (0, false)) fun (acc, hit) i =>
    let r := op (laneOf w i a) (laneOf w i b)
    let c := clampI (-(2 ^ (w - 1))) (2 ^ (w - 1) - 1) r
    let lane := BitVec.ofInt w (if sat then c else r)
    (acc ||| (lane.setWidth 64 <<< (w * i)), hit || (sat && c != r))

/-- Lane width of F[1:0]. -/
def laneWidth (f : BitVec 4) : Nat := if f.setWidth 2 = (0 : BitVec 2) then 64 else if f.setWidth 2 = (1 : BitVec 2) then 32 else 16

/-! ## Redundant sign bits (14 R317) -/

/-- Leading bits after the sign bit that equal it, from position `k` on. -/
def nrmFrom {w : Nat} (v : BitVec w) (bits : Nat) : (fuel n : Nat) → Nat
  | 0, n => n
  | k + 1, n => if n < bits - 1 && v.getLsbD (bits - 2 - n) == v.getLsbD (bits - 1) then nrmFrom v bits k (n + 1) else n

def nrm {w : Nat} (v : BitVec w) (bits : Nat) : Nat := nrmFrom v bits bits 0

/-! ## The ALU -/

/-- A condition of CMP over two values of a width. -/
def cmpHolds {w : Nat} (cond : Nat) (a b : BitVec w) : Bool :=
  match cond with
  | 0 => a == b
  | 1 => a != b
  | 2 => BitVec.slt a b
  | 3 => BitVec.sle a b
  | 4 => BitVec.ult a b
  | _ => BitVec.ule a b

/-- PLOG. -/
def plog (f : BitVec 4) (a b : Bool) : Bool :=
  let r := match (f.setWidth 2 : BitVec 2).toNat with | 0 => a && b | 1 => a || b | 2 => a != b | _ => a && !b
  r != f.getLsbD 2

/-- The control registers of Table 14.2 as MOVC reads them. -/
def ctlRd (s : State) (d c : Nat) (x : FaceCore) (i : Nat) : BitVec 64 :=
  match i with
  | 0 => x.lpass.setWidth 64
  | 1 => x.lb.setWidth 64
  | 2 => x.flags.setWidth 64
  | 3 => x.htab
  | 4 => x.htabLen
  | 5 => BitVec.ofNat 64 x.cycle
  | 6 => s.now d
  | 7 => BitVec.ofNat 64 (s.mpNo d)
  | 8 => (faceReq c).setWidth 64
  | _ => x.p.setWidth 64 ||| 1

/-- MOVS: a write of PRED is one of p1 to p7 each. -/
def movs (i : Nat) (v : BitVec 64) (y : FaceCore) : FaceCore :=
  if i = 9 then forAll (List.range 8) (fun n => give 2 (.pred n) (if v.getLsbD n then 1 else 0)) y
  else give 2 (.ctl i) (v.setWidth 80) y

/-- An ALU operation: `x` is the core before the bundle issues, `y` the core that takes the results. -/
def aluOp (s : State) (d c : Nat) (x : FaceCore) (w : BitVec 32) (y : FaceCore) : FaceCore :=
  let a := gRd x (opA w)
  let b := gRd x (opB w)
  let f := opF w
  let imm : BitVec 64 := BitVec.ofInt 64 (opImm10 w)
  let sh := b.toNat % 64
  let shi := w.toNat % 64
  let g (v : BitVec 64) : FaceCore := giveG x 1 (opD w) v y
  let lanes (op : Int → Int → Int) : FaceCore :=
    let (v, hit) := laneOp (laneWidth f) (f.getLsbD 2) op a b
    setSat hit (giveG x 1 (opD w) v y)
  let p (v : Bool) : FaceCore := give 1 (.pred (opD w % 8)) (if v then 1 else 0) y
  match opCode w with
  | 0x01 => lanes (· + ·)
  | 0x02 => lanes (· - ·)
  | 0x03 => g (a + imm)
  | 0x04 => g (a &&& b)
  | 0x05 => g (a ||| b)
  | 0x06 => g (a ^^^ b)
  | 0x07 => g (a <<< sh)
  | 0x08 => g (a >>> sh)
  | 0x09 => g (a.sshiftRight sh)
  | 0x0A => g (a <<< shi)
  | 0x0B => g (a >>> shi)
  | 0x0C => g (a.sshiftRight shi)
  | 0x0D => lanes min
  | 0x0E => lanes max
  | 0x0F => lanes fun u _ => if u < 0 then -u else u
  | 0x10 => g ((opImm16 w).signExtend 64)
  | 0x11 => g ((gRd x (opD w) <<< 16) ||| (opImm16 w).setWidth 64)
  | 0x12 =>
    if f.getLsbD 3 then p (cmpHolds (opD w / 8) (a.setWidth 32 : BitVec 32) (b.setWidth 32 : BitVec 32))
    else p (cmpHolds (opD w / 8) a b)
  | 0x13 => p (cmpHolds (opD w / 8) a imm)
  | 0x14 => p (plog f (pRd x (opA w)) (pRd x (opB w)))
  | 0x15 => g (if pRd x (f.toNat % 8) then a else b)
  | 0x16 =>
    if f.getLsbD 0 then
      g ((BitVec.ofNat 64 (nrm (a.extractLsb' 32 32) 32) <<< 32) ||| BitVec.ofNat 64 (nrm (a.setWidth 32 : BitVec 32) 32))
    else g (BitVec.ofNat 64 (nrm a 64))
  | 0x17 => g (BitVec.ofNat 64 (min b.toNat (min (nrm (a.setWidth 32 : BitVec 32) 32) (nrm (a.extractLsb' 32 32) 32))))
  | 0x18 => g ((b <<< 32) ||| (a &&& 0xFFFFFFFF))
  | 0x19 => g (ctlRd s d c x (opA w))
  | 0x1A => movs (opD w) a y
  | _ => y

/-! ## The MAC slot (14 R316, R318, R319) -/

/-- A factor: one half of a register, signed or unsigned. -/
def factor (v : BitVec 64) (hi uns : Bool) : Int :=
  let h : BitVec 32 := if hi then v.extractLsb' 32 32 else v.setWidth 32
  if uns then (h.toNat : Int) else h.toInt

/-- The exact product, doubled with FRAC. -/
def prod (f : BitVec 4) (a b : Int) : Int := if f.getLsbD 2 then 2 * (a * b) else a * b

/-- An accumulator as a multiply-accumulate of the next bundle reads it. -/
def accRd (x : FaceCore) (n : Nat) : BitVec 80 := tget 0 x.a n

/-- An accumulator written by a multiply-accumulate: for its kind at once, for any other reader after 3 cycles; OVF where
the sum wraps. -/
def accGive (n : Nat) (v : Int) (y : FaceCore) : FaceCore :=
  let w : BitVec 80 := BitVec.ofInt 80 v
  give 3 (.acc n) w (setOvf (w.toInt != v) { y with a := tset 0 y.a n w })

/-- An accumulator written outright after 1 cycle: what earlier operations still had in flight for it is past. -/
def accPut (n : Nat) (v : BitVec 80) (y : FaceCore) : FaceCore :=
  give 1 (.acc n) v { y with a := tset 0 y.a n v, flights := y.flights.filter (·.dest != .acc n) }

/-- `v` shifted right by `n`, rounded to nearest with ties to even or towards minus infinity (07 R163). -/
def shiftRnd (rnd : Bool) (v : Int) (n : Nat) : Int :=
  let q := v / 2 ^ n
  let r := v - q * 2 ^ n
  if rnd && n ≠ 0 && (decide (2 ^ (n - 1) < r) || (r == 2 ^ (n - 1) && q % 2 == 1)) then q + 1 else q

/-- ACCRD's value and whether it was clamped. -/
def accRead (v : BitVec 80) (w : BitVec 32) : BitVec 64 × Bool :=
  let n := if opWidthX w = 0 then 64 else if opWidthX w = 1 then 32 else 16
  let r := shiftRnd (w.getLsbD 7) v.toInt (opShX w)
  let c := clampI (-(2 ^ (n - 1))) (2 ^ (n - 1) - 1) r
  ((BitVec.ofInt n (if w.getLsbD 6 then c else r)).signExtend 64, w.getLsbD 6 && c != r)

/-- A MAC-slot operation; `mem` is the core's data memory as the bundle finds it. -/
def macOp (x : FaceCore) (w : BitVec 32) (y : FaceCore) : FaceCore :=
  let f := opFM w
  let a := gRd x (opA w)
  let b := gRd x (opB w)
  let fa := factor a (f.getLsbD 3) (f.getLsbD 0)
  let m := prod f fa (factor b (w.getLsbD 3) (f.getLsbD 1))
  let n := opAccM w
  let lane (i : Nat) : Int := prod f fa (factor (if i < 2 then b else gRd x (opB w + 1)) (i % 2 == 1) (f.getLsbD 1))
  match opCode w with
  | 0x01 => accGive n m y
  | 0x02 => accGive n ((accRd x n).toInt + m) y
  | 0x03 => accGive n ((accRd x n).toInt - m) y
  | 0x04 => forAll (List.range 4) (fun i => accGive i (lane i)) y
  | 0x05 => forAll (List.range 4) (fun i => accGive i ((accRd x i).toInt + lane i)) y
  | 0x06 =>
    let at_ := b.toNat
    let bs := rdBytes x.dmem at_ 4
    let v : BitVec 32 := BitVec.ofNat 32 (leNat bs)
    let y := accGive n ((accRd x n).toInt + prod f fa v.toInt) y
    giveG x 1 (opB w) (b - 4) { y with dmem := wrBytes y.dmem (at_ + 4) bs }
  | 0x07 =>
    let (v, hit) := accRead (tget 0 x.av (opAccX w)) w
    setSat hit (giveG x 2 (opD w) v y)
  | 0x08 => accPut n ((a.signExtend 80) <<< opB w) y
  | 0x09 => forAll ((List.range 4).filter fun i => w.getLsbD (18 + i)) (fun i => accPut i 0) y
  | 0x0A => giveG x 2 (opD w) (BitVec.ofNat 64 (nrm (tget 0 x.av (opAccX w)) 80)) y
  | 0x0B => giveG x 3 (opD w) (a * b) y
  | _ => y

end Sys2Proof.Machine
end

