-- ==== Sys2Proof/Machine/Face.lean ====
section
/-! DEFINITION. The Face cores at work: bundles, loops, the local and device windows, DMA, work from the Hoist, faults,
STOP and RUN; the Hoist's deliveries and stall limits (13 R292, R295, 14 R310 to R328). -/

namespace Sys2Proof.Machine

/-- A Face core of a die, and its change. -/
def State.faceCore (s : State) (d c : Nat) : FaceCore := tget {} (s.die d).face c
def State.modFace (s : State) (d c : Nat) (f : FaceCore → FaceCore) : State :=
  s.modDie d fun x => { x with face := tmod {} x.face c f }

/-! ## The address map (14 R321) -/

/-- The device window. -/
def winBase : Nat := 0x10000000
def inWindow (a : Nat) : Bool := decide (winBase ≤ a) && decide (a < winBase + 0x200000)

/-- Whether a window offset holds a register of Table 14.8. -/
def windowReg (o : Nat) : Bool :=
  o == 0x50040 || o == 0x50050 || (decide (0x50080 ≤ o) && decide (o ≤ 0x500C8)) ||
    (decide (0x90400 ≤ o) && decide (o < 0x90C00)) || o == 0x10030 || o == 0x10038

/-- A register of the window as a core reads it. -/
def windowRd (s : State) (d o : Nat) : Word :=
  if o = 0x10030 then s.now d
  else if o = 0x10038 then BitVec.ofNat 64 (s.mpNo d)
  else if 0x90400 ≤ o then put (tget 0 (s.die d).gal.fence ((o - 0x90400) / 8)) 0
  else cipRd s d (o - 0x50000)

/-- A core's write of a register of the window; device time is read only. -/
def windowWr (d c o : Nat) (v : Word) (s : State) : State :=
  if o = 0x10030 ∨ o = 0x10038 then s
  else if 0x90400 ≤ o then fenceSet d ((o - 0x90400) / 8) (fld v 0 32) s
  else cipWr d (faceReq c) (o - 0x50000) v s

/-- The fault of an access of data memory alone: ALIGN, else ACCESS in the window, else RANGE. -/
def localFault (a size align : Nat) : Option (BitVec 4 × Nat) :=
  if a % align ≠ 0 then some (3, a)
  else if a + size ≤ 0x40000 then none
  else if inWindow a then some (8, a) else some (4, a)

/-- Bytes of a load or store, by its opcode. -/
def memSize (w : BitVec 32) : Nat :=
  match opCode w % 16 with | 1 | 2 | 8 => 2 | 3 | 4 | 9 => 4 | 5 | 10 => 8 | _ => 16

/-- The effective address of a load or store. -/
def memAddr (x : FaceCore) (w : BitVec 32) : Nat :=
  let a := gRd x (opA w)
  if postModifies w then a.toNat else (a + BitVec.ofInt 64 (opImm10 w * memSize w)).toNat

/-- The fault of a slot-3 operation. -/
def memFault (x : FaceCore) (w : BitVec 32) : Option (BitVec 4 × Nat) :=
  let op := opCode w
  if op = 0 ∨ op = 0x21 then none
  else if op = 0x20 then localFault (gRd x (opA w)).toNat 32 8
  else
    let a := memAddr x w
    let n := memSize w
    if a % (if n = 16 then 4 else n) ≠ 0 then some (3, a)
    else if a + n ≤ 0x40000 then none
    else if inWindow a then if n = 8 && windowReg (a - winBase) then none else some (8, a)
    else some (4, a)

/-- The fault of a control operation: LOOP with a bad LEN or inside a kernel, TAKE and ENQ at a bad address. -/
def ctlFault (x : FaceCore) (w : BitVec 32) : Option (BitVec 4 × Nat) :=
  let op := opCode w
  if op = 0x23 then
    if opLen w = 0 || decide (4096 < x.pc.toNat + 1 + opLen w) || x.loop.isSome then some (7, 0) else none
  else if op = 0x24 then localFault (gRd x (opB w)).toNat 64 64
  else if op = 0x26 then localFault (gRd x (opA w)).toNat 64 64
  else none

/-- The fault of a bundle: ILLEGAL and COLLIDE at decode, else the first of its operations that take effect. -/
def bundleFault (x : FaceCore) (b : BitVec 128) : Option (BitVec 4 × Nat) :=
  if !bundleLegal b then some (1, 0)
  else if collides b then some (2, 0)
  else
    let w (i : Nat) := slotWord b i
    let f (i : Nat) (r : Option (BitVec 4 × Nat)) := if opActive x (w i) then r else none
    (f 0 (ctlFault x (w 0))).or ((f 2 (if opCode (w 2) = 6 then localFault (gRd x (opB (w 2))).toNat 8 4 else none)).or
      (f 3 (memFault x (w 3))))

/-! ## Faults and stops (14 R326, R327) -/

/-- A core leaves the waiting ones. -/
def leaveWait (d c : Nat) (s : State) : State :=
  s.modHst d fun h => { h with waits := h.waits.filter fun w => !(w.1 == 0 && w.2.1 == c) }

/-- What a core was doing is past: results in flight land, nothing stalls. -/
def quiet (x : FaceCore) : FaceCore :=
  { landAll x with stop := false, take := none, branch := none, stalled := [] }

/-- A customer core faults: PC, cause and address are kept, its tub is discarded, error 0x0E01 (14 R326). -/
def faultCore (d c : Nat) (cause : BitVec 4) (addr : Nat) (s : State) : State :=
  let s := s.modFace d c fun x => { quiet x with state := .fault, cause := cause, fault := BitVec.ofNat 48 addr }
  raiseAny d (faceReq c) 0x0E01 (loseTub d c (leaveWait d c s))

/-- A core stops: a held tub is treated as under a fault. -/
def stopCore (d c : Nat) (s : State) : State :=
  loseTub d c (leaveWait d c (s.modFace d c fun x => { quiet x with state := .stopped }))

/-! ## DMA (14 R322, R323) -/

/-- Fields of a descriptor, Table 14.9. -/
def dmaW (desc : List (BitVec 64)) (i : Nat) : Word := desc.getD i 0
def dmaAddr (desc : List (BitVec 64)) : Nat := fldN (dmaW desc 0) 0 48
def dmaLocal (desc : List (BitVec 64)) : Nat := fldN (dmaW desc 1) 0 18
def dmaOut (desc : List (BitVec 64)) : Bool := bit (dmaW desc 1) 18
def dmaLen (desc : List (BitVec 64)) : Nat := fldN (dmaW desc 1) 32 16 + 1
def dmaRows (desc : List (BitVec 64)) : Nat := fldN (dmaW desc 3) 0 12 + 1
/-- DRAM and local address of a row. -/
def dmaRowAt (desc : List (BitVec 64)) (r : Nat) : Int := (dmaAddr desc : Int) + r * (fld (dmaW desc 2) 0 32 : BitVec 32).toInt
def dmaRowLocal (desc : List (BitVec 64)) (r : Nat) : Nat := dmaLocal desc + r * fldN (dmaW desc 1) 48 16

/-- Whether a descriptor passes its check: zero fields, alignment, every DRAM byte in the die's Face DMA region and every
local byte in data memory. -/
def dmaOk (s : State) (d : Nat) (desc : List (BitVec 64)) : Bool :=
  let st := (s.die d).str
  let lo : Int := 2 ^ 37 * d + st.faceDmaBase
  let row (r : Nat) : Bool :=
    decide (lo ≤ dmaRowAt desc r) && decide (dmaRowAt desc r + dmaLen desc ≤ lo + st.faceDmaLen) &&
      decide (dmaRowLocal desc r + dmaLen desc ≤ 0x40000)
  fld (dmaW desc 0) 48 16 == (0 : BitVec 16) && fld (dmaW desc 3) 12 52 == (0 : BitVec 52) &&
    dmaAddr desc % 8 == 0 && dmaLocal desc % 8 == 0 && dmaLen desc % 8 == 0 && row 0 && row (dmaRows desc - 1)

/-- A channel of a core starts a descriptor, or refuses it whole: ERR and error 0x0E03. -/
def dmaStart (d c ch : Nat) (desc : List (BitVec 64)) (y : FaceCore) (s : State) : FaceCore × State :=
  if dmaOk s d desc then ({ y with dma := tset {} y.dma ch { busy := true, err := false, rows := 0, desc := desc } }, s)
  else ({ y with dma := tmod {} y.dma ch fun k => { k with busy := false, err := true } }, raiseAny d (faceReq c) 0x0E03 s)

/-- Changes the DRC block of a die. -/
def State.modDrc (s : State) (d : Nat) (f : Drc → Drc) : State := s.modDie d fun x => { x with drc := f x.drc }

/-- A poisoned read: DRC_CNT 1, DRC_UE_ADDR, error 0x0F02 with the requester. -/
def poisoned (d a : Nat) (req : Byte) (s : State) : State :=
  let l := a / 64 * 64
  let s := s.modDrc d fun c => { c with
    ueAddr := BitVec.ofNat 40 (devAddr d l)
    poison := if c.poison.contains l then c.poison else insertBy (fun (x y : Nat) => decide (x ≤ y)) l c.poison }
  raiseFrom d req 0x0F02 (req.setWidth 64) (drcEv d 1 (drcCnt d 1 s))

/-- Whether a descriptor that runs reads a line of its die. -/
def dmaReads (d line : Nat) (k : DmaCh) : Bool :=
  k.busy && !dmaOut k.desc && (List.range (dmaRows k.desc)).any fun r =>
    decide (dmaRowAt k.desc r < devAddr d line + 64) && decide ((devAddr d line : Int) < dmaRowAt k.desc r + dmaLen k.desc)

/-- The rows of a descriptor moved. -/
def dmaMove (d c : Nat) (desc : List (BitVec 64)) (s : State) : State :=
  forAll (List.range (dmaRows desc)) (fun r s =>
    let a := (dmaRowAt desc r).toNat
    let o := dmaRowLocal desc r
    if dmaOut desc then devWr (faceReq c) a (rdBytes (s.faceCore d c).dmem o (dmaLen desc)) s
    else
      let bs := devRd s a (dmaLen desc)
      s.modFace d c fun x => { x with dmem := wrBytes x.dmem o bs }) s

/-! ## Passes of a LOOP (14 R320) -/

/-- Results still in flight for p4 to p7 are past. -/
def dropStage (fl : List Flight) : List Flight :=
  fl.filter fun f => match f.dest with | .pred n => decide (n < 4) | _ => true

/-- The four stage predicates of pass `j`. -/
def stagePreds (l : LoopSt) (j : Nat) : BitVec 8 :=
  (List.range 4).foldl (fun p k => setBit p (4 + k) (decide (k < l.stages) && decide (k ≤ j) && decide (j < l.count.toNat + k))) 0

/-- Pass `j` begins. -/
def startPass (l : LoopSt) (j : Nat) (y : FaceCore) : FaceCore :=
  { y with
    loop := some { l with pass := j }
    lpass := BitVec.ofNat 32 j
    p := (y.p &&& 0x0F) ||| stagePreds l j
    flights := dropStage y.flights }

/-- A loop ends. -/
def endLoop (y : FaceCore) : FaceCore :=
  { y with loop := none, lpass := 0, p := y.p &&& 0x0F, flights := dropStage y.flights }

/-- LB turns by the rotation step, and so does a value on its way to LB. -/
def rotate (rot : Nat) (y : FaceCore) : FaceCore :=
  { y with
    lb := y.lb + BitVec.ofNat 5 rot
    flights := y.flights.map fun f => if f.dest = .ctl 1 then { f with val := f.val + BitVec.ofNat 80 rot } else f }

/-- The bundle after this one, where no branch is taken. -/
def fallThrough (y : FaceCore) : Nat × FaceCore :=
  let n := y.pc.toNat + 1
  match y.loop with
  | none => (n, y)
  | some l =>
    if n = l.first.toNat then (n, startPass l 0 y)
    else if n = l.first.toNat + l.len.toNat then
      let y := rotate l.rot y
      if l.pass + 1 < l.count.toNat + l.stages - 1 then (l.first.toNat, startPass l (l.pass + 1) y) else (n, endLoop y)
    else (n, y)

/-! ## The end of a bundle -/

/-- A bundle ends after `k` cycles of stall, of which those in TAKE are not counted busy. -/
def endBundle (k : Nat) (inTake : Bool) (d c : Nat) (s : State) : State :=
  let y := s.faceCore d c
  let t := y.cycle + k
  let op := opCode (slotWord (tget 0 y.imem y.pc.toNat) 0)
  let jumps := y.branch.isSome && (op == 0x20 || op == 0x21 || op == 0x22)
  let n := if jumps then 3 else 1
  let y := { y with
    state := .running, branch := none, cycle := t + n
    busy := y.busy + BitVec.ofNat 64 (if inTake then n else n + k)
    flights := y.flights.map fun f => if f.held then { f with cycle := t + f.cycle, held := false } else f }
  let (next, y) := match (s.faceCore d c).branch with
    | none => fallThrough y
    | some a => (a, if op ≠ 0x23 && y.loop.isSome then endLoop y else y)
  let s := s.modFace d c fun _ => { y with pc := BitVec.ofNat 12 next }
  if y.stop then stopCore d c s
  else if 4096 ≤ next then faultCore d c 5 0 s
  else s

/-- A stalled core goes on once nothing of its bundle waits any more; the cycles of the stall are free, at least one. -/
def resume (inTake : Bool) (d c : Nat) (s : State) : State :=
  let x := s.faceCore d c
  if x.take.isSome || !x.stalled.isEmpty then s
  else
    let (v, s) := draw s
    endBundle (1 + v.toNat) inTake d c s

/-! ## The operations of a bundle -/

/-- The 64-byte tub at a local address. -/
def tubAt (m : Mem) (a : Nat) : Tub := { w := (List.range 8).map fun i => rd64 m (a + 8 * i) }

/-- A control operation of slot 0 (14 R313, R320, R325). -/
def ctlOp (d c : Nat) (x : FaceCore) (w : BitVec 32) (y : FaceCore) (s : State) : FaceCore × State :=
  let jmp (a : Int) : FaceCore := { y with branch := some (a % 2 ^ 22).toNat }
  let pc : Int := x.pc.toNat
  match opCode w with
  | 0x20 => (jmp (pc + opOff22 w), s)
  | 0x21 => (giveG x 1 31 (BitVec.ofNat 64 (x.pc.toNat + 1)) (jmp (pc + opOff22 w)), s)
  | 0x22 => (jmp ((gRd x (opA w)).toNat % 4096 : Nat), s)
  | 0x23 =>
    let n : BitVec 32 := (gRd x (opCount w)).setWidth 32
    if n = 0 then (jmp (pc + 1 + opLen w), s)
    else
      let l : LoopSt := { first := x.pc + 1, len := BitVec.ofNat 12 (opLen w), count := n, stages := opStages w, rot := opRot w }
      ({ y with loop := some l }, s)
  | 0x24 =>
    let lv : BitVec 8 := (gRd x (opA w)).setWidth 8
    let s := doneTub d c s
    let s := s.modHst d fun h => { h with waits := h.waits ++ [(0, c, lv, s.clk)] }
    ({ y with state := .waiting, take := some (lv, (gRd x (opB w)).setWidth 18, w.getLsbD 0) }, s)
  | 0x25 => (y, doneTub d c s)
  | 0x26 =>
    let (r, s) := coreHands d c (faceReq c) (.enq (tubAt x.dmem (gRd x (opA w)).toNat)) s
    if r = 3 then ({ y with stalled := y.stalled ++ [.enq (gRd x (opA w)).toNat (physReg x (opD w))] }, s)
    else (giveG x 1 (opD w) (BitVec.ofNat 64 r) y, s)
  | 0x27 =>
    if (List.range 4).any fun i => (opF w).getLsbD i && (tget {} x.dma i).busy then
      ({ y with stalled := y.stalled ++ [.waitd (opF w)] }, s)
    else (y, s)
  | 0x28 => ({ y with stop := true }, doneTub d c s)
  | _ => (aluOp s d c x w y, s)

/-- A load or store, a DMA start or DMAST of slot 3; the Bool says that a window access stalls the bundle. -/
def memOp (d c : Nat) (x : FaceCore) (w : BitVec 32) (y : FaceCore) (s : State) : Bool × FaceCore × State :=
  let op := opCode w
  let kind := op % 16
  let a := memAddr x w
  let n := memSize w
  let base (y : FaceCore) : FaceCore :=
    if postModifies w then giveG x 1 (opA w) (gRd x (opA w) + BitVec.ofInt 64 (opImm10 w)) y else y
  let win := inWindow a
  if op = 0 then (false, y, s)
  else if op = 0x20 then
    let ch := (opF w).toNat % 4
    let desc := (List.range 4).map fun i => rd64 x.dmem ((gRd x (opA w)).toNat + 8 * i)
    if (tget {} x.dma ch).busy then (false, { y with stalled := y.stalled ++ [.dma ch desc] }, s)
    else
      let (y, s) := dmaStart d c ch desc y s
      (false, y, s)
  else if op = 0x21 then
    let k := tget {} x.dma ((opF w).toNat % 4)
    let (v, s) := draw s
    let rows := if k.busy then v.toNat % dmaRows k.desc else k.rows.toNat
    (false, giveG x (1 + v.toNat / 2 ^ 32 % 3) (opD w) (putB k.busy 0 ||| putB k.err 1 ||| put (BitVec.ofNat 12 rows) 16) y, s)
  else if kind < 8 then
    if win then (true, base (giveG x 1 (opD w) (windowRd s d (a - winBase)) y), s)
    else
      let v := leNat (rdBytes x.dmem a n)
      let wide : BitVec 64 :=
        if kind = 1 then (BitVec.ofNat 16 v).signExtend 64 else if kind = 3 then (BitVec.ofNat 32 v).signExtend 64 else BitVec.ofNat 64 v
      let y := giveG x 3 (opD w) wide y
      (false, base (if kind = 6 then giveG x 3 (opD w + 1) (BitVec.ofNat 64 (v / 2 ^ 64)) y else y), s)
  else
    let v := gRd x (opD w)
    if win then (true, base y, windowWr d c (a - winBase) v s)
    else
      let bs := leBytes v.toNat (min n 8) ++ (if n = 16 then leBytes (gRd x (opD w + 1)).toNat 8 else [])
      (false, base { y with dmem := wrBytes y.dmem a bs }, s)

/-- The operations of a bundle that take effect; the Bool says that a window access stalls it. -/
def runBundle (d c : Nat) (x : FaceCore) (b : BitVec 128) (s : State) : Bool × State :=
  let on (i : Nat) : Bool := opActive x (slotWord b i)
  let (y, s) := if on 0 then ctlOp d c x (slotWord b 0) x s else (x, s)
  let y := if on 1 then aluOp s d c x (slotWord b 1) y else y
  let y := if on 2 then macOp x (slotWord b 2) y else y
  let (win, y, s) := if on 3 then memOp d c x (slotWord b 3) y s else (false, y, s)
  (win, s.modFace d c fun _ => y)

/-- BUNDLE_ISSUE: a running core issues the bundle at PC. What a vendor core's firmware does is its own; its cycle is
counted (14 R309 to R313). -/
def execBundleIssue (die core : Nat) (s : State) : Host.Outcome State Fault Refusal :=
  let x := s.faceCore die core
  if x.state ≠ .running || !x.stalled.isEmpty || x.role = 2 then .next s
  else if x.role = 0 then .next (s.modFace die core fun x => { x with cycle := x.cycle + 1, busy := x.busy + 1 })
  else
    let x := landDue x
    let s := s.modFace die core fun _ => x
    let b := tget 0 x.imem x.pc.toNat
    match bundleFault x b with
    | some (cause, a) => .next (faultCore die core cause (if cause = 3 || cause = 4 || cause = 8 then a else 0) s)
    | none =>
      let (win, s) := runBundle die core x b s
      if win then .next (resume false die core s)
      else
        let y := s.faceCore die core
        if y.take.isSome || !y.stalled.isEmpty then .next s else .next (endBundle 0 false die core s)

/-- What a core that stalls on its DMA channels waits for is judged again. -/
def retryDma (d c : Nat) (s : State) : State :=
  forAll (s.faceCore d c).stalled (fun o s =>
    let y := s.faceCore d c
    match o with
    | .waitd m =>
      if (List.range 4).any fun i => m.getLsbD i && (tget {} y.dma i).busy then s
      else s.modFace d c fun y => { y with stalled := y.stalled.erase o }
    | .dma ch desc =>
      if (tget {} y.dma ch).busy then s
      else
        let (y, s) := dmaStart d c ch desc { y with stalled := y.stalled.erase o } s
        s.modFace d c fun _ => y
    | .enq _ _ => s) s

/-- DMA_DONE: a channel has moved its rows, and then writes its fence; where its source holds a poisoned line it sets ERR
and moves nothing (14 R322, R323, 15 R342). -/
def execDmaDone (die core ch : Nat) (s : State) : Host.Outcome State Fault Refusal :=
  let k := tget {} (s.faceCore die core).dma ch
  let bad := (s.die die).drc.poison.filter fun l => dmaReads die l k
  if !k.busy then .next s
  else if !bad.isEmpty then
    let s := forAll bad (fun l s => poisoned die l (faceReq core) s) s
    let s := s.modFace die core fun x => { x with dma := tset {} x.dma ch { k with busy := false, err := true, desc := [] } }
    if (s.faceCore die core).stalled.isEmpty then .next s else .next (resume false die core (retryDma die core s))
  else
    let s := dmaMove die core k.desc s
    let (v, s) := draw s
    let rows : BitVec 12 := if dmaRows k.desc = 4096 then v.setWidth 12 else BitVec.ofNat 12 (dmaRows k.desc)
    let s := s.modFace die core fun x => { x with dma := tset {} x.dma ch { k with busy := false, rows := rows, desc := [] } }
    let s := if bit (dmaW k.desc 1) 19 then fenceSet die (fldN (dmaW k.desc 1) 20 8) (fld (dmaW k.desc 2) 32 32) s else s
    if (s.faceCore die core).stalled.isEmpty then .next s
    else .next (resume false die core (retryDma die core s))

/-! ## Enqueues that stalled (13 R293, R295) -/

/-- The stalled enqueue of a source ends with a result. -/
def enqEnds (d : Nat) (src : Byte) (result : Nat) (s : State) : State :=
  let c := src.toNat - 0x40
  if src.toNat < 0x40 || 0x50 < src.toNat then s
  else
    match (s.faceCore d c).stalled.find? fun o => match o with | .enq _ _ => true | _ => false with
    | some (.enq a dest) =>
      resume false d c (s.modFace d c fun y =>
        give 1 (.g dest) (BitVec.ofNat 80 result) { y with stalled := y.stalled.erase (.enq a dest) })
    | _ => s

/-- Stalled enqueues take the slots that are free. -/
def admitAll (d : Nat) : (fuel : Nat) → State → State
  | 0, s => s
  | n + 1, s =>
    match admitStalled d s with
    | (some x, s) => admitAll d n (if x.released then s else enqEnds d x.src 0 s)
    | (none, s) => s

/-- STALL_TIMEOUT: a stall longer than HST_STALL_MAX µs ends as BUSY: HST_CNT 4 and error 0x0D02 (13 R295). -/
def execStallTimeout (die : Nat) (src : BitVec 8) (s : State) : Host.Outcome State Fault Refusal :=
  match (s.die die).hst.stalls.find? fun x => x.src == src with
  | none => .next s
  | some x =>
    let s := s.advance ((unitsUs * (s.die die).hst.stallMax.toNat + 1 : Int) - stampDiff s.clk x.since).toNat
    let s := s.modHst die fun h => { h with stalls := h.stalls.erase x }
    let s := raiseFrom die src 0x0D02 (src.setWidth 64) (trace die 4 0x7F x.tub src 0 (hstEv die 1 (hstCnt die 4 s)))
    .next (if x.released then s else enqEnds die src 1 s)

/-! ## Deliveries (13 R292, R293) -/

/-- Whether a waiting core comes before another: it has waited longer, or as long with a lower index. -/
def waitsBefore (a b : Nat × Nat × BitVec 8 × BitVec 64) : Bool :=
  stampBefore a.2.2.2 b.2.2.2 || (a.2.2.2 == b.2.2.2 && decide (loadIndex a.1 a.2.1 < loadIndex b.1 b.2.1))

/-- The tub is written to a customer core, which goes on; with JUMP at its handler (14 R325). -/
def deliver (d c : Nat) (t : Tub) (s : State) : State :=
  let x := s.faceCore d c
  match x.take with
  | none => s
  | some (_, a, jump) =>
    let t := { t with w := tubWords t }
    let s := s.modFace d c fun x => { x with dmem := wrBytes x.dmem a.toNat (t.w.flatMap fun w => leBytes w.toNat 8), take := none }
    let i := tubHandler t % 0x8000
    let at_ := x.htab.toNat + 2 * i
    if !jump then resume true d c s
    else if x.htabLen.toNat ≤ i then faultCore d c 6 0 s
    else match localFault at_ 2 2 with
      | some (cause, a) => faultCore d c cause a s
      | none =>
        let target := leNat (rdBytes (s.faceCore d c).dmem at_ 2)
        resume true d c (s.modFace d c fun x => { x with branch := some target })

/-- TAKE_DELIVERY: a waiting core is given the best tub that it may take. A customer core waits in TAKE; the firmware of a
vendor, packet or codec core ends the tub it holds and takes the next one, of any level. -/
def execTakeDelivery (die cls core : Nat) (s : State) : Host.Outcome State Fault Refusal :=
  if cls = 0 && (s.faceCore die core).role = 1 then
    match (s.die die).hst.waits.find? fun w => w.1 == 0 && w.2.1 == core with
    | none => .next s
    | some me =>
      match bestTub s die 0 core me.2.2.1 with
      | none => .next s
      | some t =>
        if (s.die die).hst.waits.any fun w => waitsBefore w me && eligible s die w.1 w.2.1 w.2.2.1 t then .next s
        else .next (admitAll die 128 (deliver die core t (takeTub die cls core t s)))
  else if cls = 0 && (s.faceCore die core).state ≠ .running then .next s
  else
    let s := doneTub die (loadIndex cls core) s
    match bestTub s die cls core 0xFF with
    | none => .next s
    | some t => .next (admitAll die 128 (takeTub die cls core t s))

/-! ## RUN, STOP, restart, instruction memory (14 R326 to R329) -/

/-- A customer core starts at ENTRY with the state of R308; the bridge copies its instruction memory. -/
def startCore (x : FaceCore) : FaceCore :=
  { state := .running, role := x.role, cause := x.cause, pc := x.entry, fault := x.fault, busy := x.busy, entry := x.entry,
    imem := x.imem, imemCopy := x.imem, dmem := x.dmem, dma := x.dma }

/-- A write of DIE_FACE_CTRL; ignored for a vendor or spare core. STOP acts at the next bundle boundary, where a core
stands that does not stall, and at once in TAKE; RUN starts a STOPPED or FAULT core. -/
def faceCtrl (d c : Nat) (v : Word) (s : State) : State :=
  let x := s.faceCore d c
  if x.role ≠ 1 || x.state = .retired then s
  else
    let s := s.modFace d c fun x => { x with entry := fld v 16 12 }
    let still := x.state == .stopped || x.state == .fault
    let s := if bit v 1 && (x.state == .waiting || (x.state == .running && x.stalled.isEmpty)) then stopCore d c s
      else if bit v 1 && x.state == .running then s.modFace d c fun x => { x with stop := true }
      else s
    if bit v 0 && still then s.modFace d c startCore else s

/-- RUN. -/
def execRun (die core : Nat) (v : Word) (s : State) : Host.Outcome State Fault Refusal := .next (faceCtrl die core v s)

/-- STOP. -/
def execStop (die core : Nat) (v : Word) (s : State) : Host.Outcome State Fault Refusal := .next (faceCtrl die core v s)

/-- A write of a core's instruction memory: by the PF, to a customer core that is STOPPED or FAULT (14 R328). -/
def imemWrite (d c off : Nat) (v : Word) (s : State) : State :=
  let x := s.faceCore d c
  if x.role ≠ 1 || x.state = .retired || 0x10000 ≤ off then s
  else if x.state ≠ .stopped && x.state ≠ .fault then raiseAny d (hostReq 0) 0x0E04 s
  else s.modFace d c fun x => { x with imem := tmod 0 x.imem (off / 16) fun b => setHalf b (off / 8 % 2 == 1) v }

/-- FACE_IMEM_WRITE. -/
def execFaceImemWrite (func die core off : Nat) (v : Word) (s : State) : Host.Outcome State Fault Refusal :=
  if s.off die then .next s else
  if !isPf func then .next (rangeError die func s) else .next (imemWrite die core off v s)

/-- VENDOR_CORE_RESTART: a vendor core faults, loses its tub and is reloaded and restarted: error 0x0E02. The blocks and
encodes lost meanwhile are missing from the running MP; which ones is free (14 R326, 07 R177). -/
def execVendorCoreRestart (die core : Nat) (s : State) : Host.Outcome State Fault Refusal :=
  let x := s.faceCore die core
  if x.role ≠ 0 || x.state ≠ .running then .next s
  else
    let s := loseTub die core s
    let s := forAll ((s.openLegs die).filter fun l => (s.legLive l).audio) (fun l s =>
      let (v, s) := draw s
      { s with
        lateDecodes := if v.getLsbD 0 then l :: s.lateDecodes else s.lateDecodes
        lateEncodes := if v.getLsbD 1 then l :: s.lateEncodes else s.lateEncodes }) s
    let s := raiseAny die (faceReq core) 0x0E02 s
    .next (s.modFace die core fun x => { x with cycle := 0 })

end Sys2Proof.Machine
end

