-- ==== Sys2Proof/Machine/Wear.lean ====
section
/-! DEFINITION. Spares, Canaries, retirement and the fall of capacity (16 R361, R366 to R368). -/

namespace Sys2Proof.Machine

/-- Changes the CAN block of a die, and one of its clusters. -/
def State.modCan (s : State) (d : Nat) (f : Can → Can) : State := s.modDie d fun x => { x with can := f x.can }
def State.modCluster (s : State) (d k : Nat) (f : Cluster → Cluster) : State :=
  s.modCan d fun c => { c with clusters := tmod {} c.clusters k f }

/-! ## Capacity falls (16 R368) -/

/-- Capacity registers drop to what remains: CHANGED and error 0x100B. -/
def lowerCap (d : Nat) (f : Capacity → Capacity) (s : State) : State :=
  raiseAny d dukenCheck 0x100B (capEv d (s.modDie d fun x => { x with cap := { f x.cap with degraded := true } }))

/-- Whether the load of a die without some of its legs fits its capacity. -/
def loadFits (s : State) (d : Nat) (gone : List (BitVec 16)) : Bool :=
  let x := s.die d
  let rest := (s.openLegs d).filter fun l => !gone.contains l
  let pix := ((s.openDecs d).filter fun k => !gone.contains (s.dec k).leg).foldl (fun n k => n + decPix (s.dec k)) 0
  let t := s.modDie d fun x => { x with legs := x.legs.filter fun e => !gone.contains (legId d e.1) }
  decide (rest.length ≤ x.cap.legs.toNat) && decide ((s.openConfs d).length ≤ x.cap.confs.toNat) &&
    decide (faceLoad t d ≤ x.mix.faceCap.toNat) && decide (pix ≤ decPixCap s d) &&
    decide (x.ven.encUse ≤ encCap s d) && decide (x.ven.anaUse ≤ anaCap s d) && seaFits t d

/-- The die with the most free legs, the lowest number on a tie, of those that take new legs. -/
def roomiestDie (s : State) (d : Nat) : Option Nat :=
  let ok := s.dieList.filter fun e => e != d && !(s.die e).cap.retired && !(s.die e).str.draining && decide (0 < freeLegs s e)
  ok.foldl (fun b e => match b with
    | none => some e
    | some x => if freeLegs s x < freeLegs s e then some e else b) none

/-- A key copied to a free slot of another die, or to a free pair of slots; its new handle. -/
def copyKey (e : Nat) (k : BitVec 16) (s : State) : Option (BitVec 16 × State) :=
  if keySlot k = 0 then some (0, s)
  else
    let x := slotOf s k
    let free (i : Nat) : Bool := !(s.slot e i).alloc
    match findIdx (fun i => if x.two then i % 2 == 0 && free i && free (i + 1) else free i) 4094 1 with
    | none => none
    | some i =>
      let s := s.modSlot e i fun _ => { x with persist := false, saveSeq := [] }
      let s := if x.two then s.modSlot e (i + 1) fun _ => { s.slot (keyDie k) (keySlot k + 1) with persist := false, saveSeq := [] } else s
      some (keyHandle e i, s)

/-- Entries of a die's subscription table that no list of a leg's halves holds, from `i` on. -/
def freeSubs (used : List Nat) : (fuel i need : Nat) → List Nat
  | 0, _, _ => []
  | n + 1, i, need =>
    if need = 0 then [] else if used.contains i then freeSubs used n (i + 1) need else i :: freeSubs used n (i + 1) (need - 1)

/-- A leg's subscription list copied to free entries of another die's table, with a new receiver; its head. -/
def copySubs (l l' : BitVec 16) (s : State) : Nat × State :=
  let e := legDie l'
  let list := subList s l (s.legLive l)
  let used := (s.legsOf e).flatMap fun o => subList s o (s.legHalf o false) ++ subList s o (s.legHalf o true)
  let at_ := freeSubs used 65536 0 list.length
  let m := (List.range list.length).foldl (fun m j =>
    let src := subAt (legDie l) (list.getD j 0)
    let dst := subAt e (at_.getD j 0)
    let w0 := (rd64 s.tables src &&& 0x0000FFFFFFFF0000) ||| put l' 0 ||| put (BitVec.ofNat 16 (at_.getD (j + 1) 0)) 48
    wr64 (wrBytes m dst (rdBytes s.tables src 32)) dst w0) s.tables
  (at_.getD 0 0, { s with tables := m })

/-- The shadow half of L′ written as the bridge writes it for a leg that it moves: the live half of L, with keys of L′'s die
and its list there. -/
def writeMoved (l l' k1 k2 : BitVec 16) (head : Nat) (s : State) : State :=
  let src := legHalfAt l (s.leg l).live
  let dst := legHalfAt l' (!(s.leg l').live)
  let m := wrBytes s.tables dst (rdBytes s.tables src 256)
  let v := (s.legLive l').version + 1
  let m := wr64 m dst ((rd64 m dst &&& 0xFFFFFFFFFFFF0000) ||| put v 0)
  let m := wr64 m (dst + 0x58) ((rd64 m (dst + 0x58) &&& 0xFFFFFFFF00000000) ||| put k1 0 ||| put k2 16)
  { s with tables := wr64 m (dst + 0x80) ((rd64 m (dst + 0x80) &&& 0xFFFFFFFFFFFF0000) ||| put (BitVec.ofNat 16 head) 0) }

/-- L′'s shadow half is written, with a list of its own where L has one, and the move is started 10 MP ahead. -/
def startBridge (l l' k1 k2 : BitVec 16) (h : LegHalf) (s : State) : BitVec 8 × State :=
  let p := if h.subEn then copySubs l l' s else (h.subHead, s)
  startMove { src := l, dst := l', switchMp := BitVec.ofNat 64 (s.mpNo 0 + 10), byBridge := true } (writeMoved l l' k1 k2 p.1 p.2)

/-- The bridge starts the move of a leg to another die; none where it cannot. -/
def bridgeMove (l : BitVec 16) (s : State) : Option State :=
  match roomiestDie s (legDie l) with
  | none => none
  | some e =>
    match freeLegOf s e with
    | none => none
    | some l' =>
      let h := s.legLive l
      let t := s.modLeg l' fun x => { x with alloc := (s.leg l).alloc, cry := { x.cry with fresh := true } }
      match copyKey e h.rxKey t with
      | none => none
      | some (k1, t) =>
        match (if h.txKey = h.rxKey then some (k1, t) else copyKey e h.txKey t) with
        | none => none
        | some (k2, t) =>
          let r := startBridge l l' k1 k2 h t
          if r.1 = 0 then some r.2 else none

/-- Legs of a die leave it, the highest index first, until its load fits; the Bool says that it does. -/
def shedLegs (d : Nat) : List (BitVec 16) → List (BitVec 16) → State → Bool × State
  | [], gone, s => (loadFits s d gone, s)
  | l :: ls, gone, s =>
    if loadFits s d gone then (true, s)
    else match bridgeMove l s with
      | some s => shedLegs d ls (l :: gone) s
      | none => shedLegs d ls gone s

/-- What follows a fall of capacity: legs move away until the load fits; a load that cannot fit, or a capacity below the
guaranteed one, is capacity-short with error 0x100C. -/
def settleCap (d : Nat) (s : State) : State :=
  let away := s.openLegs d |>.filter fun l => s.moves.any fun m => !m.isConf && m.src == l
  let stay := ((s.openLegs d).filter fun l => !away.contains l).reverse
  let (fits, s) := shedLegs d stay away s
  let x := s.die d
  if fits && decide (x.capr.guarLegs ≤ x.cap.legs) && decide (x.capr.guarConfs ≤ x.cap.confs) then s
  else if x.capr.short then s
  else raiseAny d dukenCheck 0x100C (capEv d (s.modDie d fun x => { x with capr := { x.capr with short := true } }))

/-! ## Retirement (16 R366, Table 16.4) -/

/-- The first spare Face core. -/
def spareFace (s : State) (d : Nat) : Option Nat :=
  (List.range 17).find? fun c => (s.faceCore d c).role == 2 && (s.faceCore d c).state != .retired

/-- A spare Face core takes the role of a retired one: with vendor firmware, or with the bridge's copy of the customer's
instruction memory, started at its ENTRY where the retired core ran (14 R327). -/
def takeRole (d c j : Nat) (old : FaceCore) (s : State) : State :=
  let s := s.modFace d j fun x =>
    if old.role = 0 then { state := .running, role := 0, dmem := x.dmem, busy := x.busy }
    else
      let y : FaceCore := { role := 1, entry := old.entry, imem := old.imemCopy, imemCopy := old.imemCopy, dmem := x.dmem, busy := x.busy }
      if old.state = .running || old.state = .waiting then startCore y else y
  let s := s.modDie d fun x => { x with cap := { x.cap with took := x.cap.took ++ [(c, j)] } }
  raiseAny d dukenCheck 0x100A s

/-- A Face core is retired. DIE_CAP.FACE falls with the second one, also where an idle active core takes the role (log 103). -/
def retireFace (d c : Nat) (s : State) : State :=
  let old := s.faceCore d c
  let s := requeueTub d c (leaveWait d c s)
  let s := s.modHst d fun h => { h with stalls := h.stalls.filter fun x => x.src != faceReq c }
  let s := s.modFace d c fun x => { quiet x with state := .retired }
  let left := 17 - ((s.die d).cap.units.filter (· < 17)).length
  let few (s : State) : State := if left < 16 then lowerCap d (fun x => { x with face := BitVec.ofNat 5 left }) s else s
  if old.role = 2 then few s
  else match spareFace s d with
    | some j => few (takeRole d c j old s)
    | none =>
      let s := s.modDie d fun x =>
        let v := if old.role = 0 then x.str.faceVendor - 1 else x.str.faceVendor
        { x with str := { x.str with faceVendor := v, faceCustomer := if old.role = 1 then x.str.faceCustomer - 1 else x.str.faceCustomer }
                 mix := { x.mix with faceCap := BitVec.ofNat 32 (135000 * v) } }
      lowerCap d (fun x => { x with face := BitVec.ofNat 5 left }) s

/-- A packet core is retired. -/
def retirePacket (d j : Nat) (wasActive : Bool) (s : State) : State :=
  let s := requeueTub d (32 + j) s
  let left := min 16 (17 - ((s.die d).cap.units.filter fun u => 17 ≤ u && u < 34).length)
  if left = 16 then
    if wasActive then raiseAny d dukenCheck 0x100A s else s
  else lowerCap d (fun x => { x with packet := BitVec.ofNat 5 left, legs := BitVec.ofNat 11 (min x.legs.toNat (1024 * left / 16)) }) s

/-- What the retirement of unit `k` does to its die's capacity; `active`: it was an active packet core. -/
def retireKind (d k : Nat) (active : Bool) (s : State) : State :=
  if k < 17 then retireFace d k s
  else if k < 34 then retirePacket d (k - 17) active s
  else if k < 42 then lowerCap d (fun x => { x with codec := x.codec - 1 }) (requeueTub d (64 + (k - 34)) s)
  else if k < 44 then lowerCap d (fun x => { x with gallery := x.gallery - 1 }) s
  else if k = 44 then lowerCap d (fun x => { x with seam := false }) s
  else lowerCap d (fun x => { x with retired := true, legs := 0, confs := 0, face := 0, packet := 0, codec := 0, gallery := 0, seam := false }) s

/-- A unit is retired, by its Canary cluster number. Clusters 45 to 47 retire their die, but on die 0 they are only reported
worn: error 0x100E. -/
def retireUnit (d k : Nat) (s : State) : State :=
  if !s.hasDie d || 48 ≤ k || (s.die d).cap.units.contains k then s
  else if 45 ≤ k && d = 0 then raiseAny 0 dukenCheck 0x100E (s.modCluster 0 k fun c => { c with worn := true })
  else
    let active := decide (17 ≤ k) && packetActive s d (k - 17)
    let s := s.modDie d fun x => { x with cap := { x.cap with units := x.cap.units ++ [k] } }
    let s := retireKind d k active (s.modCluster d k fun c => { c with retired := true })
    if (s.die d).cap.degraded then settleCap d s else s

/-- An SRAM row that fails: a spare row of its array repairs it; without one the engine that holds the array is retired. -/
def repairRow (d k : Nat) (s : State) : State :=
  let c := (s.die d).can
  if c.repairFree = 0 then retireUnit d k s
  else raiseAny d dukenCheck 0x100A (s.modCan d fun c => { c with repairUsed := c.repairUsed + 1, repairFree := c.repairFree - 1 })

/-- ASSAY_SELF_TEST: an idle unit, or the SRAM array of unit k as 48 + k, runs its vectors; a failure retires the unit with
error 0x1008 (16 R361). -/
def execAssaySelfTest (die unit : Nat) (pass : Bool) (s : State) : Host.Outcome State Fault Refusal :=
  if pass || !s.hasDie die || 96 ≤ unit then .next s
  else if 48 ≤ unit then .next (repairRow die (unit - 48) s)
  else .next (retireUnit die unit (raiseAny die dukenCheck 0x1008 s))

/-! ## Canaries (16 R367) -/

/-- CANARY_MEASURE: a cluster's slack; below CAN_GUARD at bin 7 the cluster is worn and its unit retired. The predicted years
are free. -/
def execCanaryMeasure (die k : Nat) (slack : BitVec 8) (s : State) : Host.Outcome State Fault Refusal :=
  if !s.hasDie die || 48 ≤ k then .next s
  else
    let (v, s) := draw s
    let s := s.modCluster die k fun c => { c with slack := slack, years := v.setWidth 16 }
    let c := tget {} (s.die die).can.clusters k
    if c.bin = 7 && !c.worn && decide (slack.toInt < ((s.die die).can.guard.toNat : Int)) then
      .next (retireUnit die k (s.modCluster die k fun c => { c with worn := true }))
    else .next s

/-- REPLAN: a write of CAN_CTRL.REPLAN, or with AUTO the 8,760th powered hour, starts a re-plan; with AUTO one that a package
reset ended restarts 1 h after RUNNING (17 Table 17.4). -/
def execReplan (die : Nat) (auto : Bool) (s : State) : Host.Outcome State Fault Refusal :=
  if !auto && s.off die then .next s else
  let c := (s.die die).can
  let again := c.replanDue && (s.die die).str.state == .running
  if c.replanning || (auto && (!c.auto || (decide (c.hours.toNat < 8760) && !again))) then .next s
  else
    let s := if auto && again then s.advance ((3600 * unitsSec : Int) - stampDiff s.clk (s.die die).str.runAt).toNat else s
    .next (s.modCan die fun c => { c with replanning := true, replanAt := s.clk, replanDue := false })

/-- MARGIN_REPLAN_DONE: the sweep of 48 clusters, 10 s each, has ended; each cluster's lowest bin whose slack at 105 °C is at least CAN_GUARD is chosen, bin 7 where none is;
error 0x100D. -/
def execMarginReplanDone (die : Nat) (slack : List (Nat × List (BitVec 8))) (s : State) : Host.Outcome State Fault Refusal :=
  if !(s.die die).can.replanning then .next s
  else
    let guard : Int := (s.die die).can.guard.toNat
    let s := s.advance ((480 * unitsSec : Int) - stampDiff s.clk (s.die die).can.replanAt).toNat
    let pick (l : List (BitVec 8)) : Nat := ((List.range 8).find? fun b => decide (guard ≤ (l.getD b 0).toInt)).getD 7
    let s := forAll (slack.filter fun e => decide (e.1 < 48)) (fun e s =>
      s.modCluster die e.1 fun c => { c with target := BitVec.ofNat 3 (pick e.2) }) s
    .next (raiseAny die dukenCheck 0x100D (s.modCan die fun c => { c with replanning := false, hours := 0 }))

/-- At an MP boundary each island moves one step towards its bin. -/
def stepBins (s : State) : State :=
  s.mapDies fun _ x => { x with can := { x.can with clusters := x.can.clusters.map fun e =>
    (e.1, if e.2.bin < e.2.target then { e.2 with bin := e.2.bin + 1 } else if e.2.target < e.2.bin then { e.2 with bin := e.2.bin - 1 } else e.2) } }

/-- CAN_HOURS counts each powered hour of device time. -/
def countHours (b : Nat) (s : State) : State :=
  if b % 3600000 ≠ 0 then s
  else s.mapDies fun _ x => { x with can := { x.can with hours := x.can.hours + 1 } }

end Sys2Proof.Machine
end

