-- ==== Sys2Proof/Machine/Pair.lean ====
section
/-! DEFINITION. Pair operation: roles, the admission ledger in the standby, divergence and re-seeds, digests, heartbeats,
takeover and planned switches (16 R349 to R365). -/

namespace Sys2Proof.Machine

/-- Changes the pair registers, and the PAR registers of a die. -/
def State.modPair (s : State) (f : Pair → Pair) : State := { s with pair := f s.pair }
def State.modPar (s : State) (d : Nat) (f : Par → Par) : State := s.modDie d fun x => { x with par := f x.par }

/-- Requests to the paired unit over Adit: a packet to fetch, a re-seed, a planned switch. -/
def askFetch : Nat := 1
def askReseed : Nat := 2
def tellSwitch : Nat := 4

/-! ## Divergence (16 R357, R358) -/

/-- Whether a layout draws a leg. -/
def layDraws (s : State) (lay l : BitVec 16) : Bool :=
  if (s.lay lay).kind then (s.die (layDie lay)).gal.tiles.any fun t => t.layout == lay && t.source == l
  else s.layOn lay && (s.layLive lay).layers.any fun y => y.en && y.srcKind == 0 && (s.dec y.ctx).leg == l

/-- The legs that a leg's divergence reaches: itself, the listeners of conferences in which it is a talker or a departing
talker, and the legs that receive a layout which draws it. -/
def reached (s : State) (l : BitVec 16) : List (BitVec 16) :=
  let mixes (c : BitVec 16) : Bool := (s.conf c).talkers.contains l || (s.conf c).departing.contains l
  let shows : Option (BitVec 16) → Bool := fun o => match o with | some y => layDraws s y l | none => false
  s.allOpenLegs.filter fun x => x == l || ((s.legLive x).listenEn && (s.legLive x).conf != noId && mixes (s.confOf x)) ||
    shows (galleryOf s x) || shows (seamOf s x)

/-- A leg of a standby diverges, with all that it reaches: they leave the digests, and the active unit is asked for a
re-seed, which takes the place of one that pends for the leg. -/
def diverge (l : BitVec 16) (s : State) : State :=
  if !standsBy s then s
  else
    let s := forAll (reached s l) (fun x s => excludeLeg x (s.modLeg x fun y => { y with diverged := true })) s
    let at_ := BitVec.ofNat 64 (s.mpNo 0 + 20)
    emit (.peer askReseed (l.setWidth 64)) (parEv 2 (s.modPair fun p =>
      { p with reseed := p.reseed.filter (fun e => e.1 != l) ++ [(l, at_)] }))

/-- Every open leg of a die diverges. -/
def divergeDie (d : Nat) (s : State) : State := forAll (s.openLegs d) diverge s

/-! ## Roles (16 R351, R352) -/

/-- Whether every die's structure runs. -/
def allRunning (s : State) : Bool := s.dieList.all fun d => (s.die d).str.state == .running

/-- The unit is the active one: it transmits, and its running TDM outputs are driven. -/
def goActive (s : State) : State :=
  let s := s.modPair fun p => { p with role := .active, shadow := false, transmit := true }
  s.mapDies fun _ x => { x with tdm := { x.tdm with ports := x.tdm.ports.map fun e =>
    (e.1, if e.2.state = .running then { e.2 with sdo := .driven } else e.2) } }

/-- Re-seeds of at most 64 legs of a die at one boundary: the legs beyond move on to the boundaries that follow (R352). -/
def stagger (l : List (BitVec 16 × BitVec 64)) : List (BitVec 16 × BitVec 64) :=
  l.mapIdx fun i e =>
    let before := ((l.take i).filter fun x => legDie x.1 == legDie e.1).length
    (e.1, e.2 + BitVec.ofNat 64 (before / 64))

/-- The unit joins an active one: it is silent, runs in shadow, and every open leg awaits its re-seed. -/
def goJoining (s : State) : State :=
  let s := s.modPair fun p => { p with role := .joining, shadow := true, transmit := false, prot := false, switchAt := none }
  let s := s.mapDies fun _ x => { x with tdm := { x.tdm with ports := x.tdm.ports.map fun e => (e.1, { e.2 with sdo := idleSdo e.2.cfg }) } }
  let s := forAll s.allOpenLegs diverge s
  s.modPair fun p => { p with reseed := stagger p.reseed }

/-- PAIR_ROLE_SETTLE: a unit of a pair whose structure runs finds its peer: it joins an active one; of two that come up
together the strap decides, then the lower 48 bits of ING_MAC[0]. A peer with another MAN_SEQ is not joined: error 0x1207 (18
R400). An active unit whose standby returns streams its ledger
again. -/
def execPairRoleSettle (p : PeerSeen) (s : State) : Host.Outcome State Fault Refusal :=
  if !s.pair.cfg || !allRunning s || !p.present || !p.sameVariant then .next s
  else if p.manSeq.toNat ≠ manSeq s (runBank s) then
    .next (if s.pair.role = .active || s.pair.role = .standby then s else raiseAny 0 dukenCheck 0x1207 s)
  else if !p.sameStructure then .next s
  else match s.pair.role with
    | .active => .next (if p.role = .active then s else s.modPair fun x => { x with peerLost := false })
    | .standby => .next s
    | _ =>
      if p.role = .active then
        if s.pair.role = .joining then .next (s.modPair fun x => { x with peerLost := false })
        else .next (parEv 0 (goJoining s))
      else
        let mine := (s.ethPort 0 0).mac
        let lead := if s.pair.strap = p.strap then decide (mine < p.mac) else !s.pair.strap
        if lead then .next (parEv 0 (goActive s))
        else if s.pair.role = .joining then .next s
        else .next (parEv 0 (goJoining s))

/-- PEER_SEARCH_TIMEOUT: no peer within 2 s: strap 0 makes the unit active, strap 1 leaves it joining. -/
def execPeerSearchTimeout (s : State) : Host.Outcome State Fault Refusal :=
  if !s.pair.cfg || !allRunning s || s.pair.role ≠ .unpaired then .next s
  else if s.pair.strap then .next (parEv 0 (goJoining s))
  else .next (parEv 0 (goActive (s.modPair fun p => { p with peerLost := true })))

/-! ## The ledger in the standby (16 R356, R357) -/

/-- A key mirrored from the active unit: its slot, or both of a two-slot key, with its attributes; a persistent one is
sealed (06 R142, R143). -/
def installKey (k : KeyCopy) (s : State) : State :=
  let slot (upper : Bool) (v : BitVec 256) (x : Slot) : Slot :=
    { x with alloc := true, ktype := k.ktype, usage := k.usage, owner := k.owner, persist := k.persist, two := k.two && !upper,
             upper := upper, gcmCount := k.gcmCount, value := v }
  let d := keyDie k.handle
  let s := s.modSlot d (keySlot k.handle) (slot false (k.value.setWidth 256))
  let s := if k.two then s.modSlot d (keySlot k.handle + 1) (slot true (k.value.extractLsb' 256 256)) else s
  if k.persist then sealSlots s else s

/-- Table bytes mirrored from the active unit. -/
def installBytes (e : Nat × List Byte) (s : State) : State := { s with tables := wrBytes s.tables e.1 e.2 }

/-- The frames that wait for a record and can be matched now. -/
def rematch (s : State) : State :=
  forAll s.pair.unmatched (fun r s =>
    if (admitOf s r).isSome then standbyRtp r (s.modPair fun p => { p with unmatched := p.unmatched.erase r }) else s) s

/-- A SEAL closes an MP: frames that arrived by its end and have no record are discarded and counted in PAR_CNT 1. -/
def sealMp (mp : BitVec 64) (s : State) : State :=
  let gone := s.pair.unmatched.filter fun r => stampBefore r.arrival (mpStamp (mp.toNat + 1))
  let s := s.modPair fun p => { p with unmatched := p.unmatched.filter fun r => !gone.contains r }
  forAll gone (fun r s => parCnt (legDie r.leg) 1 (freePacket r.leg r s)) s

/-- An ADOPT record: the half, its subscription entries and its keys are written, and the half is adopted at its MP. -/
def ledgerAdopt (isConf : Bool) (id : BitVec 16) (mp : BitVec 64) (sample : Option (BitVec 6)) (half : List Byte)
    (subs : List (Nat × List Byte)) (keys : List KeyCopy) (s : State) : State :=
  let s := forAll keys installKey s
  let s := installBytes (if isConf then confHalfAt id (!(s.conf id).live) else legHalfAt id (!(s.leg id).live), half) s
  let s := forAll subs (fun e s => installBytes (subAt (legDie id) e.1, e.2) s) s
  let s := endMp mp.toNat (s.advanceTo 0 (unitsMp * mp.toNat))
  adoptEntry isConf id mp.toNat sample s

/-- A FLIP record: the halves are written and go live, or the group is cancelled. -/
def ledgerFlip (d : Nat) (commit : Bool) (mp : BitVec 64) (layouts : List (BitVec 16 × List Byte)) (s : State) : State :=
  if commit then
    let s := forAll layouts (fun e s => installBytes (layHalfAt e.1 (!(s.lay e.1).live), e.2) s) s
    let s := s.advanceTo 0 (unitsMp * mp.toNat)
    galCnt d 4 (commitGroup (layouts.map fun e => (e.1, layLoad s e.1 (s.layHalf e.1 (!(s.lay e.1).live)))) s)
  else galEv d 5 (galCnt d 5 s)

/-- A FORWARD record: the new WANT of an item, or none. -/
def ledgerForward (d idx : Nat) (want : Option (BitVec 2 × BitVec 2)) (s : State) : State :=
  let r : ItemRef := if idx < 65536 then some idx else none
  let l := match r with | some i => (s.sub d i).receiver | none => legId d (idx - 65536)
  match want with
  | some (a, b) => putItem l r { itemEntry s l r with wantS := a.toNat, wantT := b.toNat, paused := false, upHold := 0, wait := true } s
  | none => pauseItem l r s

/-- LEDGER_RECORD: a record reaches the standby, which makes the decision from it; PAR_CNT 0. -/
def execLedgerRecord (die : Nat) (r : LedgerRec) (s : State) : Host.Outcome State Fault Refusal :=
  if !standsBy s || !s.hasDie die then .next s
  else
    let s := parCnt die 0 s
    let keep (s : State) : State := s.modPair fun p => { p with ledger := p.ledger ++ [r] }
    match r with
    | .admission _ _ _ _ _ _ => .next (rematch (keep s))
    | .playout l anchor target step => .next (s.modJb l fun j =>
        let j := match anchor with
          | some a => { j with anchored := true, offset := a, anchorOffset := a, playout := (target : Int), window := [], pend := some j.anchored }
          | none => j
        { j with target := target, step := step })
    | .picture _ _ _ => .next (keep s)
    | .lateDry _ _ _ _ => .next (keep s)
    | .forward d i w => .next (ledgerForward d i w s)
    | .target l rate => .next (s.modTx l fun t => { t with target := rate })
    | .adopt c id _ mp smp half subs keys => .next (ledgerAdopt c id mp smp half subs keys s)
    | .flip c mp ls => .next (ledgerFlip die c mp ls s)
    | .random _ => .next (keep s)
    | .sent st pic => .next (s.modPair fun p => { p with sent := (st, pic) :: p.sent.filter (·.1 != st) })
    | .step amount mp => .next { s with servo := { s.servo with stepPending := some (amount, mp) } }
    | .seal mp _ => .next (sealMp mp s)

/-- LEDGER_FETCH: half of SHADOW_US after an ADMIT record the standby still lacks its frame and fetches the packet from the
active unit (PAR_CNT 5). A packet that cannot be had makes its leg diverged: error 0x1005, PAR_CNT 2. -/
def execLedgerFetch (die : Nat) (r : LedgerRec) (got : Option RxPacket) (s : State) : Host.Outcome State Fault Refusal :=
  match r with
  | .admission l ssrc seq c1 _ _ =>
    if !standsBy s || !s.pair.ledger.contains r then .next s
    else
      let s := emit (.peer askFetch (put l 32 ||| ssrc.setWidth 64)) s
      match got with
      | some p =>
        let p := { p with leg := l, c1 := c1, pkt := { p.pkt with ssrc := ssrc, seq := seq } }
        let jb := toJb (s.legLive l) p.pkt
        .next (standbyRtp p (parCnt die 5 (if jb then jbPoolAdd (legDie l) p.ipLen s else pktPoolAdd (legDie l) p.ipLen s)))
      | none =>
        let s := s.modPair fun x => { x with ledger := x.ledger.erase r }
        .next (diverge l (raise die 0x1005 (l.setWidth 64) (parCnt die 2 s)))
  | _ => .next s

/-- The state that a re-seed carries is installed at boundary `b`; the leg and what its divergence alone reached rejoin. -/
def installReseed (leg : BitVec 16) (r : Reseed) (b : Nat) (s : State) : State :=
  let s := endMp b (s.advanceTo 0 (unitsMp * b))
  let s := forAll r.keys installKey (forAll r.tables installBytes s)
  let s := forAll r.legs (fun e s => s.modLeg e.1 fun _ => { e.2 with diverged := false }) s
  let s := forAll r.confs (fun e s => s.modConf e.1 fun _ => e.2) s
  let s := forAll r.decs (fun e s => s.modDec e.1 fun _ => e.2) s
  let s := forAll r.encs (fun e s => s.modEnc e.1 fun _ => e.2) s
  let s := s.modLeg leg fun x => { x with diverged := false }
  let s := s.modPair fun p => { p with reseed := p.reseed.filter fun e => e.1 != leg }
  let others := s.pair.reseed.flatMap fun e => reached s e.1
  let s := forAll (reached s leg) (fun x s => if others.contains x then s else s.modLeg x fun y => { y with diverged := false }) s
  refreshLoads (parCnt (legDie leg) 4 s)

/-- RESEED_INSTALL: at its boundary S the state of a leg, and of what its divergence reached, is installed (PAR_CNT 4); each
rejoins the comparison at the next whole second. A state that has not come is retried with a new S. A joining unit also
takes legs that it did not know. -/
def execReseedInstall (leg : BitVec 16) (r : Option Reseed) (s : State) : Host.Outcome State Fault Refusal :=
  let due := s.pair.reseed.find? (·.1 == leg)
  if !standsBy s || (due.isNone && s.pair.role ≠ .joining) then .next s
  else match r with
    | none => .next (if due.isNone then s else s.modPair fun p => { p with
        reseed := p.reseed.map fun e => if e.1 = leg then (leg, BitVec.ofNat 64 (s.mpNo 0 + 20)) else e })
    | some r => .next (installReseed leg r (match due with | some (_, m) => max s.nextMp m.toNat | none => s.nextMp) s)

/-! ## Digests (16 R352, R359, R360) -/

/-- The digests of a second of a die. -/
def digestsOf (s : State) (d second : Nat) : List (BitVec 16 × BitVec 32) :=
  ((s.die d).par.digests.filter (·.1 == second)).map (·.2)

/-- A unit's digest in a list; a unit that sent nothing has the digest of no bytes. -/
def digestIn (l : List (BitVec 16 × BitVec 32)) (u : BitVec 16) : BitVec 32 := ((l.find? (·.1 == u)).map (·.2)).getD (crcFinal crcInit)

/-- The end of a second at a boundary: the digests of the units compared are final, and the diverged legs' units are left
out of the second that begins. -/
def rollDigests (b : Nat) (s : State) : State :=
  if s.pair.role = .unpaired || b % 1000 ≠ 0 then s
  else s.mapDies fun d x =>
    let div := (x.legs.filter fun e => e.2.diverged).flatMap fun e => [legUnit (legId d e.1), seamUnit (legId d e.1)]
    let done := (x.par.running.filter fun e => !x.par.excluded.contains e.1).map fun e => (b / 1000 - 1, e.1, crcFinal e.2)
    { x with par := { x.par with
      digests := done ++ x.par.digests.filter fun e => decide (b / 1000 ≤ e.1 + 3)
      excludedLast := x.par.excluded, running := [], excluded := div } }

/-- DIGEST_SEND: the active unit sends a die's digests of a second; PROTECTED follows the standby's report. -/
def execDigestSend (die second : Nat) (peerInStep : Bool) (s : State) : Host.Outcome State Fault Refusal :=
  if s.pair.role ≠ .active || s.pair.peerLost || !s.hasDie die then .next s
  else .next (emit (.digests die second (s.die die).str.id ((s.die die).str.ver.setWidth 32) (digestsOf s die second))
    (if peerInStep then s.modPair fun p => { p with prot := true } else s))

/-- The leg of an output unit; a TDM port has none. -/
def unitLeg (u : BitVec 16) : Option (BitVec 16) := if u.getLsbD 15 then none else some (u &&& 0x3FFF)

/-- A mismatch of an output unit: error 0x1006, PAR_CNT 3; its leg diverges. -/
def mismatch (d : Nat) (u : BitVec 16) (s : State) : State :=
  let s := raise d 0x1006 (u.setWidth 64) (parCnt d 3 s)
  match unitLeg u with
  | some l => diverge l s
  | none => s

/-- A mismatch with every engine sound: the third of a die within 60 s is unresolved: error 0x1009, PROTECTED cleared. -/
def soundMismatch (d second : Nat) (s : State) : State :=
  let l := (d, second) :: s.pair.mismatches.filter fun e => decide (second < e.2 + 60)
  let s := s.modPair fun p => { p with mismatches := l }
  if 3 ≤ (l.filter (·.1 == d)).length then
    raise d 0x1009 (BitVec.ofNat 64 d) (s.modPair fun p => { p with prot := false, mismatches := l.filter (·.1 != d) })
  else s

/-- Once every leg is in step and all dies have matched the same second with no unit left out, the unit is PROTECTED; one
that joined is then the standby. -/
def noteInStep (second : Nat) (s : State) : State :=
  if s.dieList.all (fun d => (s.die d).par.matched == some second) && s.pair.reseed.isEmpty &&
      s.allOpenLegs.all fun l => !(s.leg l).diverged then
    let s := if s.pair.role = .joining then parEv 0 s else s
    s.modPair fun p => { p with role := .standby, prot := true }
  else s

/-- DIGEST_COMPARE: the standby compares a die's digests of a second with the active unit's; a die whose structure differs from
its peer die's is left out (03 R74); an engine that fails its Assay
is retired with error 0x1008. -/
def execDigestCompare (die second : Nat) (image : BitVec 64) (version : BitVec 32) (theirs : List (BitVec 16 × BitVec 32)) (failed : List Nat) (s : State) :
    Host.Outcome State Fault Refusal :=
  let st := (s.die die).str
  if !standsBy s || !s.hasDie die || st.id ≠ image || st.ver.setWidth 32 ≠ version then .next s
  else
    let ours := digestsOf s die second
    let out := (s.die die).par.excludedLast
    let units := ((ours ++ theirs).map (·.1)).eraseDups.filter fun u => !out.contains u
    let bad := units.filter fun u => digestIn ours u != digestIn theirs u
    if bad.isEmpty then
      .next (if out.isEmpty then noteInStep second (s.modPar die fun p => { p with matched := some second }) else s)
    else
      let s := forAll bad (mismatch die) s
      let s := forAll failed (fun k s => retireUnit die k (raiseAny die dukenCheck 0x1008 s)) s
      .next (if failed.isEmpty then forAll bad (fun _ s => soundMismatch die second s) s else s)

/-! ## Heartbeats and the loss of the peer (16 R350, R362, R363) -/

/-- A quarter of an MP: heartbeats are sent at its multiples. -/
def unitsBeat : Nat := unitsMp / 4

/-- Device time at the next heartbeat instant; one that has been served is not served again. -/
def toBeat (s : State) : State :=
  let gap := (unitsBeat - s.time 0 % unitsBeat) % unitsBeat
  s.advance (if gap = 0 && s.pair.hbAt = some s.clk then unitsBeat else gap)

/-- What a heartbeat instant settles of the one before: a die that received it starts its count anew; dies that miss four
while others do not raise error 0x1001, in a standby their legs diverge, and PROTECTED is cleared. -/
def settleBeats (s : State) : State :=
  let before := s.now 0 - BitVec.ofNat 64 unitsBeat
  let s := s.mapDies fun _ x =>
    if x.par.missed then x else { x with par := { x.par with hbRun := 0, lastHb := before } }
  let down := s.dieList.filter fun d => decide (4 ≤ (s.die d).par.hbRun)
  let s := if down.length = s.nDies then s
    else forAll (down.filter fun d => (s.die d).par.hbRun == 4 && (s.die d).par.missed) (fun d s =>
      divergeDie d (raise d 0x1001 (BitVec.ofNat 64 d) (s.modPair fun p => { p with prot := false }))) s
  s.mapDies fun _ x => { x with par := { x.par with missed := false } }

/-- HEARTBEAT_SEND: at each 250 µs instant die 0 sends a heartbeat on every die's Adit link. -/
def execHeartbeatSend (s : State) : Host.Outcome State Fault Refusal :=
  if s.pair.role = .unpaired then .next s
  else
    let s := settleBeats (toBeat s)
    let s := s.modPair fun p => { p with hbAt := some s.clk }
    .next (forAll s.dieList (fun d s => emit (.heartbeat d (s.now 0)) s) s)

/-- Frames whose record never came are decided by the unit itself once it is active. -/
def ownArrivals (s : State) : State :=
  let rs := s.pair.unmatched
  forAll rs (fun r s => releaseRtp r.leg r r.pkt none s) (s.modPair fun p => { p with unmatched := [] })

/-- The peer is lost: an active unit goes on alone with error 0x1002; a standby takes over at the next MP boundary with
error 0x1003 where TAKEOVER_EN is set and PAIR_ALIVE_IN is low or not wired, and is blocked with error 0x1004 where it is
high. -/
def losePeer (s : State) : State :=
  let s := parEv 1 (s.modPair fun p => { p with peerLost := true, prot := false })
  match s.pair.role with
  | .active => raise 0 0x1002 0 s
  | .standby =>
    if s.pair.aliveWired && s.pair.alive then raise 0 0x1004 0 (parEv 4 s)
    else if !s.pair.takeoverEn then s
    else
      let t := BitVec.ofNat 64 s.nextMp
      raise 0 0x1003 0 (ownArrivals (parEv 0 (s.modPair fun p => { p with role := .active, takeoverT := some t })))
  | _ => s

/-- HEARTBEAT_MISS: a heartbeat not received 10 µs after its instant: PAR_HB_MISS. Four in a row on every link are the loss
of the peer. -/
def execHeartbeatMiss (die : Nat) (s : State) : Host.Outcome State Fault Refusal :=
  match s.pair.hbAt with
  | none => .next s
  | some t =>
    if s.pair.role = .unpaired || !s.hasDie die || (s.die die).par.missed then .next s
    else
      let s := s.advance ((10 * unitsUs : Int) - stampDiff s.clk t).toNat
      let s := s.modPar die fun p => { p with hbMiss := p.hbMiss + 1, hbRun := p.hbRun + 1, missed := true }
      if !s.pair.peerLost && s.dieList.all (fun d => decide (4 ≤ (s.die d).par.hbRun)) then .next (losePeer s) else .next s

/-- PAIR_ALIVE_IN_CHANGE: the filtered level of the pin. -/
def execPairAliveInChange (level : Bool) (s : State) : Host.Outcome State Fault Refusal :=
  .next (s.modPair fun p => { p with alive := level })

/-! ## Takeover and planned switch (16 R363 to R365, 12 R284) -/

/-- The subports and local addresses that are announced. -/
def announceList (s : State) : List (Nat × Nat × BitVec 128) :=
  s.dieList.flatMap fun d => ((List.range 8).filter fun i => mediaSubport s d i).flatMap fun i =>
    (addrsOn s d i).map fun a => (d, i, a)

/-- Every shaper starts full, and every tag and virtual time at 0. -/
def restartEgress (s : State) : State :=
  let s := s.mapDies fun _ x => { x with egr := { x.egr with sub := x.egr.sub.map fun e =>
    (e.1, { e.2 with v := 0, departed := 0, failed := false, classes := e.2.classes.map fun c =>
      (c.1, { c.2 with start := 0, finish := 0, ready := false, v := 0 }) }) } }
  forAll s.allOpenLegs (fun l (s : State) =>
    let h := s.legLive l
    s.modTx l fun t => { t with tok := 8000000 * h.outBurst, last := s.now h.ethDie, start := 0, finish := 0, ready := false }) s

/-- The unit takes over the output at boundary `t`: announcements are due at T, T + 10 and T + 20 ms, checks at T + 10. -/
def startOutput (t : Nat) (s : State) : State :=
  let at_ (n : Nat) : BitVec 64 := BitVec.ofNat 64 (t + n)
  servoEval 0 (restartEgress (goActive ((endMp t s).modPair fun p => { p with
    lastT := at_ 0, takeoverT := none, announceDue := [at_ 0, at_ 10, at_ 20], checkAt := some (at_ 10) })))

/-- TAKEOVER_BOUNDARY: at T the shadow delay ends and the unit transmits; the next picture of every composed or transcoded
stream is a skip picture, then an intra picture is requested on every rung. -/
def execTakeoverBoundary (s : State) : Host.Outcome State Fault Refusal :=
  match s.pair.takeoverT with
  | none => .next s
  | some t =>
    let s := startOutput t.toNat (s.advanceTo 0 (unitsMp * t.toNat))
    let s := s.modPair fun p => { p with sent := [] }
    .next (forAll (s.dieList.flatMap s.openEncs) (fun c s => intraRequest c 15 (s.modEnc c fun x => { x with takeover := true })) s)

/-- A gratuitous ARP or an unsolicited Neighbor Advertisement, by the address announced (PRESUMED lengths; log 39). -/
def announcement (s : State) (a : BitVec 128) : TxPacket :=
  { kind := .control, ipLen := if isV4 a then 28 else 72, payload := (leBytes a.toNat 16).reverse, entry := s.clk }

/-- ADDRESS_ANNOUNCEMENT: at an MP at which they are due, every valid local address is announced on each media subport. -/
def execAddressAnnouncement (s : State) : Host.Outcome State Fault Refusal :=
  match s.pair.announceDue with
  | [] => .next s
  | m :: rest =>
    let s := (s.advanceTo 0 (unitsMp * m.toNat)).modPair fun p => { p with announceDue := rest }
    .next (forAll (announceList s) (fun e (s : State) => s.modSub8 e.1 e.2.1 fun x => { x with control := x.control ++ [announcement s e.2.2] }) s)

/-- The subports that fail the checks: one with an open leg that has no link or has sent nothing, and one whose announcement
of an earlier MP has not departed. -/
def failedSubports (t : BitVec 64) (s : State) : List (Nat × Nat) :=
  (s.dieList.flatMap fun d => (List.range 8).map fun i => (d, i)).filter fun (d, i) =>
    let used := s.allOpenLegs.any fun l => (s.legLive l).ethDie == d && (s.legLive l).ethIdx == i
    let told := (announceList s).any fun e => e.1 == d && e.2.1 == i
    (used && (!(s.die d).ing.up.getLsbD i || (s.sub8 d i).departed == 0)) ||
      (told && (s.pair.announceDue.any (fun m => decide (m < t)) ||
        (s.sub8 d i).control.any fun p => p.owner.isNone && p.kind == .control && stampBefore p.entry s.clk))

/-- TAKEOVER_CHECK: at T + 10 every subport and running TDM output is checked; each fault raises error 0x1007. -/
def execTakeoverCheck (bad : List (Nat × Nat)) (s : State) : Host.Outcome State Fault Refusal :=
  match s.pair.checkAt with
  | none => .next s
  | some t =>
    let s := (s.advanceTo 0 (unitsMp * t.toNat)).modPair fun p => { p with checkAt := none }
    let subs := failedSubports t s
    let pads := bad.filter fun e => (s.tdmPort e.1 e.2).state == .running && decide (0 < cfgOut (s.tdmPort e.1 e.2).cfg)
    let s := forAll subs (fun e s => s.modSub8 e.1 e.2 fun x => { x with failed := true }) s
    .next (forAll (subs ++ pads) (fun e s => raise e.1 0x1007 (BitVec.ofNat 64 e.2) (parEv 3 s)) s)

/-- SWITCH: a write of PAR_CTRL: TAKEOVER_EN takes its bit; SWITCH on the active unit schedules a planned switch at
PAR_SWITCH_MP, or sets SWITCH_REJECT where that is less than 100 MP ahead. -/
def execSwitch (v : Word) (s : State) : Host.Outcome State Fault Refusal :=
  if s.off 0 then .next s else
  let s := s.modPair fun p => { p with takeoverEn := bit v 1 }
  if !bit v 0 || s.pair.role ≠ .active then .next s
  else if s.pair.switchMp.toNat < s.mpNo 0 + 100 then .next (s.modPair fun p => { p with switchReject := true })
  else .next (emit (.peer tellSwitch s.pair.switchMp)
    (s.modPair fun p => { p with switchReject := false, switchAt := some p.switchMp }))

/-- At boundary `t` of a planned switch the active unit falls silent and joins. -/
def plannedActive (t : BitVec 64) (s : State) : State := parEv 0 (goJoining (s.modPair fun p => { p with lastT := t }))

/-- PLANNED_SWITCH: at the switch boundary the active unit falls silent and joins, and the standby starts without shadow
delay. -/
def execPlannedSwitch (peerMp : BitVec 64) (s : State) : Host.Outcome State Fault Refusal :=
  match s.pair.role with
  | .active => match s.pair.switchAt with
    | none => .next s
    | some t =>
      .next (plannedActive t (endMp t.toNat (s.advanceTo 0 (unitsMp * t.toNat))))
  | .standby =>
    let s := s.advanceTo 0 (unitsMp * peerMp.toNat)
    .next (parEv 0 (startOutput peerMp.toNat (s.modPair fun p => { p with prot := false })))
  | _ => .next s

end Sys2Proof.Machine
end

