-- ==== Sys2Proof/Machine/Dram.lean ====
section
/-! DEFINITION. The DRAM controller of a die and its bandwidth meter (chapter 15, 03 R68). -/

namespace Sys2Proof.Machine

/-! ## Addresses and bank hashing (15 R334, R335) -/

/-- Column line bits and row bits of the populated devices (Table 15.1). -/
def colBits (c : Drc) : Nat := if c.device.toNat < 2 then 6 else 7
def rowBits (c : Drc) : Nat := if c.device.toNat % 2 = 0 then 16 else 17

/-- Home bits of SUB, of the row, and of RANK. -/
def subHome (c : Drc) : Nat := if c.twoCh then 7 else 6
def rowHome (c : Drc) : Nat := subHome c + 6 + colBits c
def rankHome (c : Drc) : Nat := rowHome c + rowBits c

/-- Parity of a word. -/
def parity (w : Nat) (v : BitVec w) : Bool := (List.range w).foldl (fun p i => p != v.getLsbD i) false

/-- Hashed output `o` of an offset (Table 15.2). -/
def hashOut (c : Drc) (o a : Nat) : Bool := parity 37 (BitVec.ofNat 37 a &&& tget 0 c.hash o)

/-- The location of an offset: channel, subchannel, rank, bank BG × 4 + BA, row. -/
structure DramLoc where
  ch : Bool
  sub : Bool
  rank : Bool
  bank : Nat
  row : Nat
  deriving DecidableEq, Repr

def dramLoc (c : Drc) (a : Nat) : DramLoc :=
  let b (o w : Nat) : Nat := if hashOut c o a then w else 0
  { ch := c.twoCh && hashOut c 0 a, sub := hashOut c 1 a, rank := c.twoRanks && hashOut c 7 a,
    bank := b 2 4 + b 3 8 + b 4 16 + b 5 1 + b 6 2, row := a / 2 ^ rowHome c % 2 ^ rowBits c }

/-- The tracker of a location's bank. -/
def bankIndex (l : DramLoc) : Nat := ((l.rank.toNat * 2 + l.ch.toNat) * 2 + l.sub.toNat) * 32 + l.bank

/-! ## Row disturbance (15 R340) -/

/-- A requester's activations counted. -/
def countReq (r : Byte) : List (Byte × Nat) → List (Byte × Nat)
  | [] => [(r, 1)]
  | (q, n) :: t => if q = r then (q, n + 1) :: t else (q, n) :: countReq r t

/-- The requester that made the most activations; of several, the one that came first. -/
def topReq (l : List (Byte × Nat)) : Byte :=
  (l.foldl (fun b e => if b.2 < e.2 then e else b) ((0 : Byte), 0)).1

/-- A row's activation counted in its bank; the row's entry after it. -/
def countRow (row : Nat) (req : Byte) (b : Bank) : RowCount × Bank :=
  let k := BitVec.ofNat 17 row
  let old := (b.rows.find? fun r => r.row == k).getD { row := k }
  let new : RowCount := { old with count := old.count + 1, reqs := countReq req old.reqs }
  (new, { b with rows := new :: b.rows.filter fun r => r.row != k })

/-- An access of a throttled requester waits until GAP_NS have passed since its last activation of the bank. -/
def waitThrottle (d : Nat) (l : DramLoc) (req : Byte) (s : State) : State :=
  let c := (s.die d).drc
  match (tget ({} : Bank) c.banks (bankIndex l)).throttled.find? (·.1 == req) with
  | none => s
  | some (_, last) =>
    let s := s.advance (((unitsNs * c.gapNs.toNat : Nat) : Int) - stampDiff s.clk last).toNat
    s.modDrc d fun c => { c with banks := tmod {} c.banks (bankIndex l) fun b =>
      { b with throttled := b.throttled.map fun e => if e.1 = req then (req, s.clk) else e } }

/-- A row has reached ACT_MAX: refresh management, its count restarts, the requester with the most activations is throttled
on the bank; DRC_CNT 2 and 3, DRC_RH_LAST, error 0x0F04. -/
def rowEpisode (d : Nat) (l : DramLoc) (r : RowCount) (s : State) : State :=
  let q := topReq r.reqs
  let s := s.modDrc d fun c => { c with
    banks := tmod {} c.banks (bankIndex l) fun b => { b with
      rows := b.rows.filter fun x => x.row != r.row
      throttled := (q, s.clk) :: b.throttled.filter (·.1 != q) }
    throttled := c.throttled ||| (1#256 <<< q.toNat)
    rhLast := ((put q 0 ||| putB l.ch 8 ||| putB l.sub 9 ||| putB l.rank 10 ||| put (BitVec.ofNat 5 l.bank) 11 ||| put r.row 16) : Word).setWidth 33 }
  raiseFrom d q 0x0F04 (q.setWidth 64) (drcEv d 2 (drcCnt d 3 (drcCnt d 2 s)))

/-- An access activates its row. -/
def activate (d a : Nat) (req : Byte) (s : State) : State :=
  let c := (s.die d).drc
  let l := dramLoc c a
  let s := waitThrottle d l req s
  let (r, b) := countRow l.row req (tget {} (s.die d).drc.banks (bankIndex l))
  let s := s.modDrc d fun c => { c with banks := tset {} c.banks (bankIndex l) b }
  if c.actMax.toNat ≤ r.count then rowEpisode d l r s else s

/-- ROW_WINDOW_END: counts and throttling end with the 32 ms window. -/
def execRowWindowEnd (die : Nat) (s : State) : Host.Outcome State Fault Refusal :=
  .next (s.modDrc die fun c => { c with banks := [], throttled := 0 })

/-! ## ECC and poisoned lines (15 R341, R342) -/

/-- A corrected line: DRC_CNT 0, DRC_CE_ADDR, error 0x0F01 at most once per second. -/
def corrected (d a : Nat) (req : Byte) (s : State) : State :=
  let line := BitVec.ofNat 40 (devAddr d (a / 64 * 64))
  let s := drcEv d 0 (drcCnt d 0 (s.modDrc d fun c => { c with ceAddr := line }))
  raiseOnce d req 0x0F01 0 (line.setWidth 64) s

/-- A channel of a core takes a poisoned line: ERR, without error 0x0E03; what waits for it goes on. -/
def dmaPoison (d c ch : Nat) (s : State) : State :=
  let s := s.modFace d c fun x => { x with dma := tmod {} x.dma ch fun k => { k with busy := false, err := true, desc := [] } }
  if (s.faceCore d c).stalled.isEmpty then s else resume false d c (retryDma d c s)

/-- What a requester does with a poisoned line (Table 15.4): a channel of a Face core sets ERR; a function sees the EP bit;
the Duken core's die stops; a codec core's reference fetch makes its picture erroneous; an engine's cache fill of a half skips its
entry's work; any other read of an engine is a check failure of the line's data. Which context, leg or conference is free (log
95). -/
def takePoison (d a : Nat) (req : Byte) (s : State) : State :=
  let r := req.toNat
  if r < 0x40 then emit (.poisoned r) s
  else if r ≤ 0x50 then
    let c := r - 0x40
    forAll ((List.range 4).filter fun ch => dmaReads d (a / 64 * 64) (tget {} (s.faceCore d c).dma ch)) (fun ch s => dmaPoison d c ch s) s
  else if r = 0x60 then match execLockstepStop d s with | .next t => t | _ => s
  else
    let (v, s) := draw s
    let legs := s.openLegs d
    let leg := legs.getD (v.toNat / 4 % (max 1 legs.length)) noId
    let confs := s.openConfs d
    let decs := s.openDecs d
    if 0x88 ≤ r && r ≤ 0x8F && v.getLsbD 0 && !decs.isEmpty then
      s.modDec (decs.getD (v.toNat / 4 % decs.length) 0) fun x => { x with badRef := true }
    else if 0x90 ≤ r && v.getLsbD 0 && !v.getLsbD 1 && !legs.isEmpty then s.modLeg leg fun x => { x with badHalf := true }
    else if 0x90 ≤ r && v.getLsbD 0 && v.getLsbD 1 && !confs.isEmpty then
      s.modConf (confs.getD (v.toNat / 4 % confs.length) 0) fun x => { x with badHalf := true }
    else blockFail d req leg s

/-! ## Accesses (15 R333, R336) -/

/-- DRAM_ACCESS: one access of a die's DRAM by a requester, refused beyond the trained capacity. -/
def execDramAccess (a : DramReq) (s : State) : Host.Outcome State Fault Refusal :=
  let d := a.die
  if !s.hasDie d then .next s
  else if trainedBytes (s.die d).drc ≤ a.addr then
    let s := raiseFrom d a.req 0x0F08 (BitVec.ofNat 64 (devAddr d a.addr)) (drcCnt d 7 s)
    match a.data with
    | some _ => .next s
    | none => .next (takePoison d a.addr a.req { s with readData := [] })
  else
    let s := activate d a.addr a.req s
    let line := a.addr / 64 * 64
    match a.data with
    | some bs => .next (devWr a.req (devAddr d a.addr) (bs.take (line + 64 - a.addr)) s)
    | none =>
      if (s.die d).drc.poison.contains line || a.ecc = .uncorrectable then
        .next (takePoison d a.addr a.req (poisoned d a.addr a.req { s with readData := [] }))
      else
        let s := { s with readData := rdBytes (s.die d).dram line 64 }
        .next (if a.ecc = .corrected then corrected d a.addr a.req s else s)

/-! ## Refresh, temperature, retraining, scrub (15 R338, R339, R341) -/

/-- SAME_BANK_REFRESH. -/
def execSameBankRefresh (die : Nat) (s : State) : Host.Outcome State Fault Refusal :=
  .next (s.modDrc die fun c => { c with refreshes := c.refreshes + 1 })

/-- DRAM_TEMPERATURE_READ: the refresh rate is doubled while a device is above 85 °C; a change raises error 0x0F07. -/
def execDramTemperatureRead (die : Nat) (milliC : Int) (s : State) : Host.Outcome State Fault Refusal :=
  let hot := decide (85000 < milliC)
  if (s.die die).drc.hot = hot then .next s
  else .next (raiseAny die dukenCheck 0x0F07 (drcEv die 6 (s.modDrc die fun c => { c with hot := hot })))

/-- RETRAIN_CHECK: a subchannel that has drifted by more than PS, or by more than 10 °C, is retrained, where the last
retrain is at least 100 ms past; otherwise at a later check. -/
def execRetrainCheck (die sub driftPs : Nat) (dTempMilliC : Int) (s : State) : Host.Outcome State Fault Refusal :=
  let c := (s.die die).drc
  let due := decide (c.retrainPs.toNat < driftPs) || decide (10000 < dTempMilliC) || decide (dTempMilliC < -10000)
  let apart := match c.lastRetrain with
    | none => true
    | some t => decide (((100 * unitsMp : Nat) : Int) ≤ stampDiff s.clk t)
  if !due || !apart || 4 ≤ sub || !c.chOk.getLsbD (sub / 2) then .next s
  else .next (drcEv die 3 (drcCnt die 4 (s.modDrc die fun c => { c with lastRetrain := some s.clk })))

/-- PATROL_SCRUB: the next line is read; a correction is written back and counted; after the last line a pass is complete. -/
def execPatrolScrub (die : Nat) (e : EccResult) (s : State) : Host.Outcome State Fault Refusal :=
  let c := (s.die die).drc
  let n := trainedBytes c
  if n = 0 then .next s
  else
    let a := c.scrubNext % n
    let s := if c.poison.contains a || e = .uncorrectable then poisoned die a dukenCheck s
      else if e = .corrected then corrected die a dukenCheck (drcCnt die 6 s) else s
    .next (s.modDrc die fun c => { c with
      scrubNext := (a + 64) % n, scrubPasses := if n ≤ a + 64 then c.scrubPasses + 1 else c.scrubPasses })

/-! ## The bandwidth meter (03 R68) -/

/-- What the classes still hold of their allocations, what they share, what they were granted and what of which of them
waits. -/
structure BwGrant where
  own : List Nat
  shared : Nat
  granted : List Nat
  waits : List (Nat × Nat)
  deriving DecidableEq, Repr

/-- A request: from the class's own allocation, then from the reserve and what others leave unused. -/
def grantOne (g : BwGrant) (r : Nat × Nat) : BwGrant :=
  let own := min r.2 (g.own.getD r.1 0)
  let more := min (r.2 - own) g.shared
  { own := g.own.modify r.1 (· - own), shared := g.shared - more, granted := g.granted.modify r.1 (· + (own + more)),
    waits := if own + more < r.2 then g.waits ++ [(r.1, r.2 - (own + more))] else g.waits }

/-- BW_WINDOW: a 1 µs window. An allocation unit of 100 MB/s is 100 bytes of it. What waited in the window before is asked
first; what is not granted waits for the next, and counts once in DIE_BW_OVER of its class. Class 6 drains the trace buffer. -/
def execBwWindow (die : Nat) (demand : List (Nat × Nat)) (s : State) : Host.Outcome State Fault Refusal :=
  let st := (s.die die).str
  let reqs := ((s.die die).drc.bwWait ++ demand).filter fun r => decide (r.1 < 7)
  let alloc := (List.range 7).map fun c => 100 * (tget 0 st.bwAlloc c).toNat
  let asked (c : Nat) : Nat := ((reqs.filter (·.1 == c)).map (·.2)).foldl (· + ·) 0
  let unused := ((List.range 7).map fun c => alloc.getD c 0 - asked c).foldl (· + ·) 0
  let g := reqs.foldl grantOne { own := alloc, shared := 100 * (tget 0 st.bwAlloc 7).toNat + unused, granted := List.replicate 7 0, waits := [] }
  let s := s.modDie die fun x => { x with
    str := { x.str with
      bwMoved := (List.range 7).foldl (fun t c => tmod 0 t c (· + g.granted.getD c 0)) x.str.bwMoved
      bwOver := ((g.waits.map (·.1)).eraseDups).foldl bump x.str.bwOver }
    drc := { x.drc with bwWait := g.waits, bwWindow := (List.range 7).foldl (fun t c => tset 0 t c (g.granted.getD c 0)) [] } }
  .next (drainTrace die (g.granted.getD 6 0 / 32) s)

/-! ## Ubhan lanes (01 R11, R14) -/

/-- Changes port `p` of die `d`. -/
def State.modUbh (s : State) (d p : Nat) (f : Ubh → Ubh) : State := s.modDie d fun x => { x with ubh := tmod {} x.ubh p f }

/-- The capacity of a die falls to what the remaining links carry, which is a free value (01 R14, 19 R406). -/
def lowerCapacity (d : Nat) (s : State) : State :=
  let (v, s) := draw s
  let low (cap n : Nat) : Nat := n % (cap + 1)
  capEv d (s.modDie d fun x => { x with cap := { x.cap with
    legs := BitVec.ofNat 11 (low x.cap.legs.toNat v.toNat), confs := BitVec.ofNat 8 (low x.cap.confs.toNat (v.toNat / 2 ^ 16)) } })

/-- A link leaves routing at both its ends: what crossed it takes its new route, the routes moved are counted at each end, and
a slave die whose route to or from die 0 changes measures it anew at its last rate (01 R14, 02 R32). -/
def takeOut (d p : Nat) (s : State) : State :=
  let e := ubhPeer s d p
  let t := (s.modUbh d p fun u => { u with routed := false }).modUbh e p fun u => { u with routed := false }
  let count (x : Nat) (u : State) : State := u.modUbh x p fun u => { u with reroute := u.reroute + BitVec.ofNat 32 (movedOff s t x p) }
  let changed := t.dieList.filter fun x => x != 0 && (route s x 0 != route t x 0 || route s 0 x != route t 0 x)
  forAll changed (fun x u => u.modDie x fun y => { y with tim := { y.tim with remeasuring := true } }) (count e (count d t))

/-- UBHAN_LANE_FAILURE: a spare lane takes over (error 0x100A); without one the port leaves routing: the record is sealed, the
capacity registers of both ends fall, and error 0x100B is raised. DESIGN CHOICE (log 132): a lost lane and the spare that
replaces it count in LANES and SPARES of the end that the command names, and the far end's stay. -/
def execUbhanLaneFailure (die port : Nat) (s : State) : Host.Outcome State Fault Refusal :=
  let u := tget ({} : Ubh) (s.die die).ubh port
  if !s.hasDie die || 3 ≤ port || !u.routed then .next s
  else if u.spares.toNat < 2 then
    .next (raiseAny die dukenCheck 0x100A (s.modUbh die port fun u => { u with spares := u.spares + 1 }))
  else
    let s := takeOut die port (s.modUbh die port fun u => { u with lanes := if u.up then u.lanes - 1 else u.lanes })
    .next (forAll [die, ubhPeer s die port] (fun d s => raiseAny d dukenCheck 0x100B (lowerCapacity d s)) s)

end Sys2Proof.Machine
end

