-- ==== Sys2Proof/Machine/Power.lean ====
section
/-! DEFINITION. Rail warnings, brace, junction temperature, and the host's side of the error log (17 R371 to R375, R383 to
R386). -/

namespace Sys2Proof.Machine

/-- Changes the power registers, and the error log, of a die. -/
def State.modPwr (s : State) (d : Nat) (f : Pwr → Pwr) : State := s.modDie d fun x => { x with pwr := f x.pwr }
def State.modErr (s : State) (d : Nat) (f : Err → Err) : State := s.modDie d fun x => { x with err := f x.err }

/-- A bit of BELOW_WARN. -/
def markRail (rail : Nat) (below : Bool) (p : Pwr) : Pwr :=
  let m : BitVec 8 := 1#8 <<< rail
  { p with belowWarn := if below then p.belowWarn ||| m else p.belowWarn &&& ~~~m }

/-- The monitor of a rail changes: BELOW_WARN follows, and a rail that falls below its warning level sets RAIL (log 122). -/
def railMonitor (die rail : Nat) (below : Bool) (s : State) : State :=
  let was := (s.die die).pwr.belowWarn.getLsbD rail
  let s := s.modPwr die (markRail rail below)
  if below && !was then pwrEv die 3 s else s

/-- RAIL_WARNING: a rail crosses its warning level; one other than VDD_CORE and VDD_SRAM that falls below it raises error
0x1105. VDD_IO, a rail of the package, is monitored on die 0 (R371). -/
def execRailWarning (die rail : Nat) (below : Bool) (s : State) : Host.Outcome State Fault Refusal :=
  if !s.hasDie die || 6 ≤ rail || (rail = 5 && die ≠ 0) then .next s
  else
    let was := (s.die die).pwr.belowWarn.getLsbD rail
    let s := railMonitor die rail below s
    .next (if below && !was && decide (2 ≤ rail) then raiseAny die dukenCheck 0x1105 s else s)

/-- Sixty seconds in 2^-16 ns. -/
def minute : Int := 60 * unitsSec

/-- The stamps of a die's brace entries within the preceding 60 s. -/
def recentBraces (s : State) (d : Nat) : List (BitVec 64) :=
  (s.die d).pwr.recent.filter fun t => decide (stampDiff s.clk t < minute)

/-- BRACE_ENTRY: VDD_CORE or VDD_SRAM falls below its warning level; more than 8 entries within 60 s set BRACE_ALARM with
error 0x1102, once per alarm episode (R373, R375). -/
def execBraceEntry (die : Nat) (sram : Bool) (s : State) : Host.Outcome State Fault Refusal :=
  let p := (s.die die).pwr
  let s := railMonitor die (if sram then 1 else 0) true s
  if p.brace then .next s
  else
    let recent := s.clk :: recentBraces s die
    let s := pwrEv die 0 (s.modPwr die fun x => { x with
      brace := true, braceAt := s.clk, braceRail := sram, sustained := false, braceCnt := x.braceCnt + 1, recent := recent })
    if 8 < recent.length && !p.alarm then
      .next (raiseAny die dukenCheck 0x1102 (pwrEv die 1 (s.modPwr die fun x => { x with alarm := true })))
    else .next s

/-- BRACE_EXIT: both rails have stayed above warning for 2 µs: error 0x1101 with the duration and the rail (R373). -/
def execBraceExit (die : Nat) (s : State) : Host.Outcome State Fault Refusal :=
  let p := (s.die die).pwr
  if !p.brace then .next s
  else
    let ns := (stampDiff s.clk p.braceAt).toNat / unitsNs
    let s := s.modPwr die fun x => markRail 0 false (markRail 1 false { x with
      brace := false, lastNs := BitVec.ofNat 32 (min ns (2 ^ 32 - 1)) })
    .next (raise die 0x1101 ((BitVec.ofNat 64 ns &&& 0xFFFFFFFFFF) ||| putB p.braceRail 40) s)

/-- BRACE_SUSTAINED: a brace that lasts 1 s raises error 0x1103 once and continues (R374). -/
def execBraceSustained (die : Nat) (s : State) : Host.Outcome State Fault Refusal :=
  let p := (s.die die).pwr
  if !p.brace || p.sustained then .next s
  else
    let s := s.advance ((unitsSec : Int) - stampDiff s.clk p.braceAt).toNat
    .next (raiseAny die dukenCheck 0x1103 (pwrEv die 2 (s.modPwr die fun x => { x with sustained := true })))

/-- BRACE_ALARM_CLEAR: the count of the preceding 60 s falls to 8: the alarm clears (R375). -/
def execBraceAlarmClear (die : Nat) (s : State) : Host.Outcome State Fault Refusal :=
  if !(s.die die).pwr.alarm then .next s
  else
    let s := match (recentBraces s die)[8]? with
      | some t => s.advance (minute - stampDiff s.clk t).toNat
      | none => s
    let recent := recentBraces s die
    .next (s.modPwr die fun x => { x with recent := recent, alarm := decide (8 < recent.length) })

/-- JUNCTION_HOT: 100 °C or more: error 0x1106 once per episode (R372). -/
def execJunctionHot (die : Nat) (s : State) : Host.Outcome State Fault Refusal :=
  if (s.die die).pwr.hotEpisode then .next s
  else .next (raiseAny die dukenCheck 0x1106 (pwrEv die 4 (s.modPwr die fun x => { x with hotEpisode := true })))

/-- JUNCTION_EPISODE_END: below 95 °C the episode ends (R372). -/
def execJunctionEpisodeEnd (die : Nat) (s : State) : Host.Outcome State Fault Refusal :=
  .next (s.modPwr die fun x => { x with hotEpisode := false })

/-! ## The error log (R383 to R386) -/

/-- ERR_HEAD_WRITE: the records from the old head up to the new one are read. -/
def execErrHeadWrite (die : Nat) (v : Word) (s : State) : Host.Outcome State Fault Refusal :=
  .next (s.modErr die fun e =>
    let old := e.head.toNat
    let n := (fld v 0 10 - e.head).toNat
    let passed (i : Nat) : Bool := decide ((i + 1024 - old) % 1024 < n)
    { e with head := fld v 0 10, ring := e.ring.map fun r =>
        if passed r.1 then (r.1, r.2.map fun x => { x with read := true }) else r })

/-- ERR_CLEAR: every record is unpinned and counts as read, and every code is first again. -/
def execErrClear (die : Nat) (v : Word) (s : State) : Host.Outcome State Fault Refusal :=
  if !bit v 0 then .next s
  else .next (s.modErr die fun e => { e with
    seen := [], lostSeen := false, ring := e.ring.map fun r => (r.1, r.2.map fun x => { x with pinned := false, read := true }) })

/-- ERR_OVF_CFG_WRITE: while the overflow ring is enabled a write changes only ENABLE; LOG2_SIZE is clamped to 4 to 16;
clearing ENABLE resets TAIL, HEAD and PHASE. -/
def execErrOvfCfgWrite (die : Nat) (v : Word) (s : State) : Host.Outcome State Fault Refusal :=
  .next (s.modErr die fun e =>
    let e := if e.ovfEn then e else { e with ovfLog2 := BitVec.ofNat 5 (clampN 4 16 (fldN v 0 5)) }
    if bit v 63 then { e with ovfEn := true } else { e with ovfEn := false, ovfTail := 0, ovfHead := 0, ovfPhase := true })

end Sys2Proof.Machine
end

