-- ==== Sys2Proof/Machine/Queues.lean ====
section
/-! DEFINITION. The internal queue primitive (15 R343 to R346). -/

namespace Sys2Proof.Machine

/-- A queue of a die, and its change. -/
def State.queue (s : State) (d q : Nat) : QPrim := tget {} (s.die d).drc.queues q
def State.modQueue (s : State) (d q : Nat) (f : QPrim → QPrim) : State :=
  s.modDie d fun x => { x with drc := { x.drc with queues := tmod {} x.drc.queues q f } }

/-- The queue IDs of Table 15.5. -/
def queueExists (q : Nat) : Bool := decide (q < 0x26) || q == 0x30 || q == 0x31

/-- A pointer moved, modulo 2 × lines, with its inverted copy. -/
def setWr (p : BitVec 16) (x : QPrim) : QPrim := { x with wr := p, wrN := ~~~p }
def setRd (p : BitVec 16) (x : QPrim) : QPrim := { x with rd := p, rdN := ~~~p }
def ptrNext (x : QPrim) (p : BitVec 16) (n : Nat) : BitVec 16 := BitVec.ofNat 16 ((p.toNat + n) % (2 * x.lines))

/-- A line committed to the ring with VALID and EOU; its unused bytes are 0. -/
def commitLine (bs : List Byte) (eou : Bool) (x : QPrim) : QPrim :=
  setWr (ptrNext x x.wr 1) { x with
    ring := x.ring ++ [((bs ++ List.replicate 64 0).take 64, BitVec.ofNat 7 bs.length, eou)], part := [] }

/-- The lines that a write would commit: the bytes packed behind the open line, 64 at a time, the rest with END. -/
def packLines (last : Bool) : (fuel : Nat) → List Byte → List (List Byte × Bool) × List Byte
  | 0, bs => ([], bs)
  | n + 1, bs =>
    if bs.length < 64 || (bs.length = 64 && last) then if last && !bs.isEmpty then ([(bs, true)], []) else ([], bs)
    else let (ls, rest) := packLines last n (bs.drop 64); ((bs.take 64, false) :: ls, rest)

/-- QUEUE_WRITE: 1 to 16 bytes by the producer; a ring without room holds the write back. A discarded unit ends with its
END. -/
def execQueueWrite (die q : Nat) (bytes : List (BitVec 8)) (last : Bool) (s : State) : Host.Outcome State Fault Refusal :=
  let x := s.queue die q
  let bs := bytes.take 16
  if !queueExists q || bs.isEmpty then .next s
  else if x.skip || x.dropping then
    .next (s.modQueue die q fun x => { x with skip := x.skip && !last, dropping := x.dropping && !last, midUnit := !last })
  else
    let (ls, rest) := packLines last 2 (x.part ++ bs)
    if x.lines < x.ring.length + ls.length then .next s
    else .next (s.modQueue die q fun x =>
      { forAll ls (fun l x => commitLine l.1 l.2 x) x with part := rest, midUnit := !last })

/-- Lines up to and including the first with EOU, and what follows; none where no line has it. -/
def splitUnit : List (List Byte × BitVec 7 × Bool) → Option (List (List Byte × BitVec 7 × Bool))
  | [] => none
  | (_, _, eou) :: t => if eou then some t else splitUnit t

/-- DROP: the consumer discards the oldest unit; what the producer has still to write of it is discarded too. -/
def execDrop (die q : Nat) (s : State) : Host.Outcome State Fault Refusal :=
  if !queueExists q then .next s
  else .next (s.modQueue die q fun x =>
    match splitUnit x.ring with
    | some rest => setRd (ptrNext x x.rd (x.ring.length - rest.length)) { x with ring := rest }
    | none => setRd (ptrNext x x.rd x.ring.length) { x with ring := [], part := [], dropping := true })

/-! ## Pointer check (15 R345) -/

/-- Whether the copies agree and the fill is possible. -/
def queueOk (x : QPrim) : Bool :=
  x.wr == ~~~x.wrN && x.rd == ~~~x.rdN && decide ((x.wr - x.rd).toNat % (2 * x.lines) ≤ x.lines)

/-- What a reset has discarded counts as Table 15.5 says; units of a queue whose packets the model does not follow are the
packets of legs that are free. -/
def countDiscarded (d q units : Nat) (s : State) : State :=
  let anyLeg (f : BitVec 16 → State → State) (s : State) : State :=
    let (v, s) := draw s
    let legs := s.openLegs d
    if legs.isEmpty then s else f (legs.getD (v.toNat % legs.length) 0) s
  let group (base current : Nat) (bad : TdmBlock → TdmBlock) (inp : Bool) (s : State) : State :=
    s.modDie d fun x => { x with tdm :=
      let t := if inp then x.tdm.inRing else x.tdm.outRing
      let t' := t.map fun e => if e.1 / 8 = q - base && e.2.mp.toNat == current then (e.1, bad e.2) else e
      if inp then { x.tdm with inRing := t' } else { x.tdm with outRing := t' } }
  if q < 0x08 then
    forAll (List.range units) (fun _ s => raiseAny d (engineReq 0) 0x0506 (ingEv d 3 (ingCnt d 13 s))) s
  else if q < 0x10 then forAll (List.range units) (fun _ s => anyLeg queueDrop s) s
  else if q < 0x18 then group 0x10 (s.mpNo d) (fun b => { b with incomplete := true }) true s
  else if q < 0x20 then group 0x18 (if fetchInstant (s.mpNo d) ≤ s.time d then s.mpNo d - 1 else s.mpNo d - 2) (fun b => { b with complete := false }) false s
  else if q < 0x26 then
    s.modDie d fun x => { x with ubh := tmod {} x.ubh ((q - 0x20) % 3) fun u => { u with retry := u.retry + BitVec.ofNat 32 units } }
  else if q = 0x30 then
    s.modDie d fun x => { x with hst := { x.hst with traceLost := x.hst.traceLost + BitVec.ofNat 32 units } }
  else forAll (List.range units) (fun _ s => ingCnt d 9 s) s

/-- QUEUE_POINTER_CHECK: the pointer copies, after the upset, are checked; a mismatch or an impossible fill resets the queue:
all lines discarded, the producer's open unit skipped to its END, DRC_CNT 5, error 0x0F05. -/
def execQueuePointerCheck (die q : Nat) (upset : BitVec 64) (s : State) : Host.Outcome State Fault Refusal :=
  if !queueExists q || !s.hasDie die then .next s
  else
    let s := s.modQueue die q fun x => { x with
      wr := x.wr ^^^ fld upset 0 16, wrN := x.wrN ^^^ fld upset 16 16
      rd := x.rd ^^^ fld upset 32 16, rdN := x.rdN ^^^ fld upset 48 16 }
    let x := s.queue die q
    if queueOk x then .next s
    else
      let units := (x.ring.filter (·.2.2)).length + (if x.midUnit then 1 else 0)
      let detail : Word := BitVec.ofNat 64 q ||| put (x.wr ^^^ ~~~x.wrN) 8 ||| put (x.rd ^^^ ~~~x.rdN) 24 ||| put x.wr 40
      let s := s.modQueue die q fun x =>
        { lines := x.lines, skip := x.midUnit, midUnit := x.midUnit }
      .next (countDiscarded die q units (raise die 0x0F05 detail (drcEv die 4 (drcCnt die 5 s))))

end Sys2Proof.Machine
end

