-- ==== Sys2Proof/Machine/RegRead.lean ====
section
/-! DEFINITION. The registers of a die's window as they read, block by block (02 R55, 03 R76, 04 R102, 05 R134, 07 R179, 08
R194, 09 R215, 10 R240, 11 R259, 12 R286, 13 R300, 14 R329, 15 R347, 16 R369, 17 R386, 18 R402, 19 R406, R410). Each answers
none at an offset that holds no register: a reserved range of R404. -/

namespace Sys2Proof.Machine

/-- The index of an offset in `n` registers from `base`, `stride` bytes apart. -/
def regIdx (base stride n off : Nat) : Option Nat :=
  if base ≤ off ∧ (off - base) % stride = 0 ∧ (off - base) / stride < n then some ((off - base) / stride) else none

/-- The registers of a list that an offset names first. -/
def regAt (off : Nat) : List (Nat × Word) → Option Word
  | [] => none
  | (o, v) :: rest => if o = off then some v else regAt off rest

/-- An array of registers. -/
def regArr (base stride n off : Nat) (f : Nat → Word) : Option Word := (regIdx base stride n off).map f

/-- A use in a register's units, whose rounding the manual leaves open (log 40). -/
def perUnit (use unit : Nat) : Nat := use / unit + (if use % unit ≠ 0 && Config.roundUp use unit then 1 else 0)

/-- A register that only die 0 has: it reads 0 on other dies. -/
def lead (d : Nat) (v : Word) : Word := if d = 0 then v else 0

/-! ## DIE block -/

/-- DIE_CAP. -/
def capWord (c : Capacity) : Word :=
  put c.legs 0 ||| put c.confs 16 ||| put c.face 32 ||| put c.packet 40 ||| put c.codec 48 ||| put c.gallery 56 ||| putB c.seam 58

/-- DIE_PKG_CAP: sums over the dies, and the dies that are not retired. -/
def pkgCapWord (s : State) : Word :=
  let sum (f : Die → Nat) : Nat := s.dies.foldl (fun n x => n + f x) 0
  putN 14 (sum fun x => x.cap.legs.toNat) 0 ||| putN 11 (sum fun x => x.cap.confs.toNat) 16 |||
    (s.dieList.foldl (fun v d => v ||| putB (!(s.die d).cap.retired) (32 + d)) 0)

/-- Codes of DIE_STRUCT_STATUS.STATE and DIE_FACE_STATUS.STATE. -/
def structCode : StructState → Word
  | .none => 0
  | .loaded => 1
  | .running => 2
def faceCode : FaceState → Word
  | .stopped => 0
  | .running => 1
  | .waiting => 2
  | .fault => 3
  | .retired => 4

/-- The registers of a Face core's group. -/
def faceRegRd (s : State) (d c w : Nat) : Word :=
  let x := s.faceCore d c
  if w = 0 then put x.entry 16
  else if w = 1 then
    faceCode x.state ||| put x.role 3 ||| putB (tget none (s.die d).hst.held c).isSome 5 ||| put x.cause 8 ||| put x.pc 16
  else if w = 2 then put x.fault 0
  else x.busy

/-- The DIE block. -/
def dieRd (s : State) (d off : Nat) : Option Word :=
  let x := s.die d
  let p := x.pwr
  (regAt off [
    (0x0000, 0x1C7B ||| putN 16 (deviceId s.fuses.variant) 16 ||| putB (s.fuses.stepping == .b0) 32 ||| putN 3 d 36 |||
      putN 4 (variantDies s.fuses.variant) 40),
    (0x0008, s.fuses.serial), (0x0010, capWord x.cap), (0x0018, put x.capr.guarLegs 0 ||| put x.capr.guarConfs 16),
    (0x0020, putB x.cap.degraded 0 ||| putB x.capr.short 1 ||| putB x.cap.retired 2), (0x0028, putB x.capr.changed 0),
    (0x0030, lead d (pkgCapWord s)), (0x0038, put x.capr.stageBase 20 ||| put x.capr.stageMib 48),
    (0x0200, x.str.id), (0x0208, x.str.ver),
    (0x0210, structCode x.str.state ||| putB x.str.draining 2 ||| putB x.str.bank 3 ||| putB x.str.hoistTrace 4 ||| put x.str.lastErr 5),
    (0x0218, lead d s.restr.addr), (0x0220, lead d s.restr.mp),
    (0x0228, lead d (put s.restr.dieReg 0 ||| putB s.restr.busy 4 ||| put s.restr.result 5 ||| putB s.restr.goBusy 8)),
    (0x0300, putB p.brace 0 ||| putB p.alarm 1 ||| put p.belowWarn 2), (0x0308, put p.event 0),
    (0x0310, put p.power 0 ||| put p.tj 16), (0x0318, put p.braceCnt 0 ||| put p.lastNs 32),
    (0x0320, lead d (putN 20 (s.dies.foldl (fun n y => n + y.pwr.power.toNat) 0) 0)), (0x0328, 0),
    (0x0330, put p.causeKind 0 ||| put p.causeCount 8),
    (0x1000, putN 5 x.str.faceVendor 0 ||| putN 5 x.str.faceCustomer 8 |||
      putN 5 ((List.range 17).filter fun c => (s.faceCore d c).role == 2 && (s.faceCore d c).state != .retired).length 16)]).orElse fun _ =>
  (regArr 0x0240 8 8 off fun c => put (tget 0 x.str.bwAlloc c) 0).orElse fun _ =>
  (regArr 0x0280 8 8 off fun c => put (tget 0 x.str.bwUse c) 0).orElse fun _ =>
  (regArr 0x02C0 8 8 off fun c => put (tget 0 x.str.bwOver c) 0).orElse fun _ =>
  (regArr 0x0408 8 63 off fun f => lead d (tget 0 x.capr.vfStage (f + 1))).orElse fun _ =>
  regArr 0x1040 8 68 off fun i => faceRegRd s d (i / 4) (i % 4)

/-! ## TIM block -/

/-- Codes of TIM_REF_STATE and of the servo's state. -/
def refCode : RefSt → Word
  | .qualified => 0
  | .qualifying => 1
  | .disqStop => 2
  | .disqPhase => 3
  | .disqFreq => 4
  | .disqQl => 5
def servoCode : ServoState → Word
  | .freerun => 0
  | .acquiring => 1
  | .locked => 2
  | .holdover => 3
  | .syntonized => 4

/-- TIM_STATUS: SLAVE_ERR and TIME_SET on every die, since every die keeps device time; the servo's fields on die 0. -/
def timStatus (s : State) (d : Nat) : Word :=
  let v := s.servo
  putB (s.die d).tim.slaveErr 5 ||| putB v.timeSet 3 ||| lead d (servoCode v.state |||
    putB ((List.range 7).any fun c => (tget {} v.refs c).state == .disqFreq) 4 ||| put v.phaseSrc 6 ||| put v.freqSrc 10)

/-- TIM_HOLD_AGE: milliseconds in HOLDOVER. -/
def holdAge (s : State) : Word :=
  match s.servo.state, s.servo.holdSince with
  | .holdover, some m => BitVec.ofNat 64 ((s.uptime - m) / unitsMp)
  | _, _ => 0

/-- Whether the delay table has an entry on a die (Table 2.4). -/
def dlyOn (d k : Nat) : Bool := k < 8 || (18 ≤ k && k ≤ 20) || (d = 0 && k < 18)

/-- A transmit-stamp queue's registers. -/
def txsRd (q : TxsQueue) (w : Nat) : Word :=
  match q.entries, w with
  | (t, _) :: _, 0 => t
  | (_, tag) :: _, 1 => put tag 0 ||| putN 7 q.entries.length 16 ||| putB true 63
  | _, 3 => put q.ovf 0
  | _, _ => 0

/-- A trigger's registers, and a capture unit's. -/
def trigRd (t : Trigger) (w : Nat) : Word :=
  if w = 0 then t.time
  else putB t.armed.isSome 0 ||| putB t.lateMode 1 ||| put t.target 2 ||| put t.arg 8 ||| putB t.fired 16 ||| putB t.late 17 ||| putB t.badTime 18
def capRd (u : CapUnit) (w : Nat) : Word :=
  match w, u.fifo with
  | 0, _ => put u.src 0 ||| put u.edge 4 ||| put u.div 6 ||| put u.filter 22
  | 1, (t, _) :: _ => t
  | 2, (_, e) :: _ => putN 5 u.fifo.length 0 ||| put e 8 ||| put u.ovf 16 ||| putB true 63
  | 2, [] => put u.ovf 16
  | _, _ => 0

/-- The TIM block. -/
def timRd (s : State) (d off : Nat) : Option Word :=
  let x := (s.die d).tim
  let v := s.servo
  (regAt off [
    (0x0000, putB x.servoEn 0 ||| putB x.slaveEn 1), (0x0008, timStatus s d), (0x0010, put x.event 0), (0x0018, 0),
    (0x0020, put x.snapSec 0), (0x0028, put x.snapNsf 0), (0x0030, s.now d), (0x0038, BitVec.ofNat 64 (s.mpNo d)),
    (0x0040, put x.freqAdj 0), (0x0048, x.offset), (0x0050, lead d (put v.srcPrio 0)),
    (0x0058, lead d ((List.range 7).foldl (fun w c => w ||| (if c = 0 then 0 else refCode (tget {} v.refs c).state <<< (4 * c))) 0)),
    (0x0060, 0), (0x0068, lead d v.stepAmt), (0x0070, lead d v.stepMp),
    (0x0078, lead d (putB v.initial 1 ||| putB v.stepPending.isSome 2 ||| putB v.stepReject 3)), (0x0080, lead d (holdAge s)),
    (0x0088, lead d (put v.utcOfs 0)), (0x0090, lead d v.ptpCfg), (0x0098, lead d (put v.ptpPorts 0)),
    (0x00A0, lead d v.synceCfg), (0x00A8, lead d v.ppsCfg), (0x00B0, lead d v.tenMCfg)]).orElse fun _ =>
  (match regIdx 0x0200 8 84 off with
    | some i =>
      let e := tget ({} : DlyEntry) x.dlyNext (i / 4)
      let w : Option Word := if i % 4 = 0 then some (put e.txFix 0) else if i % 4 = 1 then some (put e.rxFix 0)
        else if i % 4 = 2 then some (put e.cable 0) else none
      w.map fun v => if dlyOn d (i / 4) then v else 0
    | none => none).orElse fun _ =>
  (regArr 0x0600 8 32 off fun i => txsRd (tget {} x.txs (i / 4)) (i % 4)).orElse fun _ =>
  (regArr 0x0800 8 32 off fun i => trigRd (tget {} x.trig (i / 2)) (i % 2)).orElse fun _ =>
  regArr 0x0A00 8 32 off fun i => capRd (tget {} x.cap (i / 4)) (i % 4)

/-! ## HST and LEG blocks -/

/-- Tubs ready at a level. -/
def levelDepth (x : Hst) (l : Nat) : Nat := (x.ready.filter fun t => tubLevel t == l).length

/-- Whether a number is an index of HST_LOAD. -/
def loadSlot (c : Nat) : Bool := c < 17 || (32 ≤ c && c < 49) || (64 ≤ c && c < 72)

/-- The HST block. -/
def hstRd (s : State) (d off : Nat) : Option Word :=
  let x := (s.die d).hst
  (regAt off [
    (0x0000, putN 13 x.ready.length 0 ||| putB (s.die d).str.hoistTrace 16), (0x0008, put x.event 0), (0x0010, put x.reserve 0),
    (0x0018, put x.stallMax 0), (0x0020, put x.tallyTmo 0), (0x0540, put x.result 0 ||| put x.resTag 48),
    (0x0E00, put x.traceBase 0), (0x0E08, put x.traceSize 0), (0x0E10, put x.traceNext 0 ||| put x.traceWraps 32),
    (0x0E18, put x.traceLost 0)]).orElse fun _ =>
  (regArr 0x0040 8 8 off fun l => putN 13 (levelDepth x l) 0 ||| put (tget 0 x.peak l) 16).orElse fun _ =>
  (regArr 0x1000 8 0xA0 off fun i => putB (tget false x.stallCfg i) 0).orElse fun _ =>
  (regArr 0x0500 8 8 off fun _ => 0).orElse fun _ =>
  (regArr 0x0800 8 128 off fun i => put (tget 0 x.hist i) 0).orElse fun _ =>
  (match regIdx 0x1800 8 72 off with
    | some c => if loadSlot c then some (put (tget 0 x.loadPub c) 0) else none
    | none => none).orElse fun _ =>
  regArr 0x0F00 8 8 off fun n => put (tget 0 x.cnt n) 0

/-- LEG_USE: open legs and conferences, and subscription entries in live lists. -/
def legUse (s : State) (d : Nat) : Word :=
  let subs := ((s.openLegs d).flatMap fun l => subList s l (s.legLive l)).eraseDups.length
  putN 11 (s.openLegs d).length 0 ||| putN 11 (s.openConfs d).length 16 ||| putN 16 subs 32

/-- A queue group's registers (Table 4.14). -/
def queueRegRd (q : FuncQueue) (w : Nat) : Option Word :=
  match w with
  | 0 => some q.sqBase
  | 1 => some (put q.sqLog2 0 ||| putB q.sqEn 63)
  | 2 => some (put q.sqHead 0)
  | 3 => some q.cqBase
  | 4 => some (put q.cqLog2 0 ||| put q.cqVector 4 ||| putB q.cqIrq 15 ||| putB q.cqEn 63)
  | 5 => some (put q.cqTail 0 ||| putB q.cqPhase 12)
  | 6 => some (put q.cqDefer 0)
  | _ => none

/-- The LEG block. -/
def legRd (s : State) (d off : Nat) : Option Word :=
  let x := (s.die d).lblk
  (regAt off [(0x0000, legUse s d), (0x0008, put x.cacheHit 0), (0x0010, put x.cacheMiss 0), (0x0018, put x.dbLate 0)]).orElse fun _ =>
  (regArr 0x0400 8 128 off fun i => put (tget 0 x.confOwner i) 0).orElse fun _ =>
  (regArr 0x0800 8 64 off fun f => tget 0 x.subRange f).orElse fun _ =>
  match regIdx 0x1000 8 512 off with
  | some i => if d = 0 then queueRegRd (s.fq (i / 8)) (i % 8) else none
  | none => none

/-! ## ING, MIX and TDM blocks -/

/-- Occupancy of a pool in per cent. -/
def fillPct (used total : Nat) : Nat := if total = 0 then 0 else perUnit (100 * used) total

/-- The ING block. -/
def ingRd (s : State) (d off : Nat) : Option Word :=
  let x := (s.die d).ing
  (regAt off [
    (0x0000, put x.mode0 0 ||| put x.mode1 2 ||| put x.adit 4), (0x0008, put x.up 0 ||| put x.present 8), (0x0010, put x.event 0),
    (0x0300, x.strBase), (0x0308, put x.strLog2 0 ||| put x.strVector 4 ||| putB x.strIrq 15 ||| putB x.strEn 63),
    (0x0310, put x.strTail 0 ||| putB x.strPhase 12), (0x0318, put x.strHead 0), (0x0320, put x.limKnown 0), (0x0328, put x.limUnknown 0),
    (0x0330, putN 7 (fillPct x.jbUsed (s.die d).str.jbPool) 0 ||| putN 7 (fillPct x.pktUsed (s.die d).str.pktPool) 8)]).orElse fun _ =>
  (regArr 0x0040 8 8 off fun i => let e := tget {} x.eth i; put e.fec 0 ||| putB e.anEn 2 ||| put e.maxFrame 16 ||| putB e.enable 63).orElse fun _ =>
  (regArr 0x0080 8 8 off fun i => put (tget ({} : EthPort) x.eth i).mac 0).orElse fun _ =>
  (match regIdx 0x0100 8 64 off with
    | some i =>
      let a := tget ({} : LAddr) x.laddr (i / 4)
      if i % 4 = 0 then some (a.addr.extractLsb' 64 64) else if i % 4 = 1 then some (a.addr.setWidth 64)
      else if i % 4 = 2 then some (putB a.valid 0 ||| putB (isMcast a.addr) 1 ||| put a.ports 8) else none
    | none => none).orElse fun _ =>
  regArr 0x0400 8 18 off fun n => put (tget 0 x.cnt n) 0

/-- The MIX block. -/
def mixRd (s : State) (d off : Nat) : Option Word :=
  let x := (s.die d).mix
  (regAt off [
    (0x0000, put x.actLevel 0 ||| put x.relShift 8), (0x0008, put x.event 0), (0x0010, put x.faceCap 0), (0x0018, put x.faceUse 0),
    (0x0020, put x.facePeak 0)]).orElse fun _ =>
  regArr 0x0100 8 6 off fun n => put (tget 0 x.cnt n) 0

/-- Codes of TDM_PORT_CTRL.STATE. -/
def tdmCode : TdmState → Word
  | .stopped => 0
  | .waitClk => 1
  | .running => 2

/-- A TDM port's registers. -/
def tdmPortRd (s : State) (d p w : Nat) : Option Word :=
  let x := s.tdmPort d p
  match w with
  | 0 => some (put x.cfg 0)
  | 1 => some (tdmCode x.state <<< 1 ||| putB x.cfgBad 3)
  | 2 => some x.startMp
  | 3 => some (BitVec.ofNat 64 (frameCount s d p))
  | 4 => some (put x.phase 0)
  | 5 => some (put x.iecMuted 0)
  | 6 => some (put x.underrun 0 ||| put x.overrun 16 ||| put x.slips 32 ||| put x.iecCnt 48)
  | _ => none

/-- The TDM block. -/
def tdmRd (s : State) (d off : Nat) : Option Word :=
  let x := (s.die d).tdm
  (regAt off [(0x0000, put x.event 0), (0x0008, (List.range 8).foldl (fun v p => v ||| put (tget 0 x.clkPort p) (3 * p)) 0)]).orElse fun _ =>
  (regArr 0x0010 8 8 off fun g => put (tget 0 x.ring g) 0).orElse fun _ =>
  match regIdx 0x0100 8 64 off with
  | some i => tdmPortRd s d (i / 8) (i % 8)
  | none => none

/-! ## VDC, GAL, SEA, VEN and EGR blocks -/

/-- The VDC block. -/
def vdcRd (s : State) (d off : Nat) : Option Word :=
  let x := (s.die d).vdc
  (regAt off [
    (0x0000, putN 4 (codecCores s d 1) 0 ||| putN 16 (decPixCap s d / 1000000) 16 ||| putN 10 512 32),
    (0x0008, putN 16 (perUnit x.pixUse 1000000) 0 ||| putN 10 (s.openDecs d).length 16), (0x0010, put x.event 0), (0x0018, put x.kfGap 0),
    (0x0020, put x.poolBase 0), (0x0028, put x.poolSlots 0), (0x0030, putN 24 (poolFree s d) 0 ||| putN 24 (poolResv x) 24),
    (0x0038, put x.poolLow 0)]).orElse fun _ =>
  regArr 0x0100 8 8 off fun n => put (tget 0 x.cnt n) 0

/-- GAL_CAP: per unit, 0 once no unit is left; SEA_CAP: 0 once the Seam is retired. -/
def galCapWord (s : State) (d : Nat) : Word :=
  (if (s.die d).cap.gallery = 0 then 0 else put (s.die d).gal.pixCap 0) ||| putN 8 64 16
def seaCapWord (s : State) (d : Nat) : Word :=
  if (s.die d).cap.seam then put (s.die d).gal.seaPicCap 0 ||| put (s.die d).gal.seaSliceCap 32 else 0

/-- GAL_LAYOUT_STAT. -/
def layStatWord (s : State) (l : BitVec 16) : Word :=
  let x := s.lay l
  put (s.layLive l).version 0 ||| putB x.taint 16 ||| putB x.strip 17 ||| putB x.held 18 ||| putB x.pending 19 ||| put x.pics 32

/-- The GAL and SEA registers. -/
def galRd (s : State) (d off : Nat) : Option Word :=
  let x := (s.die d).gal
  (regAt off [
    (0x0000, galCapWord s d),
    (0x0008, putN 16 (perUnit x.pix0 1000000) 0 ||| putN 16 (perUnit x.pix1 1000000) 16 ||| putN 7 (s.layoutsOn d).length 32),
    (0x0010, put x.event 0), (0x4000, seaCapWord s d), (0x4008, putN 32 x.seaPics 0 ||| putN 32 (perUnit x.seaSlices 1000) 32),
    (0x4010, put x.seaEvent 0), (0x4018, put x.seaGap 0), (0x4020, put x.seaWait 0)]).orElse fun _ =>
  (regArr 0x0100 8 8 off fun n => put (tget 0 x.cnt n) 0).orElse fun _ =>
  (regArr 0x0400 8 256 off fun i => put (tget 0 x.fence i) 0).orElse fun _ =>
  (regArr 0x0C00 8 64 off fun i => layStatWord s (layHandle d i)).orElse fun _ =>
  (regArr 0x2000 8 256 off fun i => put (tget 0 x.coef i) 0).orElse fun _ =>
  regArr 0x4100 8 8 off fun n => put (tget 0 x.seaCnt n) 0

/-- The VEN block. -/
def venRd (s : State) (d off : Nat) : Option Word :=
  let x := (s.die d).ven
  (regAt off [
    (0x0000, putN 4 (codecCores s d 2) 0 ||| putN 4 (codecCores s d 3) 4 ||| putN 16 (encCap s d / 100000000) 16 |||
      putN 16 (anaCap s d / 100000000) 32 ||| putN 9 256 48),
    (0x0008, putN 16 (perUnit x.encUse 100000000) 0 ||| putN 16 (perUnit x.anaUse 100000000) 16 ||| putN 9 (s.openEncs d).length 32),
    (0x0010, put x.event 0), (0x0018, put x.intraGap 0), (0x0020, put x.dryGuard 0), (0x0028, put x.capX 0)]).orElse fun _ =>
  regArr 0x0100 8 8 off fun n => put (tget 0 x.cnt n) 0

/-- EGR_BACKLOG: bytes queued on a subport, its control queue included. -/
def backlog (s : State) (d i : Nat) : Nat :=
  ((s.allOpenLegs.filter fun l => (s.legLive l).ethDie == d && (s.legLive l).ethIdx == i).foldl
    (fun n l => n + queueBytes (s.leg l).tx.queue) 0) + queueBytes (s.sub8 d i).control

/-- The EGR block. -/
def egrRd (s : State) (d off : Nat) : Option Word :=
  let x := (s.die d).egr
  (regAt off [
    (0x0000, put x.ecn 0), (0x0008, put x.ccMin 0 ||| put x.ccStart 24), (0x0010, x.timingNext), (0x0018, put x.event 0),
    (0x0020, put x.hostRate 0 ||| put x.hostBurst 32)]).orElse fun _ =>
  (regArr 0x0100 8 64 off fun i => putB (clsStrict s d (i / 8) (i % 8)) 0 ||| put (s.cls d (i / 8) (i % 8)).weight 8).orElse fun _ =>
  (regArr 0x0400 8 8 off fun i => putN 32 (backlog s d i) 0).orElse fun _ =>
  regArr 0x0800 8 10 off fun n => put (tget 0 x.cnt n) 0

/-! ## DRC, UBH, PAR, CAN, ERR and UPD blocks -/

/-- The DRC block. -/
def drcRd (s : State) (d off : Nat) : Option Word :=
  let x := (s.die d).drc
  (regAt off [
    (0x0000, put x.chOk 0 ||| put x.speed0 2 ||| put x.speed1 4 ||| putB x.retraining 6 ||| putB x.hot 7),
    (0x0008, put x.device 0 ||| putB x.twoRanks 2 ||| putB x.twoCh 3 ||| put x.gib 4), (0x0010, put x.event 0),
    (0x0018, put x.actMax 0 ||| put x.gapNs 16), (0x0020, put x.rhLast 0), (0x0028, put x.scrubHours 0 ||| put x.scrubPasses 32),
    (0x0030, put x.retrainPs 0), (0x0038, put x.ceAddr 0), (0x0040, put x.ueAddr 0)]).orElse fun _ =>
  (regArr 0x0080 8 4 off fun w => x.throttled.extractLsb' (64 * w) 64).orElse fun _ =>
  (regArr 0x00C0 8 8 off fun o => put (tget 0 x.hash o) 0).orElse fun _ =>
  regArr 0x0100 8 8 off fun n => put (tget 0 x.cnt n) 0

/-- The UBH block. -/
def ubhRd (s : State) (d off : Nat) : Option Word :=
  match regIdx 0x0100 8 12 off with
  | some i =>
    let u := tget ({} : Ubh) (s.die d).ubh (i / 4)
    if i % 4 = 0 then some (putB u.up 0 ||| put u.lanes 1 ||| put u.spares 6 ||| putN 3 (ubhPeer s d (i / 4)) 8)
    else if i % 4 = 1 then some (put u.retry 0 ||| put u.reroute 32) else none
  | none => none

/-- Codes of PAR_STATUS.ROLE. -/
def roleCode : Role → Word
  | .unpaired => 0
  | .active => 1
  | .standby => 2
  | .joining => 3

/-- Local indexes of the diverged legs of a die. -/
def divergedLegs (s : State) (d : Nat) : List Nat := ((s.die d).legs.filter fun e => e.2.diverged).map (·.1)

/-- The PAR block. -/
def parRd (s : State) (d off : Nat) : Option Word :=
  let p := s.pair
  let x := (s.die d).par
  (regAt off [
    (0x0000, lead d (roleCode p.role ||| putB p.prot 2 ||| putB p.alive 3 ||| put p.aditUp 4)),
    (0x0008, lead d (putB p.takeoverEn 1 ||| putB p.switchReject 2)), (0x0010, lead d p.switchMp), (0x0018, lead d p.lastT),
    (0x0020, lead d (put p.event 0)), (0x0100, put x.hbMiss 0), (0x0108, putN 11 (divergedLegs s d).length 0)]).orElse fun _ =>
  (regArr 0x0180 8 6 off fun n => put (tget 0 x.cnt n) 0).orElse fun _ =>
  regArr 0x0200 8 16 off fun w => (divergedLegs s d).foldl (fun v i => if i / 64 = w then v ||| putB true (i % 64) else v) 0

/-- The CAN block. -/
def canRd (s : State) (d off : Nat) : Option Word :=
  let x := (s.die d).can
  (regAt off [
    (0x0000, putB x.auto 1 ||| putB x.replanning 2), (0x0008, put x.hours 0), (0x0010, put x.guard 0),
    (0x0018, put x.repairUsed 0 ||| put x.repairFree 16),
    (0x0020, (List.range 3).foldl (fun v p => v ||| put (tget ({} : Ubh) (s.die d).ubh p).spares (2 * p)) 0)]).orElse fun _ =>
  regArr 0x0100 8 48 off fun k =>
    let c := tget ({} : Cluster) x.clusters k
    put c.bin 0 ||| putB c.worn 3 ||| putB c.retired 4 ||| put c.slack 8 ||| put c.years 16

/-- A word of an error record, Table 17.5, with PHASE 0 in the ring. -/
def errWord (r : ErrRec) (w : Nat) : Word :=
  if w = 0 then put r.code 0 ||| put r.src 16 ||| put r.die 24 ||| putB r.pinned 27 ||| put r.count 32
  else if w = 1 then r.first else if w = 2 then r.last else r.detail

/-- The ERR block. -/
def errRd (s : State) (d off : Nat) : Option Word :=
  let x := (s.die d).err
  let recs := x.ring.filterMap (·.2)
  (regAt off [
    (0x0000, putN 11 (recs.filter fun r => !r.read).length 0 ||| putN 8 (recs.filter (·.pinned)).length 12 ||| putB x.lostSeen 20),
    (0x0008, putB x.event 0), (0x0010, put x.tail 0), (0x0018, put x.head 0), (0x0020, 0), (0x0028, put x.lost 0),
    (0x0030, put x.irqVector 0 ||| putB x.irqEn 11), (0x0040, x.ovfBase), (0x0048, put x.ovfLog2 0 ||| putB x.ovfEn 63),
    (0x0050, put x.ovfTail 0 ||| putB x.ovfPhase 16), (0x0058, put x.ovfHead 0)]).orElse fun _ =>
  regArr 0x1000 8 4096 off fun i => match tget none x.ring (i / 4) with
    | some r => errWord r (i % 4)
    | none => 0

/-- Codes of UPD_STATUS.STATE. -/
def updCode : UpdState → Word
  | .idle => 0
  | .applying => 1
  | .partly => 2
  | .applied => 3
  | .armed => 4
  | .trial => 5

/-- UPD_CONFIRM_LEFT: seconds left in the trial window. -/
def confirmLeft (s : State) : Nat := if s.upd.state = .trial then s.upd.window.toNat - s.uptime / unitsSec else 0

/-- The UPD block, on die 0. -/
def updRd (s : State) (d off : Nat) : Option Word :=
  let u := s.upd
  let p := bankPtr s
  let b := runBank s
  (regAt off [
    (0x0000, putB u.pair 4),
    (0x0008, updCode u.state ||| put u.result 3 ||| putB (b == 1) 7 ||| putB u.peerOk 8), (0x0010, put u.deltaAddr 0),
    (0x0018, put u.deltaLen 0), (0x0020, u.actMp), (0x0028, put u.nextBlock 0 ||| put u.total 24), (0x0030, u.applyId),
    (0x0038, putN 32 (manSeq s b) 0 ||| putN 32 (manSeq s (1 - b)) 32), (0x0040, putN 32 p.seq 0),
    (0x0048, putN 16 (confirmLeft s) 0)]).map (lead d)

/-! ## The window (19 R404) -/

/-- The CIP block: an offset that holds one of its registers reads by `cipRd`. -/
def cipHas (d off : Nat) : Bool :=
  [0x0, 0x8, 0x10, 0x18, 0x20, 0x40, 0x48, 0x50].contains off || (0x80 ≤ off && off ≤ 0xC8) || (d == 0 && 0x100 ≤ off && off < 0x160) ||
    (0x200 ≤ off && off < 0x220) || (0x8000 ≤ off && off < 0x10000)

/-- A core window: data memory, then instruction memory; those of vendor and spare cores read 0 (14 R328). -/
def coreWindowRd (s : State) (d off : Nat) : Option Word :=
  let c := off / 0x50000
  let o := off % 0x50000
  let x := s.faceCore d c
  if 17 ≤ c then none
  else if x.role ≠ 1 then some 0
  else if o < 0x40000 then some (rd64 x.dmem o)
  else
    let b := tget 0 x.imem ((o - 0x40000) / 16)
    some (if o / 8 % 2 = 0 then b.setWidth 64 else b.extractLsb' 64 64)

/-- Whether structure state NONE silences the block at an offset of a die's window (03 R64). -/
def blockOff (s : State) (d off : Nat) : Bool :=
  let blk := off / 0x10000
  s.off d && blk != 0x00 && blk != 0x0F && blk != 0x10

/-- The register of a block of a die's window. -/
def blockReads (s : State) (d off : Nat) : Option Word :=
  let o := off % 0x10000
  match off / 0x10000 with
    | 0x00 => dieRd s d o
    | 0x01 => timRd s d o
    | 0x02 => hstRd s d o
    | 0x03 => legRd s d o
    | 0x04 => ingRd s d o
    | 0x05 => if cipHas d o then some (cipRd s d o) else none
    | 0x06 => mixRd s d o
    | 0x07 => tdmRd s d o
    | 0x08 => vdcRd s d o
    | 0x09 => galRd s d o
    | 0x0A => venRd s d o
    | 0x0B => egrRd s d o
    | 0x0C => drcRd s d o
    | 0x0D => ubhRd s d o
    | 0x0E => parRd s d o
    | 0x0F => errRd s d o
    | 0x10 => updRd s d o
    | 0x11 => canRd s d o
    | _ => if 0x200000 ≤ off then coreWindowRd s d (off - 0x200000) else none

/-- The aligned 64-bit register at an offset of a die's window; none in a reserved range. -/
def windowReads (s : State) (d off : Nat) : Option Word :=
  if !s.hasDie d || ((s.die d).cap.retired && 0x10000 ≤ off) then none
  else (blockReads s d off).map fun v => if blockOff s d off then 0 else v

end Sys2Proof.Machine
end

