-- ==== Sys2Proof/Machine/Boundary.lean ====
section
/-! DEFINITION. MP_BOUNDARY: the work of every block at a mixing-period boundary (02 R28). -/

namespace Sys2Proof.Machine

/-! ## Registers and ports -/

/-- Values written for the next boundary come into use: the delay table, EGR_TIMING, SC_MODE (02 R37, 06 R155, 12 R286). -/
def takeWrites (s : State) : State :=
  scBoundary (s.mapDies fun _ x => { x with tim := { x.tim with dly := x.tim.dlyNext }, egr := { x.egr with timing := x.egr.timingNext } })

/-- DIE_BW_USE: the bytes a class moved in the MP that ends, in units of 100 MB/s (03 R76). -/
def publishBw (s : State) : State :=
  s.mapDies fun _ x => { x with str := { x.str with
    bwUse := (List.range 8).foldl (fun t c => tset 0 t c (BitVec.ofNat 12 (perUnit (tget 0 x.str.bwMoved c) 100000))) x.str.bwUse
    bwMoved := [] } }

/-- DIE_PWR_TELEM: power and junction temperature of each die are free values (17 R376). -/
def publishPower (s : State) : State :=
  forAll s.dieList (fun d s =>
    let (v, s) := draw s
    s.modPwr d fun p => { p with power := v.setWidth 16, tj := v.extractLsb' 16 16 }) s

/-! ## Safe-loads and completion queues -/

/-- A safe-load adopted at an earlier boundary than `b` completes, its sample being past (07 R174). -/
def finishSafeLoads (b : Nat) (s : State) : State :=
  let past (db : Option Doorbell) : Bool := match db with
    | some x => x.adopted && decide ((x.atMp.getD 0).toNat < b)
    | none => false
  let legs := (s.dieList.flatMap s.legsOf).filter fun l => past (s.leg l).db
  let confs := (s.dieList.flatMap fun d => (s.die d).confs.map fun e => confId d e.1).filter fun c => past (s.conf c).db
  forAll confs (fun c s => finishSafeLoad true c s) (forAll legs (fun l s => finishSafeLoad false l s) s)

/-- Whether an adoption of a function is due at boundary `b`. -/
def bellDue (s : State) (f b : Nat) : Bool :=
  let due (db : Doorbell) : Bool := db.func == f && !db.adopted && (match db.atMp with | some m => decide (m.toNat ≤ b) | none => false)
  (s.badBells.any fun e => due e.2.2) || s.dies.any fun x => (x.legs.any fun e => (e.2.db.toList ++ e.2.busyDbs).any due) || (x.confs.any fun e => (e.2.db.toList ++ e.2.busyDbs).any due)

/-- A boundary that a full completion queue defers: LEG_CQ_DEFER, and error 0x0405 at the first (04 R95). -/
def deferBoundary (b f : Nat) (s : State) : State :=
  let q := s.fq f
  if !defers s f || !(bellDue s f b || !q.inHost.isEmpty) then s
  else
    let s := s.modFq f fun q => { q with cqDefer := q.cqDefer + 1, deferring := true }
    if q.deferring then s else raiseFrom 0 (hostReq f) 0x0405 (BitVec.ofNat 64 f) s

/-! ## Video and egress -/

/-- The Gallery contexts whose layout has no picture boundary of its own here: the layout is off, or its FPS differs. -/
def idleGalleryTick (d b : Nat) (failed : List (BitVec 16)) (s : State) : State :=
  let own (l : BitVec 16) : Bool := s.layOn l && (pictureAt (s.layLive l).fps b).isSome
  forAll ((s.openEncs d).filter fun c => (s.enc c).kind == 0 && !own (s.enc c).source) (fun c s =>
    encTick c b (gallerySource s (s.enc c).source) (failed.contains c) s) s

/-- Once a second: VEN_CNT 6 counts each listener of a layout that has no context for its codec (11 R241). -/
def countUnserved (b : Nat) (s : State) : State :=
  if b % 1000 ≠ 0 then s
  else forAll s.allOpenLegs (fun l s => match galleryOf s l with
    | some lay => if (galleryCtx s lay (s.legLive l).txVc).isNone then venCnt (layDie lay) 6 s else s
    | none => s) s

/-- The decoders and encoders of a die at boundary `b`. -/
def videoBoundary (d b : Nat) (failed : List (BitVec 16)) (s : State) : State :=
  encReports d b (idleGalleryTick d b failed (transcodeTick d b failed (decBoundary d b s)))

/-- The layers received are measured, and receivers evaluated, every 10 MP; the controller runs every 20 (12 R266, R267,
R275). A unit that stands by takes these decisions from the ledger (16 R356). -/
def egressBoundary (b : Nat) (s : State) : State :=
  let s := if b % 10 = 0 then forAll s.allOpenLegs (fun l s => measureLayers l s) s else s
  if standsBy s then s
  else
    let senders (s : State) : List (BitVec 16) := s.allOpenLegs.filter fun l => (s.legLive l).txEn
    let s := if b % 20 = 0 then forAll (senders s) (fun l s => ccStep l s) s else s
    if b % 10 = 0 then forAll (senders s) (fun l s => evaluateReceiver l s) s else s

/-! ## The pair -/

/-- A SEAL record closes the MP before boundary `b` on each die (16 R356). -/
def sealMps (b : Nat) (s : State) : State :=
  forAll s.dieList (fun d s =>
    (ledger d (.seal (BitVec.ofNat 64 (b - 1)) (s.die d).par.recs) s).modPar d fun p => { p with recs := 0 }) s

/-! ## Entries whose half could not be read (15 R342) -/

/-- The legs whose work is skipped: their own half could not be read, or that of the conference they listen to; their audio is
handled as late (07 R177). -/
def skippedLegs (s : State) : List (BitVec 16) :=
  s.allOpenLegs.filter fun l => (s.leg l).badHalf || ((s.legLive l).conf != noId && (s.conf (s.confOf l)).badHalf)

/-! ## The boundary -/

/-- MP_BOUNDARY: device time reaches the next MP boundary. The MP that ends is mixed; registers, ports, triggers, decoders,
encoders and egress do their per-MP work, and statistics and reports are rewritten. -/
def execMpBoundary (f : MpFaults) (s : State) : Host.Outcome State Fault Refusal :=
  let b := s.nextMp
  let s := endMp b s.toBoundary
  let s := cacheMp (endBadBells b (finishSafeLoads b (sealMps b s)))
  let s := { s with lastMp := some b, c2Faults := f.c2, audioFaults := f.audio, absentBlocks := f.absent, lateDecodes := f.lateDecodes ++ skippedLegs s, lateEncodes := f.lateEncodes ++ skippedLegs s }
  let s := servoMp (expireWait (takeWrites s))
  let s := forAll s.dieList (fun d s => waitingActions d (tdmStops d s)) s
  let s := audioStart b s
  let s := forAll f.video (fun e s => stripeFail e.1 e.2 s) s
  let s := forAll s.dieList (fun d s => videoBoundary d b f.enc s) s
  let s := countUnserved b (egressBoundary b s)
  let s := sweepCtxs (endConfAliases s)
  let s := forAll s.dieList (fun d s => hoistBoundary d s) (countHours b (stepBins s))
  let s := rollDigests b (publishPower (publishBw s))
  .next (publishStats b (forAll (List.range 64) (fun f s => deferBoundary b f s) s))

end Sys2Proof.Machine
end

