-- ==== Sys2Proof/Machine/RegWrite.lean ====
section
/-! DEFINITION. The registers of a die's window as they are written, block by block, with the clamps of their tables; a
write that has a row of its own has that row's meaning (02 R55, 03 R76, 04 R97, R102, 05 R134, 07 R179, 08 R194, 09 R215, 10 R240,
11 R259, 12 R286, 13 R300, 14 R328, R329, 15 R347, 16 R369, 17 R386, 18 R402, 19 R406). -/

namespace Sys2Proof.Machine

/-- The state that a meaning answers. -/
def stateOf (s : State) : Host.Outcome State Fault Refusal → State
  | .next t => t
  | _ => s

/-- A field clamped to its range. -/
def clampF (v : Word) (lo w a b : Nat) : BitVec w := BitVec.ofNat w (clampN a b (fldN v lo w))

/-! ## DIE and TIM blocks -/

/-- A write of DIE_RESTRUCT_CTRL. -/
def restructWrite (v : Word) (s : State) : State :=
  if bit v 3 then stateOf s (execRestructureGo v s) else { s with restr := { s.restr with dieReg := fld v 0 3 } }

/-- The DIE block; some registers exist on die 0 only. -/
def dieWr (f d off : Nat) (v : Word) (s : State) : State :=
  match off with
  | 0x0028 => s.modDie d fun x => { x with capr := { x.capr with changed := x.capr.changed && !bit v 0 } }
  | 0x0218 => if d = 0 then { s with restr := { s.restr with addr := v } } else s
  | 0x0220 => if d = 0 then { s with restr := { s.restr with mp := v } } else s
  | 0x0228 => if d = 0 then restructWrite v s else s
  | 0x0308 => s.modPwr d fun p => { p with event := w1c p.event (fld v 0 5) }
  | 0x0318 => s.modPwr d fun p => { p with braceCnt := fld v 0 32, lastNs := fld v 32 32 }
  | 0x0328 => if d = 0 then writeDieReset f v s else s
  | 0x0330 => s.modPwr d fun p => { p with causeKind := fld v 0 3, causeCount := fld v 8 24 }
  | _ =>
    match regIdx 0x0408 8 63 off, regIdx 0x1040 32 17 off with
    | some i, _ =>
      if d = 0 then s.modDie 0 fun x => { x with capr := { x.capr with vfStage := tset 0 x.capr.vfStage (i + 1) (v &&& 0x0FFF0FFF) } } else s
    | _, some c => faceCtrl d c v s
    | _, _ => s

/-- A write of TIM_STEP_CTRL (02 R42, R45). -/
def stepCtrlWrite (v : Word) (s : State) : State :=
  if !bit v 0 then { s with servo := { s.servo with initial := bit v 1 } }
  else if bit v 1 then stateOf s (execStepGoInitial s) else stateOf s (execStepGo s)

/-- A write of an entry of the delay table: it takes effect at the next MP boundary (02 R37). -/
def dlyWrite (d k w : Nat) (v : Word) (s : State) : State :=
  if !dlyOn d k then s
  else s.modDie d fun x => { x with tim := { x.tim with dlyNext := tmod {} x.tim.dlyNext k fun e =>
    if w = 0 then { e with txFix := fld v 0 32 } else if w = 1 then { e with rxFix := fld v 0 32 } else { e with cable := fld v 0 40 } } }

/-- The servo's registers, on die 0. -/
def servoWr (off : Nat) (v : Word) (s : State) : State :=
  match off with
  | 0x0050 => servoEval 0 { s with servo := { s.servo with srcPrio := fld v 0 24 } }
  | 0x0060 => stateOf s (execTimRefRearm v s)
  | 0x0068 => { s with servo := { s.servo with stepAmt := v } }
  | 0x0070 => { s with servo := { s.servo with stepMp := v } }
  | 0x0078 => stepCtrlWrite v s
  | 0x0090 => writePtpCfg v s
  | 0x0098 => writePtpPorts (fld v 0 32 &&& 0xBFBFBFBF) s
  | 0x00A0 => writeSynceCfg v s
  | 0x00A8 => { s with servo := { s.servo with ppsCfg := v &&& 0x800000003FFFFFFF } }
  | 0x00B0 => { s with servo := { s.servo with tenMCfg := v &&& 0x8000000000000000 } }
  | _ => s

/-- The arrays of the TIM block: delay table, transmit stamps, triggers, capture units. -/
def timArrWr (d off : Nat) (v : Word) (s : State) : State :=
  match regIdx 0x0200 8 84 off, regIdx 0x0600 8 32 off, regIdx 0x0800 8 32 off, regIdx 0x0A00 8 32 off with
  | some i, _, _, _ => dlyWrite d (i / 4) (i % 4) v s
  | _, some i, _, _ => if i % 4 = 2 then stateOf s (execTimTxsPop d (i / 4) s) else s
  | _, _, some i, _ =>
    if i % 2 = 0 then s.modTrig d (i / 2) fun t => { t with time := v }
    else if bit v 0 then stateOf s (execTriggerArm d (i / 2) v s) else stateOf s (execTriggerDisarm d (i / 2) v s)
  | _, _, _, some i =>
    if i % 4 = 0 then stateOf s (execTimCapCfgWrite d (i / 4) v s)
    else if i % 4 = 3 then stateOf s (execTimCapPop d (i / 4) s) else s
  | _, _, _, _ => s

/-- The TIM block. -/
def timWr (d off : Nat) (v : Word) (s : State) : State :=
  match off with
  | 0x0000 =>
    let s := s.modDie d fun x => { x with tim := { x.tim with servoEn := bit v 0, slaveEn := bit v 1 } }
    if d = 0 then servoEval 0 s else s
  | 0x0010 => s.modDie d fun x => { x with tim := { x.tim with event := w1c x.tim.event (fld v 0 6) } }
  | 0x0018 => stateOf s (execTimSnap d s)
  | _ => if 0x0200 ≤ off then timArrWr d off v s else if d = 0 then servoWr off v s else s

/-! ## HST, LEG and ING blocks -/

/-- The HST block. A smaller reserve lets stalled enqueues in (13 R291, R295). -/
def hstWr (f d off : Nat) (v : Word) (s : State) : State :=
  match off with
  | 0x0008 => s.modHst d fun h => { h with event := w1c h.event (fld v 0 6) }
  | 0x0010 => admitAll d 128 (s.modHst d fun h => { h with reserve := clampF v 0 12 0 1024 })
  | 0x0018 => s.modHst d fun h => { h with stallMax := clampF v 0 16 1 10000 }
  | 0x0020 => s.modHst d fun h => { h with tallyTmo := clampF v 0 16 10 60000 }
  | 0x0538 => stateOf s (execHstEnqWrite f d v s)
  | _ =>
    match regIdx 0x1000 8 0xA0 off, regIdx 0x0500 8 7 off with
    | some i, _ => if i < 0x40 then s else s.modHst d fun h => { h with stallCfg := tset false h.stallCfg i (bit v 0) }
    | _, some w => s.modHst d fun h => { h with enq := tset 0 h.enq w v }
    | _, _ => s

/-- A queue group, Table 4.14. -/
def queueRegWr (f w : Nat) (v : Word) (s : State) : State :=
  match w with
  | 0 => s.modFq f fun q => { q with sqBase := v &&& 0xFFFFFFFFFFFFF000 }
  | 1 => stateOf s (execQueueCfgWrite f false v s)
  | 3 => s.modFq f fun q => { q with cqBase := v &&& 0xFFFFFFFFFFFFF000 }
  | 4 => stateOf s (execQueueCfgWrite f true v s)
  | _ => s

/-- The LEG block. -/
def legWr (f d off : Nat) (v : Word) (s : State) : State :=
  match regIdx 0x0400 8 128 off, regIdx 0x0800 8 64 off, regIdx 0x1000 8 512 off with
  | some i, _, _ => stateOf s (execLegConfOwnerWrite f d i v s)
  | _, some i, _ => s.modDie d fun x => { x with lblk := { x.lblk with subRange := tset 0 x.lblk.subRange i (v &&& 0x1FFFFFFFF) } }
  | _, _, some i => if d = 0 then queueRegWr (i / 8) (i % 8) v s else s
  | _, _, _ => s

/-- The FEC of a subport as ING_ETH_CFG takes it: a choice that is illegal for its port's mode reads back 0 (05 Table 5.1). -/
def fecOf (g : Ing) (i : Nat) (v : BitVec 2) : BitVec 2 :=
  let mode := if i < 4 then g.mode0 else g.mode1
  if v = 3 || (v = 1 && mode ≠ 2) then 0 else v

/-- The ING block. -/
def ingWr (d off : Nat) (v : Word) (s : State) : State :=
  let ing (g : Ing → Ing) (s : State) : State := s.modDie d fun x => { x with ing := g x.ing }
  match off with
  | 0x0010 => ing (fun x => { x with event := w1c x.event (fld v 0 4) }) s
  | 0x0300 => ing (fun x => { x with strBase := v &&& 0xFFFFFFFFFFFFF000 }) s
  | 0x0308 => stateOf s (execIngStrCfgWrite d v s)
  | 0x0318 => stateOf s (execIngStrHeadWrite d v s)
  | 0x0320 => ing (fun x => { x with limKnown := fld v 0 48 }) s
  | 0x0328 => ing (fun x => { x with limUnknown := fld v 0 48 }) s
  | _ =>
    match regIdx 0x0040 8 8 off, regIdx 0x0080 8 8 off, regIdx 0x0100 8 64 off with
    | some i, _, _ => ing (fun x => { x with eth := tmod {} x.eth i fun e => { e with
        fec := fecOf x i (fld v 0 2), anEn := bit v 2, maxFrame := clampF v 16 14 1522 9216, enable := bit v 63 } }) s
    | _, some i, _ => ing (fun x => { x with eth := tmod {} x.eth i fun e => { e with mac := fld v 0 48 } }) s
    | _, _, some i => ing (fun x => { x with laddr := tmod {} x.laddr (i / 4) fun a =>
        if i % 4 = 0 then { a with addr := setHalf a.addr true v } else if i % 4 = 1 then { a with addr := setHalf a.addr false v }
        else { a with valid := bit v 0, ports := fld v 8 8 } }) s
    | _, _, _ => s

/-! ## MIX, TDM, VDC, GAL, SEA, VEN and EGR blocks -/

/-- The MIX block. -/
def mixWr (d off : Nat) (v : Word) (s : State) : State :=
  match off with
  | 0x0000 => s.modDie d fun x => { x with mix := { x.mix with actLevel := fld v 0 7, relShift := clampF v 8 4 6 15 } }
  | 0x0008 => s.modDie d fun x => { x with mix := { x.mix with event := w1c x.mix.event (fld v 0 3) } }
  | _ => s

/-- The TDM block. -/
def tdmWr (d off : Nat) (v : Word) (s : State) : State :=
  match off, regIdx 0x0100 8 64 off with
  | 0x0000, _ => s.modDie d fun x => { x with tdm := { x.tdm with event := w1c x.tdm.event (fld v 0 6) } }
  | _, some i =>
    if i % 8 = 0 then stateOf s (execTdmPortCfgWrite d (i / 8) v s)
    else if i % 8 = 1 && bit v 0 then stateOf s (execTdmStop d (i / 8) s) else s
  | _, _ => s

/-- The VDC block. -/
def vdcWr (d off : Nat) (v : Word) (s : State) : State :=
  match off with
  | 0x0010 => s.modDie d fun x => { x with vdc := { x.vdc with event := w1c x.vdc.event (fld v 0 5) } }
  | 0x0018 => s.modDie d fun x => { x with vdc := { x.vdc with kfGap := clampF v 0 14 100 10000 } }
  | _ => s

/-- A coefficient word: pictures started within 1 µs use what the word held before (10 Table 10.7). -/
def coefWrite (d i : Nat) (v : Word) (s : State) : State :=
  let old := coefNow s d i
  s.modDie d fun x => { x with gal := { x.gal with
    coefUse := tset 0 x.gal.coefUse i old, coef := tset 0 x.gal.coef i (fld v 0 60), coefAt := tset 0 x.gal.coefAt i s.clk } }

/-- The GAL and SEA registers. -/
def galWr (d off : Nat) (v : Word) (s : State) : State :=
  let gal (g : Gal → Gal) : State := s.modDie d fun x => { x with gal := g x.gal }
  match off with
  | 0x0010 => gal fun x => { x with event := w1c x.event (fld v 0 6) }
  | 0x4010 => gal fun x => { x with seaEvent := w1c x.seaEvent (fld v 0 4) }
  | 0x4018 => gal fun x => { x with seaGap := clampF v 0 14 100 10000 }
  | 0x4020 => gal fun x => { x with seaWait := clampF v 0 11 50 2000 }
  | _ =>
    match regIdx 0x0400 8 256 off, regIdx 0x2000 8 256 off with
    | some i, _ => stateOf s (execGalFenceWrite d i v s)
    | _, some i => coefWrite d i v s
    | _, _ => s

/-- The VEN block. -/
def venWr (d off : Nat) (v : Word) (s : State) : State :=
  let ven (g : Ven → Ven) : State := s.modDie d fun x => { x with ven := g x.ven }
  match off with
  | 0x0010 => ven fun x => { x with event := w1c x.event (fld v 0 4) }
  | 0x0018 => ven fun x => { x with intraGap := clampF v 0 14 100 10000 }
  | 0x0020 => ven fun x => { x with dryGuard := clampF v 0 16 600 10000 }
  | 0x0028 => ven fun x => { x with capX := clampF v 0 4 2 15 }
  | _ => s

/-- EGR_TIMING: it takes effect at the next MP boundary. -/
def timingWord (v : Word) : Word :=
  put (clampF v 0 16 1 1000) 0 ||| put (clampF v 16 16 100 2000) 16 ||| put (clampF v 32 16 100 5000) 32 |||
    put (clampF v 48 16 20 500) 48

/-- The EGR block. -/
def egrWr (d off : Nat) (v : Word) (s : State) : State :=
  let egr (g : Egr → Egr) : State := s.modDie d fun x => { x with egr := g x.egr }
  match off, regIdx 0x0100 8 64 off with
  | 0x0000, _ => egr fun x => { x with ecn := fld v 0 2 }
  | 0x0008, _ => egr fun x => { x with ccMin := fld v 0 24, ccStart := fld v 24 24 }
  | 0x0010, _ => egr fun x => { x with timingNext := timingWord v }
  | 0x0018, _ => egr fun x => { x with event := w1c x.event (fld v 0 6) }
  | 0x0020, _ => egr fun x => { x with hostRate := fld v 0 32, hostBurst := fld v 32 16 }
  | _, some i =>
    let c := i % 8
    s.modCls d (i / 8) c fun q => { q with strict := bit v 0 != (c == 6 || c == 7), weight := fld v 8 8 }
  | _, _ => s

/-! ## DRC, PAR, CAN, ERR and UPD blocks, and core windows -/

/-- The DRC block. -/
def drcWr (d off : Nat) (v : Word) (s : State) : State :=
  match off with
  | 0x0010 => s.modDrc d fun x => { x with event := w1c x.event (fld v 0 7) }
  | 0x0018 => s.modDrc d fun x => { x with actMax := clampF v 0 16 512 65535, gapNs := clampF v 16 16 100 10000 }
  | 0x0028 => s.modDrc d fun x => { x with scrubHours := clampF v 0 8 1 255 }
  | 0x0030 => s.modDrc d fun x => { x with retrainPs := clampF v 0 8 2 100 }
  | _ => s

/-- The PAR block: the registers that can be written are die 0's. -/
def parWr (d off : Nat) (v : Word) (s : State) : State :=
  if d ≠ 0 then s
  else match off with
    | 0x0008 => stateOf s (execSwitch v s)
    | 0x0010 => s.modPair fun p => { p with switchMp := v }
    | 0x0018 => s.modPair fun p => { p with lastT := v }
    | 0x0020 => s.modPair fun p => { p with event := w1c p.event (fld v 0 5) }
    | _ => s

/-- The CAN block. -/
def canWr (d off : Nat) (v : Word) (s : State) : State :=
  match off with
  | 0x0000 =>
    let s := s.modCan d fun c => { c with auto := bit v 1 }
    if bit v 0 then stateOf s (execReplan d false s) else s
  | 0x0010 => s.modCan d fun c => { c with guard := clampF v 0 8 10 100 }
  | _ => s

/-- The ERR block. -/
def errWr (d off : Nat) (v : Word) (s : State) : State :=
  match off with
  | 0x0008 => s.modErr d fun e => { e with event := e.event && !bit v 0 }
  | 0x0018 => stateOf s (execErrHeadWrite d v s)
  | 0x0020 => stateOf s (execErrClear d v s)
  | 0x0030 => s.modErr d fun e => { e with irqVector := fld v 0 11, irqEn := bit v 11 }
  | 0x0040 => s.modErr d fun e => { e with ovfBase := v &&& 0xFFFFFFFFFFFFF000 }
  | 0x0048 => stateOf s (execErrOvfCfgWrite d v s)
  | 0x0058 => s.modErr d fun e => { e with ovfHead := fld v 0 16 }
  | _ => s

/-- A write of UPD_CTRL: PAIR, then the actions whose bits are set, from the lowest (18 R393 to R401). -/
def updCtrlWrite (v : Word) (s : State) : State :=
  let s := { s with upd := { s.upd with pair := bit v 4 } }
  let s := if bit v 0 then stateOf s (execApply s) else s
  let s := if bit v 1 then stateOf s (execActivate s) else s
  let s := if bit v 2 then stateOf s (execCancel s) else s
  if bit v 3 then stateOf s (execConfirm s) else s

/-- The UPD block, on die 0; a unit that stands by ignores writes (18 R401). -/
def updWr (d off : Nat) (v : Word) (s : State) : State :=
  if d ≠ 0 || standsBy s then s
  else match off with
    | 0x0000 => updCtrlWrite v s
    | 0x0008 => { s with upd := { s.upd with result := fld v 3 4 } }
    | 0x0010 => { s with upd := { s.upd with deltaAddr := fld v 0 48 } }
    | 0x0018 => { s with upd := { s.upd with deltaLen := fld v 0 32 } }
    | 0x0020 => { s with upd := { s.upd with actMp := v } }
    | _ => s

/-- A core window: data memory at any time, instruction memory of a stopped core (14 R328). -/
def coreWindowWr (d off : Nat) (v : Word) (s : State) : State :=
  let c := off / 0x50000
  let o := off % 0x50000
  if (s.faceCore d c).role ≠ 1 then s
  else if o < 0x40000 then s.modFace d c fun x => { x with dmem := wr64 x.dmem o v }
  else imemWrite d c (o - 0x40000) v s

/-- A write of the aligned 64-bit register at an offset of a die's window, by function `f`. -/
def windowWrites (f d off : Nat) (v : Word) (s : State) : State :=
  let o := off % 0x10000
  if blockOff s d off then s
  else match off / 0x10000 with
  | 0x00 => dieWr f d o v s
  | 0x01 => timWr d o v s
  | 0x02 => hstWr f d o v s
  | 0x03 => legWr f d o v s
  | 0x04 => ingWr d o v s
  | 0x05 => cipWr d (hostReq f) o v s
  | 0x06 => mixWr d o v s
  | 0x07 => tdmWr d o v s
  | 0x08 => vdcWr d o v s
  | 0x09 => galWr d o v s
  | 0x0A => venWr d o v s
  | 0x0B => egrWr d o v s
  | 0x0C => drcWr d o v s
  | 0x0E => parWr d o v s
  | 0x0F => errWr d o v s
  | 0x10 => updWr d o v s
  | 0x11 => canWr d o v s
  | _ => if 0x200000 ≤ off then coreWindowWr d (off - 0x200000) v s else s

end Sys2Proof.Machine
end

