-- ==== Sys2Proof/Machine/Registers.lean ====
section
/-! DEFINITION. REGISTER_WRITE: an access to a register of a function's BAR0 (00 R6, R8, 19 R404, R405, R409). -/

namespace Sys2Proof.Machine

/-! ## Fields that a read clears (00 Table 0.2) -/

/-- A bank of counters, `stride` 8, with the one at an offset cleared. -/
def clearAt {w : Nat} (base n off : Nat) (t : Tab (BitVec w)) : Tab (BitVec w) :=
  match regIdx base 8 n off with
  | some i => tset 0 t i 0
  | none => t

/-- The DIE block: DIE_BW_OVER and DIE_FACE_BUSY. -/
def dieClear (d off : Nat) (s : State) : State :=
  match regIdx 0x1058 32 17 off with
  | some c => s.modFace d c fun x => { x with busy := 0 }
  | none => s.modDie d fun x => { x with str := { x.str with bwOver := clearAt 0x02C0 8 off x.str.bwOver } }

/-- The TIM block: TIM_TXS_OVF and the overflow count of TIM_CAP_INFO. -/
def timClear (d off : Nat) (s : State) : State :=
  match regIdx 0x0618 32 8 off, regIdx 0x0A10 32 8 off with
  | some q, _ => s.modDie d fun x => { x with tim := { x.tim with txs := tmod {} x.tim.txs q fun e => { e with ovf := 0 } } }
  | _, some c => s.modCap d c fun u => { u with ovf := 0 }
  | _, _ => s

/-- The HST block. -/
def hstClear (d off : Nat) (s : State) : State :=
  s.modHst d fun h => { h with
    peak := clearAt 0x0040 8 off h.peak, hist := clearAt 0x0800 128 off h.hist,
    traceLost := if off = 0x0E18 then 0 else h.traceLost, cnt := clearAt 0x0F00 8 off h.cnt }

/-- The LEG block. -/
def legClear (d off : Nat) (s : State) : State :=
  match regIdx 0x1030 64 64 off with
  | some f => if d = 0 then s.modFq f fun q => { q with cqDefer := 0 } else s
  | none => s.modDie d fun x => { x with lblk := { x.lblk with
      cacheHit := if off = 0x0008 then 0 else x.lblk.cacheHit, cacheMiss := if off = 0x0010 then 0 else x.lblk.cacheMiss,
      dbLate := if off = 0x0018 then 0 else x.lblk.dbLate } }

/-- TDM_CNT. -/
def tdmClear (d off : Nat) (s : State) : State :=
  match regIdx 0x0130 64 8 off with
  | some p => s.modPort d p fun x => { x with underrun := 0, overrun := 0, slips := 0, iecCnt := 0 }
  | none => s

/-- The VDC block. VDC_POOL_LOW restarts at the slots now free. -/
def vdcClear (d off : Nat) (s : State) : State :=
  let low := BitVec.ofNat 24 (poolFree s d)
  s.modDie d fun x => { x with vdc := { x.vdc with
    poolLow := if off = 0x0038 then low else x.vdc.poolLow, cnt := clearAt 0x0100 8 off x.vdc.cnt } }

/-- UBH_CNT. -/
def ubhClear (d off : Nat) (s : State) : State :=
  match regIdx 0x0108 32 3 off with
  | some p => s.modDie d fun x => { x with ubh := tmod {} x.ubh p fun u => { u with retry := 0, reroute := 0 } }
  | none => s

/-- PAR_HB_MISS and PAR_CNT. -/
def parClear (d off : Nat) (s : State) : State :=
  s.modPar d fun p => { p with hbMiss := if off = 0x0100 then 0 else p.hbMiss, cnt := clearAt 0x0180 6 off p.cnt }

/-- What an aligned 64-bit read clears at an offset of a die's window. -/
def readClears (d off : Nat) (s : State) : State :=
  let o := off % 0x10000
  let die (f : Die → Die) : State := s.modDie d f
  match off / 0x10000 with
  | 0x00 => dieClear d o s
  | 0x01 => timClear d o s
  | 0x02 => hstClear d o s
  | 0x03 => legClear d o s
  | 0x04 => die fun x => { x with ing := { x.ing with cnt := clearAt 0x0400 18 o x.ing.cnt } }
  | 0x05 => s.modCip d fun g => { g with cnt := clearAt 0x0200 4 o g.cnt }
  | 0x06 => die fun x => { x with mix := { x.mix with
      facePeak := if o = 0x0020 then 0 else x.mix.facePeak, cnt := clearAt 0x0100 6 o x.mix.cnt } }
  | 0x07 => tdmClear d o s
  | 0x08 => vdcClear d o s
  | 0x09 => die fun x => { x with gal := { x.gal with
      cnt := clearAt 0x0100 8 o x.gal.cnt, seaCnt := clearAt 0x4100 8 o x.gal.seaCnt } }
  | 0x0A => die fun x => { x with ven := { x.ven with cnt := clearAt 0x0100 8 o x.ven.cnt } }
  | 0x0B => die fun x => { x with egr := { x.egr with cnt := clearAt 0x0800 10 o x.egr.cnt } }
  | 0x0C => s.modDrc d fun x => { x with cnt := clearAt 0x0100 8 o x.cnt }
  | 0x0D => ubhClear d o s
  | 0x0E => parClear d o s
  | 0x0F => s.modErr d fun e => { e with lost := if o = 0x0028 then 0 else e.lost }
  | _ => s

/-! ## The access -/

/-- Die and window offset that an offset of a function's BAR0 names: the die windows for the PF (19 R404), the register
page for a VF (19 R409), and for requester 0x60, a Duken core, the CIP blocks of the die windows (06 R151); none in a reserved
part of the page. -/
def barRoute (f off : Nat) : Option (Nat × Nat) :=
  if f = 0x60 then (if off < 0x4000000 && off % 0x800000 / 0x10000 == 5 then some (off / 0x800000, off % 0x800000) else none)
  else if isPf f then (if off < 0x4000000 then some (off / 0x800000, off % 0x800000) else none)
  else
    let d := (off - 0x2000) / 0x1000
    let o := (off - 0x2000) % 0x1000
    if off = 0x0000 ∨ off = 0x0010 ∨ off = 0x0030 then some (0, off)
    else if 0x1000 ≤ off ∧ off < 0x1040 then some (0, 0x30000 + off + 64 * f)
    else if 0x2000 ≤ off ∧ 0x40 ≤ o ∧ o < 0xD0 then some (d, 0x50000 + o)
    else none

/-- The register at an aligned offset of a function's BAR0: its die, its window offset and its value. -/
def barReads (s : State) (f off : Nat) : Option (Nat × Nat × Word) :=
  (barRoute f off).bind fun e => (windowReads s e.1 e.2).map fun v => (e.1, e.2, v)

/-- The byte that a function reads at an offset of its BAR0; 0 in a reserved range. -/
def barByte (s : State) (f a : Nat) : Byte :=
  match barReads s f (a / 8 * 8) with
  | some (_, _, v) => v.extractLsb' (8 * (a % 8)) 8
  | none => 0

/-- Whether an access is an aligned 64-bit one (00 R6). -/
def wholeReg (off width : Nat) : Bool := width == 8 && off % 8 == 0

/-- A read returns the addressed bytes; only an aligned 64-bit one clears what a read clears. -/
def barRead (f off width : Nat) (s : State) : State :=
  let bytes := (List.range (min width 8)).map fun (i : Nat) => barByte s f (off + i)
  let s' := match barReads s f off with
    | some (d, o, _) => if wholeReg off width && !blockOff s d o then readClears d o s else s
    | none => s
  { s' with readData := bytes }

/-- A write: a narrow or unaligned one is discarded with 0x1302 and its offset; one to an absent, retired or reserved
range with 0x1301, on the die addressed where the package has it. -/
def barWrite (f off width : Nat) (v : Word) (s : State) : State :=
  if !wholeReg off width then raiseFrom 0 (hostReq f) 0x1302 (BitVec.ofNat 64 off) s
  else match barReads s f off with
    | some (d, o, _) => windowWrites f d o v s
    | none =>
      let d := match barRoute f off with
        | some (d, _) => if s.hasDie d then d else 0
        | none => 0
      rangeError d f s

/-- REGISTER_WRITE: an access by function `func` at an offset of its BAR0. A read returns its bytes to the requester. -/
def execRegisterWrite (func off : Nat) (acc : RegAccess) (s : State) : Host.Outcome State Fault Refusal :=
  match acc with
  | .write width v => .next (barWrite func off width v s)
  | .read width => .next (barRead func off width s)

end Sys2Proof.Machine
end

