-- ==== Sys2Proof/Machine/StepApply.lean ====
section
/-! DEFINITION. STEP_APPLY: a step of device time, and the actions that it skips (02 R45 to R47). -/

namespace Sys2Proof.Machine

/-- An action whose time a forward step skips: a trigger, the doorbells and SAFE_LOADs for an MP, a move, or a planned role
switch. -/
inductive Skipped where
  | trigger (die n : Nat)
  | bells (mp : Nat)
  | move (m : Migration)
  | planned (mp : BitVec 64)
  deriving DecidableEq, Repr

/-- The MPs that held doorbells and SAFE_LOADs name. -/
def namedMps (s : State) : List Nat :=
  let mps (l : List Doorbell) : List Nat := l.filterMap fun b => if (b.hold || b.sample.isSome) && !b.adopted then b.atMp.map (·.toNat) else none
  (mps (s.badBells.map (·.2.2)) ++ s.dies.flatMap fun x =>
    x.legs.flatMap (fun e => mps (e.2.db.toList ++ e.2.busyDbs)) ++ x.confs.flatMap fun e => mps (e.2.db.toList ++ e.2.busyDbs)).eraseDups

/-- What a step of `ms` at boundary `mp` skips, in time order: all that is due from the old instant up to the new one; at
one instant, work by MP number stands before triggers (log 4). -/
def skippedActions (mp : Nat) (ms : Int) (s : State) : List Skipped :=
  let byMp (m : Nat) (a : Skipped) : Skipped × Int := (a, (unitsMp : Int) * ((m : Int) - mp))
  let acts : List (Skipped × Int) :=
    (namedMps s).map (fun m => byMp m (.bells m)) ++ s.moves.map (fun m => byMp m.switchMp.toNat (.move m)) ++
      (match s.pair.role, s.pair.switchAt with | .active, some t => [byMp t.toNat (.planned t)] | _, _ => []) ++
      (triggersInOrder s fun _ _ => true).map fun e =>
        (.trigger e.1 e.2, match (s.trig e.1 e.2).armed with | some t => stampDiff t (s.now e.1) | none => -1)
  (sortBy (fun (a b : Skipped × Int) => decide (a.2 ≤ b.2))
    (acts.filter fun e => decide (0 ≤ e.2) && decide (e.2 < unitsMp * ms))).map (·.1)

/-- A skipped action is carried out at the step's boundary `b` of the new timeline; a trigger is LATE. -/
def runSkipped (b : Nat) (a : Skipped) (s : State) : State :=
  match a with
  | .trigger d n => if (s.trig d n).armed.isSome then fireLate d n true s else s
  | .bells m => adoptUpTo m b s
  | .move m =>
    match moveOf s m.isConf m.src with
    | some x => if x.isConf then switchConf x s else switchLeg x s
    | none => s
  | .planned t => plannedActive t s

/-- STEP_APPLY: at the step's boundary all dies jump by the amount; STEP_DONE and error 0x0208; a forward step carries
out the actions it skips, in time order. -/
def execStepApply (s : State) : Host.Outcome State Fault Refusal :=
  match s.servo.stepPending with
  | none => .next s
  | some (amt, mp) =>
    let s := endMp mp.toNat (s.advanceTo 0 (unitsMp * mp.toNat))
    let ms := amt.toInt
    let skipped := skippedActions mp.toNat ms s
    let s := stepDone (amt &&& 0x7FFFFFFFFFFFFFFF) (relabel ms s)
    .next (forAll skipped (fun a s => runSkipped (s.mpNo 0) a s) s)

end Sys2Proof.Machine
end

