-- ==== Sys2Proof/Machine/Dispatch.lean ====
section
/-! DEFINITION. The meaning of each command: one arm for each row of the table. -/

namespace Sys2Proof.Machine

/-- The effect of a command on everything but the queue of waiting commands. -/
def exec (i : Instr) (s : State) : Host.Outcome State Fault Refusal :=
  match i with
  | .mpBoundary f => Sys2Proof.Machine.execMpBoundary f s
  | .ubhanLaneFailure die port => Sys2Proof.Machine.execUbhanLaneFailure die port s
  | .slaveTimeExchange die t1 t2 t3 t4 => Sys2Proof.Machine.execSlaveTimeExchange die t1 t2 t3 t4 s
  | .slaveRemeasureDone die => Sys2Proof.Machine.execSlaveRemeasureDone die s
  | .slaveOffsetError die => Sys2Proof.Machine.execSlaveOffsetError die s
  | .referenceEdge src raw => Sys2Proof.Machine.execReferenceEdge src raw s
  | .frequencyWindowEnd src ppt => Sys2Proof.Machine.execFrequencyWindowEnd src ppt s
  | .referenceStop src => Sys2Proof.Machine.execReferenceStop src s
  | .referenceQualified src => Sys2Proof.Machine.execReferenceQualified src s
  | .timRefRearm mask => Sys2Proof.Machine.execTimRefRearm mask s
  | .ptpMessage m => Sys2Proof.Machine.execPtpMessage m s
  | .announceReceiptTimeout => Sys2Proof.Machine.execAnnounceReceiptTimeout s
  | .ptpRequalify => Sys2Proof.Machine.execPtpRequalify s
  | .esmcMessage code => Sys2Proof.Machine.execEsmcMessage code s
  | .esmcTimeout => Sys2Proof.Machine.execEsmcTimeout s
  | .synceRequalify => Sys2Proof.Machine.execSynceRequalify s
  | .servoLock => Sys2Proof.Machine.execServoLock s
  | .stepGoInitial => Sys2Proof.Machine.execStepGoInitial s
  | .stepGo => Sys2Proof.Machine.execStepGo s
  | .stepApply => Sys2Proof.Machine.execStepApply s
  | .timSnap die => Sys2Proof.Machine.execTimSnap die s
  | .timTxsPop die q => Sys2Proof.Machine.execTimTxsPop die q s
  | .triggerArm die n v => Sys2Proof.Machine.execTriggerArm die n v s
  | .triggerDisarm die n v => Sys2Proof.Machine.execTriggerDisarm die n v s
  | .triggerFire die n => Sys2Proof.Machine.execTriggerFire die n s
  | .captureEdge die unit raw rising widthNs => Sys2Proof.Machine.execCaptureEdge die unit raw rising widthNs s
  | .timCapPop die c => Sys2Proof.Machine.execTimCapPop die c s
  | .timCapCfgWrite die c v => Sys2Proof.Machine.execTimCapCfgWrite die c v s
  | .timPtpCfgWrite v => Sys2Proof.Machine.execTimPtpCfgWrite v s
  | .ppsOutPulse => Sys2Proof.Machine.execPpsOutPulse s
  | .bootLoad => Sys2Proof.Machine.execBootLoad s
  | .dramTrainingDone die r => Sys2Proof.Machine.execDramTrainingDone die r s
  | .bwWindow die demand => Sys2Proof.Machine.execBwWindow die demand s
  | .restructureGo v => Sys2Proof.Machine.execRestructureGo v s
  | .restructureCheckDone => Sys2Proof.Machine.execRestructureCheckDone s
  | .restructureDrainStart => Sys2Proof.Machine.execRestructureDrainStart s
  | .restructureLateCheck => Sys2Proof.Machine.execRestructureLateCheck s
  | .restructureResume => Sys2Proof.Machine.execRestructureResume s
  | .bar2TableWrite func off bytes => Sys2Proof.Machine.execBar2TableWrite func off bytes s
  | .bar2StagingWrite func off acc => Sys2Proof.Machine.execBar2StagingWrite func off acc s
  | .tableDoorbell func v => Sys2Proof.Machine.execTableDoorbell func v s
  | .entryAdoption die isConf idx => Sys2Proof.Machine.execEntryAdoption die isConf idx s
  | .sqTailWrite func tail cmds => Sys2Proof.Machine.execSqTailWrite func tail cmds s
  | .cqHeadWrite func head => Sys2Proof.Machine.execCqHeadWrite func head s
  | .allocLeg c => Sys2Proof.Machine.execAllocLeg c s
  | .freeLeg c => Sys2Proof.Machine.execFreeLeg c s
  | .migrateLeg c => Sys2Proof.Machine.execMigrateLeg c s
  | .migrationStateSend leg => Sys2Proof.Machine.execMigrationStateSend leg s
  | .migrationSwitch leg => Sys2Proof.Machine.execMigrationSwitch leg s
  | .rehomeConf c => Sys2Proof.Machine.execRehomeConf c s
  | .confRehomeSwitch conf => Sys2Proof.Machine.execConfRehomeSwitch conf s
  | .releaseHeld c => Sys2Proof.Machine.execReleaseHeld c s
  | .nop c => Sys2Proof.Machine.execNop c s
  | .unknownOpcode c => Sys2Proof.Machine.execUnknownOpcode c s
  | .legConfOwnerWrite func die conf v => Sys2Proof.Machine.execLegConfOwnerWrite func die conf v s
  | .queueCfgWrite func isCq v => Sys2Proof.Machine.execQueueCfgWrite func isCq v s
  | .frameReceive die sub raw f => Sys2Proof.Machine.execFrameReceive die sub raw f s
  | .ingStrHeadWrite die v => Sys2Proof.Machine.execIngStrHeadWrite die v s
  | .ingStrCfgWrite die v => Sys2Proof.Machine.execIngStrCfgWrite die v s
  | .linkChange die sub up => Sys2Proof.Machine.execLinkChange die sub up s
  | .tagVerdict die leg v => Sys2Proof.Machine.execTagVerdict die leg v s
  | .nackTimer leg seq => Sys2Proof.Machine.execNackTimer leg seq s
  | .videoFrameTimeout leg spatial ts => Sys2Proof.Machine.execVideoFrameTimeout leg spatial ts s
  | .keyAlloc c => Sys2Proof.Machine.execKeyAlloc c s
  | .keyFree c => Sys2Proof.Machine.execKeyFree c s
  | .keyUnwrap c => Sys2Proof.Machine.execKeyUnwrap c s
  | .keyGen c => Sys2Proof.Machine.execKeyGen c s
  | .keyAgree c => Sys2Proof.Machine.execKeyAgree c s
  | .keyDerive c => Sys2Proof.Machine.execKeyDerive c s
  | .keyFinished c => Sys2Proof.Machine.execKeyFinished c s
  | .keyExportSrtp c => Sys2Proof.Machine.execKeyExportSrtp c s
  | .keyCopy c => Sys2Proof.Machine.execKeyCopy c s
  | .keyRewrap c => Sys2Proof.Machine.execKeyRewrap c s
  | .ownerEnroll c => Sys2Proof.Machine.execOwnerEnroll c s
  | .rxGraceExpiry leg => Sys2Proof.Machine.execRxGraceExpiry leg s
  | .cipLockAcquire die ids => Sys2Proof.Machine.execCipLockAcquire die ids s
  | .cipLockRelease die req => Sys2Proof.Machine.execCipLockRelease die req s
  | .lockPreempt die => Sys2Proof.Machine.execLockPreempt die s
  | .bulkJobGo die req v => Sys2Proof.Machine.execBulkJobGo die req v s
  | .bulkJobDone die => Sys2Proof.Machine.execBulkJobDone die s
  | .rngReseedFailure die => Sys2Proof.Machine.execRngReseedFailure die s
  | .safeLoad c => Sys2Proof.Machine.execSafeLoad c s
  | .safeLoadApply die isConf idx => Sys2Proof.Machine.execSafeLoadApply die isConf idx s
  | .tdmPortCfgWrite die p v => Sys2Proof.Machine.execTdmPortCfgWrite die p v s
  | .tdmStop die p => Sys2Proof.Machine.execTdmStop die p s
  | .tdmFsyncEdge die p raw => Sys2Proof.Machine.execTdmFsyncEdge die p raw s
  | .tdmClockLoss die p => Sys2Proof.Machine.execTdmClockLoss die p s
  | .tdmInputFrame die p slots fits => Sys2Proof.Machine.execTdmInputFrame die p slots fits s
  | .iecUnmute die p k => Sys2Proof.Machine.execIecUnmute die p k s
  | .tdmOutputFetch die g => Sys2Proof.Machine.execTdmOutputFetch die g s
  | .decOpen c => Sys2Proof.Machine.execDecOpen c s
  | .decClose c => Sys2Proof.Machine.execDecClose c s
  | .decKeyreq c => Sys2Proof.Machine.execDecKeyreq c s
  | .videoFrameRelease ctx ts => Sys2Proof.Machine.execVideoFrameRelease ctx ts s
  | .pictureDecodeDone ctx p => Sys2Proof.Machine.execPictureDecodeDone ctx p s
  | .pictureLate ctx pid => Sys2Proof.Machine.execPictureLate ctx pid s
  | .keyframeGapEnd leg ssrc => Sys2Proof.Machine.execKeyframeGapEnd leg ssrc s
  | .layoutAlloc c => Sys2Proof.Machine.execLayoutAlloc c s
  | .layoutFree c => Sys2Proof.Machine.execLayoutFree c s
  | .flip c => Sys2Proof.Machine.execFlip c s
  | .fenceBind c => Sys2Proof.Machine.execFenceBind c s
  | .flipEvaluate die n atDeadline => Sys2Proof.Machine.execFlipEvaluate die n atDeadline s
  | .galFenceWrite die n v => Sys2Proof.Machine.execGalFenceWrite die n v s
  | .pictureBoundary die idx late failed => Sys2Proof.Machine.execPictureBoundary die idx late failed s
  | .tilePictureReceive die n t => Sys2Proof.Machine.execTilePictureReceive die n t s
  | .seamStartWaitExpiry leg => Sys2Proof.Machine.execSeamStartWaitExpiry leg s
  | .seamIntraGapEnd die n => Sys2Proof.Machine.execSeamIntraGapEnd die n s
  | .encOpen c => Sys2Proof.Machine.execEncOpen c s
  | .encClose c => Sys2Proof.Machine.execEncClose c s
  | .encRate c => Sys2Proof.Machine.execEncRate c s
  | .encKey c => Sys2Proof.Machine.execEncKey c s
  | .lateDryGuard ctx rung row => Sys2Proof.Machine.execLateDryGuard ctx rung row s
  | .intraGapEnd ctx rung => Sys2Proof.Machine.execIntraGapEnd ctx rung s
  | .feedbackTimeout leg => Sys2Proof.Machine.execFeedbackTimeout leg s
  | .rtcpReportTimer leg ssrc => Sys2Proof.Machine.execRtcpReportTimer leg ssrc s
  | .egressEnqueue p => Sys2Proof.Machine.execEgressEnqueue p s
  | .packetDeparture die sub => Sys2Proof.Machine.execPacketDeparture die sub s
  | .waitDrop leg => Sys2Proof.Machine.execWaitDrop leg s
  | .rtxHoldExpiry leg => Sys2Proof.Machine.execRtxHoldExpiry leg s
  | .egrSend c => Sys2Proof.Machine.execEgrSend c s
  | .hstEnqWrite func die v => Sys2Proof.Machine.execHstEnqWrite func die v s
  | .takeDelivery die cls core => Sys2Proof.Machine.execTakeDelivery die cls core s
  | .stallTimeout die src => Sys2Proof.Machine.execStallTimeout die src s
  | .tallySkip die flow => Sys2Proof.Machine.execTallySkip die flow s
  | .bundleIssue die core => Sys2Proof.Machine.execBundleIssue die core s
  | .dmaDone die core ch => Sys2Proof.Machine.execDmaDone die core ch s
  | .vendorCoreRestart die core => Sys2Proof.Machine.execVendorCoreRestart die core s
  | .run die core v => Sys2Proof.Machine.execRun die core v s
  | .stop die core v => Sys2Proof.Machine.execStop die core v s
  | .faceImemWrite func die core off v => Sys2Proof.Machine.execFaceImemWrite func die core off v s
  | .dramAccess a => Sys2Proof.Machine.execDramAccess a s
  | .rowWindowEnd die => Sys2Proof.Machine.execRowWindowEnd die s
  | .sameBankRefresh die => Sys2Proof.Machine.execSameBankRefresh die s
  | .dramTemperatureRead die milliC => Sys2Proof.Machine.execDramTemperatureRead die milliC s
  | .retrainCheck die sub driftPs dTempMilliC => Sys2Proof.Machine.execRetrainCheck die sub driftPs dTempMilliC s
  | .patrolScrub die e => Sys2Proof.Machine.execPatrolScrub die e s
  | .queueWrite die q bytes last => Sys2Proof.Machine.execQueueWrite die q bytes last s
  | .drop die q => Sys2Proof.Machine.execDrop die q s
  | .queuePointerCheck die q upset => Sys2Proof.Machine.execQueuePointerCheck die q upset s
  | .pairRoleSettle p => Sys2Proof.Machine.execPairRoleSettle p s
  | .peerSearchTimeout => Sys2Proof.Machine.execPeerSearchTimeout s
  | .ledgerRecord die r => Sys2Proof.Machine.execLedgerRecord die r s
  | .ledgerFetch die r got => Sys2Proof.Machine.execLedgerFetch die r got s
  | .reseedInstall leg r => Sys2Proof.Machine.execReseedInstall leg r s
  | .digestSend die second peerInStep => Sys2Proof.Machine.execDigestSend die second peerInStep s
  | .digestCompare die second image version theirs failed => Sys2Proof.Machine.execDigestCompare die second image version theirs failed s
  | .assaySelfTest die unit pass => Sys2Proof.Machine.execAssaySelfTest die unit pass s
  | .heartbeatSend => Sys2Proof.Machine.execHeartbeatSend s
  | .heartbeatMiss die => Sys2Proof.Machine.execHeartbeatMiss die s
  | .takeoverBoundary => Sys2Proof.Machine.execTakeoverBoundary s
  | .addressAnnouncement => Sys2Proof.Machine.execAddressAnnouncement s
  | .takeoverCheck bad => Sys2Proof.Machine.execTakeoverCheck bad s
  | .pairAliveInChange level => Sys2Proof.Machine.execPairAliveInChange level s
  | .switch v => Sys2Proof.Machine.execSwitch v s
  | .plannedSwitch peerMp => Sys2Proof.Machine.execPlannedSwitch peerMp s
  | .peerFallbackNotice manSeq => Sys2Proof.Machine.execPeerFallbackNotice manSeq s
  | .canaryMeasure die k slack => Sys2Proof.Machine.execCanaryMeasure die k slack s
  | .replan die auto => Sys2Proof.Machine.execReplan die auto s
  | .marginReplanDone die slack => Sys2Proof.Machine.execMarginReplanDone die slack s
  | .railWarning die rail below => Sys2Proof.Machine.execRailWarning die rail below s
  | .braceEntry die sram => Sys2Proof.Machine.execBraceEntry die sram s
  | .braceExit die => Sys2Proof.Machine.execBraceExit die s
  | .braceSustained die => Sys2Proof.Machine.execBraceSustained die s
  | .junctionHot die => Sys2Proof.Machine.execJunctionHot die s
  | .por => Sys2Proof.Machine.execPor s
  | .pinReset lowNs role => Sys2Proof.Machine.execPinReset lowNs role s
  | .soft func v => Sys2Proof.Machine.execSoft func v s
  | .dieGo func v => Sys2Proof.Machine.execDieGo func v s
  | .lockstepStop die => Sys2Proof.Machine.execLockstepStop die s
  | .supplyReset die rail => Sys2Proof.Machine.execSupplyReset die rail s
  | .flr func => Sys2Proof.Machine.execFlr func s
  | .perstN => Sys2Proof.Machine.execPerstN s
  | .dieResetRejoin die => Sys2Proof.Machine.execDieResetRejoin die s
  | .errHeadWrite die v => Sys2Proof.Machine.execErrHeadWrite die v s
  | .errClear die v => Sys2Proof.Machine.execErrClear die v s
  | .errOvfCfgWrite die v => Sys2Proof.Machine.execErrOvfCfgWrite die v s
  | .apply => Sys2Proof.Machine.execApply s
  | .applyBlockDone readback => Sys2Proof.Machine.execApplyBlockDone readback s
  | .activate => Sys2Proof.Machine.execActivate s
  | .cancel => Sys2Proof.Machine.execCancel s
  | .confirm => Sys2Proof.Machine.execConfirm s
  | .activationReadinessCheck peerReady => Sys2Proof.Machine.execActivationReadinessCheck peerReady s
  | .trialConfirmation => Sys2Proof.Machine.execTrialConfirmation s
  | .trialWindowExpiry => Sys2Proof.Machine.execTrialWindowExpiry s
  | .registerWrite func off acc => Sys2Proof.Machine.execRegisterWrite func off acc s
  | .ptpSyncInterval k => Sys2Proof.Machine.execPtpSyncInterval k s
  | .esmcTransmit => Sys2Proof.Machine.execEsmcTransmit s
  | .aditTimeExchange t1 t2 t3 t4 => Sys2Proof.Machine.execAditTimeExchange t1 t2 t3 t4 s
  | .rngOkReturn die => Sys2Proof.Machine.execRngOkReturn die s
  | .braceAlarmClear die => Sys2Proof.Machine.execBraceAlarmClear die s
  | .junctionEpisodeEnd die => Sys2Proof.Machine.execJunctionEpisodeEnd die s
  | .perstNRelease => Sys2Proof.Machine.execPerstNRelease s

end Sys2Proof.Machine
end

