-- ==== Sys2Proof/Machine/Tick.lean ====
section
/-! DEFINITION. One tick of the 500 MHz time base (02 R30), which is what a step does while no command
waits (log 5): the consumers of the internal queues read a line each. -/

namespace Sys2Proof.Machine

/-- One tick of a die's time base: 2 ns, corrected by the servo's frequency adjustment in units of 2^-40 of
the nominal rate (02 R30). -/
def tickDie (t : Tim) : Tim := passTim (2 * unitsNs) t

/-- 10M_OUT at an instant of die 0's time, by the delay table's entry 13: high in the first half of each 100 ns (02 R37). -/
def tenMHigh (e : DlyEntry) (t : Nat) : Bool :=
  decide (((t : Int) + e.txFix.toInt + (e.cable.toNat : Int)) % (100 * unitsNs : Int) < 50 * unitsNs)

/-- The edge of 10M_OUT that a tick from `t` to `u` brings, at the instant at which it is driven; none while the output is
off. Edges that fall while a command lets time pass are not listed (log 134). -/
def tenMEdge (t u : Nat) (s : State) : State :=
  let e := tget ({} : DlyEntry) (s.die 0).tim.dly 13
  if !bit s.servo.tenMCfg 63 || tenMHigh e t == tenMHigh e u then s
  else
    let fix : Int := e.txFix.toInt + (e.cable.toNat : Int)
    let at_ := ((u : Int) + fix) / (50 * unitsNs : Int) * (50 * unitsNs : Int) - fix
    emit (.tenM (tenMHigh e u) (stampOf at_.toNat)) s

/-- The consumer of a queue reads its oldest line (15 R343). -/
def readLine (d q : Nat) (s : State) : State :=
  let x := tget ({} : QPrim) (s.die d).drc.queues q
  match x.ring with
  | [] => s
  | (bs, valid, eou) :: rest =>
    let rd := BitVec.ofNat 16 ((x.rd.toNat + 1) % (2 * x.lines))
    emit (.queueLine d q bs valid eou) <| s.modDie d fun y => { y with drc := { y.drc with
      queues := tset {} y.drc.queues q { x with ring := rest, rd := rd, rdN := ~~~rd } } }

/-- One tick of every die's time base. -/
def tick (s : State) : State :=
  let s := forAll (s.dieList.flatMap fun d => (s.die d).drc.queues.map fun e => (d, e.1)) (fun e s => readLine e.1 e.2 s) s
  let t := s.time 0
  let s := s.mapDies fun _ d => { d with tim := tickDie d.tim }
  tenMEdge t (s.time 0) { s with uptime := s.uptime + 2 * unitsNs }

end Sys2Proof.Machine
end

