-- ==== Sys2Proof/Safety.lean ====
section
/-! DEFINITION. What counts as a safe state, and what a command leaves alone, in the terms the statements use. -/

namespace Sys2Proof.Safety

open Sys2Proof.Machine

/-- The state that every step keeps legal: as many dies as the part has, and the memory of the tables and the
queues of the functions in their canonical form. -/
structure Inv (s : State) : Prop where
  /-- the package holds the dies of its part (00 Table 0.1) -/
  dies : s.dies.length = variantDies s.fuses.variant
  /-- the aperture of the tables lists strictly rising addresses and no byte that reads as unwritten -/
  tables : tabWf 0 s.tables = true
  /-- the queues of the functions are listed by strictly rising function, and none that is as after reset -/
  queues : tabWf {} s.queues = true

/-- `t` is `s` but for die `d`. -/
def onlyDie (d : Nat) (s t : State) : Prop :=
  t = { s with dies := t.dies } ∧ t.dies.length = s.dies.length ∧ ∀ e, e ≠ d → t.die e = s.die e

/-- `t` is `s` but for the servo, the TIM blocks and the error logs of the dies, and what goes out. -/
def onlyTime (s t : State) : Prop :=
  t = { s with servo := t.servo, dies := t.dies, out := t.out } ∧ t.dies.length = s.dies.length ∧
  ∀ e, t.die e = { s.die e with tim := (t.die e).tim, err := (t.die e).err }

/-- `t` is `s` but for the error log of die `d` and what goes out. -/
def onlyLog (d : Nat) (s t : State) : Prop :=
  t = { s with dies := t.dies, out := t.out } ∧ t.dies.length = s.dies.length ∧
  ∀ e, t.die e = if e = d then { s.die e with err := (t.die e).err } else s.die e

/-- A die with nothing for a boundary to serve: no open entry, no port, no trigger, no context, no Face load. -/
def quietDie (x : Die) : Prop :=
  x.legs = [] ∧ x.confs = [] ∧ x.tdm.ports = [] ∧ x.tim.trig = [] ∧ x.vdc.ctx = [] ∧ x.ven.ctx = [] ∧ x.mix.faceUse = 0

/-- A unit at rest: quiet dies, no host queue and no doorbell for its boundary, no pair, a servo that runs
free, no activation that waits, no frame whose C2 failed. -/
def quiet (s : State) : Prop :=
  (∀ d, s.hasDie d = true → quietDie (s.die d)) ∧ s.queues = [] ∧ s.pair.role = .unpaired ∧
    s.servo.state = .freerun ∧ s.upd.waitRejoin = false ∧ s.badBells = [] ∧ s.c2Faults = []

/-- The structure of an image is loaded: every die shows its identity in state LOADED, with its tables' run-time state
empty (03 R62 step 7, R79). -/
def loadedFrom (img : ImageDef) (t : State) : Prop :=
  7 ≤ t.bootStep ∧ t.bootImage = none ∧ ∀ d, t.hasDie d = true →
    (t.die d).str.state = .loaded ∧ (t.die d).str.id = img.imageId ∧ (t.die d).legs = [] ∧ (t.die d).confs = []

end Sys2Proof.Safety
end

