-- ==== Sys2Proof/Certificates/Slice0/Obligations.lean ====
section
/-! DEFINITION. The statements for the provers: what the bridge's commands do, from the manual's rules. -/

open Sys2Proof Sys2Proof.Machine Sys2Proof.Safety

/-- A step takes the command at the front of the queue and runs exec on it with the queue's rest. For every state whose queue holds a command c before the commands rest, step answers exactly what exec answers for c
on the state whose queue is rest. -/
def Obligations.StepRunsFrontCommand : Prop :=
  ∀ (c : Instr) (rest : List Instr) (s : State),
    s.pending = c :: rest →
    step s = exec c { s with pending := rest }

/-- With no command waiting, a step is one 2 ns tick of every die's time base. For every state with no waiting command, step answers a next state in which every die's device time has moved by the
whole 2^-16 ns units of 2 ns times (1 + TIM_FREQ_ADJ x 2^-40) together with the fraction carried over, modulo the
96-bit format, and the carried fraction is what stays below one unit; servo, tables, queues, pair and update state are
as before. That an idle step is a tick is the model's choice (log 5). -/
def Obligations.EmptyQueueStepIsOneTick : Prop :=
  ∀ (s : State),
    s.pending = [] →
    ∃ t, step s = .next t ∧ t.uptime = s.uptime + 2 * unitsNs ∧
      (∀ d, s.hasDie d = true →
        let x := (s.die d).tim
        let sum := x.acc + ((2 * unitsNs : Int) * (2 ^ 40 + x.freqAdj.toInt)).toNat
        (t.die d).tim = { x with time := (x.time + sum / 2 ^ 40) % timeModulus, acc := sum % 2 ^ 40 }) ∧
      t.pending = [] ∧ t.servo = s.servo ∧ t.tables = s.tables ∧ t.queues = s.queues ∧ t.pair = s.pair ∧ t.upd = s.upd

/-- Every step answers a next state: no command and no operand ends in a fault or a refusal. For every state, step answers a next state: every command of the table has an effect in every state, so neither a
fault nor a refusal stops the bridge. -/
def Obligations.EveryStepAnswersNext : Prop :=
  ∀ (s : State),
    ∃ t, step s = .next t

/-- A step removes exactly the front command and adds none, and keeps the part and its number of dies. For every state and every next state of its step, the waiting commands after it are those before it without the first:
no command puts another one in the queue; and the variant in the fuses and the number of dies are unchanged. -/
def Obligations.StepTakesOneCommand : Prop :=
  ∀ (s t : State),
    step s = .next t →
    t.pending = s.pending.tail ∧ t.fuses.variant = s.fuses.variant ∧ t.dies.length = s.dies.length

/-- The state after reset satisfies the invariant that every step keeps. State.reset holds the dies of the TRV6402, the variant that its fuses name (the model's choice, log 1), and its table
memory and its queues list nothing, which is the canonical form. -/
def Obligations.ResetIsLegal : Prop :=
  Inv State.reset

/-- Every step from every legal state leads to a legal state. For every state with as many dies as its part has, canonical table memory and canonical queues, and every next state
of its step, whatever command is at the front and whatever its operands: the number of dies is still that of the part,
and the table memory and the queues are still canonical (strictly rising addresses or functions, no entry that reads
as unwritten). -/
def Obligations.StepKeepsLegalState : Prop :=
  ∀ (s t : State),
    Inv s →
    step s = .next t →
    Inv t

/-- No step un-revokes an owner key: a blown revocation fuse stays blown. For every state, every next state of its step and every owner-key slot k: if the revocation fuse of k is blown before
the step it is blown after it, whatever the command, resets, field updates and power-on included. -/
def Obligations.RevokedKeysStayRevoked : Prop :=
  ∀ (s t : State) (k : Nat),
    step s = .next t →
    s.fuses.revoked.getLsbD k = true →
    t.fuses.revoked.getLsbD k = true

/-- A 64-bit word is stored little-endian: it reads back whole, its low byte at its address. For every canonical memory, address and word: after the store the word reads back, its byte i lies at address + i, and
no other byte changes. -/
def Obligations.WordIsLittleEndian : Prop :=
  ∀ (m : Mem) (a : Nat) (v : Word),
    tabWf 0 m = true →
    rd64 (wr64 m a v) a = v ∧ (∀ i, i < 8 → rdByte (wr64 m a v) (a + i) = v.extractLsb' (8 * i) 8) ∧
      (∀ x, x < a ∨ a + 8 ≤ x → rdByte (wr64 m a v) x = rdByte m x)

/-- The first report of a code since the clear takes the free slot at ERR_TAIL as a pinned record with COUNT 1. For every die of the package whose log has not seen the code since ERR_CLEAR and whose slot at ERR_TAIL is free: the
report places there a pinned, unread record with that code, source, die, detail, COUNT 1 and both stamps the current
time; ERR_TAIL moves to the next slot that holds no pinned record, the code counts as seen, ERR_EVENT is set, ERR_LOST
and ERR_HEAD are unchanged; outside this die's error log only the outputs may change. -/
def Obligations.FirstReportIsPinned : Prop :=
  ∀ (d : Nat) (src : Byte) (code : BitVec 16) (detail : BitVec 64) (s : State),
    s.hasDie d = true →
    (s.die d).err.seen.contains code = false →
    slotFree (tget none (s.die d).err.ring (s.die d).err.tail.toNat) = true →
    let e := (s.die d).err
    let u := ((raiseFrom d src code detail s).die d).err
    tget none u.ring e.tail.toNat = some
      { code := code, src := src, die := BitVec.ofNat 3 d, pinned := true, count := 1,
        first := s.now d, last := s.now d, detail := detail, read := false, order := e.nextOrder } ∧
    (∀ i, i ≠ e.tail.toNat → tget none u.ring i = tget none e.ring i) ∧
    u.tail = BitVec.ofNat 10 (skipPinned u.ring 1024 ((e.tail.toNat + 1) % 1024)) ∧
    u.seen = code :: e.seen ∧ u.event = true ∧ u.lost = e.lost ∧ u.head = e.head ∧
    onlyLog d s (raiseFrom d src code detail s)

/-- A repeated report of a code and source with an unread unpinned record coalesces into the newest such record. For every die of the package whose log has seen the code and whose newest unread unpinned record of that code and
source is r in slot i: the report only counts r up (saturating), sets its last stamp and its detail; no other slot, no
register of the log and no output changes. -/
def Obligations.RepeatedReportCoalesces : Prop :=
  ∀ (d i : Nat) (r : ErrRec) (src : Byte) (code : BitVec 16) (detail : BitVec 64) (s : State),
    s.hasDie d = true →
    (s.die d).err.seen.contains code = true →
    pickSlot true (fun r => r.code == code && r.src == src) (s.die d).err.ring = some (i, r) →
    raiseFrom d src code detail s = s.modDie d (fun x => { x with err := { x.err with
      ring := tins x.err.ring i (some { r with count := satInc r.count, last := s.now d, detail := detail }) } }) ∧
    r.code = code ∧ r.src = src ∧ r.pinned = false ∧ r.read = false

/-- A posted command that ends at once leaves the fetched and running lists and posts one completion; one out of turn starts nothing. For every posted command that stands first among its function's fetched commands and bears the OPCODE op, of a
function whose completion queue is enabled, has a free slot and none waiting, with no other command running, on a unit
that is no standby: a command whose body answers a status, RESULT_ID, OLD_ID and VERSION and leaves the queues alone
ends with the completion of KIND 2 that bears its TAG, its first argument and the MP of die 0 at that instant in the
slot at the tail with the current PHASE; the tail advances; the command is no longer fetched nor running; no other
function's queue changes. A command that does not stand first, or bears another OPCODE, starts nothing: the state
stays as it is (that a row can be commanded out of turn is the model's, log 47). -/
def Obligations.CommandEndsWithOneCompletion : Prop :=
  (∀ (op : BitVec 8) (c : Cmd) (st : BitVec 8) (r o v : BitVec 16) (s : State),
    (s.fq c.func).fetched.head? = some c →
    opOf c = op →
    standsBy s = false →
    (s.fq c.func).cqEn = true →
    cqFull (s.fq c.func) = false →
    (s.fq c.func).waiting = [] →
    (s.fq c.func).running = [] →
    (s.fq c.func).cqIrq = false →
    tabWf {} s.queues = true →
    let t := runCmd op c (fun u => (.done st r o v, u)) s
    let q := s.fq c.func
    t.out = .completion c.func q.cqTail q.cqPhase
      { id := argOf c, kind := 2, status := st, version := v, tag := tagOf c,
        mp := mpField s, resultId := r, oldId := o } :: s.out ∧
    (t.fq c.func).cqTail = BitVec.ofNat 12 ((q.cqTail.toNat + 1) % qSize q.cqLog2) ∧
    (t.fq c.func).fetched = q.fetched.erase c ∧ (t.fq c.func).running = [] ∧ (t.fq c.func).waiting = [] ∧
    (∀ f, f ≠ c.func → t.fq f = s.fq f) ∧ t = { s with queues := t.queues, out := t.out }) ∧
  (∀ (op : BitVec 8) (c : Cmd) (body : State → Reply × State) (s : State),
    (s.fq c.func).fetched.head? ≠ some c ∨ opOf c ≠ op →
    runCmd op c body s = s)

/-- A standby runs no command that is started as a posted command: it completes STANDBY and changes nothing else. For every posted command started on a unit that is standby or joining, whatever the command's own effect would be, the
answer is the one of a command that only completes with status 0x13 (STANDBY). (NOP, which a standby serves, does not
take this way.) -/
def Obligations.StandbyRefusesCommands : Prop :=
  ∀ (op : BitVec 8) (c : Cmd) (body : State → Reply × State) (s : State),
    standsBy s = true →
    runCmd op c body s = runCmd op c (fun u => (.done 0x13 0 0 0, u)) s

/-- A slave die measures its offset over its fixed routes, corrects only its own rate, and reports 1 s beyond 1 ns. For a slave die of the package with slaving enabled and links both ways, a time exchange with raw stamps t1 to t4
leaves TIM_OFFSET the half loop difference of the stamps, each corrected by the delay entry 18 + port of the port at
which the fixed route of the request or of the answer leaves or arrives; clears SLAVE_ERR where that is within 1 ns;
begins, goes on with or ends the time beyond 1 ns; and sets the die's rate to a value within 100 ps per us of die 0's
(the band is the model's, log 25), or holds it while the die re-measures. Its time is not stepped. With slaving
disabled, and for die 0, an exchange changes nothing. The end of re-measuring lets the rate move again. An offset
error of a slave whose offset has been beyond 1 ns, with SLAVE_ERR clear, lets the rest of the 1 s pass, sets
SLAVE_ERR and raises 0x0209 with TIM_OFFSET as its detail; one whose offset is not beyond 1 ns changes nothing.
Nothing else changes. -/
def Obligations.SlaveDiesFollowDieZero : Prop :=
  (∀ (die p1 p2 p3 p4 : Nat) (t1 t2 t3 t4 : BitVec 64) (s : State),
    die ≠ 0 →
    s.hasDie die = true →
    (s.die die).tim.slaveEn = true →
    leavingPort s die 0 = some p1 →
    arrivingPort s die 0 = some p2 →
    leavingPort s 0 die = some p3 →
    arrivingPort s 0 die = some p4 →
    let sent (e : DlyEntry) (t : BitVec 64) : BitVec 64 := t + BitVec.ofInt 64 e.txFix.toInt + e.cable.setWidth 64
    let got (e : DlyEntry) (t : BitVec 64) : BitVec 64 := t - BitVec.ofInt 64 e.rxFix.toInt - e.cable.setWidth 64
    let ofs : Int := ((sent (s.dlyOf die (18 + p1)) t1 - got (s.dlyOf 0 (18 + p2)) t2).toInt +
        (got (s.dlyOf die (18 + p4)) t4 - sent (s.dlyOf 0 (18 + p3)) t3).toInt) / 2
    ∃ rate : Int, (rate - (s.die 0).tim.freqAdj.toInt).natAbs ≤ 109951162 ∧ exec (.slaveTimeExchange die t1 t2 t3 t4) s =
      .next ({ s with free := s.free + 1 }.modDie die fun x => { x with tim := { x.tim with
        offset := BitVec.ofInt 64 ofs, slaveErr := x.tim.slaveErr && decide (65536 < ofs.natAbs),
        beyondSince := if 65536 < ofs.natAbs then some (x.tim.beyondSince.getD s.clk) else none,
        freqAdj := if x.tim.remeasuring then x.tim.freqAdj else BitVec.ofInt 40 rate } })) ∧
  (∀ (die : Nat) (t1 t2 t3 t4 : BitVec 64) (s : State),
    die = 0 ∨ (s.die die).tim.slaveEn = false →
    exec (.slaveTimeExchange die t1 t2 t3 t4) s = .next s) ∧
  (∀ (die : Nat) (s : State),
    exec (.slaveRemeasureDone die) s =
      .next (s.modDie die fun x => { x with tim := { x.tim with remeasuring := false } })) ∧
  (∀ (die : Nat) (since : BitVec 64) (s : State),
    die ≠ 0 →
    (s.die die).tim.slaveErr = false →
    (s.die die).tim.beyondSince = some since →
    exec (.slaveOffsetError die) s = .next (raise die 0x0209 (s.die die).tim.offset
      ((s.advance ((1000000000 * 65536 : Int) - (s.clk - since).toInt).toNat).modDie die fun x =>
        { x with tim := { x.tim with slaveErr := true } }))) ∧
  (∀ (die : Nat) (s : State),
    (s.die die).tim.beyondSince = none →
    exec (.slaveOffsetError die) s = .next s)

/-- An edge is judged against its prediction; windows, stops, 10 s of clean history and rearm move an input between its states. For each of the four inputs, an edge is corrected by the input's delay entry. The first edge after a stop is not
judged and starts the clean history; an edge within 2 ns of the prediction and 3 periods of the edge before it keeps
it; both rebase the prediction one period on at the frequency estimate. For an input that is not the phase source,
nothing else changes. A qualified or qualifying input that is no source in use, with time set, is put in DISQ_PHASE by
an edge more than 2 ns off, and its clean history restarts at the edge; only the servo, the time registers and the log
change. For an input with edges: a window within 2 ppm clears the count of bad ones, keeps the state and joins the
measurements of the last 16 s; with time set, the third bad window in a row disqualifies to DISQ_FREQ; a stop of an
input that has edges sets stopped and, unless it is in DISQ_FREQ, DISQ_STOP; 10 s of clean history qualify an input in
DISQ_PHASE, DISQ_STOP or QUALIFYING whose edges come within 3 periods of that instant. In each case only device time,
the servo, the time registers and the log change. A rearm of sources none of which is in DISQ_FREQ changes nothing;
one of an input in DISQ_FREQ alone, on a die with a structure, puts it in QUALIFYING with no bad windows and
clean_since at the rearm. -/
def Obligations.InputsAreJudgedStopQualifyAndRearm : Prop :=
  (∀ (src : Nat) (raw : BitVec 64) (s : State),
    2 ≤ src ∧ src ≤ 5 →
    (s.ref src).stopped = true ∨ ((rxStamp (s.dlyOf 0 (inputDly src)) raw - (s.ref src).predicted).toInt.natAbs ≤ 131072 ∧
      (rxStamp (s.dlyOf 0 (inputDly src)) raw - (s.ref src).lastEdge).toInt ≤ 3 * refPeriod src) →
    s.servo.phaseSrc.toNat ≠ src →
    let t := rxStamp (s.dlyOf 0 (inputDly src)) raw
    exec (.referenceEdge src raw) s = .next (s.modRef src fun r => { r with
      lastEdge := t, stopped := false, cleanSince := if r.stopped then t else r.cleanSince,
      predicted := t + BitVec.ofInt 64 ((refPeriod src : Int) + refPeriod src * r.freqEst / 10 ^ 12) })) ∧
  (∀ (src : Nat) (raw : BitVec 64) (s : State),
    2 ≤ src ∧ src ≤ 5 →
    (s.ref src).stopped = false →
    (s.ref src).state = .qualified ∨ (s.ref src).state = .qualifying →
    131072 < (rxStamp (s.dlyOf 0 (inputDly src)) raw - (s.ref src).predicted).toInt.natAbs →
    (rxStamp (s.dlyOf 0 (inputDly src)) raw - (s.ref src).lastEdge).toInt ≤ 3 * refPeriod src →
    s.servo.phaseSrc.toNat ≠ src →
    s.servo.timeSet = true →
    ∃ t, exec (.referenceEdge src raw) s = .next t ∧ (t.ref src).state = .disqPhase ∧ (t.ref src).stopped = false ∧
      (t.ref src).cleanSince = rxStamp (s.dlyOf 0 (inputDly src)) raw ∧ onlyTime s t) ∧
  (∀ (src : Nat) (ppt : Int) (s : State),
    2 ≤ src ∧ src ≤ 5 →
    (s.ref src).stopped = false →
    ppt.natAbs ≤ 2000000 →
    let late (r : Ref) := r.history.filter fun e => decide ((s.clk - e.1).toInt < (16 * unitsSec : Nat))
    exec (.frequencyWindowEnd src ppt) s = .next ((s.modRef src fun r => { r with freqEst := -ppt, badWindows := 0 }).modRef src
      fun r => { r with freqEst := -ppt, history := (s.clk, -ppt) :: late r })) ∧
  (∀ (src : Nat) (ppt : Int) (s : State),
    2 ≤ src ∧ src ≤ 5 →
    2000000 < ppt.natAbs →
    (s.ref src).badWindows = 2 →
    s.servo.timeSet = true →
    ∃ t, exec (.frequencyWindowEnd src ppt) s = .next t ∧ (t.ref src).state = .disqFreq ∧ (t.ref src).badWindows = 3 ∧
      (t.ref src).cleanSince = (s.ref src).lastEdge ∧ onlyTime s t) ∧
  (∀ (src : Nat) (s : State),
    2 ≤ src ∧ src ≤ 5 →
    (s.ref src).stopped = false →
    s.servo.timeSet = true →
    let due := (s.ref src).lastEdge + BitVec.ofNat 64 (3 * refPeriod src + 2 * unitsNs)
    ∃ t, exec (.referenceStop src) s = .next t ∧
      t.servo.refs = tset {} s.servo.refs src { s.ref src with
        stopped := true, state := if (s.ref src).state = .disqFreq then .disqFreq else .disqStop } ∧
      onlyTime (s.advanceToStamp 0 due) t) ∧
  (∀ (src : Nat) (s : State),
    2 ≤ src ∧ src ≤ 5 →
    (s.ref src).stopped = false →
    (s.ref src).state = .disqPhase ∨ (s.ref src).state = .disqStop ∨ (s.ref src).state = .qualifying →
    ((s.ref src).cleanSince + BitVec.ofNat 64 (10 * unitsSec) - (s.ref src).lastEdge).toInt ≤ 3 * refPeriod src →
    s.servo.timeSet = true →
    ∃ t, exec (.referenceQualified src) s = .next t ∧ (t.ref src).state = .qualified ∧ (t.ref src).stopped = false ∧
      onlyTime (s.advanceToStamp 0 ((s.ref src).cleanSince + BitVec.ofNat 64 (10 * unitsSec))) t) ∧
  (∀ (mask : BitVec 64) (s : State),
    (∀ c, c < 16 → mask.getLsbD c = true → (s.ref c).state ≠ .disqFreq) →
    exec (.timRefRearm mask) s = .next s) ∧
  (∀ (src : Nat) (s : State),
    2 ≤ src ∧ src ≤ 5 →
    s.off 0 = false →
    (s.ref src).state = .disqFreq →
    s.servo.timeSet = true →
    ∃ t, exec (.timRefRearm (1 <<< src)) s = .next t ∧ (t.ref src).state = .qualifying ∧ (t.ref src).badWindows = 0 ∧
      (t.ref src).cleanSince = s.now 0 ∧ onlyTime s t)

/-- PTP measures its master, judges the measurements, answers and sends by its port's state, and restarts with its configuration. With a PTP profile set, for an enabled port of it and a message of its domain and transport. In slave state with a
known path delay and the source qualified and not in use, a one-step Sync of the port's master is an offset
measurement: its arrival, corrected by the port's delay entry and the correction field, less its origin and the delay.
Within OUTLIER of the prediction it becomes the prediction and clears the count of outliers, and some value is noted
as the source's frequency (the prediction and the free frequency are the model's, log 133 and 25); beyond it, and
before the eighth, it is discarded and counted. In master state without peer delay, a delay request is answered: a
response with its sequence number and receipt enters the control queue of the port's subport. A message of another
domain or transport changes nothing. The announce timeout of a unit with MASTER_EN and no slave port makes every
enabled port that has heard no master a master. 10 s clean in slave state, before the announce timeout, qualify the
source; where time is set, no more than device time, the servo, the time registers and the log changes. A write of
TIM_PTP_CFG that leaves its fields as they are changes nothing; one that changes a field where the source is not in
slave state stores it with the reserved bits 0, and the ports restart. At a sync interval with one enabled port, in
master state, a Sync with the next sequence number enters its subport's control queue; with no enabled port nothing is
sent. Nothing else changes. -/
def Obligations.PtpSourceAndItsMessages : Prop :=
  (∀ (m : PtpMsg) (origin : BitVec 64) (c : PtpClock) (d : Int) (s : State),
    ptpOn s m.port = true →
    m.domain = ptpDomain s →
    m.transport = ptpTransport s →
    m.body = .sync false origin →
    (s.ptp m.port).state = .slave →
    (s.ptp m.port).best = some (m.sender, c) →
    (s.ptp m.port).delay = some d →
    (s.ref 1).present = true →
    (s.ref 1).state = .qualified →
    ((rxStamp (ptpDly s m.port) m.arrival - BitVec.ofInt 64 m.corr - origin).toInt - d - (s.ref 1).predicted.toInt).natAbs ≤
      unitsNs * fldN s.servo.ptpCfg 48 12 →
    s.servo.phaseSrc ≠ 1 →
    let ms := (rxStamp (ptpDly s m.port) m.arrival - BitVec.ofInt 64 m.corr - origin).toInt
    ∃ est : Int, exec (.ptpMessage m) s = .next (noteRate 1 est (({ s with free := s.free + 1 }.modPtp m.port fun x => { x with
      sync := none, last := ms }).modRef 1 fun r => { r with outliers := 0, predicted := BitVec.ofInt 64 (ms - d), lastEdge := s.now 0 }))) ∧
  (∀ (m : PtpMsg) (origin : BitVec 64) (c : PtpClock) (d : Int) (s : State),
    ptpOn s m.port = true →
    m.domain = ptpDomain s →
    m.transport = ptpTransport s →
    m.body = .sync false origin →
    (s.ptp m.port).state = .slave →
    (s.ptp m.port).best = some (m.sender, c) →
    (s.ptp m.port).delay = some d →
    (s.ref 1).present = true →
    (s.ref 1).state = .qualified →
    unitsNs * fldN s.servo.ptpCfg 48 12 <
      ((rxStamp (ptpDly s m.port) m.arrival - BitVec.ofInt 64 m.corr - origin).toInt - d - (s.ref 1).predicted.toInt).natAbs →
    (s.ref 1).outliers ≠ 7 →
    exec (.ptpMessage m) s = .next ((s.modPtp m.port fun x => { x with
      sync := none, last := (rxStamp (ptpDly s m.port) m.arrival - BitVec.ofInt 64 m.corr - origin).toInt }).modRef 1 fun r =>
        { r with outliers := r.outliers + 1 })) ∧
  (∀ (m : PtpMsg) (s : State),
    ptpOn s m.port = true →
    m.domain = ptpDomain s →
    m.transport = ptpTransport s →
    m.body = .delayReq →
    (s.ptp m.port).state = .master →
    ptpProfile s ≠ 2 →
    mediaSubport s (fldN (ptpByte s m.port) 3 3) (fldN (ptpByte s m.port) 0 3) = true →
    exec (.ptpMessage m) s = .next (s.modSub8 (fldN (ptpByte s m.port) 3 3) (fldN (ptpByte s m.port) 0 3) fun x => { x with
      control := x.control ++ [{ kind := .control, entry := s.clk, duken := some (.ptp m.port .delayResp m.seq
        (rxStamp (ptpDly s m.port) m.arrival - BitVec.ofInt 64 m.corr)) }] })) ∧
  (∀ (m : PtpMsg) (s : State),
    m.domain ≠ ptpDomain s ∨ m.transport ≠ ptpTransport s →
    exec (.ptpMessage m) s = .next s) ∧
  (∀ (s : State),
    slavePort s = none →
    bit s.servo.ptpCfg 6 = true →
    exec .announceReceiptTimeout s = .next (forAll ((ptpPortList s).filter fun p => (s.ptp p).best.isNone)
      (fun p s => s.modPtp p fun x => { x with state := .master }) s)) ∧
  (∀ (p : Nat) (s : State),
    (s.ref 1).present = true →
    (s.ref 1).state = .qualifying →
    slavePort s = some p →
    (s.clk - (s.ptp p).bestAt).toInt + ((s.ref 1).cleanSince + BitVec.ofNat 64 (10 * unitsSec) - s.now 0).toInt < annTimeout s →
    s.servo.timeSet = true →
    ∃ t, exec .ptpRequalify s = .next t ∧ (t.ref 1).state = .qualified ∧ (t.ref 1).present = true ∧
      onlyTime (s.advanceToStamp 0 ((s.ref 1).cleanSince + BitVec.ofNat 64 (10 * unitsSec))) t) ∧
  (∀ (v : BitVec 64) (s : State),
    v &&& 0x0FFFFFFF0FFFFFF7 = s.servo.ptpCfg →
    exec (.timPtpCfgWrite v) s = .next s) ∧
  (∀ (v : BitVec 64) (s : State),
    s.off 0 = false →
    v &&& 0x0FFFFFFF0FFFFFF7 ≠ s.servo.ptpCfg →
    (s.ref 1).present = false →
    exec (.timPtpCfgWrite v) s = .next ({ s with servo := { s.servo with
      ptpCfg := v &&& 0x0FFFFFFF0FFFFFF7, ptp := [] } }.modRef 1 fun r => { r with present := false, outliers := 0 })) ∧
  (∀ (p : Nat) (s : State),
    ptpPortList s = [p] →
    (s.ptp p).state = .master →
    mediaSubport s (fldN (ptpByte s p) 3 3) (fldN (ptpByte s p) 0 3) = true →
    exec (.ptpSyncInterval .sync) s = .next ((s.modPtp p fun x => { x with seq := x.seq + 1 }).modSub8
      (fldN (ptpByte s p) 3 3) (fldN (ptpByte s p) 0 3) fun x => { x with control := x.control ++ [{
        kind := .control, entry := s.clk, duken := some (.ptp p (.sync (!bit s.servo.ptpCfg 7)) ((s.ptp p).seq + 1) 0) }] })) ∧
  (∀ (k : PtpKind) (s : State),
    ptpPortList s = [] →
    exec (.ptpSyncInterval k) s = .next s)

/-- The SyncE port is judged by the rank of its quality level, its timeout and its 10 s; the bridge sends its own level. With SyncE enabled, its port's link up and time set: a level received that does not rank below MIN_QL leaves a
qualified port qualified and is noted with some frequency (free, log 25); one that ranks below puts the port in
DISQ_QL; no message for 5 s does the same; 10 s at or above MIN_QL, with less than 5 s since the last message then,
qualify a QUALIFYING port; beside this only device time, the servo, the time registers and the log change. The
transmit interval puts an ESMC message with some level into the control queue of the selected subport. The ranks of
the SSM codes are the model's (log 26). -/
def Obligations.SyncEQualityLevels : Prop :=
  (∀ (code : BitVec 4) (s : State),
    synceOn s = true →
    synceLink s = true →
    (s.ref 6).state = .qualified →
    qlRank (bit s.servo.synceCfg 6) code ≤ qlRank (bit s.servo.synceCfg 6) (synceMin s) →
    ∃ est : Int, exec (.esmcMessage code) s = .next (noteRate 6 est ({ s with free := s.free + 1 }.modRef 6 fun r => { r with
      ql := some code, silent := false, lastEdge := s.now 0 }))) ∧
  (∀ (code : BitVec 4) (s : State),
    synceOn s = true →
    synceLink s = true →
    (s.ref 6).state = .qualified ∨ (s.ref 6).state = .qualifying →
    qlRank (bit s.servo.synceCfg 6) (synceMin s) < qlRank (bit s.servo.synceCfg 6) code →
    s.servo.timeSet = true →
    ∃ t, exec (.esmcMessage code) s = .next t ∧ (t.ref 6).state = .disqQl ∧ (t.ref 6).ql = some code ∧ onlyTime s t) ∧
  (∀ (s : State),
    synceOn s = true →
    synceLink s = true →
    (s.ref 6).state = .qualified ∨ (s.ref 6).state = .qualifying →
    (s.ref 6).silent = false →
    s.servo.timeSet = true →
    ∃ t, exec .esmcTimeout s = .next t ∧ (t.ref 6).state = .disqQl ∧ (t.ref 6).ql = none ∧
      onlyTime (s.advanceToStamp 0 ((s.ref 6).lastEdge + BitVec.ofNat 64 (5 * unitsSec))) t) ∧
  (∀ (s : State),
    synceOn s = true →
    (s.ref 6).state = .qualifying →
    ((s.ref 6).cleanSince + BitVec.ofNat 64 (10 * unitsSec) - (s.ref 6).lastEdge).toInt < 5 * unitsSec →
    s.servo.timeSet = true →
    ∃ t, exec .synceRequalify s = .next t ∧ (t.ref 6).state = .qualified ∧ (t.ref 6).ql = (s.ref 6).ql ∧
      onlyTime (s.advanceToStamp 0 ((s.ref 6).cleanSince + BitVec.ofNat 64 (10 * unitsSec))) t) ∧
  (∀ (s : State),
    synceOn s = true →
    mediaSubport s (fldN s.servo.synceCfg 3 3) (fldN s.servo.synceCfg 0 3) = true →
    ∃ level, exec .esmcTransmit s = .next (State.modSub8 { s with free := s.free + 1 } (fldN s.servo.synceCfg 3 3)
      (fldN s.servo.synceCfg 0 3) fun x => { x with
        control := x.control ++ [{ kind := .control, entry := s.clk, duken := some (.esmc level) }] }))

/-- Device time is set once and stepped when commanded two MP ahead; the servo locks after 60 s and follows an active peer. On a bridge with a structure: a GO with INITIAL = 1 while TIME_SET is 1 only sets INITIAL and REJECT; while it is 0
and no trigger is armed, every die's device time becomes TIM_STEP_AMT ms, TIME_SET becomes 1 and STEP_DONE is set on
every die. A GO with INITIAL = 0 is rejected while TIME_SET is 0, less than 2 MP ahead of TIM_STEP_MP or of a pending
step; otherwise, on a unit that streams to no standby, the step is pending with amount and MP number and replaces a
pending one, and nothing else changes. When a pending step backwards or of 0 is applied at a boundary at which the MP
before it has ended or MP counting has not begun, every die's time, moved to the boundary, jumps by the amount,
nothing is pending any more, and STEP_DONE is set on every die. A servo in ACQUIRING with a phase source and an offset
within 500 ps is LOCKED once its clock has run 60 s from the last offset beyond 500 ps, with STATE_CHG set on die 0
and device time moved by what was left of the 60 s. On a standby with time set whose servo is locked or acquiring, an
exchange that measures an offset within 500 ps makes Adit (code 7) the source of phase and frequency, notes some
frequency (free, log 25) and leaves the measured offset in die 0's TIM_OFFSET; nothing else changes. -/
def Obligations.TimeIsSetSteppedAndSteered : Prop :=
  (∀ (s : State),
    s.off 0 = false →
    s.servo.timeSet = true →
    exec .stepGoInitial s = .next { s with servo := { s.servo with initial := true, stepReject := true } }) ∧
  (∀ (s : State),
    s.off 0 = false →
    s.servo.timeSet = false →
    s.dies.all (fun x => x.tim.trig.isEmpty) = true →
    ∃ t, exec .stepGoInitial s = .next t ∧ t.servo.timeSet = true ∧ t.servo.stepReject = false ∧
      ∀ d, s.hasDie d = true → t.time d = unitsMp * s.servo.stepAmt.toNat % timeModulus ∧ (t.die d).tim.event.getLsbD 2 = true) ∧
  (∀ (s : State),
    s.off 0 = false →
    s.servo.timeSet = false ∨ s.servo.stepMp.toNat < s.mpNo 0 + 2 ∨
      (s.servo.stepPending.any fun p => decide (p.2.toNat < s.mpNo 0 + 2)) = true →
    exec .stepGo s = .next { s with servo := { s.servo with initial := false, stepReject := true } }) ∧
  (∀ (s : State),
    s.off 0 = false →
    s.servo.timeSet = true →
    s.mpNo 0 + 2 ≤ s.servo.stepMp.toNat →
    (s.servo.stepPending.any fun p => decide (p.2.toNat < s.mpNo 0 + 2)) = false →
    s.pair.role ≠ .active →
    exec .stepGo s = .next { s with servo := { s.servo with
      initial := false, stepReject := false, stepPending := some (s.servo.stepAmt, s.servo.stepMp) } }) ∧
  (∀ (amt mp : BitVec 64) (s : State),
    s.servo.stepPending = some (amt, mp) →
    amt.toInt ≤ 0 →
    s.endedMp = some mp.toNat ∨ s.lastMp = none →
    ∃ t, exec .stepApply s = .next t ∧ t.servo.stepPending = none ∧
      ∀ d, s.hasDie d = true → (t.die d).tim.event.getLsbD 2 = true ∧
        t.time d = ((((s.advanceTo 0 (unitsMp * mp.toNat)).time d : Int) + unitsMp * amt.toInt) % (timeModulus : Int)).toNat) ∧
  (∀ (s : State),
    s.servo.state = .acquiring →
    s.servo.phaseSrc ≠ 0 →
    (s.die 0).tim.offset.toInt.natAbs ≤ 32 →
    let u := s.advance ((60 * unitsSec : Int) - (s.clk - s.servo.lockSince).toInt).toNat
    exec .servoLock s = .next ({ u with servo := { s.servo with
      state := .locked, lockSince := u.clk, holdSince := none } }.modDie 0 fun x => { x with tim := { x.tim with
        event := x.tim.event ||| 1 } })) ∧
  (∀ (t1 t2 t3 t4 : BitVec 64) (s : State),
    standsBy s = true →
    s.servo.timeSet = true →
    s.servo.state = .acquiring ∨ s.servo.state = .locked →
    (twoWay (s.dlyOf 0 (((List.range 8).find? fun i => (s.die 0).ing.adit.getLsbD i).getD 0)) {} {}
      (s.dlyOf 0 (((List.range 8).find? fun i => (s.die 0).ing.adit.getLsbD i).getD 0)) t1 t2 t3 t4).natAbs ≤ 32 →
    let e := s.dlyOf 0 (((List.range 8).find? fun i => (s.die 0).ing.adit.getLsbD i).getD 0)
    ∃ est : Int, exec (.aditTimeExchange t1 t2 t3 t4) s =
      .next ((noteRate 7 est { s with free := s.free + 1, servo := { s.servo with phaseSrc := 7, freqSrc := 7 } }).modDie 0 fun x =>
        { x with tim := { x.tim with offset := BitVec.ofInt 64 (twoWay e {} {} e t1 t2 t3 t4) } }))

/-- TIM_SNAP latches the time, pops remove the oldest entry, capture units stamp every DIV-th selected edge, PPS_OUT pulses at a whole second. On a die with a structure: TIM_SNAP latches the die's SEC and, below it, NS with FRAC. TXS_POP and CAP_POP remove the
oldest entry of their queue, none where it is empty. A change of a capture unit's configuration takes the fields,
empties its FIFO and restarts its divider; a write of what stands there changes nothing. A selected edge of a present
source whose pulse is not shorter than the filter is only counted before the DIV-th, and the DIV-th is stamped,
corrected by the delay entry, with its direction, into a FIFO with room; into a full one it is dropped, counted in the
overflow, with CAP_OVF and error 0x0206. An edge of an absent source, a pulse shorter than the filter and an edge that
is not selected change nothing. With PPS_OUT enabled, a rise is driven for the first whole second of device time whose
instant of driving, by delay entry 12, is still to come, and a fall for WIDTH later, held to 100 ns to 900 ms; device
time moves to the rise's driving. With it disabled nothing is driven. Nothing else changes. -/
def Obligations.LatchesAndStampQueues : Prop :=
  (∀ (die : Nat) (s : State),
    s.off die = false →
    exec (.timSnap die) s = .next (s.modDie die fun x => { x with tim := { x.tim with
      snapSec := BitVec.ofNat 48 (s.time die / unitsSec), snapNsf := BitVec.ofNat 48 (s.time die % unitsSec) } })) ∧
  (∀ (die q : Nat) (s : State),
    s.off die = false →
    exec (.timTxsPop die q) s = .next (s.modDie die fun x => { x with tim := { x.tim with
      txs := tset {} x.tim.txs q { tget {} x.tim.txs q with entries := (tget {} x.tim.txs q).entries.tail } } })) ∧
  (∀ (die c : Nat) (s : State),
    s.off die = false →
    exec (.timCapPop die c) s = .next (s.modDie die fun x => { x with tim := { x.tim with
      cap := tset {} x.tim.cap c { tget {} x.tim.cap c with fifo := (tget {} x.tim.cap c).fifo.tail } } })) ∧
  (∀ (die c : Nat) (v : BitVec 64) (s : State),
    s.off die = false →
    ((s.capUnit die c).src, (s.capUnit die c).edge, (s.capUnit die c).div, (s.capUnit die c).filter) ≠
      (v.extractLsb' 0 4, v.extractLsb' 4 2, v.extractLsb' 6 16, v.extractLsb' 22 5) →
    exec (.timCapCfgWrite die c v) s = .next (s.modCap die c fun u => { u with
      src := v.extractLsb' 0 4, edge := v.extractLsb' 4 2, div := v.extractLsb' 6 16, filter := v.extractLsb' 22 5,
      fifo := [], count := 0 })) ∧
  (∀ (die unit : Nat) (raw : BitVec 64) (rising : Bool) (widthNs : Nat) (s : State),
    captureSrcOk die (s.capUnit die unit).src.toNat = true →
    2 * min (s.capUnit die unit).filter.toNat 15 ≤ widthNs →
    (s.capUnit die unit).edge.getLsbD (if rising then 0 else 1) = true →
    let c := s.capUnit die unit
    let t := match captureDly c.src.toNat with
      | some k => rxStamp (s.dlyOf 0 k) raw
      | none => raw
    exec (.captureEdge die unit raw rising widthNs) s = .next
      (if c.count + 1 < max c.div.toNat 1 then s.modCap die unit fun u => { u with count := c.count + 1 }
       else if c.fifo.length < 16 then
         s.modCap die unit fun u => { u with count := 0, fifo := c.fifo ++ [(t, if rising then 1 else 2)] }
       else raise die 0x0206 (BitVec.ofNat 64 unit) (timEv die 5
         (s.modCap die unit fun u => { u with count := 0, ovf := u.ovf + 1 })))) ∧
  (∀ (die unit : Nat) (raw : BitVec 64) (rising : Bool) (widthNs : Nat) (s : State),
    captureSrcOk die (s.capUnit die unit).src.toNat = false ∨ widthNs < 2 * min (s.capUnit die unit).filter.toNat 15 ∨
      (s.capUnit die unit).edge.getLsbD (if rising then 0 else 1) = false →
    exec (.captureEdge die unit raw rising widthNs) s = .next s) ∧
  (∀ (s : State),
    bit s.servo.ppsCfg 63 = true →
    ∃ sec : Nat,
      let e := s.dlyOf 0 12
      let lead : Int := e.txFix.toInt + e.cable.toNat
      let rise := stampOf (unitsSec * sec)
      let fall := stampOf (unitsSec * sec + unitsNs * clampN 100 900000000 (fldN s.servo.ppsCfg 0 30))
      (s.time 0 : Int) < unitsSec * sec - lead ∧ (unitsSec * sec : Int) - lead ≤ s.time 0 + unitsSec ∧
      exec .ppsOutPulse s = .next (emit (.pps false (driveAt e fall)) (emit (.pps true (driveAt e rise))
        { s.advanceTo 0 ((unitsSec * sec : Int) - lead).toNat with pps := some fall }))) ∧
  (∀ (s : State),
    bit s.servo.ppsCfg 63 = false →
    exec .ppsOutPulse s = .next s)

/-- Arming takes, rejects or finds late a trigger; disarming keeps its flags; at its time a trigger with target 0 fires. On a die with a structure, an arm write takes target, argument, late mode and the time in TIM_TRIG_TIME and clears
FIRED, LATE and BAD_TIME: at least 1 µs ahead it arms; with TARGET 6 or 7, or an instant off the MP boundaries for
targets 1, 2, 4 and 5, it is rejected with BAD_TIME, disarmed; less than 1 µs ahead it is late: with LATE_MODE it is
cancelled with LATE, TRIG and 0x0207, and without it a target 0 fires with FIRED, LATE, TRIG and 0x0207. A disarm
write whose armed time has not come disarms and keeps the flags. A trigger with target 0 that reaches its time fires:
FIRED and TRIG, disarmed, device time at its stamp. Nothing else changes. -/
def Obligations.TriggersArmFireAndDisarm : Prop :=
  (∀ (die n : Nat) (v : BitVec 64) (s : State),
    s.off die = false →
    fld v 2 3 ≠ (6 : BitVec 3) ∧ fld v 2 3 ≠ (7 : BitVec 3) →
    (mpTarget (fld v 2 3) && !onBoundary (instantOf s die (s.trig die n).time)) = false →
    (unitsUs : Int) ≤ stampDiff (s.trig die n).time (s.now die) →
    exec (.triggerArm die n v) s = .next ((s.modTrig die n fun x => { x with
      lateMode := bit v 1, target := fld v 2 3, arg := fld v 8 8, fired := false, late := false, badTime := false,
      armed := none }).modTrig die n fun x => { x with armed := some (s.trig die n).time })) ∧
  (∀ (die n : Nat) (v : BitVec 64) (s : State),
    s.off die = false →
    fld v 2 3 = (6 : BitVec 3) ∨ fld v 2 3 = (7 : BitVec 3) ∨
      (mpTarget (fld v 2 3) && !onBoundary (instantOf s die (s.trig die n).time)) = true →
    exec (.triggerArm die n v) s = .next ((s.modTrig die n fun x => { x with
      lateMode := bit v 1, target := fld v 2 3, arg := fld v 8 8, fired := false, late := false, badTime := false,
      armed := none }).modTrig die n fun x => { x with badTime := true })) ∧
  (∀ (die n : Nat) (v : BitVec 64) (s : State),
    s.off die = false →
    fld v 2 3 = (0 : BitVec 3) →
    (s.trig die n).time ≠ 0 →
    stampDiff (s.trig die n).time (s.now die) < (unitsUs : Int) →
    let u := s.modTrig die n fun x => { x with
      lateMode := bit v 1, target := 0, arg := fld v 8 8, fired := false, late := false, badTime := false, armed := none }
    exec (.triggerArm die n v) s = .next (raise die 0x0207 (BitVec.ofNat 64 (n % 16)) (timEv die 3
      (u.modTrig die n fun x => if bit v 1 then { x with late := true }
        else { x with armed := none, fired := true, late := true })))) ∧
  (∀ (die n : Nat) (v : BitVec 64) (s : State),
    s.off die = false →
    ((s.trig die n).armed.any fun t => decide (stampDiff t (s.now die) ≤ 0)) = false →
    exec (.triggerDisarm die n v) s = .next (s.modTrig die n fun x => { x with
      armed := none, lateMode := bit v 1, target := fld v 2 3, arg := fld v 8 8 })) ∧
  (∀ (die n : Nat) (at_ : BitVec 64) (s : State),
    (s.trig die n).armed = some at_ →
    (s.trig die n).target = 0 →
    s.hasDie die = true →
    exec (.triggerFire die n) s = .next (timEv die 3 ((s.advanceToStamp die at_).modTrig die n fun x => { x with
      armed := none, fired := true })))

/-- BOOT_LOAD checks the image that the pointer names; with training ended it is loaded on every die. In a state right after reset (no boot step done, die 0 without structure) whose bank pointer names no trial and that
has no armed trigger: the PAIR_ALIVE_OUT output starts, the links in routing come up, the sealed key slots of the
flash come into die 0's store, and the image of the named bank is checked. Where the checks pass and DRAM training has
not ended, the checked image waits at step 5 and nothing else changes; where training has ended and every die's
semantic checks pass, the structure of the image is loaded on every die. Where the checks fail on both banks, no boot
step stands and every die stays without a structure. A second BOOT_LOAD with steps done changes nothing. Whether a
signature verifies is left open (log 14), so each outcome is stated under its own result of the checks. When a die's
training ends with both channels at 6,400 MT/s and no boot waits, only that die's DRAM registers take the result, with
the capacity of the two channels. With channel 0 slower and channel 1 at full speed, DRC_EVENT.SPEED is set and error
0x0F03 with channel 0 is raised as well. Where a checked image waits, no trigger is armed, the last die's training
ends and every die's semantic checks pass, the image's structure is loaded on every die. -/
def Obligations.BootLoadsAStructureAfterTraining : Prop :=
  (∀ (s : State),
    s.bootStep = 0 →
    (s.die 0).str.state = .none →
    s.dies.all (fun x => decide (x.str.state = .none)) = true →
    (bankPtr s).trial = false →
    s.dies.all (fun x => x.tim.trig.isEmpty) = true →
    let w : State := { s with inReset := none, bootStep := 1, bootSecond := false, pair := { s.pair with aliveOut := true } }
    let u := (w.mapDies fun _ x => trainLinks x).modDie 0
      fun x => { x with cip := { x.cip with slots := (tget ({} : Flash) s.flash 0).sealed } }
    ∃ t, exec .bootLoad s = .next t ∧
      (∀ img, checkBank u (bankPtr s).bank = .ok img → allTrained s = false → t = { u with bootStep := 5, bootImage := some img }) ∧
      (∀ img, checkBank u (bankPtr s).bank = .ok img → allTrained s = true → checkAllDies u img u.dieList = none → loadedFrom img t) ∧
      (∀ e e', checkBank u (bankPtr s).bank = .error e →
        checkBank { rejectBoot e u with bootSecond := true, bootImage := none } (1 - (bankPtr s).bank) = .error e' →
        t.bootStep = 0 ∧ ∀ d, (t.die d).str.state = .none)) ∧
  (∀ (s : State),
    s.bootStep ≠ 0 →
    exec .bootLoad s = .next s) ∧
  (∀ (die : Nat) (r : Training) (s : State),
    s.bootImage = none →
    r.ch0 = some 0 →
    r.ch1 = some 0 →
    exec (.dramTrainingDone die r) s = .next (s.modDie die fun x => { x with drc := { x.drc with
      trained := true, chOk := 3, speed0 := 0, speed1 := 0, device := r.device, twoRanks := r.twoRanks, twoCh := true,
      gib := BitVec.ofNat 8 (2 * channelGib r) } })) ∧
  (∀ (die : Nat) (r : Training) (v : BitVec 2) (s : State),
    s.bootImage = none →
    r.ch0 = some v →
    v ≠ 0 →
    r.ch1 = some 0 →
    exec (.dramTrainingDone die r) s = .next (drcEv die 5 (raiseFrom die dukenCheck 0x0F03 0 (s.modDie die fun x =>
      { x with drc := { x.drc with
        trained := true, chOk := 3, speed0 := v, speed1 := 0, device := r.device, twoRanks := r.twoRanks, twoCh := true,
        gib := BitVec.ofNat 8 (2 * channelGib r) } })))) ∧
  (∀ (die : Nat) (r : Training) (img : ImageDef) (s : State),
    s.bootImage = some img →
    r.ch0 = some 0 →
    r.ch1 = some 0 →
    (s.dieList.all fun d => d = die || (s.die d).drc.trained) = true →
    s.dies.all (fun x => x.tim.trig.isEmpty) = true →
    let u := s.modDie die fun x => { x with drc := trainedDrc r x.drc }
    ∃ t, exec (.dramTrainingDone die r) s = .next t ∧ (checkAllDies u img s.dieList = none → loadedFrom img t))

/-- In a 1 µs window a lone class is granted its allocation, the reserve and what others leave unused; the rest waits. For a window in which one class from 0 to 5 asks for n bytes, or has n bytes waiting from the window before: it is
granted the smaller of n and all eight entries of DIE_BW_ALLOC together (100 bytes a window for each unit of 100
MB/s); the granted bytes are counted as moved; what is not granted waits for the next window, and DIE_BW_OVER of the
class counts up exactly where something waits; nothing else changes but the record of the window. (Class 6, whose
grant drains the trace buffer, takes the same way.) -/
def Obligations.BandwidthWindowGrants : Prop :=
  ∀ (die c n : Nat) (wait demand : List (Nat × Nat)) (s : State),
    c < 6 →
    (s.die die).drc.bwWait = wait →
    wait ++ demand = [(c, n)] →
    let alloc (k : Nat) : Nat := 100 * (tget 0 (s.die die).str.bwAlloc k).toNat
    let total := ((List.range 8).map alloc).sum
    exec (.bwWindow die demand) s = .next (s.modDie die fun x => { x with
      str := { x.str with
        bwMoved := (List.range 7).foldl (fun t k => tmod 0 t k (· + if k = c then min n total else 0)) x.str.bwMoved
        bwOver := if total < n then bump x.str.bwOver c else x.str.bwOver }
      drc := { x.drc with
        bwWait := if total < n then [(c, n - total)] else []
        bwWindow := (List.range 7).foldl (fun t k => tset 0 t k (if k = c then min n total else 0)) [] } })

/-- A failing Ubhan lane is replaced by a spare; without one the port leaves routing at both ends and capacities fall. For a routed port of a die of the package: while fewer than two spare lanes are used, one more is used and error
0x100A is raised, and nothing else changes. With both spares used, the port loses a lane where it is up (at the end
that the command names only: the model's choice, log 132) and leaves routing, and so does the port at its far end; the
leg and conference capacities of both ends' dies do not rise, and no die changes otherwise but that it may begin to
re-measure its offset. A failure at a port that is not in routing changes nothing. -/
def Obligations.LaneFailureTakesASpare : Prop :=
  (∀ (die port : Nat) (s : State),
    s.hasDie die = true →
    port < 3 →
    (tget ({} : Ubh) (s.die die).ubh port).routed = true →
    (tget ({} : Ubh) (s.die die).ubh port).spares.toNat < 2 →
    ∃ detail, exec (.ubhanLaneFailure die port) s = .next (raiseFrom die dukenCheck 0x100A detail
      ({ s with free := s.free + 1 }.modDie die fun x => { x with ubh := tmod {} x.ubh port fun u => { u with spares := u.spares + 1 } }))) ∧
  (∀ (die port : Nat) (s : State),
    s.hasDie die = true →
    s.hasDie (ubhPeer s die port) = true →
    port < 3 →
    (tget ({} : Ubh) (s.die die).ubh port).routed = true →
    2 ≤ (tget ({} : Ubh) (s.die die).ubh port).spares.toNat →
    ∃ t, exec (.ubhanLaneFailure die port) s = .next t ∧
      tget ({} : Ubh) (t.die die).ubh port = { tget ({} : Ubh) (s.die die).ubh port with
        routed := false
        lanes := (tget ({} : Ubh) (s.die die).ubh port).lanes - if (tget ({} : Ubh) (s.die die).ubh port).up then 1 else 0
        reroute := (tget ({} : Ubh) (t.die die).ubh port).reroute } ∧
      (tget ({} : Ubh) (t.die (ubhPeer s die port)).ubh port).routed = false ∧
      (∀ e, e = die ∨ e = ubhPeer s die port →
        (t.die e).cap.legs ≤ (s.die e).cap.legs ∧ (t.die e).cap.confs ≤ (s.die e).cap.confs) ∧
      t = { s with dies := t.dies, out := t.out, free := t.free } ∧
      ∀ e, e ≠ die → e ≠ ubhPeer s die port →
        t.die e = { s.die e with tim := { (s.die e).tim with remeasuring := (t.die e).tim.remeasuring } }) ∧
  (∀ (die port : Nat) (s : State),
    (tget ({} : Ubh) (s.die die).ubh port).routed = false →
    exec (.ubhanLaneFailure die port) s = .next s)

/-- A restructure of one die is accepted or refused, checked, drains, quiesces and resumes as Table 3.7 says. A GO is refused with GO_BUSY, and nothing else changes, while a restructure is in progress or an update is ARMED; it
ends EARLY (RESULT 6) where the activation MP lies less than 1,000 MP ahead; otherwise GO_BUSY clears and BUSY is set
with the die, the MP of the GO and the activation MP at step 1. The check rejects an image whose checks fail (RESULT
2, the code logged and in LAST_ERR), ends CAPACITY (RESULT 3) where the other dies lack room for the die's legs or
conferences, and else accepts the image at step 2. At t0 + 500 the die drains. At A - 2 it ends LATE (RESULT 4) where
it still homes an open leg or conference; otherwise target 5 is armed for A. At A + 200 the lead trigger of the die,
armed for target 2, fires with FIRED and TRIG: MP counting resumes, the die is RUNNING from this instant and no longer
drains, BUSY clears and RESULT is DONE (1). Each step changes nothing else but device time. -/
def Obligations.RestructureRunsItsSteps : Prop :=
  (∀ (v : BitVec 64) (s : State),
    s.restr.busy = true ∨ s.upd.state = .armed →
    exec (.restructureGo v) s = .next { s with restr := { s.restr with goBusy := true } }) ∧
  (∀ (v : BitVec 64) (s : State),
    s.restr.busy = false →
    s.upd.state ≠ .armed →
    let early := { s with restr := { s.restr with dieReg := v.extractLsb' 0 3, result := 6 } }
    let accepted := { s with restr := { s.restr with
      dieReg := v.extractLsb' 0 3, goBusy := false, die := v.extractLsb' 0 3, t0 := BitVec.ofNat 64 (s.mpNo 0),
      act := s.restr.mp, busy := true, result := 0, step := 1, image := none } }
    exec (.restructureGo v) s = .next (if s.restr.mp.toNat < s.mpNo 0 + 1000 then early else accepted)) ∧
  (∀ (s : State),
    s.restr.busy = true →
    s.restr.step = 1 →
    s.hasDie s.restr.die.toNat = true →
    let d := s.restr.die.toNat
    let bytes := rdBuffer s s.restr.addr.toNat (min (leNat (rdBuffer s (s.restr.addr.toNat + 0x20) 4)) 0x1000000)
    let room (f : State → Nat → Nat) : Nat := ((s.dieList.filter (· ≠ d)).map (f s)).foldl (· + ·) 0
    ∃ t, exec .restructureCheckDone s = .next t ∧
      (∀ e, checkImage s (some d) bytes = .error e → t = endRestruct 2 (raise 0 e.1 (BitVec.ofNat 64 e.2)
        (s.modDie d fun x => { x with str := { x.str with lastErr := e.1 } }))) ∧
      (∀ img, checkImage s (some d) bytes = .ok img → checkAllDies s img [d] = none → restructDiffers s d img = none →
        t = if room freeLegs < (s.openLegs d).length ∨ room freeConfs < (s.openConfs d).length then endRestruct 3 s
            else { s with restr := { s.restr with step := 2, image := some img } })) ∧
  (∀ (s : State),
    s.restr.busy = true →
    s.restr.step = 2 →
    exec .restructureDrainStart s = .next ({ s.advanceToStamp 0 (mpStamp (s.restr.t0.toNat + 500)) with
      restr := { s.restr with step := 3 } }.modDie s.restr.die.toNat fun x => { x with str := { x.str with draining := true } })) ∧
  (∀ (s : State),
    s.restr.busy = true →
    s.restr.step = 3 →
    let u := s.advanceToStamp 0 (mpStamp (s.restr.act.toNat - 2))
    exec .restructureLateCheck s = .next
      (if (s.openLegs s.restr.die.toNat).isEmpty && (s.openConfs s.restr.die.toNat).isEmpty then
         { u with restr := { s.restr with step := 6 } }.modDie s.restr.die.toNat fun x => { x with tim := { x.tim with
           trig := tset {} x.tim.trig leadTrigger
             { time := mpStamp s.restr.act.toNat, armed := some (mpStamp s.restr.act.toNat), target := 5 } } }
       else { u with restr := { s.restr with busy := false, result := 4, step := 0, image := none } }.modDie s.restr.die.toNat
         fun x => { x with str := { x.str with draining := false } })) ∧
  (∀ (at_ : BitVec 64) (s : State),
    s.restr.busy = true →
    s.restr.step = 7 →
    s.hasDie s.restr.die.toNat = true →
    (s.die s.restr.die.toNat).str.state = .loaded →
    s.servo.timeSet = true →
    (s.trig s.restr.die.toNat leadTrigger).armed = some at_ →
    (s.trig s.restr.die.toNat leadTrigger).target = 2 →
    let d := s.restr.die.toNat
    let u := s.advanceToStamp 0 (mpStamp (s.restr.act.toNat + 200))
    exec .restructureResume s = .next ((timEv d 3 (State.modTrig { u with
      restr := { s.restr with busy := false, result := 1, step := 0, image := none } } d leadTrigger fun x => { x with
        armed := none, fired := true })).modDie d fun x => { x with
          counting := true, str := { x.str with state := .running, draining := false, runAt := u.now d } }))

/-- Host writes of table entries and staging slices land, or are discarded with the error that R87, R96 and R407 name. On an active unit with a structure, a host write that lies in one leg half stores exactly its bytes where the leg
exists, the function owns it, and the half is the unlocked shadow half; a write to the live half or to a shadow half
locked by a doorbell or a move is discarded with error 0x0401 and the offset, one by a VF to a leg that is not its own
with 0x0402 (alone: the order is the model's, log 137). A staging write inside the slice and the function's window
stores its bytes in the die's DRAM, outside the window it is discarded with 0x0402; a staging read returns the bytes
stored there. A PF write of LEG_CONF_OWNER takes effect while the conference is closed and raises 0x0403 while it is
open; a VF's write of it finds no register (a range error). Nothing else changes. -/
def Obligations.HostWritesReachTheTables : Prop :=
  (∀ (func off : Nat) (bytes : List Byte) (s : State),
    standsBy s = false →
    (s.die 0).str.state ≠ .none →
    off < 0x400000 →
    bytes ≠ [] →
    bytes.length ≤ 256 - off % 256 →
    legIdOk s (BitVec.ofNat 16 (off / 512)) = true →
    func = 0 ∨ (s.leg (BitVec.ofNat 16 (off / 512))).alloc = some func →
    (s.leg (BitVec.ofNat 16 (off / 512))).live ≠ decide (off / 256 % 2 = 1) →
    bellPending s false (BitVec.ofNat 16 (off / 512)) = false ∧ moveLocks s false (BitVec.ofNat 16 (off / 512)) (s.mpNo 0) = false →
    exec (.bar2TableWrite func off bytes) s = .next { s with tables := wrBytes s.tables off bytes }) ∧
  (∀ (func off : Nat) (bytes : List Byte) (s : State),
    standsBy s = false →
    (s.die 0).str.state ≠ .none →
    off < 0x400000 →
    bytes ≠ [] →
    bytes.length ≤ 256 - off % 256 →
    legIdOk s (BitVec.ofNat 16 (off / 512)) = true →
    func = 0 ∨ (s.leg (BitVec.ofNat 16 (off / 512))).alloc = some func →
    (s.leg (BitVec.ofNat 16 (off / 512))).live = decide (off / 256 % 2 = 1) ∨
      bellPending s false (BitVec.ofNat 16 (off / 512)) = true ∨ moveLocks s false (BitVec.ofNat 16 (off / 512)) (s.mpNo 0) = true →
    exec (.bar2TableWrite func off bytes) s =
      .next (raiseFrom (legDie (BitVec.ofNat 16 (off / 512))) (hostReq func) 0x0401 (BitVec.ofNat 64 off) s)) ∧
  (∀ (func off : Nat) (bytes : List Byte) (s : State),
    standsBy s = false →
    (s.die 0).str.state ≠ .none →
    off < 0x400000 →
    bytes ≠ [] →
    bytes.length ≤ 256 - off % 256 →
    legIdOk s (BitVec.ofNat 16 (off / 512)) = true →
    func ≠ 0 ∧ (s.leg (BitVec.ofNat 16 (off / 512))).alloc ≠ some func →
    exec (.bar2TableWrite func off bytes) s =
      .next (raiseFrom (legDie (BitVec.ofNat 16 (off / 512))) (hostReq func) 0x0402 (BitVec.ofNat 64 off) s)) ∧
  (∀ (func d o : Nat) (bytes : List Byte) (s : State),
    d < 8 →
    o + bytes.length ≤ 0x1FC00000 →
    bytes ≠ [] →
    stageIn s d (o + bytes.length - 1) = true →
    let off := 0x2000000 + 0x1FC00000 * d + o
    exec (.bar2StagingWrite func off (.write bytes)) s = .next
      (if stageMay s func o && stageMay s func (o + bytes.length - 1) then
         s.modDie d fun x => { x with dram := wrBytes x.dram (0x100000 * (s.die d).capr.stageBase.toNat + o) bytes }
       else raiseFrom d (hostReq func) 0x0402 (BitVec.ofNat 64 off) s)) ∧
  (∀ (func d o n : Nat) (s : State),
    d < 8 →
    0 < n →
    o + n ≤ 0x1FC00000 →
    stageIn s d (o + n - 1) = true →
    stageMay s func o = true →
    stageMay s func (o + n - 1) = true →
    exec (.bar2StagingWrite func (0x2000000 + 0x1FC00000 * d + o) (.read n)) s =
      .next { s with readData := rdBytes (s.die d).dram (0x100000 * (s.die d).capr.stageBase.toNat + o) n }) ∧
  (∀ (die i : Nat) (v : BitVec 64) (s : State),
    s.hasDie die = true →
    s.off die = false →
    exec (.legConfOwnerWrite 0 die i v) s = .next
      (if (s.confLive (confId die i)).enable then raiseFrom die (hostReq 0) 0x0403 ((confId die i).setWidth 64) s
       else s.modDie die fun x => { x with lblk := { x.lblk with confOwner := tset 0 x.lblk.confOwner i (v.extractLsb' 0 6) } })) ∧
  (∀ (func die i : Nat) (v : BitVec 64) (s : State),
    s.off die = false →
    func ≠ 0 ∨ s.hasDie die = false →
    exec (.legConfOwnerWrite func die i v) s = .next (rangeError 0 func s))

/-- A doorbell pends for the first boundary at least 20 us ahead, and there its entry is adopted or refused with a status. A doorbell for a leg of the package with none pending there pends: for the number of the first MP boundary at least 20
us after its arrival on the home die, or, with HOLD, for no boundary; nothing else changes. One that finds another
pending waits as BUSY behind it. At boundary b, where it is the only doorbell due in the package, the leg's only one,
not BUSY and not late: it completes BUSY (5) where a move locks the leg, else with the status of the first failed
check of Table 4.8, judged as if its half were live, and no longer pends; or, all checks passed, the shadow half
becomes live at that boundary before it completes OK. -/
def Obligations.DoorbellsPendAndAreAdopted : Prop :=
  (∀ (func : Nat) (v : BitVec 64) (s : State),
    standsBy s = false →
    v.getLsbD 16 = false →
    legIdOk s (v.extractLsb' 0 16) = true →
    (s.leg (v.extractLsb' 0 16)).db = none ∧ (s.leg (v.extractLsb' 0 16)).busyDbs = [] →
    let l : BitVec 16 := v.extractLsb' 0 16
    let first := (s.time (legDie l) + 20 * unitsUs + unitsMp - 1) / unitsMp
    let bell : Doorbell :=
      { func := func, tag := v.extractLsb' 48 16, version := v.extractLsb' 32 16, hold := v.getLsbD 17
        atMp := if v.getLsbD 17 then none else some (BitVec.ofNat 64 first)
        late := !v.getLsbD 17 && decide (unitsMp < s.time (legDie l) % unitsMp + 20 * unitsUs)
        bad := !(v &&& 0xFFFC0000 == 0) }
    exec (.tableDoorbell func v) s = .next (s.modLeg l fun x => { x with db := some bell })) ∧
  (∀ (func : Nat) (v : BitVec 64) (s : State),
    standsBy s = false →
    v.getLsbD 16 = false →
    legIdOk s (v.extractLsb' 0 16) = true →
    (s.leg (v.extractLsb' 0 16)).db.isSome = true ∨ (s.leg (v.extractLsb' 0 16)).busyDbs ≠ [] →
    ∃ b : Doorbell, b.busy = true ∧ b.func = func ∧ b.tag = v.extractLsb' 48 16 ∧
      exec (.tableDoorbell func v) s = .next (s.modLeg (v.extractLsb' 0 16) fun x => { x with busyDbs := x.busyDbs ++ [b] })) ∧
  (∀ (die idx b : Nat) (db : Doorbell) (m : BitVec 64) (s u : State),
    dueBells false (legId die idx) s = [db] →
    db.atMp = some m ∧ db.busy = false ∧ db.late = false ∧ db.sample = none →
    b = max s.nextMp m.toNat →
    u = endMp b (s.advanceTo 0 (unitsMp * b)) →
    allDue b u = [((false, legId die idx), db)] →
    let l := legId die idx
    let form := formStatus false l db.func db.version db.bad b u (withShadow false l u)
    let st : BitVec 8 := if moveLocks u false l b then 5 else if form ≠ 0 then form else loadStatus false l u
    let gone (x : State) : State := setDb false l (fun _ => none) (fun l => l) x
    exec (.entryAdoption die false idx) s = .next
      (if st = 0 then endBell false l db 0 (gone (adoptEntry false l b none u)) else endBell false l db st (gone u)))

/-- Adopting a leg's entry makes its shadow half the live one, and only then is the leg open or closed by it. For an allocated leg of the package that is closed, whose shadow half is enabled and which has no decode contexts, on
a unit that streams to no standby: making the shadow half live at boundary b leaves the other half live, the leg
marked as ever opened and adopted at b, its jitter buffer empty with the half's initial target, its audio set that of
the half, and its receive and transmit counters 0; no entry byte of the aperture changes. -/
def Obligations.AdoptedHalfBecomesLive : Prop :=
  ∀ (l : BitVec 16) (b : Nat) (s : State),
    legIdOk s l = true →
    (s.leg l).alloc.isSome = true →
    (s.legLive l).enable = false →
    (s.legHalf l (!(s.leg l).live)).enable = true →
    (s.openDecs (legDie l)).all (fun k => (s.dec k).leg != l) = true →
    s.pair.role ≠ .active →
    ((flipLeg l b 0 s).leg l).live = !(s.leg l).live ∧ ((flipLeg l b 0 s).leg l).opened = true ∧
      ((flipLeg l b 0 s).leg l).adoptedMp = some b ∧
      ((flipLeg l b 0 s).leg l).jb = { target := 48 * (s.legHalf l (!(s.leg l).live)).jbInit } ∧
      ((flipLeg l b 0 s).leg l).rx.rxPkts = 0 ∧ ((flipLeg l b 0 s).leg l).tx.txPkts = 0 ∧
      (flipLeg l b 0 s).tables = s.tables

/-- Tail and head writes move a function's queues; configuration is taken only while a queue is disabled. A tail write of an enabled queue with commands up to the tail, none deferred, fetches exactly those commands in order
behind the fetched ones and leaves the head at the tail; of a disabled queue it only moves the tail. A head write that
leaves slots free with no completion waiting ends the deferral. A disabled queue takes LOG2_SIZE clamped to 4 to 12
and its other fields; an enabled one keeps its configuration while ENABLE stays 1, and clearing ENABLE resets head,
tail and PHASE. A NOP with no earlier command running completes OK at once; an unknown opcode completes INVALID (2)
with error 0x0404 and the index of its slot. -/
def Obligations.QueuesFetchAndReturnSlots : Prop :=
  (∀ (func : Nat) (tail : BitVec 64) (cmds : List Cmd) (s : State),
    tabWf {} s.queues = true →
    (s.fq func).sqEn = true →
    cqFull (s.fq func) = false ∧ (s.fq func).waiting = [] →
    cmds ≠ [] →
    (tail.extractLsb' 0 12).toNat = ((s.fq func).sqHead.toNat + cmds.length) % qSize (s.fq func).sqLog2 →
    (s.fq func).sqHead.toNat < qSize (s.fq func).sqLog2 →
    cmds.length < qSize (s.fq func).sqLog2 →
    cmds.all (fun c => c.func = func) = true →
    let q : FuncQueue := { s.fq func with
      sqTail := tail.extractLsb' 0 12, sqHead := tail.extractLsb' 0 12, inHost := [], fetched := (s.fq func).fetched ++ cmds }
    exec (.sqTailWrite func tail cmds) s = .next { s with queues := tset {} s.queues func q }) ∧
  (∀ (func : Nat) (head : BitVec 64) (s : State),
    tabWf {} s.queues = true →
    (s.fq func).waiting = [] →
    (s.fq func).inHost = [] →
    ((s.fq func).cqTail.toNat + 1) % qSize (s.fq func).cqLog2 ≠ (head.extractLsb' 0 12).toNat % qSize (s.fq func).cqLog2 →
    let q : FuncQueue := { s.fq func with cqHead := head.extractLsb' 0 12, deferring := false }
    exec (.cqHeadWrite func head) s = .next { s with queues := tset {} s.queues func q }) ∧
  (∀ (func : Nat) (v : BitVec 64) (s : State),
    tabWf {} s.queues = true →
    (s.fq func).inHost = [] →
    s.off 0 = false →
    let q := s.fq func
    let log2 : BitVec 4 := BitVec.ofNat 4 (max 4 (min 12 (v.extractLsb' 0 4).toNat))
    let cq : FuncQueue :=
      if q.cqEn = true ∧ v.getLsbD 63 = true then q
      else if q.cqEn then
        { q with cqEn := false, cqTail := 0, cqPhase := true, cqHead := 0, waiting := [], deferring := false, fetched := [] }
      else { q with cqLog2 := log2, cqVector := v.extractLsb' 4 11, cqIrq := v.getLsbD 15, cqEn := v.getLsbD 63 }
    let sq : FuncQueue :=
      if q.sqEn = true ∧ v.getLsbD 63 = true then q
      else if q.sqEn then { q with sqEn := false, sqHead := 0, sqTail := 0, fetched := if q.cqEn then q.fetched else [] }
      else { q with sqLog2 := log2, sqEn := v.getLsbD 63 }
    exec (.queueCfgWrite func true v) s = .next { s with queues := tset {} s.queues func cq } ∧
    exec (.queueCfgWrite func false v) s = .next { s with queues := tset {} s.queues func sq }) ∧
  (∀ (c : Cmd) (s : State),
    tabWf {} s.queues = true →
    (s.fq c.func).fetched.head? = some c →
    opOf c = 6 →
    (s.fq c.func).running = [] →
    let q : FuncQueue := { s.fq c.func with fetched := (s.fq c.func).fetched.erase c }
    exec (.nop c) s = .next (postCompletion c.func { id := 0, status := 0, tag := c.w0.extractLsb' 48 16, mp := mpField s }
      { s with queues := tset {} s.queues c.func q })) ∧
  (∀ (c : Cmd) (s : State),
    knownOpcode (opOf c) = false →
    exec (.unknownOpcode c) s = .next (runCmd (opOf c) c (fun u => (.done 2 0 0 0,
      raiseFrom 0 (hostReq c.func) 0x0404 (BitVec.ofNat 64 (cmdIndex s c)) u)) s))

/-- ALLOC_LEG reserves the lowest free leg, FREE_LEG returns a closed one, RELEASE_HELD names the held doorbells' boundary. ALLOC_LEG tries the named die and, with ANY, then the other dies that drain not: the lowest leg below a die's capacity
that no function has, that is closed, no alias and has no doorbell, goes to the posting function and its ID is the
RESULT_ID; with none free the command completes CAPACITY (7), for an absent die INVALID (2), and for a draining die
without ANY DRAINING (6), and nothing changes. FREE_LEG of a closed leg of the function that no move and no doorbell
holds and no live entry names ends its allocation and its alias and zeroes its crypto area; an open or absent leg is
refused INVALID (2), one with a pending doorbell or in a move BUSY (5), one that a live entry names REFERENCED (8), a
leg of another function DENIED (4) for a VF; the completion carries the leg's live version. RELEASE_HELD less than 2
MP ahead completes EARLY (9) with nothing released; otherwise each held doorbell of the function, and no other, awaits
that MP. -/
def Obligations.LegsAreAllocatedAndFreed : Prop :=
  (∀ (c : Cmd) (s : State),
    let d := (c.w1.extractLsb' 0 3).toNat
    let any := c.w1.getLsbD 3
    let order := (if any && (s.die d).str.draining then [] else [d]) ++
      s.dieList.filter fun x => x != d && any && !(s.die x).str.draining
    exec (.allocLeg c) s = .next (runCmd 1 c (fun u =>
      if s.hasDie d = false then (.done 2 0 0 0, u)
      else if any = false ∧ (s.die d).str.draining = true then (.done 6 0 0 0, u)
      else match order.findSome? (freeLegOf s) with
        | some l => (.done 0 l 0 0, u.modLeg l fun x => { x with alloc := some c.func, cry := { x.cry with fresh := true } })
        | none => (.done 7 0 0 0, u)) s) ∧
    ∀ l, freeLegOf s d = some l → ∃ i, l = legId d i ∧ i < (s.die d).cap.legs.toNat ∧ i < 1024 ∧
      (s.leg l).alloc = none ∧ s.legOpen l = false ∧ (s.leg l).aliasOf = none ∧ (s.leg l).db = none) ∧
  (∀ (c : Cmd) (s : State),
    let l : BitVec 16 := c.w1.extractLsb' 0 16
    let version := (s.legLive l).version
    exec (.freeLeg c) s = .next (runCmd 2 c (fun u =>
      if legIdOk s l = false then (.done 2 0 0 0, u)
      else if c.func ≠ 0 ∧ (s.leg l).alloc ≠ some c.func then (.done 4 0 0 version, u)
      else if s.legOpen l then (.done 2 0 0 version, u)
      else if bellPending s false l ∨ (s.leg l).locked then (.done 5 0 0 version, u)
      else if legNamed s l then (.done 8 0 0 version, u)
      else (.done 0 0 0 version, u.modLeg l fun x => { x with alloc := none, aliasOf := none, cry := {} })) s)) ∧
  (∀ (c : Cmd) (s : State),
    let free (x : Doorbell) : Doorbell :=
      if x.hold ∧ x.func = c.func ∧ x.atMp = none then { x with atMp := some c.w2 } else x
    exec (.releaseHeld c) s = .next (runCmd 5 c (fun u =>
      if c.w2.toNat < s.mpNo 0 + 2 then (.done 9 0 0 0, u)
      else (.done 0 0 0 0, State.mapDies { u with badBells := u.badBells.map fun e => (e.1, e.2.1, free e.2.2) } fun _ y => { y with
        legs := y.legs.map fun e => (e.1, { e.2 with db := e.2.db.map free, busyDbs := e.2.busyDbs.map free })
        confs := y.confs.map fun e => (e.1, { e.2 with db := e.2.db.map free, busyDbs := e.2.busyDbs.map free }) })) s))

/-- MIGRATE_LEG and REHOME_CONF are refused early or with a check's status, or start; at S the source becomes an alias. A move less than 10 MP ahead completes EARLY (9); one whose checks fail completes with that status; in both with the
live version of the entry to move, and nothing else changes. A move of a leg without decode contexts, or of a
conference, whose checks pass is in progress with both entries locked and completes later. The end of MP S - 1 marks
the state of the leg as sent. At S, the one move in progress, of a leg whose state was sent and which has no contexts,
or of a conference, is over: the source is an alias of the target and unlocked; the switch of a leg that was not sent
changes nothing. -/
def Obligations.MovesStartAndSwitch : Prop :=
  (∀ (c : Cmd) (s : State),
    c.w2.toNat < s.mpNo 0 + 10 →
    exec (.migrateLeg c) s = .next (runCmd 3 c (fun u => (.done 9 0 0 (s.legLive (c.w1.extractLsb' 0 16)).version, u)) s) ∧
    exec (.rehomeConf c) s = .next (runCmd 4 c (fun u => (.done 9 0 0 (s.confLive (c.w1.extractLsb' 0 16)).version, u)) s)) ∧
  (∀ (c : Cmd) (s : State),
    s.mpNo 0 + 10 ≤ c.w2.toNat →
    (moveStatus (cmdMove false c) s ≠ 0 → exec (.migrateLeg c) s = .next (runCmd 3 c (fun u =>
      (.done (moveStatus (cmdMove false c) s) 0 0 (s.legLive (c.w1.extractLsb' 0 16)).version, u)) s)) ∧
    (moveStatus (cmdMove true c) s ≠ 0 → exec (.rehomeConf c) s = .next (runCmd 4 c (fun u =>
      (.done (moveStatus (cmdMove true c) s) 0 0 (s.confLive (c.w1.extractLsb' 0 16)).version, u)) s))) ∧
  (∀ (c : Cmd) (s : State),
    s.mpNo 0 + 10 ≤ c.w2.toNat →
    moveStatus (cmdMove false c) s = 0 →
    (s.openDecs (legDie (c.w1.extractLsb' 0 16))).all (fun k => (s.dec k).leg != c.w1.extractLsb' 0 16) = true →
    let m : Migration :=
      { src := c.w1.extractLsb' 0 16, dst := c.w1.extractLsb' 16 16, switchMp := c.w2, func := c.func, tag := c.w0.extractLsb' 48 16,
        posted := s.mpNo 0 }
    exec (.migrateLeg c) s = .next (runCmd 3 c (fun u => (.later,
      ({ u with moves := u.moves ++ [m] }.modLeg (c.w1.extractLsb' 0 16) fun x => { x with locked := true }).modLeg
        (c.w1.extractLsb' 16 16) fun x => { x with locked := true })) s)) ∧
  (∀ (c : Cmd) (s : State),
    s.mpNo 0 + 10 ≤ c.w2.toNat →
    moveStatus (cmdMove true c) s = 0 →
    let m : Migration :=
      { isConf := true, src := c.w1.extractLsb' 0 16, dst := c.w1.extractLsb' 16 16, switchMp := c.w2, func := c.func,
        tag := c.w0.extractLsb' 48 16, posted := s.mpNo 0 }
    exec (.rehomeConf c) s = .next (runCmd 4 c (fun u => (.later,
      ({ u with moves := u.moves ++ [m] }.modConf (c.w1.extractLsb' 0 16) fun x => { x with locked := true }).modConf
        (c.w1.extractLsb' 16 16) fun x => { x with locked := true })) s)) ∧
  (∀ (leg : BitVec 16) (m : Migration) (s : State),
    moveOf s false leg = some m →
    exec (.migrationStateSend leg) s = .next { toSwitch m s with
      moves := (toSwitch m s).moves.map fun x => if x = m then { x with sent := true } else x }) ∧
  (∀ (m : Migration) (s : State),
    s.moves = [m] →
    m.isConf = false ∧ m.sent = true ∧ m.ctxs = [] →
    legIdOk s m.src = true →
    s.endedMp = some (max s.nextMp m.switchMp.toNat) →
    ∃ t, exec (.migrationSwitch m.src) s = .next t ∧ t.moves = [] ∧ (t.leg m.src).aliasOf = some m.dst ∧
      (t.leg m.src).locked = false) ∧
  (∀ (m : Migration) (s : State),
    s.moves = [m] →
    m.isConf = false ∧ m.sent = false →
    exec (.migrationSwitch m.src) s = .next s) ∧
  (∀ (m : Migration) (s : State),
    s.moves = [m] →
    m.isConf = true →
    confIdOk s m.src = true →
    s.endedMp = some (max s.nextMp m.switchMp.toNat) →
    ∃ t, exec (.confRehomeSwitch m.src) s = .next t ∧ t.moves = [] ∧ (t.conf m.src).aliasOf = some m.dst ∧
      (t.conf m.src).locked = false)

/-- A frame on a live subport is counted, written to the stranger queue or given to the leg that its five values match. A frame on a subport that is absent, disabled or Adit changes nothing. On a live subport its corrected and
uncorrectable FEC codewords count in ING_CNT 16 and 17, and one with a bad FCS counts in ING_CNT 0, one shorter than
64 bytes or longer than MAX_FRAME in 1, a pause frame in 2, one that is neither PTP nor for a MAC of the subport in 3.
A valid UDP packet for the bridge that no leg matches and whose destination no local address lists counts in 3. An RTP
packet that matches a leg without a policer and without SRTP, with an SSRC the leg receives and room in its pool,
enters the SRTP engine of the leg's home die behind those there, with its corrected arrival stamp. A stranger record
whose class has a packet's worth of tokens, into an enabled ring with a free slot, is sent to the host with the
frame's first 2,016 bytes and moves TAIL on by one, PHASE turning where the ring wraps. -/
def Obligations.FramesAreDisposedOfByTheirFirstRow : Prop :=
  (∀ (die sub : Nat) (raw : BitVec 64) (f : Frame) (s : State),
    s.hasDie die = false ∨ (s.die die).ing.present.getLsbD sub = false ∨ (s.ethPort die sub).enable = false ∨
      (s.die die).ing.adit.getLsbD sub = true →
    exec (.frameReceive die sub raw f) s = .next s) ∧
  (∀ (die sub : Nat) (raw : BitVec 64) (f : Frame) (s : State),
    s.hasDie die = true →
    (s.die die).ing.present.getLsbD sub = true ∧ (s.ethPort die sub).enable = true ∧ (s.die die).ing.adit.getLsbD sub = false →
    f.fcsOk = false ∨ f.len < 64 ∨ (s.ethPort die sub).maxFrame.toNat < f.len ∨ f.etherType = 0x8808 ∨
      (isPtp s die sub f = false ∧ macOk s die sub f.dstMac = false) →
    let n := if f.fcsOk = false then 0
      else if f.len < 64 ∨ (s.ethPort die sub).maxFrame.toNat < f.len then 1
      else if f.etherType = 0x8808 then 2 else 3
    exec (.frameReceive die sub raw f) s = .next ((ingCntN die 16 f.fecFixed (ingCntN die 17 f.fecBad s)).modDie die fun x =>
      { x with ing := { x.ing with cnt := bump x.ing.cnt n } })) ∧
  (∀ (die sub : Nat) (raw : BitVec 64) (f : Frame) (s : State),
    s.hasDie die = true →
    (s.die die).ing.present.getLsbD sub = true ∧ (s.ethPort die sub).enable = true ∧ (s.die die).ing.adit.getLsbD sub = false →
    f.fcsOk = true ∧ 64 ≤ f.len ∧ f.len ≤ (s.ethPort die sub).maxFrame.toNat ∧ f.etherType ≠ 0x8808 →
    isPtp s die sub f = false ∧ macOk s die sub f.dstMac = true →
    f.ip = 4 ∧ f.udp = true ∧ f.frag = false ∧ f.hdrOk = true ∧ (f.udpSumZero = true ∨ f.udpSumOk = true) →
    isLoop s die f = none →
    matchLeg s die sub f = none →
    (addrsOn s die sub).contains f.dst = false →
    exec (.frameReceive die sub raw f) s = .next ((ingCntN die 16 f.fecFixed (ingCntN die 17 f.fecBad s)).modDie die fun x =>
      { x with ing := { x.ing with cnt := bump x.ing.cnt 3 } })) ∧
  (∀ (die sub : Nat) (raw : BitVec 64) (f : Frame) (l : BitVec 16) (s : State),
    s.hasDie die = true →
    (s.die die).ing.present.getLsbD sub = true ∧ (s.ethPort die sub).enable = true ∧ (s.die die).ing.adit.getLsbD sub = false →
    f.fcsOk = true ∧ 64 ≤ f.len ∧ f.len ≤ (s.ethPort die sub).maxFrame.toNat ∧ f.etherType ≠ 0x8808 →
    isPtp s die sub f = false ∧ macOk s die sub f.dstMac = true →
    f.ip = 4 ∧ f.udp = true ∧ f.frag = false ∧ f.hdrOk = true ∧ (f.udpSumZero = true ∨ f.udpSumOk = true) →
    isLoop s die f = none →
    matchLeg s die sub f = some l →
    (s.legLive l).inRate = 0 ∧ (s.legLive l).xform = 0 ∧ (s.legLive l).cutThrough = false →
    128 ≤ f.b0.toNat ∧ f.b0.toNat ≤ 191 ∧ f.b1.toNat < 192 →
    ownSsrc (s.legLive l) f.pkt.ssrc = false ∧ (rxSsrcs (s.legLive l)).contains f.pkt.ssrc = true →
    let x := s.die (legDie l)
    let a := toJb (s.legLive l) { f.pkt with rtcp := false }
    (if a then x.ing.jbUsed else x.ing.pktUsed) + f.ipLen ≤ (if a then x.str.jbPool else x.str.pktPool) →
    let a := toJb (s.legLive l) { f.pkt with rtcp := false }
    let index := estIndex (rxWin (s.leg l).cry false f.pkt.ssrc) f.pkt.seq
    let r : RxPacket :=
      { leg := l, pkt := { f.pkt with rtcp := false, index := index }, arrival := rxStamp (s.dlyOf die sub) raw,
        placed := s.now (legDie l), ipLen := f.ipLen, ecn := f.ecn, c1 := crc32c (ipBytes f), raw := f.raw, sub := sub, c0Ok := f.c0Ok }
    let pooled (n : Nat) (u : State) : State := if a then jbPoolAdd (legDie l) n u else pktPoolAdd (legDie l) n u
    exec (.frameReceive die sub raw f) s = .next ((pooled f.ipLen (ingCntN die 16 f.fecFixed (ingCntN die 17 f.fecBad s))).modDie (legDie l) fun x =>
      { x with ing := { x.ing with inFlight := x.ing.inFlight ++ [r] } })) ∧
  (∀ (d : Nat) (r : BitVec 4) (sub : Nat) (arrival : BitVec 64) (l : BitVec 16) (ssrc : BitVec 32) (raw : List Byte) (s : State),
    s.hasDie d = true →
    (s.die d).ing.strEn = true →
    let g := (s.die d).ing
    let unk := r == 0 || r == 6
    (strTake (if unk then g.limUnknown else g.limKnown) s.clk (if unk then g.unknown else g.known)).1 = true →
    let g := (s.die d).ing
    (g.strTail.toNat + 1) % 2 ^ g.strLog2.toNat ≠ g.strHead.toNat % 2 ^ g.strLog2.toNat →
    let g := (s.die d).ing
    let wrapped := g.strTail.toNat + 1 = 2 ^ g.strLog2.toNat
    let skipped := if r = 0 ∨ r = 6 then g.unknown.skipped else g.known.skipped
    let t := stranger d r sub arrival l ssrc raw true s
    (t.die d).ing.strTail = BitVec.ofNat 12 ((g.strTail.toNat + 1) % 2 ^ g.strLog2.toNat) ∧
      (t.die d).ing.strPhase = (if wrapped then !g.strPhase else g.strPhase) ∧
      t.out = (if g.strIrq then [.msix 0 g.strVector] else []) ++
        .stranger d g.strTail g.strPhase r sub arrival l ssrc skipped (raw.take 2016) (decide (2016 < raw.length)) raw.length :: s.out)

/-- Link changes are reported, the host moves the stranger ring, and missing video packets are requested or given up. A change of a non-Adit subport's link, on a subport other than the one SyncE uses, sets LINK_CHG and reports 0x050A
with the subport; the same link state again changes nothing. A ring head write moves HEAD, and one that moves it
rearms the report of a full ring; a configuration write sets size (4 to 12), vector and interrupt only while the ring
is disabled, and clearing ENABLE resets TAIL, HEAD and PHASE. The timer of a missing packet of an open leg without a
decode context, with fewer than NACK_MAX requests, sends one NACK; one that asks for a packet that has come changes
nothing, one at NACK_MAX sends nothing. A frame that is whole, or that is not there, is not discarded by its timeout.
An incomplete one breaks its layer one frame interval after its first packet's release, and where no context decodes
its stream it is discarded with that. -/
def Obligations.LinksRingsAndRepairTimers : Prop :=
  (∀ (die sub : Nat) (up : Bool) (s : State),
    s.hasDie die = true →
    sub < 8 →
    (s.die die).ing.up.getLsbD sub ≠ up →
    (s.die die).ing.adit.getLsbD sub = false →
    s.servo.synceCfg.getLsbD 63 = false →
    let m : BitVec 8 := 1#8 <<< sub
    let u := s.modDie die fun x => { x with ing := { x.ing with
      up := if up then x.ing.up ||| m else x.ing.up &&& ~~~m } }
    exec (.linkChange die sub up) s = .next (raiseFrom die (engineReq 0) 0x050A (BitVec.ofNat 64 sub) (ingEv die 0 u))) ∧
  (∀ (die sub : Nat) (s : State),
    exec (.linkChange die sub ((s.die die).ing.up.getLsbD sub)) s = .next s) ∧
  (∀ (die : Nat) (v : BitVec 64) (s : State),
    s.off die = false →
    exec (.ingStrHeadWrite die v) s = .next (s.modDie die fun x => { x with ing := { x.ing with
      strHead := v.extractLsb' 0 12
      strFullSeen := decide (v.extractLsb' 0 12 = x.ing.strHead) && x.ing.strFullSeen } })) ∧
  (∀ (die : Nat) (v : BitVec 64) (s : State),
    s.off die = false →
    exec (.ingStrCfgWrite die v) s = .next (s.modDie die fun x =>
      let kept := if x.ing.strEn then x.ing else { x.ing with
        strLog2 := BitVec.ofNat 4 (max 4 (min 12 (v.extractLsb' 0 4).toNat)), strVector := v.extractLsb' 4 11,
        strIrq := v.getLsbD 15 }
      if v.getLsbD 63 then { x with ing := { kept with strEn := true } }
      else { x with ing := { kept with strEn := false, strTail := 0, strHead := 0, strPhase := true, strFullSeen := false } })) ∧
  (∀ (leg seq : BitVec 16) (n : Nack) (s : State),
    (s.leg leg).rx.nacks.find? (fun k => k.seq == seq) = some n →
    s.legOpen leg = true →
    n.count < (s.legLive leg).nackMax →
    decsOf s leg (s.legLive leg).rxSsrcV0 = [] →
    ∃ u : State, u = s.advance (stampDiff n.due s.clk).toNat ∧
      exec (.nackTimer leg seq) s = .next (sendRtcp leg (.nack (s.legLive leg).rxSsrcV0 [seq]) (u.modRx leg fun x => { x with
        nackSent := x.nackSent + 1
        nacks := x.nacks.map fun k => if k.seq = seq then
          { n with count := n.count + 1, due := u.clk + BitVec.ofNat 64 (65536 * max (x.rtt * 12 / 10) 20000000) } else k }))) ∧
  (∀ (leg seq : BitVec 16) (s : State),
    (s.leg leg).rx.nacks.find? (fun k => k.seq == seq) = none →
    exec (.nackTimer leg seq) s = .next s) ∧
  (∀ (leg seq : BitVec 16) (n : Nack) (s : State),
    (s.leg leg).rx.nacks.find? (fun k => k.seq == seq) = some n →
    (s.legLive leg).nackMax ≤ n.count →
    exec (.nackTimer leg seq) s = .next (s.advance (stampDiff n.due s.clk).toNat)) ∧
  (∀ (leg : BitVec 16) (spatial : BitVec 2) (ts : BitVec 32) (s : State),
    (∀ f ∈ (s.leg leg).vframes, f.ts = ts → f.spatial = spatial → f.complete = true) →
    exec (.videoFrameTimeout leg spatial ts) s = .next s) ∧
  (∀ (leg : BitVec 16) (spatial : BitVec 2) (ts : BitVec 32) (f : VFrame) (s : State),
    (s.leg leg).vframes.find? (fun f => f.ts == ts && f.spatial == spatial && !f.complete) = some f →
    f.broke = false →
    let h := s.legLive leg
    decsOf s leg (rxVideoSsrc h (if scalable h then 0 else spatial.toNat)) = [] →
    let h := s.legLive leg
    let gap := frameInterval s leg (rxVideoSsrc h (if scalable h then 0 else spatial.toNat))
    ∃ u : State, u = s.advanceToStamp (legDie leg) (f.firstRelease + BitVec.ofNat 64 gap) ∧
      exec (.videoFrameTimeout leg spatial ts) s = .next (breakLayer leg spatial.toNat f.temporal.toNat
        (pktPoolSub (legDie leg) f.size (u.modLeg leg fun x => { x with vframes := x.vframes.erase f })))) ∧
  (∀ (leg : BitVec 16) (spatial : BitVec 2) (ts : BitVec 32) (f : VFrame) (s : State),
    (s.leg leg).vframes.find? (fun f => f.ts == ts && f.spatial == spatial && !f.complete) = some f →
    f.broke = false →
    let h := s.legLive leg
    decsOf s leg (rxVideoSsrc h (if scalable h then 0 else spatial.toNat)) ≠ [] →
    let h := s.legLive leg
    let gap := frameInterval s leg (rxVideoSsrc h (if scalable h then 0 else spatial.toNat))
    ∃ u : State, u = s.advanceToStamp (legDie leg) (f.firstRelease + BitVec.ofNat 64 gap) ∧
      exec (.videoFrameTimeout leg spatial ts) s = .next (breakLayer leg spatial.toNat f.temporal.toNat
        (u.modLeg leg fun x => { x with vframes := x.vframes.map fun g => if g = f then { g with broke := true } else g })))

/-- A packet whose check or tag fails is freed and reported; the first audio packet of a leg anchors its buffer at JB_INIT. Judging a leg with no packet in the engine changes nothing. The oldest packet of the leg leaves the engine: with a
failed C1 it counts CARRY_FAIL and ING_CNT 13, sets CHECK, reports 0x0506 and is freed; with a wrong tag under the key
and no valid grace key it counts TAG_FAIL and CIP_CNT 0, sets a CIP event, reports 0x0601 with the leg and is freed;
in both nothing of it reaches the leg's buffers. On a leg that is not anchored, an audio frame is stored at its
arrival plus JB_INIT, and the buffer is anchored there with PLAYOUT at JB_INIT. -/
def Obligations.PacketsAreJudgedAndAudioPlaced : Prop :=
  (∀ (die : Nat) (leg : BitVec 16) (v : Verdict) (s : State),
    (s.die die).ing.inFlight.find? (fun r => r.leg == leg) = none →
    exec (.tagVerdict die leg v) s = .next s) ∧
  (∀ (die : Nat) (leg : BitVec 16) (v : Verdict) (r : RxPacket) (s : State),
    (s.die die).ing.inFlight.find? (fun r => r.leg == leg) = some r →
    v.c1Ok = false →
    leg ≠ 0xFFFF →
    let u := s.modDie die fun x => { x with ing := { x.ing with inFlight := x.ing.inFlight.erase r } }
    exec (.tagVerdict die leg v) s = .next (freePacket leg r (raiseFrom die (engineReq 0) 0x0506 (leg.setWidth 64)
      (ingEv die 3 (ingCnt die 13 (u.modRx leg fun x => { x with carryFail := x.carryFail + 1 })))))) ∧
  (∀ (die : Nat) (leg : BitVec 16) (v : Verdict) (r : RxPacket) (s : State),
    (s.die die).ing.inFlight.find? (fun r => r.leg == leg) = some r →
    v.c1Ok = true ∧ v.tagOk = false →
    (s.legLive leg).xform ≠ 0 →
    v.graceOk = false ∨ (s.leg leg).cry.grace = none →
    let u := s.modDie die fun x => { x with ing := { x.ing with inFlight := x.ing.inFlight.erase r } }
    exec (.tagVerdict die leg v) s = .next (freePacket leg r (raiseFrom die (engineReq 1) 0x0601 (leg.setWidth 64)
      (cipEv die 2 (cipCnt die 0 (u.modRx leg fun x => { x with tagFail := x.tagFail + 1 })))))) ∧
  (∀ (die : Nat) (leg : BitVec 16) (v : Verdict) (r : RxPacket) (s : State),
    (s.die die).ing.inFlight.find? (fun r => r.leg == leg) = some r →
    v.c1Ok = true ∧ v.tagOk = true →
    (s.legLive leg).xform ≠ 0 →
    replayed (rxWin (s.leg leg).cry r.pkt.rtcp r.pkt.ssrc) r.pkt.index = false →
    r.pkt.rtcp = false →
    standsBy s = false →
    let u := s.modDie die fun x => { x with ing := { x.ing with inFlight := x.ing.inFlight.erase r } }
    let p : Packet := { v.plain with rtcp := false, ssrc := r.pkt.ssrc, seq := r.pkt.seq, index := r.pkt.index }
    exec (.tagVerdict die leg v) s = .next (releaseRtp leg r p none
      ((noteIndex leg false r.pkt.ssrc r.pkt.index u).modRx leg fun x => { x with
        rxPkts := x.rxPkts + 1, rxBytes := x.rxBytes + BitVec.ofNat 64 r.ipLen
        seen := (r.pkt.ssrc, r.pkt.seq, r.ecn, r.arrival) :: x.seen }))) ∧
  (∀ (l : BitVec 16) (p : Packet) (arrival placed : BitVec 64) (size : Nat) (s : State),
    legIdOk s l = true →
    (s.leg l).jb = { target := (s.leg l).jb.target } →
    let pos := sampleOf (instantOf s (legDie l) arrival) + 48 * (s.legLive l).jbInit
    instantOf s (legDie l) placed ≤ (unitsMp : Int) * (pos / 48) ∧
      pos - sampleOf (s.time (legDie l)) ≤ 48 * ((s.legLive l).jbMax + 60 : Int) →
    (s.pair.role == .active) = false →
    let t := (placeAudio l p arrival placed size false none s).2
    (placeAudio l p arrival placed size false none s).1 = 0 ∧ (t.leg l).jb.anchored = true ∧
      (t.leg l).jb.playout = 48 * (s.legLive l).jbInit ∧ ∃ f : JbFrame, (t.leg l).jb.frames = [f] ∧
        f.pos = sampleOf (instantOf s (legDie l) arrival) + 48 * (s.legLive l).jbInit ∧
        f.seq = p.seq ∧ f.payload = p.payload ∧ f.len = p.len48)

/-- KEY_ALLOC takes the lowest free slots, KEY_FREE zeroes them, KEY_COPY copies a key and leaves its source, KEY_REWRAP raises ROOT_GEN. A well-formed KEY_ALLOC gives the posting function the lowest free slot of the die from 1 on, or with TWO the lowest
free even slot with its neighbour, whose handle is the RESULT_ID. KEY_FREE of a slot that passes the checks zeroes it,
and the upper half with it. KEY_COPY of a key that passes the checks writes its value, type, use, owner, persistence
and GCM_COUNT to the slot or slots of the named key, and nothing else. Each of them reseals the persistent slots where
die 0's store changed. A command whose handle is not one of an allocated slot, or names an upper half, completes
INVALID (2), one that names a slot of another function DENIED (4), and neither changes anything else. KEY_REWRAP of
the PF raises ROOT_GEN by one and reseals; after generation 255 it completes CAPACITY, posted by a VF DENIED. -/
def Obligations.KeySlotsAreAllocatedCopiedAndFreed : Prop :=
  (∀ (c : Cmd) (i : Nat) (s : State),
    bare c 2 = true ∧ c.w1 &&& ~~~0xF = 0 →
    s.hasDie (c.w1.extractLsb' 0 3).toNat = true →
    (let d := (c.w1.extractLsb' 0 3).toNat
    0 < i ∧ i < 4096 ∧ (s.slot d i).alloc = false ∧
      (c.w1.getLsbD 3 = true → i % 2 = 0 ∧ (s.slot d (i + 1)).alloc = false) ∧
      ∀ j < i, 0 < j → (s.slot d j).alloc = true ∨ (c.w1.getLsbD 3 = true ∧ (j % 2 = 1 ∨ (s.slot d (j + 1)).alloc = true))) →
    let d := (c.w1.extractLsb' 0 3).toNat
    let two := c.w1.getLsbD 3
    let mine : Slot := { alloc := true, owner := BitVec.ofNat 6 c.func }
    exec (.keyAlloc c) s = .next (runCmd 0x50 c (fun u =>
      let low := u.modSlot d i fun _ => { mine with two := two }
      (.done 0 (keyHandle d i) 0 0, if two then low.modSlot d (i + 1) fun _ => { mine with upper := true } else low)) s)) ∧
  (∀ (c : Cmd) (s : State),
    handleOk s (c.w1.extractLsb' 0 16) = true ∧ ownsSlot s c.func (c.w1.extractLsb' 0 16) = true →
    slotInUse s (c.w1.extractLsb' 0 16) = false →
    bare c 2 = true ∧ c.w1 &&& ~~~0xFFFF = 0 →
    let k : BitVec 16 := c.w1.extractLsb' 0 16
    exec (.keyFree c) s = .next (runCmd 0x51 c (fun u =>
      let low := u.modSlot (keyDie k) (keySlot k) fun _ => {}
      let all := if (slotOf s k).two then low.modSlot (keyDie k) (keySlot k + 1) fun _ => {} else low
      (.done 0 0 0 0, if keyDie k = 0 then sealSlots all else all)) s)) ∧
  (∀ (c : Cmd) (s : State),
    (let k : BitVec 16 := c.w1.extractLsb' 0 16
    let o : BitVec 16 := c.w1.extractLsb' 16 16
    [k, o].all (fun h => handleOk s h && ownsSlot s c.func h) = true ∧ slotInUse s o = false ∧ (slotOf s k).ktype ≠ 0 ∧
      (needsTwo (slotOf s k).ktype.toNat = true → (slotOf s o).two = true) ∧
      ((slotOf s k).persist = true → keyDie o = 0 ∧ keySlot o ≤ 63)) →
    bare c 2 = true ∧ c.w1 &&& ~~~0xFFFFFFFF = 0 →
    let k : BitVec 16 := c.w1.extractLsb' 0 16
    let o : BitVec 16 := c.w1.extractLsb' 16 16
    let x := slotOf s k
    exec (.keyCopy c) s = .next (runCmd 0x58 c (fun u =>
      let low := u.modSlot (keyDie o) (keySlot o) fun y => { x with two := y.two, upper := y.upper, saveSeq := [] }
      let all := if (slotOf s o).two then low.modSlot (keyDie o) (keySlot o + 1) fun y =>
          { x with two := y.two, upper := y.upper, saveSeq := []
                   value := if x.two then (s.slot (keyDie k) (keySlot k + 1)).value else 0 } else low
      (.done 0 0 0 0, if keyDie o = 0 then sealSlots all else all)) s)) ∧
  (∀ (c : Cmd) (s : State),
    handleOk s (c.w1.extractLsb' 0 16) = false →
    exec (.keyFree c) s = .next (runCmd 0x51 c (fun u => (.done 2 0 0 0, u)) s) ∧
    exec (.keyCopy c) s = .next (runCmd 0x58 c (fun u => (.done 2 0 0 0, u)) s) ∧
    exec (.keyUnwrap c) s = .next (runCmd 0x52 c (fun u => (.done 2 0 0 0, u)) s) ∧
    exec (.keyGen c) s = .next (runCmd 0x53 c (fun u => (.done 2 0 0 0, u)) s) ∧
    exec (.keyAgree c) s = .next (runCmd 0x54 c (fun u => (.done 2 0 0 0, u)) s) ∧
    exec (.keyDerive c) s = .next (runCmd 0x55 c (fun u => (.done 2 0 0 0, u)) s) ∧
    exec (.keyFinished c) s = .next (runCmd 0x56 c (fun u => (.done 2 0 0 0, u)) s) ∧
    exec (.keyExportSrtp c) s = .next (runCmd 0x57 c (fun u => (.done 2 0 0 0, u)) s)) ∧
  (∀ (c : Cmd) (s : State),
    handleOk s (c.w1.extractLsb' 0 16) = true ∧ ownsSlot s c.func (c.w1.extractLsb' 0 16) = false →
    bare c 2 = true ∧ c.w1 &&& ~~~0xFFFF = 0 →
    exec (.keyFree c) s = .next (runCmd 0x51 c (fun u => (.done 4 0 0 0, u)) s)) ∧
  (∀ (c : Cmd) (s : State),
    bare c 1 = true →
    exec (.keyRewrap c) s = .next (runCmd 0x59 c (fun u =>
      if c.func ≠ 0 then (.done 4 0 0 0, u)
      else if s.fuses.rootGen = 255 then (.done 7 0 0 0, u)
      else (.done 0 0 0 0, sealSlots { u with fuses := { u.fuses with rootGen := s.fuses.rootGen + 1 } })) s))

/-- A key command that passes its checks puts the value of its algorithm into its output slot and nowhere else. Each of the commands, its checks passed, completes OK, with: KEY_GEN a fresh private key of the named curve in the
slot and its public key in the buffer; KEY_AGREE the ECDH secret of the private key and the peer's key as a
SECRET-256; KEY_DERIVE the derived key with the named type; KEY_FINISHED the verify data in the buffer alone;
KEY_EXPORT_SRTP the bridge's own role's key in the TX slot and the peer's in the RX slot, with USE.SRTP. KEY_UNWRAP
fills the slot with the opened value, type and use of the blob, or completes AUTH where its tag fails, KEYTYPE where
its type or persistence does not fit, with error 0x0608 and the slot left; OWNER_ENROLL completes AUTH unless the
record is signed, else blows the index's revocation or digest fuses and nothing else. KEY_GEN without RNG_OK completes
INVALID. (The use of a made key is log 30; the algorithms are free functions, log 2.) -/
def Obligations.KeyUnitMakesKeys : Prop :=
  (∀ (c : Cmd) (s : State),
    let k : BitVec 16 := c.w1.extractLsb' 0 16
    keyChecks s c.func (bare c 3 && only c.w1 0x1FFFF && only c.w2 0xFFFFFFFF && (s.die (keyDie k)).cip.rngOk) [] [k]
      [((c.w2.extractLsb' 0 32).toNat, if c.w1.getLsbD 16 then 32 else 64)] true = none →
    let k : BitVec 16 := c.w1.extractLsb' 0 16
    let x := c.w1.getLsbD 16
    ∃ priv : BitVec 256, exec (.keyGen c) s = .next (runCmd 0x53 c (fun u => (.done 0 0 0 0,
      wrBuffer (c.w2.extractLsb' 0 32).toNat ((Config.publicKey x priv).take (if x then 32 else 64))
        (fillSlot k (if x then 6 else 5) 0x10 (priv.setWidth 512) { u with free := u.free + 1 }))) s)) ∧
  (∀ (c : Cmd) (s : State),
    handleOk s (c.w1.extractLsb' 0 16) = true →
    (s.die (keyDie (c.w1.extractLsb' 0 16))).cip.rngOk = false →
    exec (.keyGen c) s = .next (runCmd 0x53 c (fun u => (.done 2 0 0 0, u)) s)) ∧
  (∀ (c : Cmd) (s : State),
    let k : BitVec 16 := c.w1.extractLsb' 0 16
    keyChecks s c.func (bare c 3 && only c.w1 0xFFFFFFFF && only c.w2 0xFFFFFFFF) [k] [c.w1.extractLsb' 16 16]
      [((c.w2.extractLsb' 0 32).toNat, if (slotOf s k).ktype = 6 then 32 else 64)]
      (((slotOf s k).ktype == 5 || (slotOf s k).ktype == 6) && (slotOf s k).usage.getLsbD 4) = none →
    let x := slotOf s (c.w1.extractLsb' 0 16)
    let peer := rdBuffer s (c.w2.extractLsb' 0 32).toNat (if x.ktype = 6 then 32 else 64)
    exec (.keyAgree c) s = .next (runCmd 0x54 c (fun u => (.done 0 0 0 0,
      fillSlot (c.w1.extractLsb' 16 16) 7 0x10 ((Config.ecdh (x.ktype == 6) x.value peer).setWidth 512) u)) s)) ∧
  (∀ (c : Cmd) (s : State),
    let k : BitVec 16 := c.w1.extractLsb' 0 16
    let o : BitVec 16 := c.w1.extractLsb' 16 16
    handleOk s k = true ∧ handleOk s o = true ∧ ownsSlot s c.func k = true ∧ ownsSlot s c.func o = true ∧
      isSecret (slotOf s k) = true ∧ slotInUse s o = false ∧ c.w1.extractLsb' 32 4 = 7 ∧ c.w1.extractLsb' 36 2 = 2 ∧
      bare c 4 = true ∧ c.w1 &&& ~~~0x7FFFFFFFFF = 0 ∧ c.w2 = 0 ∧ c.w3 = 0 →
    let k : BitVec 16 := c.w1.extractLsb' 0 16
    let o : BitVec 16 := c.w1.extractLsb' 16 16
    exec (.keyDerive c) s = .next (runCmd 0x55 c (fun u => (.done 0 0 0 0,
      fillSlot o 7 0x10 (Config.kdf 2 (c.w1.getLsbD 38) (keyValue s k) none []) u)) s)) ∧
  (∀ (c : Cmd) (s : State),
    let k : BitVec 16 := c.w1.extractLsb' 0 16
    let hash := if c.w1.getLsbD 17 then 48 else 32
    let n := if c.w1.getLsbD 16 then hash else 12
    keyChecks s c.func (bare c 4 && only c.w1 0x7FFFF && only c.w2 0xFFFFFFFF && only c.w3 0xFFFFFFFF) [k] []
      [((c.w2.extractLsb' 0 32).toNat, hash), ((c.w3.extractLsb' 0 32).toNat, n)]
      (isSecret (slotOf s k) && (slotOf s k).ktype == (if c.w1.getLsbD 16 && !c.w1.getLsbD 17 then 7 else 8)) = none →
    let hash := if c.w1.getLsbD 17 then 48 else 32
    let n := if c.w1.getLsbD 16 then hash else 12
    let data := Config.finished (c.w1.getLsbD 16) (c.w1.getLsbD 17) (c.w1.getLsbD 18)
      (keyValue s (c.w1.extractLsb' 0 16)) (rdBuffer s (c.w2.extractLsb' 0 32).toNat hash)
    exec (.keyFinished c) s = .next (runCmd 0x56 c (fun u => (.done 0 0 0 0,
      wrBuffer (c.w3.extractLsb' 0 32).toNat (data.take n) u)) s)) ∧
  (∀ (c : Cmd) (s : State),
    let k : BitVec 16 := c.w1.extractLsb' 0 16
    let tx : BitVec 16 := c.w2.extractLsb' 0 16
    let rx : BitVec 16 := c.w2.extractLsb' 16 16
    c.w1.getLsbD 16 = true ∧ c.w1.getLsbD 17 = false ∧ (c.w1.extractLsb' 32 16 = 1 ∨ c.w1.extractLsb' 32 16 = 7) ∧
      keyChecks s c.func (bare c 4 && only c.w1 0xFFFF0007FFFF && only c.w2 0xFFFFFFFF && only c.w3 0xFFFFFFFF) [k] [tx, rx] []
        (isSecret (slotOf s k) && (slotOf s k).ktype == 7) = none →
    let p := Config.exportSrtp true false (c.w1.extractLsb' 32 16).toNat (keyValue s (c.w1.extractLsb' 0 16)) []
    let server := c.w1.getLsbD 18
    exec (.keyExportSrtp c) s = .next (runCmd 0x57 c (fun u => (.done 0 0 0 0,
      fillSlot (c.w2.extractLsb' 16 16) 3 1 (if server then p.1 else p.2)
        (fillSlot (c.w2.extractLsb' 0 16) 3 1 (if server then p.2 else p.1) u))) s)) ∧
  (∀ (c : Cmd) (s : State),
    let k : BitVec 16 := c.w1.extractLsb' 0 16
    keyChecks s c.func (bare c 3 && only c.w1 0xFFFF && only c.w2 0xFFFFFFFF) [] [k] [((c.w2.extractLsb' 0 32).toNat, 224)] true = none →
    let k : BitVec 16 := c.w1.extractLsb' 0 16
    let b := rdBuffer s (c.w2.extractLsb' 0 32).toNat 224
    let t := leAt b 4 1
    let persist := (leAt b 6 1).testBit 0
    let key := Config.unwrapKey (sliceOf b 0x20 96) (sliceOf b 0 0x20)
    let opened := Config.gcmOpen key (sliceOf b 0x80 12) (sliceOf b 0 0x80) (sliceOf b 0x90 64) (sliceOf b 0xD0 16)
    let bad := t = 0 ∨ 8 < t ∨ (needsTwo t = true ∧ (slotOf s k).two = false) ∨ (persist = true ∧ (keyDie k ≠ 0 ∨ 63 < keySlot k))
    let refused (st : BitVec 8) := exec (.keyUnwrap c) s =
      .next (runCmd 0x52 c (fun u => (.done st 0 0 0, raiseFrom 0 dukenCheck 0x0608 (k.setWidth 64) u)) s)
    (opened = none → refused 0x10) ∧ (∀ v, opened = some v → bad → refused 0x11) ∧
    ∀ v, opened = some v → ¬bad → exec (.keyUnwrap c) s = .next (runCmd 0x52 c (fun u =>
      let low := u.modSlot (keyDie k) (keySlot k) fun x => { x with persist := persist }
      let all := if (slotOf s k).two then low.modSlot (keyDie k) (keySlot k + 1) fun x => { x with persist := persist } else low
      let full := fillSlot k t (BitVec.ofNat 6 (leAt b 5 1)) (BitVec.ofNat 512 (leNat v)) all
      (.done 0 0 0 0, if (slotOf s k).persist = true ∧ persist = false then sealSlots full else full)) s)) ∧
  (∀ (c : Cmd) (s : State),
    bare c 2 = true ∧ c.w1 &&& ~~~0xFFFFFFFF = 0 →
    bufferOk s 0 (c.w1.extractLsb' 0 32).toNat 512 = true →
    let r := Config.enrollRecord (rdBuffer s (c.w1.extractLsb' 0 32).toNat 512)
    exec (.ownerEnroll c) s = .next (runCmd 0x5A c (fun u =>
      if c.func ≠ 0 then (.done 4 0 0 0, u)
      else if r.1.1 = 0 ∨ 4 < r.1.1 ∨ signedBy s r.2.2.1 r.2.2.2.1 r.2.2.2.2 = false ∨
          (r.1.2 = false ∧ s.fuses.enrolled.getLsbD r.1.1 = true) then (.done 0x10 0 0 0, u)
      else if r.1.2 then (.done 0 0 0 0, { u with fuses := { u.fuses with revoked := u.fuses.revoked ||| (1#5 <<< r.1.1) } })
      else (.done 0 0 0 0, { u with fuses := { u.fuses with
        enrolled := u.fuses.enrolled ||| (1#5 <<< r.1.1), keyDigest := tset 0 u.fuses.keyDigest r.1.1 (Config.sha384 r.2.1) } })) s))

/-- The lowest requester takes the free engine, waiters and lease end a hold, the random source clears and sets RNG_OK, a grace key expires. Of requesters writing to a free lock in one cycle the lowest ID holds it; while it is held a write sets WAITING and
nothing else. Only the holder's release frees it. A holder with waiters, no job and no save address, is preempted when
its lease has ended: the lock is free, LAST_PREEMPTED shows it, PREEMPT and 0x0606 are raised; without waiters nothing
happens. A reseed failure clears RNG_OK with the RNG event and 0x0609; a second one changes nothing. A leg's grace key
and its replay windows go when the grace ends. -/
def Obligations.TheBulkEngineIsHeldByOne : Prop :=
  (∀ (die : Nat) (a b : Byte) (s : State),
    s.off die = false →
    (s.die die).cip.owner = 0xFF →
    bulkReq a = true ∧ bulkReq b = true →
    exec (.cipLockAcquire die [a, b]) s = .next (s.modDie die fun x => { x with cip := { x.cip with
      owner := if a ≤ b then a else b, heldSince := s.clk } })) ∧
  (∀ (die : Nat) (a : Byte) (s : State),
    s.off die = false →
    (s.die die).cip.owner ≠ 0xFF →
    bulkReq a = true →
    exec (.cipLockAcquire die [a]) s = .next (s.modDie die fun x => { x with cip := { x.cip with waiting := true } })) ∧
  (∀ (die : Nat) (req : Byte) (s : State),
    s.off die = false →
    req ≠ 0xFF →
    exec (.cipLockRelease die req) s = .next (if (s.die die).cip.owner = req then
      s.modDie die fun x => { x with cip := { x.cip with owner := 0xFF, waiting := false } } else s)) ∧
  (∀ (die : Nat) (s : State),
    s.hasDie die = true →
    (s.die die).cip.owner ≠ 0xFF ∧ (s.die die).cip.waiting = true →
    (s.die die).cip.busy = false ∧ (s.die die).cip.saveAddr = 0 →
    let u := s.advance ((unitsUs * (s.die die).cip.lease.toNat + 1 : Int) - stampDiff s.clk (s.die die).cip.heldSince).toNat
    ∃ v : BitVec 64, exec (.lockPreempt die) s = .next (raiseFrom die (engineReq 1) 0x0606 v
      { cipEv die 3 (u.modDie die fun x => { x with cip := { x.cip with
          owner := 0xFF, waiting := false, lastPreempted := (s.die die).cip.owner } }) with free := s.free + 1 })) ∧
  (∀ (die : Nat) (s : State),
    (s.die die).cip.owner = 0xFF ∨ (s.die die).cip.waiting = false →
    exec (.lockPreempt die) s = .next s) ∧
  (∀ (die : Nat) (s : State),
    (s.die die).cip.rngOk = true →
    ∃ v : BitVec 64, exec (.rngReseedFailure die) s = .next (raiseFrom die (engineReq 1) 0x0609 v
      { cipEv die 4 (s.modDie die fun x => { x with cip := { x.cip with rngOk := false } }) with free := s.free + 1 })) ∧
  (∀ (die : Nat) (s : State),
    (s.die die).cip.rngOk = false →
    exec (.rngReseedFailure die) s = .next s) ∧
  (∀ (die : Nat) (s : State),
    exec (.rngOkReturn die) s = .next (s.modDie die fun x => { x with cip := { x.cip with rngOk := true } })) ∧
  (∀ (leg k : BitVec 16) (t : BitVec 64) (s : State),
    (s.leg leg).cry.grace = some (k, t) →
    exec (.rxGraceExpiry leg) s = .next ((s.advance (stampDiff t s.clk).toNat).modLeg leg fun x =>
      { x with cry := { x.cry with grace := none, win := [], rtcpWin := {} } }))

/-- Only the holder starts a bulk job; key, length and GCM limit are checked in order; an ended job has stored the algorithm's output. A control write of a requester that does not hold the lock is discarded with 0x0605. The holder's write with GO ends
at once with ERR 1 where it may not use the key, with 2 where the length is not allowed, and with 3 at the GCM limit
of an encryption, with HARD and 0x0604; else a first job without RESTORE in a mode other than GCM runs from its IV. A
running job's end stores the output of its mode, marks it done and keeps the chaining state; where none runs, nothing
happens. -/
def Obligations.BulkJobsAreCheckedRunAndEnd : Prop :=
  (∀ (die : Nat) (req : Byte) (v : BitVec 64) (s : State),
    s.off die = false →
    (s.die die).cip.owner ≠ req ∨ req = 0xFF →
    ∃ d : BitVec 64, exec (.bulkJobGo die req v) s = .next (raiseFrom die (engineReq 1) 0x0605 d { s with free := s.free + 1 })) ∧
  (∀ (die : Nat) (req : Byte) (v : BitVec 64) (s : State),
    s.off die = false →
    (s.die die).cip.owner = req ∧ req ≠ 0xFF ∧ (s.die die).cip.busy = false →
    v.getLsbD 63 = true →
    let c : BitVec 32 := v.extractLsb' 0 32 &&& 0xFFFF00FF
    let u := s.modDie die fun x => { x with cip := { x.cip with ctrl := c } }
    let k : BitVec 16 := c.extractLsb' 16 16
    let failed (err : BitVec 4) (u : State) : State := u.modDie die fun x => { x with cip := { x.cip with
      done := true, tagOk := false, err := err, busy := false } }
    let lenBad := blkLenOk c (s.die die).cip.len.toNat (s.die die).cip.aadLen.toNat = false ∨ faceJobOk u die req = false
    let full := (c.extractLsb' 0 3).toNat = 4 ∧ c.getLsbD 4 = true ∧ c.getLsbD 3 = false ∧ (slotOf s k).gcmCount = 0xFFFFFFFF
    (blkKeyOk s die req k = false → exec (.bulkJobGo die req v) s = .next (failed 1 u)) ∧
    (blkKeyOk s die req k = true → lenBad → exec (.bulkJobGo die req v) s = .next (failed 2 u)) ∧
    (blkKeyOk s die req k = true → ¬lenBad → full → exec (.bulkJobGo die req v) s =
      .next (failed 3 (raiseFrom die (engineReq 1) 0x0604 (k.setWidth 64) (cipEv die 1 u)))) ∧
    (blkKeyOk s die req k = true → ¬lenBad → (c.extractLsb' 0 3).toNat ≠ 4 → c.getLsbD 7 = false → c.getLsbD 4 = true →
      exec (.bulkJobGo die req v) s = .next (u.modDie die fun x => { x with cip := { x.cip with
        busy := true, done := false, tagOk := false, err := 0, chain := leBytes (s.die die).cip.iv.toNat 16 } }))) ∧
  (∀ (die : Nat) (s : State),
    (s.die die).cip.busy = true →
    blkMode (s.die die).cip.ctrl ≠ 4 ∧ blkSave (s.die die).cip.ctrl = false →
    let g := (s.die die).cip
    let p := Config.aesBulk (slotOf s (blkKey g.ctrl)).ktype (blkMode g.ctrl) (blkDecrypt g.ctrl) (slotOf s (blkKey g.ctrl)).value g.chain
      (devRd s g.src.toNat g.len.toNat)
    exec (.bulkJobDone die) s = .next ((devWr g.owner g.dst.toNat (p.1.take g.len.toNat) s).modDie die fun x =>
      { x with cip := { x.cip with busy := false, done := true, chain := p.2, tagOk := false } })) ∧
  (∀ (die : Nat) (s : State),
    (s.die die).cip.busy = false →
    exec (.bulkJobDone die) s = .next s)

/-- No limited sample exceeds the ceiling C in magnitude, from every limiter state whose needs are those of its samples. Let every sample in a limiter's ring carry its need: 2^30 where it lies within C, else the floor of C × 2^30 over its
larger magnitude. Then a step with any bus sample and any release shift keeps that; the gain it gives never exceeds
2^30; and the bus sample of 16 samples before, under that gain, exceeds C on neither side. -/
def Obligations.LimitedSamplesStayUnderTheCeiling : Prop :=
  ∀ (c relShift : Nat) (st : LimState) (x : Sample),
    (∀ e ∈ st.ring, e.2.2 = if max e.1.natAbs e.2.1.natAbs ≤ c then 2 ^ 30 else 2 ^ 30 * c / max e.1.natAbs e.2.1.natAbs) →
    let st' := limStep c relShift st x
    (∀ e ∈ st'.ring, e.2.2 = if max e.1.natAbs e.2.1.natAbs ≤ c then 2 ^ 30 else 2 ^ 30 * c / max e.1.natAbs e.2.1.natAbs) ∧
      st'.g ≤ 2 ^ 30 ∧ ∀ e, st'.ring[16]? = some e → (limited st'.g (e.1, e.2.1)).1.natAbs ≤ c ∧
        (limited st'.g (e.1, e.2.1)).2.natAbs ≤ c

/-- SAFE_LOAD is refused as invalid or early, or pends as a doorbell for its MP and sample, and completes once applied. SAFE_LOAD of a leg or a conference naming a bad ID, a SAMPLE above 47 or a set reserved bit completes INVALID (2), one
less than 2 MP before its boundary EARLY (9); neither changes anything else. Otherwise, the entry having no doorbell
that has not completed, it pends there for its MP with its sample, version and tag, and does not complete yet; where
the entry has one it waits there to complete BUSY. At its sample an adopted safe-load counts in MIX_CNT 4, is no
longer pending and completes; one that is not adopted does nothing. -/
def Obligations.SafeLoadsPendForTheirSample : Prop :=
  (∀ (c : Cmd) (s : State),
    let id : BitVec 16 := c.w1.extractLsb' 0 16
    (if c.w1.getLsbD 16 then confIdOk s id else legIdOk s id) = false ∨ 47 < (c.w3.extractLsb' 16 6).toNat ∨
      c.w3 &&& ~~~0x3FFFFF ≠ 0 ∨ c.w1 &&& ~~~0x1FFFF ≠ 0 →
    exec (.safeLoad c) s = .next (runCmd 0x60 c (fun u => (.done 2 0 0 0, u)) s)) ∧
  (∀ (c : Cmd) (s : State),
    let id : BitVec 16 := c.w1.extractLsb' 0 16
    (if c.w1.getLsbD 16 then confIdOk s id else legIdOk s id) = true →
    c.w1 &&& ~~~0x1FFFF = 0 ∧ c.w3 &&& ~~~0x3FFFFF = 0 ∧ (c.w3.extractLsb' 16 6).toNat ≤ 47 →
    let id : BitVec 16 := c.w1.extractLsb' 0 16
    let conf := c.w1.getLsbD 16
    let home := if conf then confDie id else legDie id
    let bell : Doorbell :=
      { func := c.func, tag := c.w0.extractLsb' 48 16, version := c.w3.extractLsb' 0 16, atMp := some c.w2,
        sample := some (c.w3.extractLsb' 16 6) }
    let set (f : Option Doorbell → Option Doorbell) (g : List Doorbell → List Doorbell) (u : State) : State :=
      if conf then u.modConf id fun x => { x with db := f x.db, busyDbs := g x.busyDbs }
      else u.modLeg id fun x => { x with db := f x.db, busyDbs := g x.busyDbs }
    exec (.safeLoad c) s = .next (runCmd 0x60 c (fun u =>
      if unitsMp * c.w2.toNat < s.time home + 2 * unitsMp then (.done 9 0 0 0, u)
      else if bellPending s conf id then (.later, set (fun o => o) (fun l => l ++ [{ bell with busy := true }]) u)
      else (.later, set (fun _ => some bell) (fun l => l) u)) s)) ∧
  (∀ (die idx : Nat) (conf : Bool) (db : Doorbell) (s : State),
    let id := if conf then confId die idx else legId die idx
    (if conf then (s.conf id).db else (s.leg id).db) = some db →
    db.adopted = true →
    let id := if conf then confId die idx else legId die idx
    let home := if conf then confDie id else legDie id
    let u := s.advanceTo die (unitsMp * (db.atMp.getD 0).toNat + unitsMp * (db.sample.getD 0).toNat / 48)
    let v := if conf then u.modConf id fun x => { x with db := none } else u.modLeg id fun x => { x with db := none }
    exec (.safeLoadApply die conf idx) s = .next (endBell conf id db 0 (mixCnt home 4 v))) ∧
  (∀ (die idx : Nat) (conf : Bool) (s : State),
    (let id := if conf then confId die idx else legId die idx
    ∀ db, (if conf then (s.conf id).db else (s.leg id).db) = some db → db.adopted = false) →
    exec (.safeLoadApply die conf idx) s = .next s)

/-- A stopped port takes a legal configuration, stops at a boundary, follows its clock, slips by one frame, and loses its clock. A configuration written to a port that is not STOPPED is discarded with CFG and 0x0806; one that breaks R182, or
differs in a shared setting from a port of the group that is not STOPPED, likewise, with CFG_BAD; another is stored. A
STOP waits for the boundary, of a stopped port does nothing. For a slave port, an FSYNC edge while STOPPED is noted;
in WAIT_CLK it starts RUNNING from the frame nearest the edge with the offset in TDM_PHASE; while RUNNING within half
a sample of its phase it moves the port to the frame it starts, beyond that the port moves by one frame more or less,
counts a slip, sets SLIP and raises 0x0804; more than 3 frame periods after the last edge it finds the clock lost and
starts anew. A RUNNING slave port that loses its clock enters WAIT_CLK with CLK_LOSS and 0x0805, 3 frame periods after
its last edge. A master port ignores both. -/
def Obligations.TdmPortsAreConfiguredAndFramed : Prop :=
  (∀ (die p : Nat) (v : BitVec 64) (s : State),
    s.off die = false →
    (s.tdmPort die p).state ≠ .stopped →
    ∃ d : BitVec 64, exec (.tdmPortCfgWrite die p v) s = .next (tdmEv die 5 (raiseFrom die (engineReq 6) 0x0806 d { s with free := s.free + 1 }))) ∧
  (∀ (die p : Nat) (v : BitVec 64) (s : State),
    s.off die = false →
    (s.tdmPort die p).state = .stopped →
    (cfgOk (v.setWidth 36 &&& 0xF3F3FFFFF) = false ∨
    ∃ q ∈ groupPorts s die (groupOf s die p), q ≠ p ∧ (s.tdmPort die q).state ≠ .stopped ∧
      (s.tdmPort die q).cfg &&& 0x3FF ≠ v.setWidth 36 &&& 0x3FF) →
    ∃ d : BitVec 64, exec (.tdmPortCfgWrite die p v) s = .next (tdmEv die 5 (raiseFrom die (engineReq 6) 0x0806 d
      { s.modPort die p (fun x => { x with cfgBad := true }) with free := s.free + 1 }))) ∧
  (∀ (die p : Nat) (v : BitVec 64) (s : State),
    s.off die = false →
    (s.tdmPort die p).state = .stopped →
    cfgOk (v.setWidth 36 &&& 0xF3F3FFFFF) = true →
    (∀ q ∈ groupPorts s die (groupOf s die p), q ≠ p → (s.tdmPort die q).state ≠ .stopped →
      (s.tdmPort die q).cfg &&& 0x3FF = v.setWidth 36 &&& 0x3FF) →
    exec (.tdmPortCfgWrite die p v) s = .next (s.modPort die p fun x =>
      { x with cfg := v.setWidth 36 &&& 0xF3F3FFFFF, cfgBad := false, sdo := if v.getLsbD 33 then .keeper else .hiz })) ∧
  (∀ (die p : Nat) (s : State),
    s.off die = false →
    exec (.tdmStop die p) s = .next (s.modPort die p fun x => if x.state = .stopped then x else { x with stopReq := true })) ∧
  (∀ (die p : Nat) (raw : BitVec 64) (s : State),
    cfgMaster (s.tdmPort die p).cfg = true →
    exec (.tdmFsyncEdge die p raw) s = .next s ∧ exec (.tdmClockLoss die p) s = .next s) ∧
  (∀ (die p : Nat) (raw : BitVec 64) (s : State),
    cfgMaster (s.tdmPort die p).cfg = false →
    (s.tdmPort die p).state = .stopped →
    exec (.tdmFsyncEdge die p raw) s = .next (s.modPort die p fun x => { x with lastFsync := some raw })) ∧
  (∀ (die p : Nat) (raw : BitVec 64) (s : State),
    s.hasDie die = true →
    cfgMaster (s.tdmPort die p).cfg = false →
    (s.tdmPort die p).state = .waitClk →
    let x := s.tdmPort die p
    let t := (s.time die : Int) + stampDiff raw (s.now die)
    let f := nearestFrame x.startMp.toNat t.toNat
    ∃ u, exec (.tdmFsyncEdge die p raw) s = .next u ∧ u.tdmPort die p = { x with
      state := .running, frame := f, edge := some f, lastFsync := some raw, sentTo := f
      phase := BitVec.ofInt 32 (t - (frameInstant x.startMp.toNat f : Int))
      sdo := if s.pair.transmit then .driven else x.sdo }) ∧
  (∀ (die p k : Nat) (raw l : BitVec 64) (s : State),
    s.hasDie die = true →
    cfgMaster (s.tdmPort die p).cfg = false →
    (s.tdmPort die p).state = .running ∧ (s.tdmPort die p).edge = some k ∧ (s.tdmPort die p).lastFsync = some l →
    stampDiff raw l ≤ 3 * (unitsMp / 48) →
    let x := s.tdmPort die p
    let t : Int := (s.time die : Int) + stampDiff raw (s.now die)
    let n := k + max 1 ((stampDiff raw l + (unitsMp / 48) / 2) / (unitsMp / 48 : Nat)).toNat
    let drift := t - (frameInstant x.startMp.toNat n : Int) - x.phase.toInt
    let slip (f : Nat) (o : Int) : TdmPort := { x with
      frame := f, edge := some f, slips := x.slips + 1, lastFsync := some raw, slipOut := x.slipOut + o
      phase := BitVec.ofInt 32 (t - (frameInstant x.startMp.toNat f : Int)) }
    ∃ u, exec (.tdmFsyncEdge die p raw) s = .next u ∧ u.tdmPort die p =
      (if drift.natAbs ≤ unitsMp / 96 then { x with frame := n, edge := some n, lastFsync := some raw }
       else if 0 < drift then slip (n + 1) 1 else slip (n - 1) (-1)) ∧
      (unitsMp / 96 < drift.natAbs → (0x0804 : BitVec 16) ∈ (u.die die).err.seen ∧ (u.die die).tdm.event.getLsbD 3 = true)) ∧
  (∀ (die p : Nat) (raw l : BitVec 64) (s : State),
    s.hasDie die = true →
    cfgMaster (s.tdmPort die p).cfg = false →
    (s.tdmPort die p).state = .running ∧ (s.tdmPort die p).lastFsync = some l →
    3 * (unitsMp / 48 : Nat) < stampDiff raw l →
    ∃ u, exec (.tdmFsyncEdge die p raw) s = .next u ∧ (u.tdmPort die p).state = .running ∧
      (u.tdmPort die p).lastFsync = some raw ∧ (u.tdmPort die p).slips = (s.tdmPort die p).slips ∧
      (0x0805 : BitVec 16) ∈ (u.die die).err.seen ∧ (u.die die).tdm.event.getLsbD 4 = true) ∧
  (∀ (die p : Nat) (l : BitVec 64) (s : State),
    cfgMaster (s.tdmPort die p).cfg = false →
    (s.tdmPort die p).state = .running ∧ (s.tdmPort die p).lastFsync = some l →
    let u := s.advanceTo die ((s.time die : Int) + stampDiff l (s.now die) + 3 * (unitsMp / 48 : Nat)).toNat
    let w := flushPort die p (framesElapsed u die p) u
    ∃ d : BitVec 64, exec (.tdmClockLoss die p) s = .next (tdmEv die 4 (raiseFrom die (engineReq 6) 0x0805 d
      { w.modPort die p (fun x => { x with
          state := .waitClk, lastFsync := none, edge := none, slipOut := 0, sdo := idleSdo x.cfg }) with free := w.free + 1 })))

/-- An input frame goes to its place in its MP's block, a lost one is counted, a muted pair unmutes, a complete output block is fetched, another plays as zeros. A frame of a RUNNING port that its group's queue takes is stored, little-endian, at the place of its frame, port and
channels in the block of its MP, whose FRAMES rises after the last port of the group, and the port goes on with its
next frame; one for which there is no room marks the block INCOMPLETE, counts OVERRUN once for the port and block, and
sets OVER with 0x0802 once per second. A master's frame waits for its end on device time. A frame of a port that is
not RUNNING goes nowhere. A muted pair unmutes, to fade in over 48 frames, 8,192 whole frames after its last preamble.
At the fetch instant of MP n the block n - 2, if complete, is what the group plays, with the bytes of its ring slot;
else zeros are, and each started port counts an UNDERRUN, with UNDER and 0x0801 once per second. -/
def Obligations.TdmFramesAreStoredAndPlayed : Prop :=
  (∀ (die p : Nat) (slots : List (BitVec 32)) (fits : Bool) (s : State),
    (s.tdmPort die p).state = .running →
    (fits = true → (tget ({} : QPrim) (s.die die).drc.queues (0x10 + groupOf s die p)).ring.length <
      (tget ({} : QPrim) (s.die die).drc.queues (0x10 + groupOf s die p)).lines) →
    let x := s.tdmPort die p
    let g := groupOf s die p
    let k := inputFrameNo s die p
    let m := x.startMp.toNat + k / 48
    let line := if hasPin s die p 2 then slots.map (lineSlot x.cfg) else []
    let bytes := ((List.range (cfgIn x.cfg)).map fun c => slotBytes (cfgStore x.cfg) (line.getD c 0)).flatten
    let ended := (groupPorts s die g).all fun q => decide (q ≤ p) || cfgIn (s.tdmPort die q).cfg == 0
    let late := if cfgMaster x.cfg then s.advanceTo die (frameInstant x.startMp.toNat (k + 1)) else s
    ∃ u, u = openBlock die g m (iecFrame die p k line late) ∧
      let lost := (tget {} (u.die die).tdm.inRing (8 * g + m % 8)).lost.getLsbD p
      exec (.tdmInputFrame die p slots fits) s = .next
        (if fits then
          (modBlock die g m (fun b => let b := gateFrame (u.tdmPort die p) p (k % 48) b
            { b with frames := if ended then b.frames + 1 else b.frames }) (putFrame die p k bytes u)).modPort die p fun y =>
              { y with frame := k + 1 }
        else tdmEv die 1 (raiseAnyOnce die (engineReq 6) 0x0802 (BitVec.ofNat 64 p)
          ((modBlock die g m (fun b => let b := gateFrame (u.tdmPort die p) p (k % 48) b
            { b with incomplete := true, lost := b.lost ||| (1#8 <<< p) }) u).modPort die p fun y =>
              { y with frame := k + 1, overrun := if lost then y.overrun else y.overrun + 1 })))) ∧
  (∀ (die p : Nat) (slots : List (BitVec 32)) (fits : Bool) (s : State),
    (s.tdmPort die p).state ≠ .running →
    exec (.tdmInputFrame die p slots fits) s = .next s) ∧
  (∀ (die p k : Nat) (s : State),
    (s.tdmPort die p).iecMuted.getLsbD k = true →
    (s.tdmPort die p).state ≠ .stopped →
    let x := s.tdmPort die p
    let ofs := if cfgMaster x.cfg ∨ x.edge = none then 0 else x.phase.toInt
    exec (.iecUnmute die p k) s = .next ((s.advanceTo die
      ((frameInstant x.startMp.toNat (tget 0 x.iecAt k + 8193) : Int) + ofs).toNat).modPort die p fun x => { x with
        iecMuted := x.iecMuted &&& ~~~(1#16 <<< k), iecAt := tset 0 x.iecAt k 0, iecFade := tset 0 x.iecFade k 48 })) ∧
  (∀ (die p k : Nat) (s : State),
    (s.tdmPort die p).iecMuted.getLsbD k = false ∨ (s.tdmPort die p).state = .stopped →
    exec (.iecUnmute die p k) s = .next s) ∧
  (∀ (die g : Nat) (s : State),
    ∃ u, u = s.advanceTo die (unitsMp * s.mpNo die + 2 * unitsMp / 48) ∧
      let m := u.mpNo die - 2
      let b : TdmBlock := tget {} (u.die die).tdm.outRing (8 * g + m % 8)
      let play (b : TdmBlock) : State := u.modDie die fun y => { y with tdm := { y.tdm with
        playing := tset {} (tset {} y.tdm.playing (8 + g) (tget {} y.tdm.playing g)) g b
        outRing := tset {} y.tdm.outRing (8 * g + m % 8) {} } }
      let bytes := rdBytes (u.die die).dram (ringAt u die g true m) (48 * frameBytes u die g true)
      let started := (groupPorts u die g).filter fun p => (u.tdmPort die p).state != .stopped &&
        decide ((u.tdmPort die p).startMp.toNat ≤ m) && decide (0 < cfgOut (u.tdmPort die p).cfg)
      exec (.tdmOutputFetch die g) s = .next
        (if b.complete = true ∧ b.mp = BitVec.ofNat 64 m then play { b with bytes := wrBytes [] 0 bytes }
        else forAll started (fun p w => tdmEv die 0 (raiseAnyOnce die (engineReq 6) 0x0801 (BitVec.ofNat 64 p)
          (w.modPort die p fun x => { x with underrun := x.underrun + 1 }))) (play { mp := BitVec.ofNat 64 m })))

/-- DEC_OPEN admits a context, a whole frame takes a buffer or finds none, a decoded picture updates its context, keyframe requests are paced. DEC_OPEN by a function that does not own the leg is DENIED (4); for an open leg with arguments in range, no such
context open and a load that fits, the context takes the first free index, starts 2 MP ahead and its handle is the
RESULT_ID, else it completes with the load check's status. DEC_CLOSE of a context that nothing names closes it at the
next boundary, of one that a layer or an encoder names is REFERENCED (8). A whole frame of an open context goes at its
release instant, from the context's first boundary on, into the buffers that it finds as the context's next picture;
where it finds none it is dropped as NO_BUF. A picture without fault whose references were decoded and untainted, late
first where its interval has passed, completes untainted, its samples stored and held as the layer's stand-in, a
refresh ending the pending requests; one with a bitstream fault completes tainted, a stand-in in its buffers, asks for
a keyframe and leaves the held one. A late picture counts LATE and VDC_CNT 5. At the end of a request gap a request
goes out only where a context of the stream is still tainted. -/
def Obligations.DecodeContextsOpenDecodeAndClose : Prop :=
  (∀ (c : Cmd) (s : State),
    ownsLeg s c.func (c.w1.extractLsb' 0 16) = false →
    exec (.decOpen c) s = .next (runCmd 0x70 c (fun u => (.done 4 0 0 0, u)) s)) ∧
  (∀ (c : Cmd) (i : Nat) (s : State),
    let h := s.legLive (c.w1.extractLsb' 0 16)
    ownsLeg s c.func (c.w1.extractLsb' 0 16) = true ∧ s.legOpen (c.w1.extractLsb' 0 16) = true ∧ h.rxVc ≠ 0 ∧
      rxVideoSsrc h (decArgs c).stream.toNat ≠ 0 ∧ decRanges h (decArgs c) = true ∧
      c.w1 &&& ~~~0x7FFFFF = 0 ∧ c.w2 &&& ~~~0x3FFFFFFFFFFFF = 0 →
    (s.openDecs (legDie (c.w1.extractLsb' 0 16))).all (fun k => !((s.dec k).leg == c.w1.extractLsb' 0 16 &&
      (s.dec k).stream == (decArgs c).stream && (s.dec k).op == (decArgs c).op)) = true →
    freeDec s (legDie (c.w1.extractLsb' 0 16)) = some i →
    let d := legDie (c.w1.extractLsb' 0 16)
    exec (.decOpen c) s = .next (runCmd 0x70 c (fun u => match decLoad s d (decArgs c) with
      | some st => (.done st 0 0 0, u)
      | none => (.done 0 (ctxHandle d i) 0 0, openDec d i { decArgs c with startMp := BitVec.ofNat 64 (s.mpNo d + 2) } u)) s)) ∧
  (∀ (c : Cmd) (s : State),
    let x := s.dec (c.w1.extractLsb' 0 16)
    ownsLeg s c.func x.leg = true ∧ decOk s (c.w1.extractLsb' 0 16) = true ∧ x.state = .opened →
    c.w1 &&& ~~~0xFFFF = 0 →
    let k : BitVec 16 := c.w1.extractLsb' 0 16
    exec (.decClose c) s = .next (runCmd 0x71 c (fun u =>
      if decNamed s k then (.done 8 0 0 0, u) else (.done 0 0 0 0, u.modDec k fun x => { x with closing := true })) s) ∧
    exec (.decKeyreq c) s = .next (runCmd 0x72 c (fun u =>
      (.done 0 0 0 0, keyframeRequest (s.dec k).leg (rxVideoSsrc (s.legLive (s.dec k).leg) (s.dec k).stream.toNat) u)) s)) ∧
  (∀ (ctx : BitVec 16) (ts : BitVec 32) (s : State),
    (s.dec ctx).state = .opened →
    ctxFrames s ctx ts ≠ [] ∧ (ctxFrames s ctx ts).all (fun f => f.complete && !f.taken.contains ctx) = true →
    standsBy s = false →
    let x := s.dec ctx
    let d := decDie ctx
    let fs := ctxFrames s ctx ts
    let ssrc := rxVideoSsrc (s.legLive x.leg) x.stream.toNat
    ∃ u w : State, u = (match videoRelease s x.leg ssrc ts with | some t => s.advanceToStamp d t | none => s) ∧
      w = trimPics ctx u ∧
      (u.mpNo d < x.startMp.toNat → exec (.videoFrameRelease ctx ts) s = .next (dropFrames ctx ts u)) ∧
      (¬u.mpNo d < x.startMp.toNat → pickBufs (w.dec ctx) ctx (decSizes x) (w.die d).vdc = none →
        exec (.videoFrameRelease ctx ts) s = .next (dropFrames ctx ts (noBuffer ctx ts w))) ∧
      ∀ bufs v, ¬u.mpNo d < x.startMp.toNat → pickBufs (w.dec ctx) ctx (decSizes x) (w.die d).vdc = some (bufs, v) →
        ∃ content : BitVec 64,
          let pic : Pic := { pid := x.nextPid, ts := ts, bufs := bufs, inRefs := true, released := w.clk, content := content
                             spatial := fs.foldl (fun m f => if m < f.spatial then f.spatial else m) 0 }
          exec (.videoFrameRelease ctx ts) s = .next (dropFrames ctx ts (modPool d (fun _ => v)
            ({ w with free := w.free + 1 }.modDec ctx fun y => { y with
              pics := losePics bufs y.pics ++ [pic], nextPid := y.nextPid + 1
              borrowed := if bufs.any (fun b => b.borrowed) then y.borrowed + 1 else y.borrowed })))) ∧
  (∀ (ctx : BitVec 16) (ts : BitVec 32) (s : State),
    (s.dec ctx).state ≠ .opened ∨ ctxFrames s ctx ts = [] ∨
      (ctxFrames s ctx ts).any (fun f => !f.complete || f.taken.contains ctx) = true →
    exec (.videoFrameRelease ctx ts) s = .next s) ∧
  (∀ (ctx : BitVec 16) (p : PicInfo) (q : Pic) (s : State),
    (s.dec ctx).state = .opened →
    (s.dec ctx).pics.find? (fun y => !y.done) = some q →
    standsBy s = false →
    p.bsError = false ∧ p.c2Ok = true ∧ p.missingRefs = false ∧ (s.dec ctx).badRef = false →
    picUnsupported (s.legLive (s.dec ctx).leg).rxVc (s.dec ctx) p = false →
    p.refs.all (fun r => (s.dec ctx).pics.any fun y => y.pid == r && y.done) = true →
    (s.dec ctx).pics.all (fun y => !(p.refs.contains y.pid && y.taint)) = true →
    let x := s.dec ctx
    let d := decDie ctx
    let r := isRefresh x 0 p
    let w := if q.late = false ∧ (ctxInterval x : Int) < stampDiff s.clk q.released then markLate ctx q s else s
    let u := if r then clearKf x.leg (rxVideoSsrc (s.legLive x.leg) x.stream.toNat) w else w
    let pic : Pic := { q with
      width := p.width, height := p.height, spatial := p.spatial, temporal := p.temporal
      taint := false, standin := false, inRefs := p.isRef, done := true, doneAt := s.clk }
    exec (.pictureDecodeDone ctx p) s = .next (trimPics ctx (fenceUp d x.fence (vdcCnt d 0
      ((forAll q.bufs (fun b u => storeBuf d b (bufferBytes (sizeDim p.width b.size.toNat) (sizeDim p.height b.size.toNat)
        (decodedSample p q.content b.size.toNat)) u) u).modDec ctx fun y => { y with
          pics := y.pics.map fun z => if z.pid = q.pid then { pic with late := z.late } else { z with inRefs := !z.done || p.keeps.contains z.pid }
          holds := tins y.holds p.spatial.toNat (some q.pid), stoodIn := if r then false else y.stoodIn
          sinceSei := p.sei || y.sinceSei, tainted := false
          cores := BitVec.ofNat 3 (max 1 (min p.cores.toNat (min 4 (codecCores s d 1))))
          lastW := BitVec.ofNat 16 p.width, lastH := BitVec.ofNat 16 p.height, profile := p.profile, picCnt := y.picCnt + 1
          badRef := false, lastRefresh := if r then BitVec.ofNat 64 (s.mpNo d) else y.lastRefresh }))))) ∧
  (∀ (ctx : BitVec 16) (p : PicInfo) (q : Pic) (s : State),
    (s.dec ctx).state = .opened →
    (s.dec ctx).pics.find? (fun y => !y.done) = some q →
    standsBy s = false ∧ (q.late = true ∨ stampDiff s.clk q.released ≤ ctxInterval (s.dec ctx)) →
    p.bsError = true ∧ p.c2Ok = true ∧ p.refs = [] ∧ p.missingRefs = false →
    picUnsupported (s.legLive (s.dec ctx).leg).rxVc (s.dec ctx) p = false →
    let x := s.dec ctx
    let d := decDie ctx
    let u := storeStandIn ctx q p.spatial.toNat p.width p.height
      (keyframeRequest x.leg (rxVideoSsrc (s.legLive x.leg) x.stream.toNat) (picFaults ctx true false s))
    let pic : Pic := { q with
      width := p.width, height := p.height, spatial := p.spatial, temporal := p.temporal
      taint := true, standin := true, inRefs := p.isRef, done := true, doneAt := s.clk }
    exec (.pictureDecodeDone ctx p) s = .next (trimPics ctx (fenceUp d x.fence (vdcCnt d 0 (u.modDec ctx fun y => { y with
      pics := y.pics.map fun z => if z.pid = q.pid then { pic with late := z.late } else { z with inRefs := !z.done || p.keeps.contains z.pid }
      sinceSei := false, badRef := false, tainted := true, taintCnt := y.taintCnt + 1
      cores := BitVec.ofNat 3 (max 1 (min p.cores.toNat (min 4 (codecCores s d 1))))
      lastW := BitVec.ofNat 16 p.width, lastH := BitVec.ofNat 16 p.height, profile := p.profile, picCnt := y.picCnt + 1 }))))) ∧
  (∀ (ctx : BitVec 16) (p : PicInfo) (s : State),
    (s.dec ctx).state ≠ .opened ∨ (s.dec ctx).pics.all (fun q => q.done) = true →
    exec (.pictureDecodeDone ctx p) s = .next s) ∧
  (∀ (ctx : BitVec 16) (pid : Nat) (p : Pic) (s : State),
    (s.dec ctx).pics.find? (fun q => q.pid == pid && !q.done && !q.late) = some p →
    standsBy s = false →
    let d := decDie ctx
    let u := s.advance ((unitsSec / max 1 (s.dec ctx).maxFps.toNat : Nat) - stampDiff s.clk p.released).toNat
    exec (.pictureLate ctx pid) s = .next (ledger d (.picture ctx p.ts 1)
      (raiseOnce d (decReq ctx) 0x0905 (ctx.setWidth 64) (ctx.setWidth 64) (vdcEv d 4 (vdcCnt d 5 (u.modDec ctx fun x => { x with
        lateCnt := x.lateCnt + 1, pics := x.pics.map fun q => if q.pid = p.pid then { q with late := true } else q })))))) ∧
  (∀ (leg : BitVec 16) (ssrc : BitVec 32) (t : BitVec 64) (s : State),
    (kfOf (s.leg leg) ssrc).lastSent = some t →
    standsBy s = false ∧ s.legOpen leg = true →
    let u := s.advance ((kfGapUnits s leg : Int) - stampDiff s.clk t).toNat
    exec (.keyframeGapEnd leg ssrc) s = .next
      (if (decsOf s leg ssrc).any (fun c => (s.dec c).tainted) then sendKeyframe leg ssrc u else u)) ∧
  (∀ (leg : BitVec 16) (ssrc : BitVec 32) (s : State),
    (kfOf (s.leg leg) ssrc).lastSent = none →
    exec (.keyframeGapEnd leg ssrc) s = .next s)

/-- A fence write takes effect only forward, a bound context adds 1 for each picture, a condition is signalled at or beyond its value. A fence is one of 256 of a die and reads in GAL_FENCE. A write takes effect, and then alone changes the fence, only if
the new value minus the old is greater than 0 as a signed 32-bit difference. FENCE_BIND of an open context binds it to
a fence of its die, or unbinds it; from then on each picture it completes adds 1 to the fence. A fence condition is
signalled exactly while VALUE minus its value is at least 0 as a signed difference. -/
def Obligations.FencesAdvanceAndSignal : Prop :=
  (∀ (die n : Nat) (v : BitVec 64) (s : State),
    s.off die = false →
    exec (.galFenceWrite die n v) s = .next (if 0 < (v.extractLsb' 0 32 - tget 0 (s.die die).gal.fence n).toInt then
      s.modDie die fun x => { x with gal := { x.gal with fence := tset 0 x.gal.fence n (v.extractLsb' 0 32) } } else s)) ∧
  (∀ (die n : Nat) (s : State),
    n < 256 →
    galRd s die (0x0400 + 8 * n) = some ((tget 0 (s.die die).gal.fence n).setWidth 64)) ∧
  (∀ (c : Cmd) (s : State),
    let k : BitVec 16 := c.w1.extractLsb' 0 16
    ownsLeg s c.func (s.dec k).leg = true ∧ decOk s k = true ∧ (s.dec k).state = .opened ∧ c.w1 &&& ~~~0x1FFFFFF = 0 →
    exec (.fenceBind c) s = .next (runCmd 0x83 c (fun u => (.done 0 0 0 0, u.modDec (c.w1.extractLsb' 0 16) fun x =>
      { x with fence := if c.w1.getLsbD 24 then none else some (c.w1.extractLsb' 16 8).toNat })) s)) ∧
  (∀ (ctx : BitVec 16) (p : PicInfo) (q : Pic) (i : Nat) (s : State),
    s.hasDie (decDie ctx) = true →
    (s.dec ctx).state = .opened →
    (s.dec ctx).pics.find? (fun y => !y.done) = some q →
    (s.dec ctx).fence = some i →
    tget 0 (s.die (decDie ctx)).gal.fence i ≠ 0xFFFFFFFF →
    ∃ t, exec (.pictureDecodeDone ctx p) s = .next t ∧
      tget 0 (t.die (decDie ctx)).gal.fence i = tget 0 (s.die (decDie ctx)).gal.fence i + 1) ∧
  (∀ (die : Nat) (i : BitVec 8) (w : BitVec 32) (g : FlipGroup) (s : State),
    g.fences = [(i, w)] →
    fencesReached s die g = decide (0 ≤ (tget 0 (s.die die).gal.fence i.toNat - w).toInt))

/-- LAYOUT_ALLOC takes the lowest free layout, FLIP groups wait, are cancelled at their deadline, fail a check or commit at a picture boundary. LAYOUT_ALLOC reserves the lowest layout of the die that no function has. LAYOUT_FREE of a disabled layout with no flip
pending that no encoder names ends its allocation; an enabled one is INVALID, a pending one BUSY. A FLIP of up to 4
distinct layouts of one die with one frame rate waits as a group and its layouts have a flip pending; any other is
INVALID. A group that is evaluated where neither a picture boundary of its layouts nor its deadline stands changes
nothing; at a boundary with an unsignalled fence it waits, or is cancelled with DEADLINE at its deadline; with all
fences signalled it commits where every check passes and else completes with the failed check's status. -/
def Obligations.LayoutsAreAllocatedAndFlipped : Prop :=
  (∀ (c : Cmd) (i : Nat) (s : State),
    s.hasDie (c.w1.extractLsb' 0 3).toNat = true ∧ c.w1 &&& ~~~0x1F = 0 →
    (let t := (s.die (c.w1.extractLsb' 0 3).toNat).gal.layouts
    i < 64 ∧ (tget {} t i).alloc = none ∧ ∀ j < i, (tget {} t j).alloc ≠ none) →
    let l := layHandle (c.w1.extractLsb' 0 3).toNat i
    exec (.layoutAlloc c) s = .next (runCmd 0x80 c (fun u => (.done 0 l 0 0, u.modLay l fun x =>
      { x with alloc := some c.func, kind := c.w1.getLsbD 4, unit := c.w1.getLsbD 3 })) s)) ∧
  (∀ (c : Cmd) (s : State),
    let l : BitVec 16 := c.w1.extractLsb' 0 16
    ownsLay s c.func l = true ∧ layOk s l = true ∧ (s.lay l).alloc ≠ none →
    c.w1 &&& ~~~0xFFFF = 0 →
    let l : BitVec 16 := c.w1.extractLsb' 0 16
    exec (.layoutFree c) s = .next (runCmd 0x81 c (fun u =>
      if (s.layLive l).enable then (.done 2 0 0 0, u)
      else if (s.lay l).pending then (.done 5 0 0 0, u)
      else if layNamed s l then (.done 8 0 0 0, u)
      else (.done 0 0 0 0, u.modLay l fun x => { live := x.live })) s)) ∧
  (∀ (c : Cmd) (s : State),
    let g := flipGroup c
    let hs := g.items.map fun e => e.1
    let l := hs.headD 0
    let ok := (c.w1.extractLsb' 0 3).toNat < 4 ∧ c.w1 &&& ~~~0x3F = 0 ∧ hs.Nodup ∧ 1 ≤ flipFps s l ∧
      ∀ x ∈ hs, layOk s x = true ∧ layDie x = layDie l ∧ flipFps s x = flipFps s l
    (¬ok → exec (.flip c) s = .next (runCmd 0x82 c (fun u => (.done 2 0 0 0, u)) s)) ∧
    (ok → exec (.flip c) s = .next (runCmd 0x82 c (fun u => (.later,
      (forAll hs (fun l w => w.modLay l fun x => { x with pending := true }) u).modDie (layDie l) fun x =>
        { x with gal := { x.gal with flips := x.gal.flips ++ [{ g with clash := hs.any fun l => (s.lay l).pending }] } })) s))) ∧
  (∀ (die n : Nat) (late : Bool) (g : FlipGroup) (s : State),
    (s.die die).gal.flips[n]? = some g →
    late = true ∨ pictureAt (flipFps s (g.items.headD (0, 0)).1) s.nextMp = none →
    g.deadline = 0 ∨ s.nextMp < g.deadline.toNat →
    exec (.flipEvaluate die n late) s = .next s) ∧
  (∀ (die n : Nat) (late : Bool) (g : FlipGroup) (s : State),
    (s.die die).gal.flips[n]? = some g →
    late = true ∨ pictureAt (flipFps s (g.items.headD (0, 0)).1) s.nextMp = none →
    g.deadline ≠ 0 ∧ g.deadline.toNat ≤ s.nextMp →
    standsBy s = false →
    exec (.flipEvaluate die n late) s = .next (cancelDue die g s.nextMp (s.advanceTo 0 (unitsMp * s.nextMp)))) ∧
  (∀ (die n : Nat) (g : FlipGroup) (s : State),
    (s.die die).gal.flips[n]? = some g →
    pictureAt (flipFps s (g.items.headD (0, 0)).1) s.nextMp ≠ none →
    standsBy s = false →
    let m := s.nextMp
    ∃ u, u = s.advanceTo 0 (unitsMp * m) ∧
    let due := g.deadline ≠ 0 ∧ g.deadline.toNat ≤ m
    (fencesReached s die g = false → ¬due → exec (.flipEvaluate die n false) s = .next u) ∧
    (fencesReached s die g = false → due → exec (.flipEvaluate die n false) s = .next (cancelDue die g m u)) ∧
    (fencesReached s die g = true → groupStatus u g = 0 → exec (.flipEvaluate die n false) s = .next (commitFlip die g m u)) ∧
    (fencesReached s die g = true → groupStatus u g ≠ 0 →
      exec (.flipEvaluate die n false) s = .next (failFlip die g (groupStatus u g) u))) ∧
  (∀ (d : Nat) (g : FlipGroup) (s : State),
    let u := galEv d 5 (galCnt d 5 (endFlip d g 0x12 s))
    ∃ v : BitVec 64, cancelFlip d g s = raiseFrom d (engineReq 3) 0x0A06 v { u with free := u.free + 1 })

/-- Blending follows its alpha exactly; a late canvas is repeated; tile pictures, mosaic starts and tile requests follow their rules. A layer without alpha replaces the canvas, one of pixel alpha 0 leaves it, and a straight blend of 10-bit values is a
10-bit value. At a boundary that begins no picture of the layout nothing happens. A picture still being composed at
its boundary is repeated: GAL_CNT 1 and 0x0A05; one that is whole becomes the next output picture of three buffers,
with its taint. A tile picture that meets its checks waits for the next splice; one that does not is refused with
SEA_CNT 5 and 0x0A07, once per stream and second. When the start wait of a mosaic ends, its IDR goes out, slots that
still lack an intra picture counting in SEA_CNT 4 with 0x0A09; a mosaic already started is left alone. A merged tile
request goes out at the end of its gap; without one nothing happens. -/
def Obligations.PicturesAreComposedAndMosaicsSpliced : Prop :=
  (∀ (y : GalLayer) (plane : Nat) (pa c d : Int),
    0 ≤ c ∧ c ≤ 1023 ∧ 0 ≤ d ∧ d ≤ 1023 ∧ 0 ≤ pa ∧ pa ≤ 255 ∧ y.galpha ≤ 255 →
    (y.alphaMode = 0 → blend y plane pa c d = c) ∧ (y.alphaMode = 2 → blend y plane 0 c d = d) ∧
      (y.alphaMode ≠ 3 → 0 ≤ blend y plane pa c d ∧ blend y plane pa c d ≤ 1023)) ∧
  (∀ (die idx : Nat) (late : Bool) (failed : List (BitVec 16)) (s : State),
    s.layOn (layHandle die idx) = false ∨ pictureAt (s.layLive (layHandle die idx)).fps s.nextMp = none →
    exec (.pictureBoundary die idx late failed) s = .next s) ∧
  (∀ (l : BitVec 16) (s : State),
    (s.lay l).composing = true →
    (∃ v : BitVec 64, finishCanvas l true s = raiseFrom (layDie l) (engineReq 3) 0x0A05 v
      { galEv (layDie l) 4 (galCnt (layDie l) 1 (s.modLay l fun x => { x with composing := false, repeated := true })) with
        free := s.free + 1 }) ∧
    finishCanvas l false s = galCnt (layDie l) 0 (s.modLay l fun x => { x with
      composing := false, repeated := false, cur := (x.cur + 1) % 3, pics := x.pics + 1, taint := x.newTaint
      before := x.placed, placed := x.placing })) ∧
  (∀ (die idx : Nat) (failed : List (BitVec 16)) (late : Bool) (s : State),
    let l := layHandle die idx
    s.layOn l = true ∧ pictureAt (s.layLive l).fps s.nextMp ≠ none ∧ (s.die die).counting = true →
    let l := layHandle die idx
    ∃ u v : State, u = s.advanceTo 0 (unitsMp * s.nextMp) ∧
      v = galleryTick l s.nextMp failed (beginCanvas l s.nextMp (finishCanvas l late u)) ∧
      exec (.pictureBoundary die idx late failed) s = .next (if (s.lay l).kind then seamBoundary l s.nextMp failed u
        else forAll (v.dieList.flatMap v.openDecs) trimPics v)) ∧
  (∀ (die n : Nat) (t : TilePic) (x : TileStream) (s : State),
    (s.die die).gal.tiles[n]? = some x →
    let key : BitVec 64 := x.source.setWidth 64 ||| (x.size.setWidth 64 <<< 16) ||| (x.layout.setWidth 64 <<< 48)
    exec (.tilePictureReceive die n t) s = .next (if tilePicOk (s.layLive x.layout) x.size t then
        s.modDie die fun y => { y with gal := { y.gal with tiles := y.gal.tiles.modify n fun x => { x with picture := some t } } }
      else raiseAnyOnce die (engineReq 4) 0x0A07 key (seaEv die 0 (seaCnt die 5 s)))) ∧
  (∀ (leg : BitVec 16) (v : Viewer) (t : BitVec 64) (s : State),
    (s.leg leg).viewer = some v →
    v.started = false ∧ v.startAt = some t →
    let d := legDie leg
    ∃ u w : State, u = s.advanceMs t (s.die d).gal.seaWait.toNat ∧ w = emitMosaic leg v.layout true (startMosaic leg v.layout u) ∧
      (lackingSlots u leg v.layout = 0 → exec (.seamStartWaitExpiry leg) s = .next w) ∧
      (lackingSlots u leg v.layout ≠ 0 → ∃ x y : State, ∃ n : BitVec 64,
        x = seaEv d 3 (forAll (List.range (lackingSlots u leg v.layout)) (fun _ z => seaCnt d 4 z) w) ∧
        y = { x with free := x.free + 1 } ∧
        exec (.seamStartWaitExpiry leg) s = .next (raiseFrom d (engineReq 4) 0x0A09 n y))) ∧
  (∀ (leg : BitVec 16) (v : Viewer) (s : State),
    (s.leg leg).viewer = some v →
    v.started = true →
    exec (.seamStartWaitExpiry leg) s = .next s) ∧
  (∀ (die n : Nat) (t : TileStream) (at_ : BitVec 64) (s : State),
    (s.die die).gal.tiles[n]? = some t →
    t.lastIntraReq = some at_ →
    exec (.seamIntraGapEnd die n) s = .next (if t.merged then
      sendTileIntra die n t (s.advance ((seaGapUnits s die : Int) - stampDiff s.clk at_).toNat) else s))

/-- ENC commands check their context, a rung's buffer never fills beyond its size while its pictures keep their cap, merged intra requests and late rows apply. ENC_OPEN of a source the function owns with valid arguments completes DRAINING, BUDGET or CAPACITY where the die
drains, its class 1 allocation or its load or contexts do not suffice, and else opens the lowest free index with the
loads of its rungs. ENC_CLOSE, ENC_RATE and ENC_KEY complete INVALID for a context that is not open; for an open one
ENC_CLOSE marks it closing, ENC_RATE in 32 to 65,535 kb/s makes the rates of the rungs it names pending, ENC_KEY
requests an intra picture of the named rungs, in modes 3 and 4 of all. A row that is not dry leaves the bits used
within the cap. A picture begun with fullness in the buffer that keeps its cap ends with fullness in the buffer; bits
beyond the cap become debt. The end of a rung's gap turns a merged request into one. A late row marks the first late
row of a running picture and reports 0x0B02. -/
def Obligations.EncodersOpenCodeWithinTheirBufferAndRestart : Prop :=
  (∀ (c : Cmd) (s : State),
    ownsSource s c.func ((encArgs s c).kind == 1) (encArgs s c).source = true →
    encArgsOk s c (encArgs s c) = true →
    let x := encArgs s c
    let d := encDie x.source
    exec (.encOpen c) s = .next (runCmd 0x90 c (fun u =>
      if (s.die d).str.draining then (.done 6 0 0 0, u)
      else if bwFits s d 1 x.loadBw = false then (.done 3 0 0 0, u)
      else if encFits s d x.loadEnc x.loadAna = false ∨ freeEnc s d = none then (.done 7 0 0 0, u)
      else (.done 0 (ctxHandle d ((freeEnc s d).getD 0)) 0 0, openEnc d ((freeEnc s d).getD 0) x u)) s)) ∧
  (∀ (c : Cmd) (s : State),
    (s.enc (c.w1.extractLsb' 0 16)).state ≠ .opened →
    c.func = 0 →
    exec (.encClose c) s = .next (runCmd 0x91 c (fun u => (.done 2 0 0 0, u)) s) ∧
    exec (.encRate c) s = .next (runCmd 0x92 c (fun u => (.done 2 0 0 0, u)) s) ∧
    exec (.encKey c) s = .next (runCmd 0x93 c (fun u => (.done 2 0 0 0, u)) s)) ∧
  (∀ (c : Cmd) (k : BitVec 16) (s : State),
    c.w1 = k.setWidth 64 →
    ownsEnc s c.func k = true ∧ encOk s k = true ∧ (s.enc k).state = .opened ∧ (s.enc k).kind ≠ 2 →
    exec (.encClose c) s = .next (runCmd 0x91 c (fun u => (.done 0 0 0 0, u.modEnc k fun x => { x with closing := true })) s)) ∧
  (∀ (c : Cmd) (k : BitVec 16) (s : State),
    c.w1 = k.setWidth 64 →
    ownsEnc s c.func k = true ∧ encOk s k = true ∧ (s.enc k).state = .opened ∧ (s.enc k).kind ≠ 2 →
    (∀ i < 4, [c.w2, c.w3, c.w4, c.w5].getD i 0 = 0 ∨ (i < (s.enc k).rungs.length ∧ 32 ≤ ([c.w2, c.w3, c.w4, c.w5].getD i 0).toNat ∧
      ([c.w2, c.w3, c.w4, c.w5].getD i 0).toNat ≤ 65535)) →
    let ws := [c.w2, c.w3, c.w4, c.w5]
    exec (.encRate c) s = .next (runCmd 0x92 c (fun u => (.done 0 0 0 0,
      forAll ((List.range 4).filter fun i => ws.getD i 0 != 0) (fun i v => v.modEnc k fun x => { x with
        rungs := x.rungs.modify i fun r => { r with rateNext := some ((ws.getD i 0).extractLsb' 0 24, s.clk) } }) u)) s)) ∧
  (∀ (c : Cmd) (k : BitVec 16) (m : Nat) (s : State),
    c.w1 = k.setWidth 64 ||| BitVec.ofNat 64 (0x10000 * m) →
    ownsEnc s c.func k = true ∧ encOk s k = true ∧ (s.enc k).state = .opened ∧ (s.enc k).kind ≠ 2 →
    m < 16 ∧ m < 2 ^ (s.enc k).rungs.length →
    let all := (s.enc k).mode = 3 ∨ (s.enc k).mode = 4
    exec (.encKey c) s = .next (runCmd 0x93 c (fun u => (.done 0 0 0 0, if m = 0 then u else
      forAll ((List.range (s.enc k).rungs.length).filter fun i => decide all || m.testBit i) (intraRung k) u)) s)) ∧
  (∀ (k : BitVec 16) (i : Nat) (r : Rung) (s : State),
    (s.enc k).rungs[i]? = some r →
    (∀ t, r.lastIntra = some t → intraGapUnits s k ≤ stampDiff s.clk t) →
    intraRung k i s = s.modEnc k fun x => { x with rungs := x.rungs.modify i fun r => { r with intraReq := true } }) ∧
  (∀ (e : CodeEnv) (p : CodePart) (late : Option Nat) (a : RowAcc) (i : Nat),
    (a.used : Int) ≤ p.cap →
    let b := codeRow e p late a i
    a.used ≤ b.used ∧ (b.dry = false → (b.used : Int) ≤ p.cap) ∧ (a.dry = true → b.dry = true ∧ b.used ≤ a.used + 32 + 8 * p.units)) ∧
  (∀ (x : EncCtx) (capX w bits : Nat) (r : Rung),
    0 ≤ r.full ∧ r.full ≤ rungBuf x r →
    let b := rcBegin x capX w r
    0 ≤ b.cap ∧ ((bits : Int) ≤ b.cap → 0 ≤ (rcEnd bits b).full ∧ (rcEnd bits b).full ≤ rungBuf x r ∧ (rcEnd bits b).debt = 0) ∧
      (b.cap ≤ (bits : Int) → (rcEnd bits b).debt = bits - b.cap)) ∧
  (∀ (ctx : BitVec 16) (rung : Nat) (r : Rung) (t : BitVec 64) (s : State),
    (s.enc ctx).rungs[rung]? = some r →
    r.lastIntra = some t →
    exec (.intraGapEnd ctx rung) s = .next (if r.merged then
      (s.advance ((intraGapUnits s ctx : Int) - stampDiff s.clk t).toNat).modEnc ctx fun x => { x with
        rungs := x.rungs.modify rung fun r => { r with merged := false, intraReq := true } }
      else s)) ∧
  (∀ (ctx : BitVec 16) (rung row : Nat) (r : Rung) (s : State),
    (s.enc ctx).rungs[rung]? = some r →
    (s.enc ctx).state = .opened ∧ (s.enc ctx).running = true ∧ r.lateFirst = none →
    standsBy s = false →
    let d := encDie ctx
    let x := s.enc ctx
    let next := unitsMp * (1000 * (x.number + 1) / max 1 x.fps.toNat)
    let u := s.advanceTo d (next - unitsUs * x.guard.toNat)
    exec (.lateDryGuard ctx rung row) s = .next (ledger d (.lateDry ctx rung x.number row)
      (raiseFrom d (encReq ctx) 0x0B02 (ctx.setWidth 64) (venEv d 1 (u.modEnc ctx fun x => { x with
        rungs := x.rungs.modify rung fun r => { r with lateFirst := some row } })))))

/-- Packets queue on their legs, control frames and strict classes go first, heads age out, host frames pass their bucket, feedback halves a target. An audio packet of an open leg without SRTP whose queue has room joins its digest and the end of its queue; one of a
closed leg is dropped. On a media subport with a control frame waiting, that frame departs next, and, the subport
enabled and the unit transmitting, goes out with its departure stamp. The class served next, if strict, is the highest
strict class that has a ready leg; none is served before it. A head older than MAX_WAIT leaves its queue and counts
WAIT_DROP. The oldest held packet leaves after RTX_HOLD. An RFC 8888 report of an open receiving leg carries what the
leg has received since the last one; a report of an SSRC carries the sender report and the blocks of what the leg
receives. EGR_SEND with a bad length or subport is INVALID (2); a frame that its function may send waits for the die's
bucket and with a token there enters the subport's control queue, one that a VF may not send is DENIED with 0x0C06.
Without feedback a sending leg's target is halved, not below its floor, and the leg does not rise again. -/
def Obligations.EgressQueuesShapesAndSends : Prop :=
  (∀ (p : TxPacket) (s : State),
    s.legOpen p.leg = true →
    exec (.egressEnqueue p) s = .next (sendRtp p s)) ∧
  (∀ (p : TxPacket) (s : State),
    s.legOpen p.leg = true ∧ (s.legLive p.leg).xform = 0 ∧ p.kind = .audio →
    mediaSubport s (s.legLive p.leg).ethDie (s.legLive p.leg).ethIdx = true →
    queueBytes (s.leg p.leg).tx.queue + p.ipLen ≤ max 65536 (2 * (s.legLive p.leg).outBurst) →
    exec (.egressEnqueue p) s = .next ((digestBytes (legDie p.leg) (unitOf s p) (rtpHeader p ++ p.payload) s).modTx p.leg fun t =>
      { t with queue := t.queue ++ [{ p with index := 0, entry := s.clk }] })) ∧
  (∀ (p : TxPacket) (s : State),
    s.legOpen p.leg = false →
    exec (.egressEnqueue p) s = .next s) ∧
  (∀ (die sub : Nat) (p : TxPacket) (rest : List TxPacket) (s : State),
    mediaSubport s die sub = true →
    (s.sub8 die sub).control = p :: rest →
    (s.die die).egr.hostWait = [] →
    p.kind = .control ∧ p.owner = none ∧ p.stampTag = none ∧ p.duken = none →
    s.pair.transmit = true ∧ (s.ethPort die sub).enable = true ∧ (s.sub8 die sub).failed = false →
    let u := (fillHost die s).modSub8 die sub fun x => { x with control := x.control.drop 1 }
    exec (.packetDeparture die sub) s = .next ((emit (.frame die sub (txStamp (s.dlyOf die sub) (s.now die)) p)
      (egrCnt die 0 u)).modSub8 die sub fun x => { x with departed := x.departed + 1 })) ∧
  (∀ (die sub : Nat) (s : State),
    mediaSubport s die sub = true →
    ∃ u w : State, u = drainHost die (s.die die).egr.hostWait.length (fillHost die s) ∧ w = readySub die sub u ∧
      (∀ p rest, (u.sub8 die sub).control = p :: rest → exec (.packetDeparture die sub) s = .next (serveControl die sub p u)) ∧
      ((u.sub8 die sub).control = [] → chooseClass w die sub = none → exec (.packetDeparture die sub) s = .next w) ∧
      ∀ c l, (u.sub8 die sub).control = [] → chooseClass w die sub = some c → chooseLeg w die sub c = some l →
        exec (.packetDeparture die sub) s = .next (serveLeg die sub c l w)) ∧
  (∀ (die sub : Nat) (s : State),
    mediaSubport s die sub = false →
    exec (.packetDeparture die sub) s = .next s) ∧
  (∀ (s : State) (d i c : Nat),
    chooseClass s d i = some c →
    clsHasReady s d i c = true ∧ ∀ k < 8, clsStrict s d i k = true → clsHasReady s d i k = true → clsStrict s d i c = true ∧ k ≤ c) ∧
  (∀ (leg : BitVec 16) (p : TxPacket) (s : State),
    queueHead (s.leg leg).tx.queue = some p →
    let d := (s.legLive leg).ethDie
    let u := s.advanceMs p.entry (egrMaxWait s d)
    exec (.waitDrop leg) s = .next (raiseOnce d (engineReq 5) 0x0C02 (leg.setWidth 64) (leg.setWidth 64)
      (egrEv d 1 (egrCnt d 2 (u.modTx leg fun t => { t with queue := t.queue.erase p, waitDrop := t.waitDrop + 1 }))))) ∧
  (∀ (leg : BitVec 16) (h : Held) (rest : List Held) (s : State),
    (s.leg leg).tx.held = h :: rest →
    let u := s.advanceMs h.sentAt (egrRtxHold s (legDie leg))
    exec (.rtxHoldExpiry leg) s = .next (pktPoolSub (legDie leg) h.pkt.ipLen (u.modTx leg fun t => { t with held := t.held.drop 1 }))) ∧
  (∀ (leg : BitVec 16) (s : State),
    s.legOpen leg = true ∧ (s.legLive leg).rxEn = true →
    let u := match (s.leg leg).tx.ccfbDue with | some t => s.advance (stampDiff t s.clk).toNat | none => s
    let gap := unitsMp * ((s.die (legDie leg)).egr.timing.extractLsb' 48 16).toNat
    exec (.rtcpReportTimer leg none) s = .next (sendRtcp leg (.ccfb (s.leg leg).rx.seen.reverse)
      ((u.modTx leg fun t => { t with ccfbDue := some (u.clk + BitVec.ofNat 64 gap) }).modRx leg fun x => { x with seen := [] }))) ∧
  (∀ (leg : BitVec 16) (ssrc : BitVec 32) (s : State),
    s.legOpen leg = true →
    let h := s.legLive leg
    ∃ u v : State, u = nextReport leg ssrc s ∧ v = (if h.txEn then senderReport leg ssrc u else u) ∧
      let x := u.leg leg
      let got := ([h.rxSsrcA, h.rxSsrcV0, h.rxSsrcV1, h.rxSsrcV2].filter (· != 0)).filter fun r => x.rx.tops.any fun e => e.1 == r
      let lost (r : BitVec 32) : BitVec 32 := ((x.rx.lostBy.find? fun e => e.1 == r).map fun e => e.2).getD 0
      let jit (r : BitVec 32) : Nat := if r = h.rxSsrcA then x.jb.jitter
        else ((x.rx.vmap.find? fun m => m.ssrc == r).map fun m => m.jitter).getD 0
      exec (.rtcpReportTimer leg (some ssrc)) s = .next (if h.rxEn && !got.isEmpty then
        sendRtcp leg (.receiverReport (got.map fun r => (r, lost r, BitVec.ofNat 32 (jit r / 16)))) v else v)) ∧
  (∀ (leg : BitVec 16) (ssrc : Option (BitVec 32)) (s : State),
    s.legOpen leg = false →
    exec (.rtcpReportTimer leg ssrc) s = .next s) ∧
  (∀ (c : Cmd) (s : State),
    let d := (c.w1.extractLsb' 49 3).toNat
    let i := (c.w1.extractLsb' 46 3).toNat
    (c.w1.extractLsb' 32 14).toNat < 60 ∨ (s.ethPort d i).maxFrame.toNat < (c.w1.extractLsb' 32 14).toNat + 4 ∨
      mediaSubport s d i = false →
    exec (.egrSend c) s = .next (runCmd 0xA0 c (fun u => (.done 2 0 0 0, u)) s)) ∧
  (∀ (c : Cmd) (s : State),
    let d := (c.w1.extractLsb' 49 3).toNat
    let i := (c.w1.extractLsb' 46 3).toNat
    let len := (c.w1.extractLsb' 32 14).toNat
    c.w1.extractLsb' 53 11 = 0 ∧ 60 ≤ len ∧ len + 4 ≤ (s.ethPort d i).maxFrame.toNat ∧ mediaSubport s d i = true ∧
      bufferOk s c.func (c.w1.extractLsb' 0 32).toNat len = true →
    let d := (c.w1.extractLsb' 49 3).toNat
    let i := (c.w1.extractLsb' 46 3).toNat
    let len := (c.w1.extractLsb' 32 14).toNat
    let bytes := rdBuffer s (c.w1.extractLsb' 0 32).toNat len
    let tag : BitVec 16 := c.w0.extractLsb' 48 16
    let p : TxPacket :=
      { kind := .control, ipLen := len, payload := bytes, seq := c.w1.extractLsb' 0 16, entry := s.clk
        owner := some (c.func, tag), stampTag := if c.w1.getLsbD 52 then some tag else none }
    (hostFrameMay s c.func d i bytes = true → exec (.egrSend c) s = .next (runCmd 0xA0 c (fun u => (.later,
      drainHost d ((s.die d).egr.hostWait.length + 1) (fillHost d (u.modDie d fun x =>
        { x with egr := { x.egr with hostWait := x.egr.hostWait ++ [(i, p)] } })))) s)) ∧
    (hostFrameMay s c.func d i bytes = false → ∃ v : BitVec 64, exec (.egrSend c) s = .next (runCmd 0xA0 c (fun u =>
      (.done 4 0 0 0, raiseFrom d (engineReq 5) 0x0C06 v { egrEv d 5 u with free := u.free + 1 })) s))) ∧
  (∀ (d i : Nat) (p : TxPacket) (s : State),
    (s.die d).egr.hostWait = [(i, p)] →
    drainHost d 1 s = if (s.die d).egr.hostTok < hostNeed then s else
      (s.modDie d fun x => { x with egr := { x.egr with hostWait := [], hostTok := x.egr.hostTok - hostNeed } }).modSub8 d i fun x =>
        { x with control := x.control ++ [p] }) ∧
  (∀ (leg : BitVec 16) (s : State),
    s.legOpen leg = true →
    (s.legLive leg).rateHost = false ∧ (s.legLive leg).txEn = true ∧ (s.legLive leg).video = true →
    let t := (s.leg leg).tx
    let u := s.advanceToStamp 0 (mpStamp (t.lastFeedback + 2000))
    let v := (setTarget leg (max (min (s.die (legDie leg)).egr.ccMin.toNat (s.legLive leg).targetRate) (t.target / 2)) 3 u).modTx leg fun t =>
      { t with lastFeedback := u.mpNo 0, starved := true }
    exec (.feedbackTimeout leg) s = .next (if t.starved then v
      else raiseFrom (legDie leg) (engineReq 5) 0x0C03 (leg.setWidth 64) (egrEv (legDie leg) 2 v)))

/-- The ready lists share 4,096 slots, of which HST_RESERVE are usable only by levels 6 and 7. A well-formed tub that the PF enqueues is accepted at the end of the pool, with result 1, exactly where its level is 6
or 7 and fewer than 4,096 tubs stand ready, or its level is below 6 and fewer than 4,096 less HST_RESERVE do; an
ordered one takes its flow's next SEQ; otherwise the pool is unchanged and the result is BUSY (2). -/
def Obligations.TheReadyPoolTakesTubsByLevel : Prop :=
  ∀ (die : Nat) (v : BitVec 64) (t : Tub) (s : State),
    s.off die = false ∧ s.hasDie die = true →
    t = { w := (List.range 8).map fun i => tget 0 (tset 0 (s.die die).hst.enq 7 v) i } →
    tubOk s die (hostReq 0) t = true →
    let n := (s.die die).hst.ready.length
    let taken := if 6 ≤ tubLevel t then n < 4096 else n < 4096 - (s.die die).hst.reserve.toNat
    let seq := if tubOrdered t then (s.flow die (tubFlow t)).next else 0
    ∃ u, exec (.hstEnqWrite 0 die v) s = .next u ∧
      (taken → (u.die die).hst.result = 1 ∧
        (u.die die).hst.ready = (s.die die).hst.ready ++ [{ t with src := hostReq 0, stamp := s.now die, seq := seq }]) ∧
      (¬taken → (u.die die).hst.result = 2 ∧ (u.die die).hst.ready = (s.die die).hst.ready)

/-- A core is given the highest eligible tub, refused and stalled enqueues end, an overdue ordered tub is skipped. The tub a core is given is eligible for it, and no eligible tub has a higher level. A core of another class than the
Face that holds nothing takes it from the pool; with none eligible nothing changes. A waiting customer core is given
it where no core that has waited longer may take it. A write of the PF's enqueue words by a VF is ignored; a tub that
breaks the form is refused with result 3. The stall of a packet or codec core's enqueue ends as BUSY with 0x0D02. A
flow whose oldest unreleased tub has been taken and is not done is skipped after HST_TALLY_TMO; a flow with no tub
taken is left alone. -/
def Obligations.TubsAreGivenHighestFirst : Prop :=
  (∀ (s : State) (d cls core : Nat) (levels : Byte) (t : Tub),
    bestTub s d cls core levels = some t →
    t ∈ (s.die d).hst.ready ∧ eligible s d cls core levels t = true ∧
      ∀ u ∈ (s.die d).hst.ready, eligible s d cls core levels u = true → tubLevel u ≤ tubLevel t) ∧
  (∀ (die cls core : Nat) (s : State),
    1 ≤ cls →
    tget none (s.die die).hst.held (loadIndex cls core) = none →
    (s.die die).hst.stalls = [] →
    exec (.takeDelivery die cls core) s = .next (match bestTub s die cls core 0xFF with
      | some t => takeTub die cls core t s
      | none => s)) ∧
  (∀ (die core : Nat) (me : Nat × Nat × BitVec 8 × BitVec 64) (t : Tub) (s : State),
    (s.faceCore die core).role = 1 →
    (s.die die).hst.waits.find? (fun w => w.1 == 0 && w.2.1 == core) = some me →
    bestTub s die 0 core me.2.2.1 = some t →
    (∀ w ∈ (s.die die).hst.waits, eligible s die w.1 w.2.1 w.2.2.1 t = true → waitsBefore w me = false) →
    (s.die die).hst.stalls = [] →
    exec (.takeDelivery die 0 core) s = .next (deliver die core t (takeTub die 0 core t s))) ∧
  (∀ (func die : Nat) (v : BitVec 64) (s : State),
    func ≠ 0 →
    exec (.hstEnqWrite func die v) s = .next s) ∧
  (∀ (die : Nat) (v : BitVec 64) (t : Tub) (s : State),
    s.off die = false ∧ s.hasDie die = true →
    t = { w := (List.range 8).map fun i => tget 0 (tset 0 (s.die die).hst.enq 7 v) i } →
    tubOk s die (hostReq 0) t = false →
    exec (.hstEnqWrite 0 die v) s = .next ((refuseTub die (hostReq 0) t (s.modDie die fun x => { x with hst := { x.hst with
      enq := tset 0 x.hst.enq 7 v } })).modDie die fun x => { x with hst := { x.hst with result := 3, resTag := tubTag t } })) ∧
  (∀ (die : Nat) (src : BitVec 8) (x : Stall) (s : State),
    (s.die die).hst.stalls.find? (fun y => y.src == src) = some x →
    0x50 < src.toNat →
    let u := s.advance ((unitsUs * (s.die die).hst.stallMax.toNat + 1 : Int) - stampDiff s.clk x.since).toNat
    exec (.stallTimeout die src) s = .next (raiseFrom die src 0x0D02 (src.setWidth 64) (trace die 4 0x7F x.tub src 0
      (hstEv die 1 (hstCnt die 4 (u.modDie die fun y => { y with hst := { y.hst with stalls := y.hst.stalls.erase x } })))))) ∧
  (∀ (die : Nat) (src : BitVec 8) (s : State),
    (∀ y ∈ (s.die die).hst.stalls, y.src ≠ src) →
    exec (.stallTimeout die src) s = .next s) ∧
  (∀ (die flow n : Nat) (t : Tub) (at_ at2 : BitVec 64) (s : State),
    (s.die die).hst.held = [(n, some (t, at2))] →
    tubOrdered t = true ∧ tubFlow t = flow ∧ t.seq = (s.flow die flow).oldest →
    (s.flow die flow).taken = [((s.flow die flow).oldest, at_)] →
    exec (.tallySkip die flow) s = .next (tallySkip die t false
      (s.advance (((unitsUs * (s.die die).hst.tallyTmo.toNat : Nat) : Int) - stampDiff s.clk at_).toNat))) ∧
  (∀ (die flow : Nat) (s : State),
    (s.flow die flow).taken = [] →
    exec (.tallySkip die flow) s = .next s)

/-- RUN starts a stopped customer core at ENTRY, STOP stops it, a bundle issues or faults, DMA moves its rows, instruction memory is written only while stopped. A control write to a vendor or spare core is ignored. RUN of a STOPPED or FAULT customer core starts it at ENTRY with
cleared registers and flags and a copy of its instruction memory; STOP of one that waits in TAKE, or runs and does not
stall, stops it. A core that does not run issues nothing; a vendor core's bundle only counts its cycle; a customer
core's bundle of NOPs moves PC on by one, one cycle long; an illegal bundle faults with cause 1 and 0x0E01 before any
of it takes effect. A DMA channel that runs without poisoned source lines, of a core that does not stall, moves its
rows and is idle, with its fence written after; an idle one does nothing. An instruction memory write by the PF to a
stopped core writes one half of a bundle; to a running one it is discarded with 0x0E04, by a VF it finds no register.
A running vendor core without a tub, on a die without audio legs, restarts with 0x0E02. -/
def Obligations.FaceCoresRunStopAndFault : Prop :=
  (∀ (die core : Nat) (v : BitVec 64) (s : State),
    (s.faceCore die core).role ≠ 1 →
    exec (.run die core v) s = .next s ∧ exec (.stop die core v) s = .next s) ∧
  (∀ (die core : Nat) (v : BitVec 64) (s : State),
    (s.faceCore die core).role = 1 →
    (s.faceCore die core).state = .stopped ∨ (s.faceCore die core).state = .fault →
    v.getLsbD 0 = true →
    exec (.run die core v) s = .next (s.modDie die fun x => { x with face := tmod {} x.face core fun y =>
      { state := .running, role := y.role, cause := y.cause, pc := v.extractLsb' 16 12, fault := y.fault, busy := y.busy
        entry := v.extractLsb' 16 12, imem := y.imem, imemCopy := y.imem, dmem := y.dmem, dma := y.dma } })) ∧
  (∀ (die core : Nat) (v : BitVec 64) (s : State),
    (s.faceCore die core).role = 1 →
    (s.faceCore die core).state = .waiting ∨ ((s.faceCore die core).state = .running ∧ (s.faceCore die core).stalled = []) →
    v.getLsbD 1 = true ∧ v.getLsbD 0 = false →
    exec (.stop die core v) s = .next (stopCore die core (s.modFace die core fun x => { x with entry := v.extractLsb' 16 12 }))) ∧
  (∀ (die core : Nat) (s : State),
    (s.faceCore die core).state ≠ .running →
    exec (.bundleIssue die core) s = .next s ∧ exec (.vendorCoreRestart die core) s = .next s) ∧
  (∀ (die core : Nat) (s : State),
    (s.faceCore die core).state = .running ∧ (s.faceCore die core).stalled = [] ∧ (s.faceCore die core).role = 0 →
    exec (.bundleIssue die core) s = .next (s.modFace die core fun x => { x with cycle := x.cycle + 1, busy := x.busy + 1 })) ∧
  (∀ (die core : Nat) (s : State),
    let x := s.faceCore die core
    x.state = .running ∧ x.stalled = [] ∧ x.role = 1 ∧ x.flights = [] ∧ x.loop = none ∧ x.take = none ∧ x.branch = none ∧
      x.stop = false ∧ x.pc.toNat < 4095 ∧ tget 0 x.imem x.pc.toNat = 0 →
    exec (.bundleIssue die core) s = .next (s.modFace die core fun x =>
      { x with pc := x.pc + 1, cycle := x.cycle + 1, busy := x.busy + 1 })) ∧
  (∀ (die core : Nat) (s : State),
    let x := s.faceCore die core
    x.state = .running ∧ x.stalled = [] ∧ x.role = 1 ∧ x.flights = [] ∧ bundleLegal (tget 0 x.imem x.pc.toNat) = false →
    exec (.bundleIssue die core) s = .next (faultCore die core 1 0 s)) ∧
  (∀ (die core ch : Nat) (s : State),
    (tget {} (s.faceCore die core).dma ch).busy = false →
    exec (.dmaDone die core ch) s = .next s) ∧
  (∀ (die core ch : Nat) (s : State),
    (tget {} (s.faceCore die core).dma ch).busy = true →
    (s.faceCore die core).stalled = [] →
    (s.die die).drc.poison = [] →
    dmaRows (tget {} (s.faceCore die core).dma ch).desc < 4096 →
    let k := tget {} (s.faceCore die core).dma ch
    let moved := dmaMove die core k.desc s
    let idle := { moved with free := moved.free + 1 }.modFace die core fun x => { x with
      dma := tset {} x.dma ch { k with busy := false, rows := BitVec.ofNat 12 (dmaRows k.desc), desc := [] } }
    exec (.dmaDone die core ch) s = .next (if (k.desc.getD 1 0).getLsbD 19 then
        fenceSet die ((k.desc.getD 1 0).extractLsb' 20 8).toNat ((k.desc.getD 2 0).extractLsb' 32 32) idle else idle)) ∧
  (∀ (func die core off : Nat) (v : BitVec 64) (s : State),
    s.off die = false ∧ func ≠ 0 →
    exec (.faceImemWrite func die core off v) s = .next (rangeError die func s)) ∧
  (∀ (die core off : Nat) (v : BitVec 64) (s : State),
    s.off die = false →
    (s.faceCore die core).role = 1 →
    (s.faceCore die core).state ≠ .retired →
    off < 0x10000 →
    let stands := (s.faceCore die core).state = .stopped ∨ (s.faceCore die core).state = .fault
    (stands → exec (.faceImemWrite 0 die core off v) s = .next (s.modFace die core fun x => { x with
      imem := tmod 0 x.imem (off / 16) fun b =>
        if off / 8 % 2 = 1 then v ++ b.extractLsb' 0 64 else b.extractLsb' 64 64 ++ v })) ∧
    (¬stands → ∃ e : BitVec 64, exec (.faceImemWrite 0 die core off v) s =
      .next (raiseFrom die (hostReq 0) 0x0E04 e { s with free := s.free + 1 }))) ∧
  (∀ (die core : Nat) (s : State),
    (s.faceCore die core).state = .running ∧ (s.faceCore die core).role = 0 →
    tget none (s.die die).hst.held core = none →
    (s.openLegs die).all (fun l => !(s.legLive l).audio) = true →
    ∃ e : BitVec 64, exec (.vendorCoreRestart die core) s =
      .next ((raiseFrom die (faceReq core) 0x0E02 e { s with free := s.free + 1 }).modFace die core fun x => { x with cycle := 0 }))

/-- DROP discards the oldest unit whole, written or not, and leaves the next one. A DROP where the ring holds a line with EOU discards every line up to and including the first such line and keeps
every line behind it. Where it holds none, it discards all its lines and the open one, and each write that follows is
discarded, up to and including the one with END, whether END had been written before the DROP or comes after it; from
then on the queue takes writes again. -/
def Obligations.DropDiscardsExactlyOneUnit : Prop :=
  (∀ (die q : Nat) (a b : List (List Byte × BitVec 7 × Bool)) (bs : List Byte) (n : BitVec 7) (s : State),
    queueExists q = true →
    (s.queue die q).ring = a ++ (bs, n, true) :: b →
    a.all (fun l => !l.2.2) = true →
    exec (.drop die q) s = .next (s.modQueue die q fun x =>
      let p : BitVec 16 := BitVec.ofNat 16 ((x.rd.toNat + a.length + 1) % (2 * x.lines))
      { x with ring := b, rd := p, rdN := ~~~p })) ∧
  (∀ (die q : Nat) (s : State),
    queueExists q = true →
    (s.queue die q).ring.all (fun l => !l.2.2) = true →
    s.hasDie die = true →
    ∃ t, exec (.drop die q) s = .next t ∧ (t.queue die q).ring = [] ∧ (t.queue die q).part = [] ∧ (t.queue die q).dropping = true) ∧
  (∀ (die q : Nat) (bytes : List (BitVec 8)) (ended : Bool) (s : State),
    queueExists q = true →
    bytes ≠ [] →
    (s.queue die q).dropping = true →
    exec (.queueWrite die q bytes ended) s = .next (s.modQueue die q fun x =>
      { x with skip := x.skip && !ended, dropping := !ended, midUnit := !ended }))

/-- Accesses beyond the capacity are refused, reads return what was written or poison, rows are counted, queues pack bytes and reset on a pointer upset. A write beyond a die's trained capacity is discarded with DRC_CNT 7 and 0x0F08; a read there counts and reports the
same and returns poison. A read of an unpoisoned line returns its 64 bytes, one of a poisoned line returns none,
latches DRC_UE_ADDR and reports 0x0F02; a write within a line stores its bytes. The end of a row window clears all
counts and throttling. A same-bank refresh counts. A temperature read that crosses 85 °C sets or clears HOT with
0x0F07, another changes nothing. A subchannel that has drifted is retrained where the last retrain is 100 ms past. The
scrub steps line by line and counts a pass at the last. A write without END into a queue with room packs its bytes
behind the open line; with END it commits them as a line of their number with EOU. A pointer check of agreeing copies
changes nothing. -/
def Obligations.DramAccessesAreCheckedAndCounted : Prop :=
  (∀ (a : DramReq) (bs : List (BitVec 8)) (s : State),
    s.hasDie a.die = true →
    trainedBytes (s.die a.die).drc ≤ a.addr →
    a.data = some bs →
    exec (.dramAccess a) s = .next (raiseFrom a.die a.req 0x0F08 (BitVec.ofNat 64 (2 ^ 37 * a.die + a.addr)) (drcCnt a.die 7 s))) ∧
  (∀ (a : DramReq) (s : State),
    s.hasDie a.die = true →
    trainedBytes (s.die a.die).drc ≤ a.addr →
    a.data = none →
    exec (.dramAccess a) s = .next (takePoison a.die a.addr a.req
      { raiseFrom a.die a.req 0x0F08 (BitVec.ofNat 64 (2 ^ 37 * a.die + a.addr)) (drcCnt a.die 7 s) with readData := [] })) ∧
  (∀ (a : DramReq) (s : State),
    s.hasDie a.die = true →
    a.addr < trainedBytes (s.die a.die).drc →
    a.data = none →
    let line := a.addr / 64 * 64
    let u := activate a.die a.addr a.req s
    let poisonedLine := (s.die a.die).drc.poison.contains line ∨ a.ecc = .uncorrectable
    (¬poisonedLine → a.ecc ≠ .corrected → exec (.dramAccess a) s = .next { u with readData := rdBytes (s.die a.die).dram line 64 }) ∧
    (poisonedLine → exec (.dramAccess a) s = .next (takePoison a.die a.addr a.req (poisoned a.die a.addr a.req { u with readData := [] })))) ∧
  (∀ (a : DramReq) (bs : List (BitVec 8)) (s : State),
    s.hasDie a.die = true →
    a.die < 8 ∧ a.addr < 2 ^ 37 →
    a.data = some bs →
    a.addr + bs.length ≤ trainedBytes (s.die a.die).drc ∧ bs ≠ [] ∧ bs.length ≤ 64 - a.addr % 64 →
    ∃ t, exec (.dramAccess a) s = .next t ∧ (t.die a.die).dram = wrBytes (s.die a.die).dram a.addr bs) ∧
  (∀ (die : Nat) (s : State),
    exec (.rowWindowEnd die) s = .next (s.modDie die fun x => { x with drc := { x.drc with banks := [], throttled := 0 } }) ∧
    exec (.sameBankRefresh die) s = .next (s.modDie die fun x => { x with drc := { x.drc with refreshes := x.drc.refreshes + 1 } })) ∧
  (∀ (die : Nat) (milliC : Int) (s : State),
    ∃ v : BitVec 64, exec (.dramTemperatureRead die milliC) s = .next
      (if (s.die die).drc.hot = decide (85000 < milliC) then s
       else raiseFrom die dukenCheck 0x0F07 v { drcEv die 6 (s.modDie die fun x => { x with
         drc := { x.drc with hot := decide (85000 < milliC) } }) with free := s.free + 1 })) ∧
  (∀ (die sub driftPs : Nat) (dT : Int) (s : State),
    sub < 4 →
    (s.die die).drc.chOk.getLsbD (sub / 2) = true →
    (s.die die).drc.lastRetrain = none →
    exec (.retrainCheck die sub driftPs dT) s = .next
      (if (s.die die).drc.retrainPs.toNat < driftPs ∨ 10000 < dT.natAbs then
        drcEv die 3 (drcCnt die 4 (s.modDie die fun x => { x with drc := { x.drc with lastRetrain := some s.clk } }))
       else s)) ∧
  (∀ (die : Nat) (s : State),
    let c := (s.die die).drc
    64 ≤ trainedBytes c ∧ c.poison.contains (c.scrubNext % trainedBytes c) = false →
    let n := trainedBytes (s.die die).drc
    let a := (s.die die).drc.scrubNext % n
    exec (.patrolScrub die .clean) s = .next (s.modDie die fun x => { x with drc := { x.drc with
      scrubNext := (a + 64) % n, scrubPasses := if n ≤ a + 64 then x.drc.scrubPasses + 1 else x.drc.scrubPasses } })) ∧
  (∀ (die q : Nat) (bytes : List (BitVec 8)) (s : State),
    queueExists q = true →
    bytes ≠ [] ∧ bytes.length ≤ 16 →
    (s.queue die q).skip = false ∧ (s.queue die q).dropping = false →
    (s.queue die q).part.length + bytes.length < 64 →
    (s.queue die q).ring.length < (s.queue die q).lines →
    let x := s.queue die q
    let p : BitVec 16 := BitVec.ofNat 16 ((x.wr.toNat + 1) % (2 * x.lines))
    exec (.queueWrite die q bytes false) s = .next (s.modQueue die q fun y => { y with part := x.part ++ bytes, midUnit := true }) ∧
    exec (.queueWrite die q bytes true) s = .next (s.modQueue die q fun y => { y with
      ring := x.ring ++ [((x.part ++ bytes ++ List.replicate 64 0).take 64, BitVec.ofNat 7 (x.part.length + bytes.length), true)]
      wr := p, wrN := ~~~p, part := [], midUnit := false })) ∧
  (∀ (die q : Nat) (bytes : List (BitVec 8)) (s : State),
    queueExists q = true →
    bytes ≠ [] ∧ bytes.length ≤ 16 →
    (s.queue die q).skip = false ∧ (s.queue die q).dropping = false →
    (s.queue die q).lines ≤ (s.queue die q).ring.length →
    (s.queue die q).part.length < 64 →
    exec (.queueWrite die q bytes true) s = .next s) ∧
  (∀ (die q : Nat) (s : State),
    queueOk (s.queue die q) = true →
    s.queue die q ≠ {} ∨ (s.die die).drc.queues = [] →
    exec (.queuePointerCheck die q 0) s = .next (if queueExists q ∧ s.hasDie die = true then s.modQueue die q (fun x => x) else s))

/-- Units of a pair take their roles, the standby follows ledger, re-seeds and fetches, and compares digests. A running unit that finds an active peer joins it; one with another MAN_SEQ is not joined and reports 0x1207; of two
that come up together the strap decides, then the lower MAC; a search of 2 s without a peer makes strap 0 active and
leaves strap 1 joining. A settled active unit takes its peer back, a standby keeps its role. Each record that reaches
a unit standing by counts in PAR_CNT 0: a TARGET record sets a leg's target, a STEP record the pending step, a SENT
record the stream's last picture, a RANDOM record is kept for its draw; an active unit ignores them. A packet fetched
on behalf of an ADMIT record counts PAR_CNT 5 and is placed, one that cannot be had counts PAR_CNT 2 with 0x1005 and
its leg diverges. A re-seed is installed at its boundary, or retried 20 MP later where the state has not come. The
active unit sends the digests of a second. A die whose structure differs is left out. Digests that agree with nothing
left out match the second; one that differs raises 0x1006, counts PAR_CNT 3 and diverges its unit's leg. -/
def Obligations.PairsFormAndFollowTheLedger : Prop :=
  (∀ (p : PeerSeen) (s : State),
    s.pair.cfg = true ∧ allRunning s = true ∧ p.present = true ∧ p.sameVariant = true ∧ p.sameStructure = true →
    p.manSeq.toNat = manSeq s (runBank s) →
    let mine := (s.ethPort 0 0).mac
    let leads := if s.pair.strap = p.strap then mine < p.mac else s.pair.strap = false
    (s.pair.role = .unpaired → p.role = .active → exec (.pairRoleSettle p) s = .next (parEv 0 (goJoining s))) ∧
    (s.pair.role = .unpaired → p.role ≠ .active → leads → exec (.pairRoleSettle p) s = .next (parEv 0 (goActive s))) ∧
    (s.pair.role = .unpaired → p.role ≠ .active → ¬leads → exec (.pairRoleSettle p) s = .next (parEv 0 (goJoining s))) ∧
    (s.pair.role = .active → p.role ≠ .active → exec (.pairRoleSettle p) s =
      .next { s with pair := { s.pair with peerLost := false } }) ∧
    (s.pair.role = .joining → p.role = .active → exec (.pairRoleSettle p) s =
      .next { s with pair := { s.pair with peerLost := false } }) ∧
    (s.pair.role = .joining → p.role ≠ .active → leads → exec (.pairRoleSettle p) s = .next (parEv 0 (goActive s))) ∧
    (s.pair.role = .active → p.role = .active → exec (.pairRoleSettle p) s = .next s) ∧
    (s.pair.role = .standby → exec (.pairRoleSettle p) s = .next s)) ∧
  (∀ (p : PeerSeen) (s : State),
    s.pair.cfg = true ∧ allRunning s = true ∧ p.present = true ∧ p.sameVariant = true →
    p.manSeq.toNat ≠ manSeq s (runBank s) →
    (s.pair.role = .active ∨ s.pair.role = .standby → exec (.pairRoleSettle p) s = .next s) ∧
    (s.pair.role = .unpaired ∨ s.pair.role = .joining → ∃ v : BitVec 64, exec (.pairRoleSettle p) s =
      .next (raiseFrom 0 dukenCheck 0x1207 v { s with free := s.free + 1 }))) ∧
  (∀ (s : State),
    s.pair.cfg = true ∧ allRunning s = true ∧ s.pair.role = .unpaired →
    exec .peerSearchTimeout s = .next (parEv 0
      (if s.pair.strap = true then goJoining s else goActive { s with pair := { s.pair with peerLost := true } }))) ∧
  (∀ (die rate : Nat) (l st : BitVec 16) (v m pic : BitVec 64) (s : State),
    standsBy s = true →
    s.hasDie die = true →
    exec (.ledgerRecord die (.target l rate)) s = .next ((parCnt die 0 s).modTx l fun t => { t with target := rate }) ∧
    exec (.ledgerRecord die (.step v m)) s =
      .next { parCnt die 0 s with servo := { s.servo with stepPending := some (v, m) } } ∧
    exec (.ledgerRecord die (.sent st pic)) s = .next { parCnt die 0 s with
      pair := { s.pair with sent := (st, pic) :: s.pair.sent.filter (fun e => e.1 != st) } } ∧
    exec (.ledgerRecord die (.random v)) s = .next { parCnt die 0 s with
      pair := { s.pair with ledger := s.pair.ledger ++ [.random v] } }) ∧
  (∀ (die : Nat) (r : LedgerRec) (s : State),
    s.pair.role = .active ∨ s.pair.role = .unpaired →
    exec (.ledgerRecord die r) s = .next s) ∧
  (∀ (die : Nat) (l seq : BitVec 16) (ssrc c1 : BitVec 32) (at_ : BitVec 64) (k : BitVec 3) (got : RxPacket) (s : State),
    standsBy s = true →
    s.pair.ledger.contains (.admission l ssrc seq c1 at_ k) = true →
    let r : LedgerRec := .admission l ssrc seq c1 at_ k
    let asked := { s with out := .peer askFetch (put l 32 ||| ssrc.setWidth 64) :: s.out }
    let p := { got with leg := l, c1 := c1, pkt := { got.pkt with ssrc := ssrc, seq := seq } }
    exec (.ledgerFetch die r (some got)) s = .next (standbyRtp p (parCnt die 5
      (if toJb (s.legLive l) p.pkt = true then jbPoolAdd (legDie l) p.ipLen asked else pktPoolAdd (legDie l) p.ipLen asked))) ∧
    exec (.ledgerFetch die r none) s = .next (diverge l (raise die 0x1005 (l.setWidth 64) (parCnt die 2
      { asked with pair := { s.pair with ledger := s.pair.ledger.erase r } })))) ∧
  (∀ (leg : BitVec 16) (m : BitVec 64) (r : Reseed) (s : State),
    standsBy s = true →
    s.pair.reseed.find? (fun e => e.1 == leg) = some (leg, m) →
    exec (.reseedInstall leg (some r)) s = .next (installReseed leg r (max s.nextMp m.toNat) s) ∧
    exec (.reseedInstall leg none) s = .next { s with pair := { s.pair with
      reseed := s.pair.reseed.map fun e => if e.1 = leg then (leg, BitVec.ofNat 64 (s.mpNo 0 + 20)) else e } }) ∧
  (∀ (die second : Nat) (inStep : Bool) (s : State),
    s.pair.role = .active ∧ s.pair.peerLost = false →
    s.hasDie die = true →
    exec (.digestSend die second inStep) s = .next { s with
      pair := { s.pair with prot := s.pair.prot || inStep }
      out := .digests die second (s.die die).str.id ((s.die die).str.ver.setWidth 32) (digestsOf s die second) :: s.out }) ∧
  (∀ (die second : Nat) (failed : List Nat) (s : State),
    standsBy s = true →
    s.hasDie die = true →
    (s.die die).par.excludedLast = [] →
    exec (.digestCompare die second (s.die die).str.id ((s.die die).str.ver.setWidth 32) (digestsOf s die second) failed) s =
      .next (noteInStep second (s.modDie die fun x => { x with par := { x.par with matched := some second } }))) ∧
  (∀ (die second : Nat) (u : BitVec 16) (c : BitVec 32) (s : State),
    standsBy s = true →
    s.hasDie die = true →
    digestsOf s die second = [] →
    (s.die die).par.excludedLast.contains u = false →
    exec (.digestCompare die second (s.die die).str.id ((s.die die).str.ver.setWidth 32) [(u, c)] []) s =
      .next (if c = digestIn [] u then
          (if (s.die die).par.excludedLast.isEmpty = true then
            noteInStep second (s.modDie die fun x => { x with par := { x.par with matched := some second } }) else s)
        else
          let t := raise die 0x1006 (u.setWidth 64) (parCnt die 3 s)
          soundMismatch die second (if u.getLsbD 15 = true then t else diverge (u &&& 0x3FFF) t))) ∧
  (∀ (die second : Nat) (image : BitVec 64) (version : BitVec 32) (theirs : List (BitVec 16 × BitVec 32)) (failed : List Nat) (s : State),
    (s.die die).str.id ≠ image ∨ (s.die die).str.ver.setWidth 32 ≠ version →
    exec (.digestCompare die second image version theirs failed) s = .next s)

/-- Heartbeats count their misses, a lost peer is replaced, roles switch at their boundary, announcements and checks follow. At a 250 µs instant a unit of a pair sends a heartbeat on every die's link. A heartbeat missed 10 µs after its instant
counts once in PAR_HB_MISS of its die; with four in a row on every link the peer is lost. Losing its peer sets
PEER_LOST and clears PROTECTED: an active unit goes on with 0x1002; a standby whose PAIR_ALIVE_IN is wired and high is
blocked with 0x1004, one with TAKEOVER_EN clear does nothing more, another becomes active, takes over at the next MP
boundary and raises 0x1003. At that boundary it starts its output and requests intra pictures; announcements go out at
their MPs, the checks run at T + 10, each fault raising 0x1007. The alive pin's filtered level shows. A write of
PAR_CTRL takes TAKEOVER_EN; SWITCH on an active unit schedules the switch at PAR_SWITCH_MP or, less than 100 MP ahead,
sets SWITCH_REJECT. At the boundary the active unit joins and the standby starts. -/
def Obligations.PairsBeatTakeOverAndSwitch : Prop :=
  (∀ (s : State),
    s.pair.role ≠ .unpaired →
    let u := settleBeats (toBeat s)
    exec .heartbeatSend s = .next (forAll u.dieList (fun d x => emit (.heartbeat d (x.now 0)) x)
      { u with pair := { u.pair with hbAt := some u.clk } })) ∧
  (∀ (die : Nat) (t : BitVec 64) (s : State),
    s.pair.hbAt = some t →
    s.pair.role ≠ .unpaired →
    s.hasDie die = true ∧ (s.die die).par.missed = false →
    let u := (s.advance ((10 * unitsUs : Int) - stampDiff s.clk t).toNat).modDie die fun x =>
      { x with par := { x.par with hbMiss := x.par.hbMiss + 1, hbRun := x.par.hbRun + 1, missed := true } }
    let lost := s.pair.peerLost = false ∧ ∀ d, s.hasDie d = true → 4 ≤ (u.die d).par.hbRun
    (¬lost → exec (.heartbeatMiss die) s = .next u) ∧ (lost → exec (.heartbeatMiss die) s = .next (losePeer u))) ∧
  (∀ (s : State),
    let u := { s with pair := { s.pair with event := s.pair.event ||| 2, peerLost := true, prot := false } }
    let t : BitVec 64 := BitVec.ofNat 64 s.nextMp
    (s.pair.role = .active → losePeer s = raise 0 0x1002 0 u) ∧
    (s.pair.role = .standby → s.pair.aliveWired = true → s.pair.alive = true →
      losePeer s = raise 0 0x1004 0 { u with pair := { u.pair with event := s.pair.event ||| 2 ||| 16 } }) ∧
    (s.pair.role = .standby → s.pair.aliveWired = false ∨ s.pair.alive = false → s.pair.takeoverEn = false → losePeer s = u) ∧
    (s.pair.role = .standby → s.pair.aliveWired = false ∨ s.pair.alive = false → s.pair.takeoverEn = true →
      losePeer s = raise 0 0x1003 0 (ownArrivals { u with pair := { u.pair with
        event := s.pair.event ||| 2 ||| 1, role := .active, takeoverT := some t } }))) ∧
  (∀ (t : BitVec 64) (s : State),
    s.pair.takeoverT = some t →
    let u := startOutput t.toNat (s.advanceTo 0 (unitsMp * t.toNat))
    exec .takeoverBoundary s = .next (forAll (u.dieList.flatMap u.openEncs)
      (fun c x => intraRequest c 15 (x.modEnc c fun y => { y with takeover := true })) { u with pair := { u.pair with sent := [] } })) ∧
  (∀ (m : BitVec 64) (rest : List (BitVec 64)) (s : State),
    s.pair.announceDue = m :: rest →
    let u := { s.advanceTo 0 (unitsMp * m.toNat) with pair := { s.pair with announceDue := rest } }
    exec .addressAnnouncement s = .next (forAll (announceList u) (fun e x =>
      x.modSub8 e.1 e.2.1 fun y => { y with control := y.control ++ [announcement x e.2.2] }) u)) ∧
  (∀ (t : BitVec 64) (bad : List (Nat × Nat)) (s : State),
    s.pair.checkAt = some t →
    let u := { s.advanceTo 0 (unitsMp * t.toNat) with pair := { s.pair with checkAt := none } }
    let subs := failedSubports t u
    let pads := bad.filter fun e => (u.tdmPort e.1 e.2).state == .running && decide (0 < cfgOut (u.tdmPort e.1 e.2).cfg)
    exec (.takeoverCheck bad) s = .next (forAll (subs ++ pads) (fun e x => raise e.1 0x1007 (BitVec.ofNat 64 e.2) (parEv 3 x))
      (forAll subs (fun e x => x.modSub8 e.1 e.2 fun y => { y with failed := true }) u))) ∧
  (∀ (level : Bool) (s : State),
    exec (.pairAliveInChange level) s = .next { s with pair := { s.pair with alive := level } }) ∧
  (∀ (v : BitVec 64) (s : State),
    s.off 0 = false →
    let p := { s.pair with takeoverEn := v.getLsbD 1 }
    (v.getLsbD 0 = false ∨ s.pair.role ≠ .active → exec (.switch v) s = .next { s with pair := p }) ∧
    (v.getLsbD 0 = true → s.pair.role = .active → s.pair.switchMp.toNat < s.mpNo 0 + 100 →
      exec (.switch v) s = .next { s with pair := { p with switchReject := true } }) ∧
    (v.getLsbD 0 = true → s.pair.role = .active → s.mpNo 0 + 100 ≤ s.pair.switchMp.toNat →
      exec (.switch v) s = .next { s with
        pair := { p with switchReject := false, switchAt := some s.pair.switchMp }, out := .peer tellSwitch s.pair.switchMp :: s.out })) ∧
  (∀ (t peer : BitVec 64) (s : State),
    s.pair.role = .active ∧ s.pair.switchAt = some t →
    let u := endMp t.toNat (s.advanceTo 0 (unitsMp * t.toNat))
    exec (.plannedSwitch peer) s = .next (parEv 0 (goJoining { u with pair := { u.pair with lastT := t } }))) ∧
  (∀ (peer : BitVec 64) (s : State),
    s.pair.role = .standby →
    exec (.plannedSwitch peer) s = .next (parEv 0 (startOutput peer.toNat
      { s.advanceTo 0 (unitsMp * peer.toNat) with pair := { s.pair with prot := false } })))

/-- Self-tests and Canaries retire units, re-plans choose bins, rails and junctions are reported, brace counts and alarms. A self-test that passes changes nothing; a failing SRAM row takes a spare row of its array with 0x100A; a failing unit
is retired with 0x1008. A Canary measurement stores slack and years; below the guard at bin 7 the cluster is worn and
its unit retired, once. A re-plan starts once, on a write or, with AUTO, from the 8,760th hour, and one that a package
reset ended 1 h after RUNNING; at its end, 480 s after its start, a cluster takes the lowest bin that keeps the guard,
bin 7 where none does, CAN_HOURS restarts and 0x100D is raised. A rail that falls below its warning level sets
BELOW_WARN, RAIL and 0x1105; one that recovers clears BELOW_WARN. A die not in brace enters it with stamp, rail, count
and the list of entries of 60 s; a 9th sets BRACE_ALARM with 0x1102. Brace ends with its duration and 0x1101, is
reported once by 0x1103 when it lasts 1 s, and the alarm clears once 8 entries are left. 100 °C raises 0x1106 once per
episode, below 95 °C the episode ends. -/
def Obligations.MonitorsRetireUnitsAndWatchPower : Prop :=
  (∀ (die unit : Nat) (s : State),
    exec (.assaySelfTest die unit true) s = .next s) ∧
  (∀ (die k : Nat) (s : State),
    s.hasDie die = true →
    k < 48 →
    (0 < (s.die die).can.repairFree.toNat → ∃ e : BitVec 64, exec (.assaySelfTest die (48 + k) false) s =
      .next (raiseFrom die dukenCheck 0x100A e { s.modDie die (fun x => { x with can := { x.can with
        repairUsed := x.can.repairUsed + 1, repairFree := x.can.repairFree - 1 } }) with free := s.free + 1 })) ∧
    ((s.die die).can.repairFree = 0 → exec (.assaySelfTest die (48 + k) false) s = .next (retireUnit die k s)) ∧
    (∃ e : BitVec 64, exec (.assaySelfTest die k false) s =
      .next (retireUnit die k (raiseFrom die dukenCheck 0x1008 e { s with free := s.free + 1 })))) ∧
  (∀ (die k : Nat) (slack : BitVec 8) (s : State),
    s.hasDie die = true →
    k < 48 →
    slack ≠ 0 →
    let c := tget {} (s.die die).can.clusters k
    let wears := c.bin = 7 ∧ c.worn = false ∧ slack.toInt < ((s.die die).can.guard.toNat : Int)
    ∃ y : BitVec 16,
      let l := tset {} (s.die die).can.clusters k { c with slack := slack, years := y }
      let u := { s.modDie die (fun x => { x with can := { x.can with clusters := l } }) with free := s.free + 1 }
      (¬wears → exec (.canaryMeasure die k slack) s = .next u) ∧
      (wears → exec (.canaryMeasure die k slack) s = .next (retireUnit die k (u.modDie die fun x => { x with can :=
        { x.can with clusters := tmod {} x.can.clusters k fun z => { z with worn := true } } })))) ∧
  (∀ (die : Nat) (auto : Bool) (s : State),
    (auto = false → s.off die = false) →
    (s.die die).can.replanDue = false →
    exec (.replan die auto) s = .next (if (s.die die).can.replanning = false ∧
      (auto = true → (s.die die).can.auto = true ∧ 8760 ≤ (s.die die).can.hours.toNat) then
        s.modDie die fun x => { x with can := { x.can with replanning := true, replanAt := s.clk } } else s)) ∧
  (∀ (die : Nat) (s : State),
    (s.die die).can.replanDue = true ∧ (s.die die).can.replanning = false ∧ (s.die die).can.auto = true →
    (s.die die).str.state = .running →
    let u := s.advance ((3600 * unitsSec : Int) - stampDiff s.clk (s.die die).str.runAt).toNat
    exec (.replan die true) s = .next (u.modDie die fun x => { x with can := { x.can with
      replanning := true, replanAt := u.clk, replanDue := false } })) ∧
  (∀ (die k : Nat) (l : List (BitVec 8)) (s : State),
    (s.die die).can.replanning = true →
    k < 48 →
    let guard : Int := (s.die die).can.guard.toNat
    let u := s.advance ((480 * unitsSec : Int) - stampDiff s.clk (s.die die).can.replanAt).toNat
    ∃ (b : BitVec 3) (e : BitVec 64),
      (∀ i, i < b.toNat → (l.getD i 0).toInt < guard) ∧ (guard ≤ (l.getD b.toNat 0).toInt ∨ b = 7) ∧
      exec (.marginReplanDone die [(k, l)]) s = .next (raiseFrom die dukenCheck 0x100D e
        { u.modDie die (fun x => { x with can := { x.can with
          replanning := false, hours := 0, clusters := tmod {} x.can.clusters k fun c => { c with target := b } } }) with free := s.free + 1 })) ∧
  (∀ (die rail : Nat) (s : State),
    s.hasDie die = true →
    2 ≤ rail ∧ rail < 6 →
    (rail = 5 → die = 0) →
    let m : BitVec 8 := 1#8 <<< rail
    exec (.railWarning die rail false) s = .next (s.modDie die fun x => { x with pwr := { x.pwr with belowWarn := x.pwr.belowWarn &&& ~~~m } }) ∧
    ((s.die die).pwr.belowWarn.getLsbD rail = false → ∃ e : BitVec 64, exec (.railWarning die rail true) s =
      .next (raiseFrom die dukenCheck 0x1105 e { s.modDie die (fun x => { x with pwr := { x.pwr with
        belowWarn := x.pwr.belowWarn ||| m, event := x.pwr.event ||| 8 } }) with free := s.free + 1 }))) ∧
  (∀ (die : Nat) (sram : Bool) (s : State),
    (s.die die).pwr.brace = false →
    (recentBraces s die).length < 8 ∨ (s.die die).pwr.alarm = true →
    let u := railMonitor die (if sram then 1 else 0) true s
    exec (.braceEntry die sram) s = .next (u.modDie die fun x => { x with pwr := { x.pwr with
      event := x.pwr.event ||| 1, brace := true, braceAt := s.clk, braceRail := sram, sustained := false,
      braceCnt := x.pwr.braceCnt + 1, recent := s.clk :: recentBraces s die } })) ∧
  (∀ (die : Nat) (sram : Bool) (s : State),
    (s.die die).pwr.brace = false →
    8 ≤ (recentBraces s die).length ∧ (s.die die).pwr.alarm = false →
    let u := railMonitor die (if sram then 1 else 0) true s
    ∃ e : BitVec 64, exec (.braceEntry die sram) s = .next (raiseFrom die dukenCheck 0x1102 e
      { u.modDie die (fun x => { x with pwr := { x.pwr with
          event := x.pwr.event ||| 1 ||| 2, brace := true,
          braceAt := s.clk, braceRail := sram, sustained := false, braceCnt := x.pwr.braceCnt + 1, alarm := true,
          recent := s.clk :: recentBraces s die } }) with free := s.free + 1 })) ∧
  (∀ (die : Nat) (s : State),
    (s.die die).pwr.brace = true →
    let p := (s.die die).pwr
    let ns := (stampDiff s.clk p.braceAt).toNat / unitsNs
    exec (.braceExit die) s = .next (raise die 0x1101 ((BitVec.ofNat 64 ns &&& 0xFFFFFFFFFF) ||| putB p.braceRail 40)
      (s.modDie die fun x => { x with pwr := { x.pwr with
        brace := false, belowWarn := x.pwr.belowWarn &&& ~~~2 &&& ~~~1,
        lastNs := BitVec.ofNat 32 (min ns (2 ^ 32 - 1)) } })) ∧
    ((s.die die).pwr.sustained = false → ∃ e : BitVec 64,
      let u := s.advance ((unitsSec : Int) - stampDiff s.clk p.braceAt).toNat
      exec (.braceSustained die) s = .next (raiseFrom die dukenCheck 0x1103 e
        { u.modDie die (fun x => { x with pwr := { x.pwr with event := x.pwr.event ||| 4, sustained := true } }) with free := s.free + 1 }))) ∧
  (∀ (die : Nat) (s : State),
    (s.die die).pwr.alarm = true →
    (recentBraces s die).length ≤ 8 →
    exec (.braceAlarmClear die) s = .next (s.modDie die fun x => { x with pwr := { x.pwr with recent := recentBraces s die, alarm := false } })) ∧
  (∀ (die : Nat) (s : State),
    exec (.junctionEpisodeEnd die) s = .next (s.modDie die fun x => { x with pwr := { x.pwr with hotEpisode := false } }) ∧
    ((s.die die).pwr.hotEpisode = true → exec (.junctionHot die) s = .next s) ∧
    ((s.die die).pwr.hotEpisode = false → ∃ e : BitVec 64, exec (.junctionHot die) s = .next (raiseFrom die dukenCheck 0x1106 e
      { s.modDie die (fun x => { x with pwr := { x.pwr with event := x.pwr.event ||| 16, hotEpisode := true } }) with free := s.free + 1 })))

/-- A package reset keeps fuses, flash and wear, a die reset leaves other dies and its memory, an FLR ends a function's queues. A power-on, and a RESET_N pulse of 10 µs or more, resets the package: device time restarts at 0; tables, queues,
moves, legs and conferences are lost; fuses, flash and each die's capacity are kept; the strap is sampled, each die's
log holds only 0x1104 with the kind. A pulse below 100 ns does nothing. SOFT resets only with its key and only for the
PF; a lockstep stop of die 0 and a SUPPLY reset of die 0 or of the package rail reset the package, of another die that
die, the record of a brace written first. DIE_GO of the PF resets a die from 1 to n − 1: every other die is as before
but for the limiters and encoders that the die ran of its conferences, the tables and the queues are as before, its
DRAM and key slots are kept and it is rejoining. A package reset is absorbed by the same one in progress, and a SOFT
one by SUPPLY. An FLR returns the queues of its function but for the running commands, and drops its doorbells;
PERST_N takes the link down and does so for every function, its release brings the link up. A die that rejoins follows
die 0's time, is LOADED, and trigger target 2 is armed on it 2 MP ahead. -/
def Obligations.ResetsKeepWhatTheirKindKeeps : Prop :=
  (∀ (s : State),
    s.inReset = none →
    ∃ b : Bool, exec .por s = .next (packageReset 0 { s with pair := { s.pair with strap := b }, free := s.free + 1 })) ∧
  (∀ (lowNs : Nat) (role : Bool) (s : State),
    (lowNs < 100 → exec (.pinReset lowNs role) s = .next s) ∧
    (10000 ≤ lowNs → s.inReset = none → ∃ t, exec (.pinReset lowNs role) s = .next t ∧
      t.fuses = s.fuses ∧ t.flash = s.flash ∧ t.uptime = 0 ∧ t.tables = [] ∧ t.queues = [] ∧ t.moves = [] ∧
      t.pair = { strap := role, alive := s.pair.alive } ∧ t.dies.length = s.dies.length ∧
      ∀ d, s.hasDie d = true → (t.die d).cap = (s.die d).cap ∧ (t.die d).tim = {} ∧ (t.die d).legs = [] ∧
        (t.die d).confs = [] ∧ (t.die d).dram = [] ∧ (t.die d).cip = { saveCtr := (s.die d).cip.saveCtr } ∧
        ∃ r, (t.die d).err.ring = [(0, some r)] ∧ r.code = 0x1104 ∧ r.detail = 1)) ∧
  (∀ (kind : BitVec 3) (d : Nat) (s : State),
    s.inReset = none →
    kind = 2 ∨ kind = 3 →
    s.hasDie d = true →
    let t := packageReset kind s
    t.fuses = s.fuses ∧ t.flash = s.flash ∧ t.uptime = 0 ∧ t.tables = [] ∧ t.queues = [] ∧ (t.die d).legs = [] ∧
      (t.die d).pwr.braceCnt = (s.die d).pwr.braceCnt ∧ (t.die d).pwr.causeKind = kind ∧
      (t.die d).pwr.causeCount = (s.die d).pwr.causeCount + 1 ∧
      packageReset kind t = t ∧ packageReset 2 t = t) ∧
  (∀ (func : Nat) (v : BitVec 64) (s : State),
    v.getLsbD 0 = true →
    v.extractLsb' 16 16 = 0x5AFE#16 →
    (func = 0 → exec (.soft func v) s = .next (packageReset 2 s)) ∧
    (func ≠ 0 → ∃ e : BitVec 64, exec (.soft func v) s = .next (raiseFrom 0 (hostReq func) 0x1301 e { s with free := s.free + 1 }))) ∧
  (∀ (v : BitVec 64) (s : State),
    v.getLsbD 0 = true →
    v.extractLsb' 16 16 ≠ 0x5AFE#16 →
    ∃ c : BitVec 16, exec (.soft 0 v) s = .next (raiseFrom 0 (hostReq 0) c 0x328 { s with free := s.free + 1 })) ∧
  (∀ (v : BitVec 64) (s : State),
    v.getLsbD 0 = false ∧ v.getLsbD 1 = true →
    let d := (v.extractLsb' 2 3).toNat
    0 < d ∧ s.hasDie d = true ∧ (s.die d).pwr.rejoining = false →
    s.inReset = none →
    s.restr.busy = false →
    s.moves = [] →
    s.pair.cfg = false →
    let d := (v.extractLsb' 2 3).toNat
    ∃ t, exec (.dieGo 0 v) s = .next t ∧ (∀ e, e ≠ d → t.die e = { s.die e with confs := (s.die e).confs.map fun k => (k.1, { k.2 with
        lim := tset {} k.2.lim d {}
        encs := k.2.encs.filter fun n => n.1.1 != d
        held := k.2.held.map fun h => { h with gains := tset [] h.gains d [] } }) }) ∧ t.tables = s.tables ∧ t.queues = s.queues ∧
      t.servo = s.servo ∧ (t.die d).dram = (s.die d).dram ∧ (t.die d).cip = { slots := (s.die d).cip.slots, saveCtr := (s.die d).cip.saveCtr } ∧
      (t.die d).pwr.rejoining = true ∧ (t.die d).pwr.causeKind = 4 ∧ (t.die d).str.state = .none ∧
      (t.die d).legs = (s.die d).legs.map fun e => (e.1, resumeLeg e.2)) ∧
  (∀ (die : Nat) (s : State),
    (die = 0 → exec (.lockstepStop die) s = .next (packageReset 2 { s with upd := { s.upd with lockstepStop := true } })) ∧
    (die ≠ 0 → exec (.lockstepStop die) s = .next (dieReset false die { s with upd := { s.upd with lockstepStop := true } }))) ∧
  (∀ (die : Nat) (rail : Option Nat) (s : State),
    (s.die die).pwr.brace = false →
    (die = 0 ∨ rail = some 5 → exec (.supplyReset die rail) s = .next (packageReset 3 s)) ∧
    (die ≠ 0 → rail ≠ some 5 → exec (.supplyReset die rail) s = .next (dieReset true die s))) ∧
  (∀ (die : Nat) (s : State),
    die ≠ 0 →
    (s.die die).pwr.brace = true →
    let p := (s.die die).pwr
    let ns := (stampDiff s.clk p.braceAt).toNat / unitsNs
    exec (.supplyReset die none) s = .next (dieReset true die (raise die 0x1101
      (1 <<< 63 ||| (BitVec.ofNat 64 ns &&& 0xFFFFFFFFFF) ||| putB p.braceRail 40)
      (s.modDie die fun x => { x with pwr := { x.pwr with brace := false, lastNs := BitVec.ofNat 32 (min ns (2 ^ 32 - 1)) } })))) ∧
  (∀ (f : Nat) (s : State),
    s.inReset = none →
    ∃ t, exec (.flr f) s = .next t ∧ t.queues = tset {} s.queues f { running := (s.fq f).running } ∧
      t.badBells = s.badBells.filter (fun e => e.2.2.func != f) ∧
      t.tables = s.tables ∧ t.dies.length = s.dies.length ∧ ∀ d, t.die d = { s.die d with
        legs := (s.die d).legs.map fun e => (e.1, { e.2 with
          db := e.2.db.filter (fun b => b.func != f), busyDbs := e.2.busyDbs.filter fun b => b.func != f }),
        confs := (s.die d).confs.map fun e => (e.1, { e.2 with
          db := e.2.db.filter (fun b => b.func != f), busyDbs := e.2.busyDbs.filter fun b => b.func != f }) }) ∧
  (∀ (s : State),
    exec .perstN s = .next (if s.inReset = none then forAll (List.range 64) flrOne { s with linkUp := false } else { s with linkUp := false }) ∧
    exec .perstNRelease s = .next { s with linkUp := true }) ∧
  (∀ (die : Nat) (s : State),
    (s.die die).pwr.rejoining = true ∧ (s.die die).drc.trained = true →
    s.upd.waitRejoin = false →
    let u := s.modDie die fun x => { x with
        tim := { x.tim with time := s.time 0 }, str := { x.str with state := .loaded }, pwr := { x.pwr with rejoining := false, rejoinSupply := false } }
    let t := armLead die 2 (u.mpNo 0 + 2) u
    exec (.dieResetRejoin die) s = .next (if s.restr.busy = true ∧ s.restr.step = 7 ∧ s.restr.die.toNat = die then
      { t with restr := { s.restr with act := BitVec.ofNat 64 (t.mpNo 0 + 2) } } else t))

/-- ERR_HEAD marks the records passed as read, ERR_CLEAR unpins and forgets, ERR_OVF_CFG takes its size only while disabled. A write of ERR_HEAD sets the head, and every record in a slot from the old head up to the new one, around the ring,
counts as read; no other record changes. ERR_CLEAR with its bit unpins every record, which then counts as read, and
every code is first again; without it nothing changes. A write of ERR_OVF_CFG while the ring is enabled changes only
ENABLE; while it is disabled LOG2_SIZE takes the value clamped to 4 to 16; one that clears ENABLE resets TAIL, HEAD
and PHASE. -/
def Obligations.TheErrorLogIsReadAndCleared : Prop :=
  (∀ (die : Nat) (v : BitVec 64) (s : State),
    s.hasDie die = true →
    let old := (s.die die).err.head
    let new := v.extractLsb' 0 10
    ∃ t, exec (.errHeadWrite die v) s = .next t ∧ (t.die die).err.head = new ∧
      (∀ i r, tget none (s.die die).err.ring i = some r → tget none (t.die die).err.ring i =
        some (if BitVec.ofNat 10 i - old < new - old then { r with read := true } else r)) ∧
      (∀ i, tget none (s.die die).err.ring i = none → tget none (t.die die).err.ring i = none) ∧
      t = s.modDie die fun x => { x with err := { x.err with head := new, ring := (t.die die).err.ring } }) ∧
  (∀ (die : Nat) (v : BitVec 64) (s : State),
    (v.getLsbD 0 = false → exec (.errClear die v) s = .next s) ∧
    (v.getLsbD 0 = true → exec (.errClear die v) s = .next (s.modDie die fun x => { x with err := { x.err with
      seen := [], lostSeen := false,
      ring := x.err.ring.map fun r => (r.1, r.2.map fun y => { y with pinned := false, read := true }) } }))) ∧
  (∀ (die : Nat) (v : BitVec 64) (s : State),
    let n := (v.extractLsb' 0 5).toNat
    exec (.errOvfCfgWrite die v) s = .next (s.modDie die fun x => { x with err := { x.err with
      ovfEn := v.getLsbD 63
      ovfLog2 := if x.err.ovfEn = true then x.err.ovfLog2 else BitVec.ofNat 5 (if n < 4 then 4 else if 16 < n then 16 else n),
      ovfTail := if v.getLsbD 63 = true then x.err.ovfTail else 0,
      ovfHead := if v.getLsbD 63 = true then x.err.ovfHead else 0,
      ovfPhase := if v.getLsbD 63 = true then x.err.ovfPhase else true } }))

/-- A delta is applied block by block under its journal, an activation is armed, cancelled, confirmed or falls back. APPLY of an acceptable delta starts, keeping the journal under the same APPLY_ID and erasing it otherwise, at the
first operation not done; during an apply or an armed activation, or for a delta that breaks a rule, it is refused
with 0x1201 and status 0x15. A block in progress is erased with the blocks before it that no operation names and
programmed; a matching readback in three attempts writes its journal entry and goes on to the next, after a cancel
stops in PARTIAL with 0x16, or ends the apply; three mismatches stop in PARTIAL with 0x1202. ACTIVATE of an applied
bank arms A at least 1,000 MP ahead, activates at once for A = 0 in NONE, else is refused. CANCEL stops an apply after
its block and cancels an armed activation up to A - 2. CONFIRM marks a trial. At A - 1,000 a ready unit says so with
status 0, another cancels with 0x16. A trial confirmed on every die drops TRIAL and may raise the SVN, with 0x1206; at
the window's end, or when the peer of the same MAN_SEQ falls back, it falls back: soft reset, APPLIED, FELL_BACK. -/
def Obligations.UpdatesApplyActivateAndFallBack : Prop :=
  (∀ (ops : List DeltaOp) (id : Nat) (s : State),
    standsBy s = false →
    s.upd.state ≠ .applying ∧ s.upd.state ≠ .armed →
    rdDelta s = some (ops, id) →
    let u := if s.upd.applyId.toNat = id then s else eraseProg (inactiveBank s) 0x40000 0x40000 [] s
    exec .apply s = .next { u with upd := { s.upd with
      state := .applying, applyId := BitVec.ofNat 64 id, total := BitVec.ofNat 24 ops.length
      nextBlock := BitVec.ofNat 24 (((nextOp u ops id).map fun o => o.target).getD 16384), cancelReq := false, peerOk := false } }) ∧
  (∀ (s : State),
    standsBy s = false →
    s.upd.state = .applying ∨ s.upd.state = .armed ∨ rdDelta s = none →
    ∃ e : BitVec 64, exec .apply s = .next (updCompletion 0x15 (raise 0 0x1201 e
      { s with upd := { s.upd with result := 6 }, free := s.free + 1 }))) ∧
  (∀ (ops : List DeltaOp) (id : Nat) (op : DeltaOp) (readback : List Bool) (s : State),
    s.upd.state = .applying →
    rdDelta s = some (ops, id) →
    nextOp s ops id = some op →
    let b := inactiveBank s
    let prev := (ops.filter fun o => o.target < op.target).foldl (fun m o => max m (o.target + 1)) 128
    let u := modFlash b (fun m => progMem m (4096 * op.target) (opResult s op))
      (eraseProg b (4096 * prev) (4096 * (op.target + 1 - prev)) [] s)
    let matched := (crc32c (opResult s op)).toNat = op.crc ∧ true ∈ readback.take 3
    let j := modFlash b (fun m => progMem (wipe m (journalAt op.target) 16) (journalAt op.target)
      (leBytes id 8 ++ leBytes op.crc 4 ++ [0x00])) u
    (¬matched → readback.length < 3 → exec (.applyBlockDone readback) s = .next u) ∧
    (¬matched → 3 ≤ readback.length → exec (.applyBlockDone readback) s = .next (updCompletion 0x15
      (raise 0 0x1202 (BitVec.ofNat 64 op.target) { u with upd := { s.upd with state := .partly } }))) ∧
    (matched → nextOp j ops id = none → exec (.applyBlockDone readback) s =
      .next (applyEnds (eraseProg b (4096 * (op.target + 1)) (4096 * (16383 - op.target)) [] j))) ∧
    (∀ o, matched → nextOp j ops id = some o → exec (.applyBlockDone readback) s = .next
      (if s.upd.cancelReq = true then updCompletion 0x16 { j with upd := { s.upd with
          nextBlock := BitVec.ofNat 24 o.target, state := .partly, result := 5, cancelReq := false } }
       else { j with upd := { s.upd with nextBlock := BitVec.ofNat 24 o.target } }))) ∧
  (∀ (s : State),
    standsBy s = false →
    let a := s.upd.actMp.toNat
    let may := s.upd.state = .applied ∧ s.restr.busy = false
    (may → s.mpNo 0 + 1000 ≤ a → exec .activate s =
      .next (armLead 0 4 a { s with upd := { s.upd with state := .armed, armedMp := s.upd.actMp } })) ∧
    (may → a = 0 → (s.die 0).str.state = .none → exec .activate s = .next (activateNow s)) ∧
    (¬may ∨ (a < s.mpNo 0 + 1000 ∧ ¬(a = 0 ∧ (s.die 0).str.state = .none)) → ∃ e : BitVec 64, exec .activate s =
      .next (raise 0 0x1201 e { s with upd := { s.upd with result := 6 }, free := s.free + 1 }))) ∧
  (∀ (s : State),
    standsBy s = false →
    let off (t : Trigger) : Trigger := if t.target = 4 then { t with armed := none } else t
    (s.upd.state = .applying → exec .cancel s = .next { s with upd := { s.upd with cancelReq := true } }) ∧
    (s.upd.state = .armed → s.mpNo 0 + 2 ≤ s.upd.armedMp.toNat → ∃ e : BitVec 64, exec .cancel s =
      .next (raiseFrom 0 dukenCheck 0x1203 e { s.modDie 0 (fun x => { x with tim := { x.tim with trig := tmod {} x.tim.trig leadTrigger off } }) with
        upd := { s.upd with state := .applied, result := 5, waitRejoin := false }, free := s.free + 1 })) ∧
    (s.upd.state = .armed → s.upd.armedMp.toNat < s.mpNo 0 + 2 → ∃ e : BitVec 64, exec .cancel s =
      .next (raise 0 0x1201 e { s with upd := { s.upd with result := 6 }, free := s.free + 1 })) ∧
    (s.upd.state ≠ .applying → s.upd.state ≠ .armed → exec .cancel s = .next s) ∧
    exec .confirm s = .next { s with upd := { s.upd with confirmed := s.upd.confirmed || s.upd.state == .trial } }) ∧
  (∀ (peerReady : Bool) (s : State),
    s.upd.state = .armed →
    let u := s.advanceToStamp 0 (mpStamp (s.upd.armedMp.toNat - 1000))
    let ready := (∀ d, s.hasDie d = true → (s.die d).str.state = .running) ∧ (peerReady = true ∨ s.pair.role = .unpaired)
    (ready → exec (.activationReadinessCheck peerReady) s = .next (updCompletion 0 u)) ∧
    (¬ready → exec (.activationReadinessCheck peerReady) s = .next (updCompletion 0x16 (updCancelled u)))) ∧
  (∀ (s : State),
    s.upd.state = .trial ∧ s.upd.lockstepStop = false ∧ runBank s = (bankPtr s).bank →
    s.dies.all (fun x => x.str.state == .running) = true →
    manFlag s (bankPtr s).bank 1 = false ∨ s.upd.confirmed = true →
    let b := (bankPtr s).bank
    let u := writePtr { bank := b } s
    let raises := manFlag u b 0 = true ∧ s.fuses.svnRaises < 63 ∧ s.fuses.minSvn.toNat < manSvn u b
    ∃ e : BitVec 64, exec .trialConfirmation s = .next (raiseFrom 0 dukenCheck 0x1206 e { u with
      fuses := if raises then { s.fuses with minSvn := BitVec.ofNat 32 (manSvn u b), svnRaises := s.fuses.svnRaises + 1 } else s.fuses
      upd := { s.upd with state := .idle, result := 3, window := 0 }, free := s.free + 1 })) ∧
  (∀ (seq' : BitVec 32) (s : State),
    s.upd.state = .trial →
    exec .trialWindowExpiry s = .next (fallBack (s.advance (unitsSec * s.upd.window.toNat - s.uptime))) ∧
    exec (.peerFallbackNotice seq') s =
      .next (if s.pair.cfg = true ∧ manSeq s (bankPtr s).bank = seq'.toNat then fallBack s else s)) ∧
  (∀ (s : State),
    s.inReset = none →
    (fallBack s).upd.state = .applied ∧ (fallBack s).upd.result = 4 ∧ (fallBack s).uptime = 0 ∧ (fallBack s).fuses = s.fuses ∧
    (fallBack s).tables = [] ∧ (activateNow s).upd.state = .trial ∧ (activateNow s).upd.result = 2 ∧ (activateNow s).uptime = 0)

/-- A narrow write is discarded and reported, a whole one sets its clamped fields or clears its events, a read returns bytes. A write that is not an aligned 64-bit one is discarded with 0x1302 and its offset; one outside every window is
discarded with 0x1301. While a die runs a structure, a whole write by the PF to MIX_CTRL of a die sets ACT_LEVEL and
REL_SHIFT, held within 6 to 15, and nothing else; to MIX_EVENT or VEN_EVENT it clears the events whose bits are 1. A
read that is not an aligned 64-bit one returns the addressed bytes and clears nothing; a whole read of MIX_CNT returns
the counter and leaves it 0. In structure state NONE the register reads as 0 and the write changes nothing. -/
def Obligations.RegisterAccessesReachTheirFields : Prop :=
  (∀ (func off width : Nat) (v : BitVec 64) (s : State),
    width ≠ 8 ∨ off % 8 ≠ 0 →
    exec (.registerWrite func off (.write width v)) s = .next (raiseFrom 0 (hostReq func) 0x1302 (BitVec.ofNat 64 off) s) ∧
    exec (.registerWrite func off (.read width)) s =
      .next { s with readData := (List.range (min width 8)).map fun (i : Nat) => barByte s func (off + i) }) ∧
  (∀ (off : Nat) (v : BitVec 64) (s : State),
    0x4000000 ≤ off →
    off % 8 = 0 →
    ∃ e : BitVec 64, exec (.registerWrite 0 off (.write 8 v)) s = .next (raiseFrom 0 (hostReq 0) 0x1301 e { s with free := s.free + 1 })) ∧
  (∀ (d : Nat) (v : BitVec 64) (s : State),
    d < 8 →
    s.hasDie d = true →
    (s.die d).cap.retired = false ∧ s.off d = false →
    exec (.registerWrite 0 (0x800000 * d + 0x60000) (.write 8 v)) s = .next (s.modDie d fun x => { x with mix := { x.mix with
      actLevel := v.extractLsb' 0 7, relShift := BitVec.ofNat 4 (max 6 (min 15 (v.extractLsb' 8 4).toNat)) } }) ∧
    exec (.registerWrite 0 (0x800000 * d + 0x60008) (.write 8 v)) s = .next (s.modDie d fun x => { x with mix := { x.mix with
      event := x.mix.event &&& ~~~v.extractLsb' 0 3 } }) ∧
    exec (.registerWrite 0 (0x800000 * d + 0xA0010) (.write 8 v)) s = .next (s.modDie d fun x => { x with ven := { x.ven with
      event := x.ven.event &&& ~~~v.extractLsb' 0 4 } })) ∧
  (∀ (d : Nat) (v : BitVec 64) (s : State),
    d < 8 →
    s.hasDie d = true →
    (s.die d).cap.retired = false ∧ s.off d = true →
    exec (.registerWrite 0 (0x800000 * d + 0x60000) (.write 8 v)) s = .next s ∧
    exec (.registerWrite 0 (0x800000 * d + 0x60000) (.read 8)) s = .next { s with readData := List.replicate 8 0 }) ∧
  (∀ (d n : Nat) (s : State),
    d < 8 →
    n < 6 →
    s.hasDie d = true →
    (s.die d).cap.retired = false ∧ s.off d = false →
    ∃ t, exec (.registerWrite 0 (0x800000 * d + 0x60100 + 8 * n) (.read 8)) s = .next t ∧
      leNat t.readData = (tget 0 (s.die d).mix.cnt n).toNat ∧
      (t.die d).mix.cnt = tset 0 (s.die d).mix.cnt n 0 ∧ t.tables = s.tables ∧ ∀ e, e ≠ d → t.die e = s.die e)

/-- At an MP boundary of a unit at rest time stands at the boundary and every register that changes there has changed. For every state without open entries, running ports, contexts, waiting triggers, queues or pair, with a free-running
servo: at MP_BOUNDARY device time has moved to the next boundary not yet served, which is then the last one served; on
every die the delay table, EGR_TIMING and SC_MODE written before are in use, each Canary island has moved one bin
towards its target, a free-running servo stands at offset 0, CAN_HOURS has counted where a device hour ends, and the
bandwidth and Hoist figures of the MP start anew; each die has drawn one free value for its power figures; tables,
servo, fuses, flash and update state are as before. -/
def Obligations.BoundariesDoThePerMpWork : Prop :=
  ∀ (f : MpFaults) (s : State),
    quiet s →
    let n := s.nextMp
    let u := s.toBoundary
    ∃ t, exec (.mpBoundary f) s = .next t ∧ t.lastMp = some n ∧ t.endedMp = some n ∧ t.uptime = u.uptime ∧
      t.audioFaults = f.audio ∧ t.absentBlocks = f.absent ∧ t.free = s.free + s.nDies ∧
      t.tables = s.tables ∧ t.servo = s.servo ∧ t.fuses = s.fuses ∧ t.flash = s.flash ∧ t.upd = s.upd ∧ t.queues = s.queues ∧
      ∀ d, s.hasDie d = true →
        (t.die d).tim = { (u.die d).tim with
          dly := (s.die d).tim.dlyNext, freqAdj := if d = 0 ∧ (s.die 0).tim.servoEn = true then 0 else (s.die d).tim.freqAdj } ∧
        (t.die d).egr = { (s.die d).egr with timing := (s.die d).egr.timingNext } ∧
        (t.die d).cip = { (s.die d).cip with scActive := (s.die d).cip.scMode } ∧
        (t.die d).str.bwMoved = [] ∧ (t.die d).hst.load = [] ∧
        (t.die d).can.hours = (if n % 3600000 = 0 then (s.die d).can.hours + 1 else (s.die d).can.hours) ∧
        (t.die d).can.clusters = (s.die d).can.clusters.map fun e => (e.1, { e.2 with
          bin := if e.2.bin < e.2.target then e.2.bin + 1 else if e.2.target < e.2.bin then e.2.bin - 1 else e.2.bin })
end

