-- ==== Sys2Proof/Laws/State.lean ====
section
/-! SUPPORT. What each named update of the state leaves as it was: one lemma for each field of each update, true by `rfl`,
so that no later proof unfolds a record update. -/

namespace Sys2Proof.Machine

@[simp] theorem State.modDie_pending (s : State) (d : Nat) (f : Die → Die) : (s.modDie d f).pending = s.pending := rfl
@[simp] theorem State.modDie_fuses (s : State) (d : Nat) (f : Die → Die) : (s.modDie d f).fuses = s.fuses := rfl
@[simp] theorem State.modDie_flash (s : State) (d : Nat) (f : Die → Die) : (s.modDie d f).flash = s.flash := rfl
@[simp] theorem State.modDie_servo (s : State) (d : Nat) (f : Die → Die) : (s.modDie d f).servo = s.servo := rfl
@[simp] theorem State.modDie_restr (s : State) (d : Nat) (f : Die → Die) : (s.modDie d f).restr = s.restr := rfl
@[simp] theorem State.modDie_tables (s : State) (d : Nat) (f : Die → Die) : (s.modDie d f).tables = s.tables := rfl
@[simp] theorem State.modDie_queues (s : State) (d : Nat) (f : Die → Die) : (s.modDie d f).queues = s.queues := rfl
@[simp] theorem State.modDie_badBells (s : State) (d : Nat) (f : Die → Die) : (s.modDie d f).badBells = s.badBells := rfl
@[simp] theorem State.modDie_moves (s : State) (d : Nat) (f : Die → Die) : (s.modDie d f).moves = s.moves := rfl
@[simp] theorem State.modDie_pair (s : State) (d : Nat) (f : Die → Die) : (s.modDie d f).pair = s.pair := rfl
@[simp] theorem State.modDie_upd (s : State) (d : Nat) (f : Die → Die) : (s.modDie d f).upd = s.upd := rfl
@[simp] theorem State.modDie_lastMp (s : State) (d : Nat) (f : Die → Die) : (s.modDie d f).lastMp = s.lastMp := rfl
@[simp] theorem State.modDie_endedMp (s : State) (d : Nat) (f : Die → Die) : (s.modDie d f).endedMp = s.endedMp := rfl
@[simp] theorem State.modDie_frameShift (s : State) (d : Nat) (f : Die → Die) : (s.modDie d f).frameShift = s.frameShift := rfl
@[simp] theorem State.modDie_absentBlocks (s : State) (d : Nat) (f : Die → Die) : (s.modDie d f).absentBlocks = s.absentBlocks := rfl
@[simp] theorem State.modDie_lateDecodes (s : State) (d : Nat) (f : Die → Die) : (s.modDie d f).lateDecodes = s.lateDecodes := rfl
@[simp] theorem State.modDie_lateEncodes (s : State) (d : Nat) (f : Die → Die) : (s.modDie d f).lateEncodes = s.lateEncodes := rfl
@[simp] theorem State.modDie_c2Faults (s : State) (d : Nat) (f : Die → Die) : (s.modDie d f).c2Faults = s.c2Faults := rfl
@[simp] theorem State.modDie_audioFaults (s : State) (d : Nat) (f : Die → Die) : (s.modDie d f).audioFaults = s.audioFaults := rfl
@[simp] theorem State.modDie_uptime (s : State) (d : Nat) (f : Die → Die) : (s.modDie d f).uptime = s.uptime := rfl
@[simp] theorem State.modDie_bootSecond (s : State) (d : Nat) (f : Die → Die) : (s.modDie d f).bootSecond = s.bootSecond := rfl
@[simp] theorem State.modDie_inReset (s : State) (d : Nat) (f : Die → Die) : (s.modDie d f).inReset = s.inReset := rfl
@[simp] theorem State.modDie_linkUp (s : State) (d : Nat) (f : Die → Die) : (s.modDie d f).linkUp = s.linkUp := rfl
@[simp] theorem State.modDie_bootStep (s : State) (d : Nat) (f : Die → Die) : (s.modDie d f).bootStep = s.bootStep := rfl
@[simp] theorem State.modDie_bootImage (s : State) (d : Nat) (f : Die → Die) : (s.modDie d f).bootImage = s.bootImage := rfl
@[simp] theorem State.modDie_limits (s : State) (d : Nat) (f : Die → Die) : (s.modDie d f).limits = s.limits := rfl
@[simp] theorem State.modDie_pps (s : State) (d : Nat) (f : Die → Die) : (s.modDie d f).pps = s.pps := rfl
@[simp] theorem State.modDie_readData (s : State) (d : Nat) (f : Die → Die) : (s.modDie d f).readData = s.readData := rfl
@[simp] theorem State.modDie_out (s : State) (d : Nat) (f : Die → Die) : (s.modDie d f).out = s.out := rfl
@[simp] theorem State.modDie_free (s : State) (d : Nat) (f : Die → Die) : (s.modDie d f).free = s.free := rfl

@[simp] theorem State.mapDies_pending (s : State) (f : Nat → Die → Die) : (s.mapDies f).pending = s.pending := rfl
@[simp] theorem State.mapDies_fuses (s : State) (f : Nat → Die → Die) : (s.mapDies f).fuses = s.fuses := rfl
@[simp] theorem State.mapDies_flash (s : State) (f : Nat → Die → Die) : (s.mapDies f).flash = s.flash := rfl
@[simp] theorem State.mapDies_servo (s : State) (f : Nat → Die → Die) : (s.mapDies f).servo = s.servo := rfl
@[simp] theorem State.mapDies_restr (s : State) (f : Nat → Die → Die) : (s.mapDies f).restr = s.restr := rfl
@[simp] theorem State.mapDies_tables (s : State) (f : Nat → Die → Die) : (s.mapDies f).tables = s.tables := rfl
@[simp] theorem State.mapDies_queues (s : State) (f : Nat → Die → Die) : (s.mapDies f).queues = s.queues := rfl
@[simp] theorem State.mapDies_badBells (s : State) (f : Nat → Die → Die) : (s.mapDies f).badBells = s.badBells := rfl
@[simp] theorem State.mapDies_moves (s : State) (f : Nat → Die → Die) : (s.mapDies f).moves = s.moves := rfl
@[simp] theorem State.mapDies_pair (s : State) (f : Nat → Die → Die) : (s.mapDies f).pair = s.pair := rfl
@[simp] theorem State.mapDies_upd (s : State) (f : Nat → Die → Die) : (s.mapDies f).upd = s.upd := rfl
@[simp] theorem State.mapDies_lastMp (s : State) (f : Nat → Die → Die) : (s.mapDies f).lastMp = s.lastMp := rfl
@[simp] theorem State.mapDies_endedMp (s : State) (f : Nat → Die → Die) : (s.mapDies f).endedMp = s.endedMp := rfl
@[simp] theorem State.mapDies_frameShift (s : State) (f : Nat → Die → Die) : (s.mapDies f).frameShift = s.frameShift := rfl
@[simp] theorem State.mapDies_absentBlocks (s : State) (f : Nat → Die → Die) : (s.mapDies f).absentBlocks = s.absentBlocks := rfl
@[simp] theorem State.mapDies_lateDecodes (s : State) (f : Nat → Die → Die) : (s.mapDies f).lateDecodes = s.lateDecodes := rfl
@[simp] theorem State.mapDies_lateEncodes (s : State) (f : Nat → Die → Die) : (s.mapDies f).lateEncodes = s.lateEncodes := rfl
@[simp] theorem State.mapDies_c2Faults (s : State) (f : Nat → Die → Die) : (s.mapDies f).c2Faults = s.c2Faults := rfl
@[simp] theorem State.mapDies_audioFaults (s : State) (f : Nat → Die → Die) : (s.mapDies f).audioFaults = s.audioFaults := rfl
@[simp] theorem State.mapDies_uptime (s : State) (f : Nat → Die → Die) : (s.mapDies f).uptime = s.uptime := rfl
@[simp] theorem State.mapDies_bootSecond (s : State) (f : Nat → Die → Die) : (s.mapDies f).bootSecond = s.bootSecond := rfl
@[simp] theorem State.mapDies_inReset (s : State) (f : Nat → Die → Die) : (s.mapDies f).inReset = s.inReset := rfl
@[simp] theorem State.mapDies_linkUp (s : State) (f : Nat → Die → Die) : (s.mapDies f).linkUp = s.linkUp := rfl
@[simp] theorem State.mapDies_bootStep (s : State) (f : Nat → Die → Die) : (s.mapDies f).bootStep = s.bootStep := rfl
@[simp] theorem State.mapDies_bootImage (s : State) (f : Nat → Die → Die) : (s.mapDies f).bootImage = s.bootImage := rfl
@[simp] theorem State.mapDies_limits (s : State) (f : Nat → Die → Die) : (s.mapDies f).limits = s.limits := rfl
@[simp] theorem State.mapDies_pps (s : State) (f : Nat → Die → Die) : (s.mapDies f).pps = s.pps := rfl
@[simp] theorem State.mapDies_readData (s : State) (f : Nat → Die → Die) : (s.mapDies f).readData = s.readData := rfl
@[simp] theorem State.mapDies_out (s : State) (f : Nat → Die → Die) : (s.mapDies f).out = s.out := rfl
@[simp] theorem State.mapDies_free (s : State) (f : Nat → Die → Die) : (s.mapDies f).free = s.free := rfl

@[simp] theorem State.modFq_pending (s : State) (f : Nat) (g : FuncQueue → FuncQueue) : (s.modFq f g).pending = s.pending := rfl
@[simp] theorem State.modFq_fuses (s : State) (f : Nat) (g : FuncQueue → FuncQueue) : (s.modFq f g).fuses = s.fuses := rfl
@[simp] theorem State.modFq_flash (s : State) (f : Nat) (g : FuncQueue → FuncQueue) : (s.modFq f g).flash = s.flash := rfl
@[simp] theorem State.modFq_dies (s : State) (f : Nat) (g : FuncQueue → FuncQueue) : (s.modFq f g).dies = s.dies := rfl
@[simp] theorem State.modFq_servo (s : State) (f : Nat) (g : FuncQueue → FuncQueue) : (s.modFq f g).servo = s.servo := rfl
@[simp] theorem State.modFq_restr (s : State) (f : Nat) (g : FuncQueue → FuncQueue) : (s.modFq f g).restr = s.restr := rfl
@[simp] theorem State.modFq_tables (s : State) (f : Nat) (g : FuncQueue → FuncQueue) : (s.modFq f g).tables = s.tables := rfl
@[simp] theorem State.modFq_badBells (s : State) (f : Nat) (g : FuncQueue → FuncQueue) : (s.modFq f g).badBells = s.badBells := rfl
@[simp] theorem State.modFq_moves (s : State) (f : Nat) (g : FuncQueue → FuncQueue) : (s.modFq f g).moves = s.moves := rfl
@[simp] theorem State.modFq_pair (s : State) (f : Nat) (g : FuncQueue → FuncQueue) : (s.modFq f g).pair = s.pair := rfl
@[simp] theorem State.modFq_upd (s : State) (f : Nat) (g : FuncQueue → FuncQueue) : (s.modFq f g).upd = s.upd := rfl
@[simp] theorem State.modFq_lastMp (s : State) (f : Nat) (g : FuncQueue → FuncQueue) : (s.modFq f g).lastMp = s.lastMp := rfl
@[simp] theorem State.modFq_endedMp (s : State) (f : Nat) (g : FuncQueue → FuncQueue) : (s.modFq f g).endedMp = s.endedMp := rfl
@[simp] theorem State.modFq_frameShift (s : State) (f : Nat) (g : FuncQueue → FuncQueue) : (s.modFq f g).frameShift = s.frameShift := rfl
@[simp] theorem State.modFq_absentBlocks (s : State) (f : Nat) (g : FuncQueue → FuncQueue) : (s.modFq f g).absentBlocks = s.absentBlocks := rfl
@[simp] theorem State.modFq_lateDecodes (s : State) (f : Nat) (g : FuncQueue → FuncQueue) : (s.modFq f g).lateDecodes = s.lateDecodes := rfl
@[simp] theorem State.modFq_lateEncodes (s : State) (f : Nat) (g : FuncQueue → FuncQueue) : (s.modFq f g).lateEncodes = s.lateEncodes := rfl
@[simp] theorem State.modFq_c2Faults (s : State) (f : Nat) (g : FuncQueue → FuncQueue) : (s.modFq f g).c2Faults = s.c2Faults := rfl
@[simp] theorem State.modFq_audioFaults (s : State) (f : Nat) (g : FuncQueue → FuncQueue) : (s.modFq f g).audioFaults = s.audioFaults := rfl
@[simp] theorem State.modFq_uptime (s : State) (f : Nat) (g : FuncQueue → FuncQueue) : (s.modFq f g).uptime = s.uptime := rfl
@[simp] theorem State.modFq_bootSecond (s : State) (f : Nat) (g : FuncQueue → FuncQueue) : (s.modFq f g).bootSecond = s.bootSecond := rfl
@[simp] theorem State.modFq_inReset (s : State) (f : Nat) (g : FuncQueue → FuncQueue) : (s.modFq f g).inReset = s.inReset := rfl
@[simp] theorem State.modFq_linkUp (s : State) (f : Nat) (g : FuncQueue → FuncQueue) : (s.modFq f g).linkUp = s.linkUp := rfl
@[simp] theorem State.modFq_bootStep (s : State) (f : Nat) (g : FuncQueue → FuncQueue) : (s.modFq f g).bootStep = s.bootStep := rfl
@[simp] theorem State.modFq_bootImage (s : State) (f : Nat) (g : FuncQueue → FuncQueue) : (s.modFq f g).bootImage = s.bootImage := rfl
@[simp] theorem State.modFq_limits (s : State) (f : Nat) (g : FuncQueue → FuncQueue) : (s.modFq f g).limits = s.limits := rfl
@[simp] theorem State.modFq_pps (s : State) (f : Nat) (g : FuncQueue → FuncQueue) : (s.modFq f g).pps = s.pps := rfl
@[simp] theorem State.modFq_readData (s : State) (f : Nat) (g : FuncQueue → FuncQueue) : (s.modFq f g).readData = s.readData := rfl
@[simp] theorem State.modFq_out (s : State) (f : Nat) (g : FuncQueue → FuncQueue) : (s.modFq f g).out = s.out := rfl
@[simp] theorem State.modFq_free (s : State) (f : Nat) (g : FuncQueue → FuncQueue) : (s.modFq f g).free = s.free := rfl

@[simp] theorem emit_pending (s : State) (o : Out) : (emit o s).pending = s.pending := rfl
@[simp] theorem emit_fuses (s : State) (o : Out) : (emit o s).fuses = s.fuses := rfl
@[simp] theorem emit_flash (s : State) (o : Out) : (emit o s).flash = s.flash := rfl
@[simp] theorem emit_dies (s : State) (o : Out) : (emit o s).dies = s.dies := rfl
@[simp] theorem emit_servo (s : State) (o : Out) : (emit o s).servo = s.servo := rfl
@[simp] theorem emit_restr (s : State) (o : Out) : (emit o s).restr = s.restr := rfl
@[simp] theorem emit_tables (s : State) (o : Out) : (emit o s).tables = s.tables := rfl
@[simp] theorem emit_queues (s : State) (o : Out) : (emit o s).queues = s.queues := rfl
@[simp] theorem emit_badBells (s : State) (o : Out) : (emit o s).badBells = s.badBells := rfl
@[simp] theorem emit_moves (s : State) (o : Out) : (emit o s).moves = s.moves := rfl
@[simp] theorem emit_pair (s : State) (o : Out) : (emit o s).pair = s.pair := rfl
@[simp] theorem emit_upd (s : State) (o : Out) : (emit o s).upd = s.upd := rfl
@[simp] theorem emit_lastMp (s : State) (o : Out) : (emit o s).lastMp = s.lastMp := rfl
@[simp] theorem emit_endedMp (s : State) (o : Out) : (emit o s).endedMp = s.endedMp := rfl
@[simp] theorem emit_frameShift (s : State) (o : Out) : (emit o s).frameShift = s.frameShift := rfl
@[simp] theorem emit_absentBlocks (s : State) (o : Out) : (emit o s).absentBlocks = s.absentBlocks := rfl
@[simp] theorem emit_lateDecodes (s : State) (o : Out) : (emit o s).lateDecodes = s.lateDecodes := rfl
@[simp] theorem emit_lateEncodes (s : State) (o : Out) : (emit o s).lateEncodes = s.lateEncodes := rfl
@[simp] theorem emit_c2Faults (s : State) (o : Out) : (emit o s).c2Faults = s.c2Faults := rfl
@[simp] theorem emit_audioFaults (s : State) (o : Out) : (emit o s).audioFaults = s.audioFaults := rfl
@[simp] theorem emit_uptime (s : State) (o : Out) : (emit o s).uptime = s.uptime := rfl
@[simp] theorem emit_bootSecond (s : State) (o : Out) : (emit o s).bootSecond = s.bootSecond := rfl
@[simp] theorem emit_inReset (s : State) (o : Out) : (emit o s).inReset = s.inReset := rfl
@[simp] theorem emit_linkUp (s : State) (o : Out) : (emit o s).linkUp = s.linkUp := rfl
@[simp] theorem emit_bootStep (s : State) (o : Out) : (emit o s).bootStep = s.bootStep := rfl
@[simp] theorem emit_bootImage (s : State) (o : Out) : (emit o s).bootImage = s.bootImage := rfl
@[simp] theorem emit_limits (s : State) (o : Out) : (emit o s).limits = s.limits := rfl
@[simp] theorem emit_pps (s : State) (o : Out) : (emit o s).pps = s.pps := rfl
@[simp] theorem emit_readData (s : State) (o : Out) : (emit o s).readData = s.readData := rfl
@[simp] theorem emit_free (s : State) (o : Out) : (emit o s).free = s.free := rfl

@[simp] theorem State.advance_pending (s : State) (n : Nat) : (s.advance n).pending = s.pending := rfl
@[simp] theorem State.advance_fuses (s : State) (n : Nat) : (s.advance n).fuses = s.fuses := rfl
@[simp] theorem State.advance_flash (s : State) (n : Nat) : (s.advance n).flash = s.flash := rfl
@[simp] theorem State.advance_servo (s : State) (n : Nat) : (s.advance n).servo = s.servo := rfl
@[simp] theorem State.advance_restr (s : State) (n : Nat) : (s.advance n).restr = s.restr := rfl
@[simp] theorem State.advance_tables (s : State) (n : Nat) : (s.advance n).tables = s.tables := rfl
@[simp] theorem State.advance_queues (s : State) (n : Nat) : (s.advance n).queues = s.queues := rfl
@[simp] theorem State.advance_badBells (s : State) (n : Nat) : (s.advance n).badBells = s.badBells := rfl
@[simp] theorem State.advance_moves (s : State) (n : Nat) : (s.advance n).moves = s.moves := rfl
@[simp] theorem State.advance_pair (s : State) (n : Nat) : (s.advance n).pair = s.pair := rfl
@[simp] theorem State.advance_upd (s : State) (n : Nat) : (s.advance n).upd = s.upd := rfl
@[simp] theorem State.advance_lastMp (s : State) (n : Nat) : (s.advance n).lastMp = s.lastMp := rfl
@[simp] theorem State.advance_endedMp (s : State) (n : Nat) : (s.advance n).endedMp = s.endedMp := rfl
@[simp] theorem State.advance_frameShift (s : State) (n : Nat) : (s.advance n).frameShift = s.frameShift := rfl
@[simp] theorem State.advance_absentBlocks (s : State) (n : Nat) : (s.advance n).absentBlocks = s.absentBlocks := rfl
@[simp] theorem State.advance_lateDecodes (s : State) (n : Nat) : (s.advance n).lateDecodes = s.lateDecodes := rfl
@[simp] theorem State.advance_lateEncodes (s : State) (n : Nat) : (s.advance n).lateEncodes = s.lateEncodes := rfl
@[simp] theorem State.advance_c2Faults (s : State) (n : Nat) : (s.advance n).c2Faults = s.c2Faults := rfl
@[simp] theorem State.advance_audioFaults (s : State) (n : Nat) : (s.advance n).audioFaults = s.audioFaults := rfl
@[simp] theorem State.advance_bootSecond (s : State) (n : Nat) : (s.advance n).bootSecond = s.bootSecond := rfl
@[simp] theorem State.advance_inReset (s : State) (n : Nat) : (s.advance n).inReset = s.inReset := rfl
@[simp] theorem State.advance_linkUp (s : State) (n : Nat) : (s.advance n).linkUp = s.linkUp := rfl
@[simp] theorem State.advance_bootStep (s : State) (n : Nat) : (s.advance n).bootStep = s.bootStep := rfl
@[simp] theorem State.advance_bootImage (s : State) (n : Nat) : (s.advance n).bootImage = s.bootImage := rfl
@[simp] theorem State.advance_limits (s : State) (n : Nat) : (s.advance n).limits = s.limits := rfl
@[simp] theorem State.advance_pps (s : State) (n : Nat) : (s.advance n).pps = s.pps := rfl
@[simp] theorem State.advance_readData (s : State) (n : Nat) : (s.advance n).readData = s.readData := rfl
@[simp] theorem State.advance_out (s : State) (n : Nat) : (s.advance n).out = s.out := rfl
@[simp] theorem State.advance_free (s : State) (n : Nat) : (s.advance n).free = s.free := rfl

@[simp] theorem State.advanceTo_pending (s : State) (d n : Nat) : (s.advanceTo d n).pending = s.pending := by
  unfold State.advanceTo; split <;> rfl
@[simp] theorem State.advanceTo_fuses (s : State) (d n : Nat) : (s.advanceTo d n).fuses = s.fuses := by
  unfold State.advanceTo; split <;> rfl
@[simp] theorem State.advanceTo_flash (s : State) (d n : Nat) : (s.advanceTo d n).flash = s.flash := by
  unfold State.advanceTo; split <;> rfl
@[simp] theorem State.advanceTo_servo (s : State) (d n : Nat) : (s.advanceTo d n).servo = s.servo := by
  unfold State.advanceTo; split <;> rfl
@[simp] theorem State.advanceTo_restr (s : State) (d n : Nat) : (s.advanceTo d n).restr = s.restr := by
  unfold State.advanceTo; split <;> rfl
@[simp] theorem State.advanceTo_tables (s : State) (d n : Nat) : (s.advanceTo d n).tables = s.tables := by
  unfold State.advanceTo; split <;> rfl
@[simp] theorem State.advanceTo_queues (s : State) (d n : Nat) : (s.advanceTo d n).queues = s.queues := by
  unfold State.advanceTo; split <;> rfl
@[simp] theorem State.advanceTo_badBells (s : State) (d n : Nat) : (s.advanceTo d n).badBells = s.badBells := by
  unfold State.advanceTo; split <;> rfl
@[simp] theorem State.advanceTo_moves (s : State) (d n : Nat) : (s.advanceTo d n).moves = s.moves := by
  unfold State.advanceTo; split <;> rfl
@[simp] theorem State.advanceTo_pair (s : State) (d n : Nat) : (s.advanceTo d n).pair = s.pair := by
  unfold State.advanceTo; split <;> rfl
@[simp] theorem State.advanceTo_upd (s : State) (d n : Nat) : (s.advanceTo d n).upd = s.upd := by
  unfold State.advanceTo; split <;> rfl
@[simp] theorem State.advanceTo_lastMp (s : State) (d n : Nat) : (s.advanceTo d n).lastMp = s.lastMp := by
  unfold State.advanceTo; split <;> rfl
@[simp] theorem State.advanceTo_endedMp (s : State) (d n : Nat) : (s.advanceTo d n).endedMp = s.endedMp := by
  unfold State.advanceTo; split <;> rfl
@[simp] theorem State.advanceTo_frameShift (s : State) (d n : Nat) : (s.advanceTo d n).frameShift = s.frameShift := by
  unfold State.advanceTo; split <;> rfl
@[simp] theorem State.advanceTo_absentBlocks (s : State) (d n : Nat) : (s.advanceTo d n).absentBlocks = s.absentBlocks := by
  unfold State.advanceTo; split <;> rfl
@[simp] theorem State.advanceTo_lateDecodes (s : State) (d n : Nat) : (s.advanceTo d n).lateDecodes = s.lateDecodes := by
  unfold State.advanceTo; split <;> rfl
@[simp] theorem State.advanceTo_lateEncodes (s : State) (d n : Nat) : (s.advanceTo d n).lateEncodes = s.lateEncodes := by
  unfold State.advanceTo; split <;> rfl
@[simp] theorem State.advanceTo_c2Faults (s : State) (d n : Nat) : (s.advanceTo d n).c2Faults = s.c2Faults := by
  unfold State.advanceTo; split <;> rfl
@[simp] theorem State.advanceTo_audioFaults (s : State) (d n : Nat) : (s.advanceTo d n).audioFaults = s.audioFaults := by
  unfold State.advanceTo; split <;> rfl
@[simp] theorem State.advanceTo_bootSecond (s : State) (d n : Nat) : (s.advanceTo d n).bootSecond = s.bootSecond := by
  unfold State.advanceTo; split <;> rfl
@[simp] theorem State.advanceTo_inReset (s : State) (d n : Nat) : (s.advanceTo d n).inReset = s.inReset := by
  unfold State.advanceTo; split <;> rfl
@[simp] theorem State.advanceTo_linkUp (s : State) (d n : Nat) : (s.advanceTo d n).linkUp = s.linkUp := by
  unfold State.advanceTo; split <;> rfl
@[simp] theorem State.advanceTo_bootStep (s : State) (d n : Nat) : (s.advanceTo d n).bootStep = s.bootStep := by
  unfold State.advanceTo; split <;> rfl
@[simp] theorem State.advanceTo_bootImage (s : State) (d n : Nat) : (s.advanceTo d n).bootImage = s.bootImage := by
  unfold State.advanceTo; split <;> rfl
@[simp] theorem State.advanceTo_limits (s : State) (d n : Nat) : (s.advanceTo d n).limits = s.limits := by
  unfold State.advanceTo; split <;> rfl
@[simp] theorem State.advanceTo_pps (s : State) (d n : Nat) : (s.advanceTo d n).pps = s.pps := by
  unfold State.advanceTo; split <;> rfl
@[simp] theorem State.advanceTo_readData (s : State) (d n : Nat) : (s.advanceTo d n).readData = s.readData := by
  unfold State.advanceTo; split <;> rfl
@[simp] theorem State.advanceTo_out (s : State) (d n : Nat) : (s.advanceTo d n).out = s.out := by
  unfold State.advanceTo; split <;> rfl
@[simp] theorem State.advanceTo_free (s : State) (d n : Nat) : (s.advanceTo d n).free = s.free := by
  unfold State.advanceTo; split <;> rfl

@[simp] theorem State.advanceToStamp_pending (s : State) (d : Nat) (t : BitVec 64) : (s.advanceToStamp d t).pending = s.pending := State.advanceTo_pending s d _
@[simp] theorem State.advanceToStamp_fuses (s : State) (d : Nat) (t : BitVec 64) : (s.advanceToStamp d t).fuses = s.fuses := State.advanceTo_fuses s d _
@[simp] theorem State.advanceToStamp_flash (s : State) (d : Nat) (t : BitVec 64) : (s.advanceToStamp d t).flash = s.flash := State.advanceTo_flash s d _
@[simp] theorem State.advanceToStamp_servo (s : State) (d : Nat) (t : BitVec 64) : (s.advanceToStamp d t).servo = s.servo := State.advanceTo_servo s d _
@[simp] theorem State.advanceToStamp_restr (s : State) (d : Nat) (t : BitVec 64) : (s.advanceToStamp d t).restr = s.restr := State.advanceTo_restr s d _
@[simp] theorem State.advanceToStamp_tables (s : State) (d : Nat) (t : BitVec 64) : (s.advanceToStamp d t).tables = s.tables := State.advanceTo_tables s d _
@[simp] theorem State.advanceToStamp_queues (s : State) (d : Nat) (t : BitVec 64) : (s.advanceToStamp d t).queues = s.queues := State.advanceTo_queues s d _
@[simp] theorem State.advanceToStamp_badBells (s : State) (d : Nat) (t : BitVec 64) : (s.advanceToStamp d t).badBells = s.badBells := State.advanceTo_badBells s d _
@[simp] theorem State.advanceToStamp_moves (s : State) (d : Nat) (t : BitVec 64) : (s.advanceToStamp d t).moves = s.moves := State.advanceTo_moves s d _
@[simp] theorem State.advanceToStamp_pair (s : State) (d : Nat) (t : BitVec 64) : (s.advanceToStamp d t).pair = s.pair := State.advanceTo_pair s d _
@[simp] theorem State.advanceToStamp_upd (s : State) (d : Nat) (t : BitVec 64) : (s.advanceToStamp d t).upd = s.upd := State.advanceTo_upd s d _
@[simp] theorem State.advanceToStamp_lastMp (s : State) (d : Nat) (t : BitVec 64) : (s.advanceToStamp d t).lastMp = s.lastMp := State.advanceTo_lastMp s d _
@[simp] theorem State.advanceToStamp_endedMp (s : State) (d : Nat) (t : BitVec 64) : (s.advanceToStamp d t).endedMp = s.endedMp := State.advanceTo_endedMp s d _
@[simp] theorem State.advanceToStamp_frameShift (s : State) (d : Nat) (t : BitVec 64) : (s.advanceToStamp d t).frameShift = s.frameShift := State.advanceTo_frameShift s d _
@[simp] theorem State.advanceToStamp_absentBlocks (s : State) (d : Nat) (t : BitVec 64) : (s.advanceToStamp d t).absentBlocks = s.absentBlocks := State.advanceTo_absentBlocks s d _
@[simp] theorem State.advanceToStamp_lateDecodes (s : State) (d : Nat) (t : BitVec 64) : (s.advanceToStamp d t).lateDecodes = s.lateDecodes := State.advanceTo_lateDecodes s d _
@[simp] theorem State.advanceToStamp_lateEncodes (s : State) (d : Nat) (t : BitVec 64) : (s.advanceToStamp d t).lateEncodes = s.lateEncodes := State.advanceTo_lateEncodes s d _
@[simp] theorem State.advanceToStamp_c2Faults (s : State) (d : Nat) (t : BitVec 64) : (s.advanceToStamp d t).c2Faults = s.c2Faults := State.advanceTo_c2Faults s d _
@[simp] theorem State.advanceToStamp_audioFaults (s : State) (d : Nat) (t : BitVec 64) : (s.advanceToStamp d t).audioFaults = s.audioFaults := State.advanceTo_audioFaults s d _
@[simp] theorem State.advanceToStamp_bootSecond (s : State) (d : Nat) (t : BitVec 64) : (s.advanceToStamp d t).bootSecond = s.bootSecond := State.advanceTo_bootSecond s d _
@[simp] theorem State.advanceToStamp_inReset (s : State) (d : Nat) (t : BitVec 64) : (s.advanceToStamp d t).inReset = s.inReset := State.advanceTo_inReset s d _
@[simp] theorem State.advanceToStamp_linkUp (s : State) (d : Nat) (t : BitVec 64) : (s.advanceToStamp d t).linkUp = s.linkUp := State.advanceTo_linkUp s d _
@[simp] theorem State.advanceToStamp_bootStep (s : State) (d : Nat) (t : BitVec 64) : (s.advanceToStamp d t).bootStep = s.bootStep := State.advanceTo_bootStep s d _
@[simp] theorem State.advanceToStamp_bootImage (s : State) (d : Nat) (t : BitVec 64) : (s.advanceToStamp d t).bootImage = s.bootImage := State.advanceTo_bootImage s d _
@[simp] theorem State.advanceToStamp_limits (s : State) (d : Nat) (t : BitVec 64) : (s.advanceToStamp d t).limits = s.limits := State.advanceTo_limits s d _
@[simp] theorem State.advanceToStamp_pps (s : State) (d : Nat) (t : BitVec 64) : (s.advanceToStamp d t).pps = s.pps := State.advanceTo_pps s d _
@[simp] theorem State.advanceToStamp_readData (s : State) (d : Nat) (t : BitVec 64) : (s.advanceToStamp d t).readData = s.readData := State.advanceTo_readData s d _
@[simp] theorem State.advanceToStamp_out (s : State) (d : Nat) (t : BitVec 64) : (s.advanceToStamp d t).out = s.out := State.advanceTo_out s d _
@[simp] theorem State.advanceToStamp_free (s : State) (d : Nat) (t : BitVec 64) : (s.advanceToStamp d t).free = s.free := State.advanceTo_free s d _

@[simp] theorem draw_pending (s : State)  : ((draw s).2).pending = s.pending := rfl
@[simp] theorem draw_fuses (s : State)  : ((draw s).2).fuses = s.fuses := rfl
@[simp] theorem draw_flash (s : State)  : ((draw s).2).flash = s.flash := rfl
@[simp] theorem draw_dies (s : State)  : ((draw s).2).dies = s.dies := rfl
@[simp] theorem draw_servo (s : State)  : ((draw s).2).servo = s.servo := rfl
@[simp] theorem draw_restr (s : State)  : ((draw s).2).restr = s.restr := rfl
@[simp] theorem draw_tables (s : State)  : ((draw s).2).tables = s.tables := rfl
@[simp] theorem draw_queues (s : State)  : ((draw s).2).queues = s.queues := rfl
@[simp] theorem draw_badBells (s : State)  : ((draw s).2).badBells = s.badBells := rfl
@[simp] theorem draw_moves (s : State)  : ((draw s).2).moves = s.moves := rfl
@[simp] theorem draw_pair (s : State)  : ((draw s).2).pair = s.pair := rfl
@[simp] theorem draw_upd (s : State)  : ((draw s).2).upd = s.upd := rfl
@[simp] theorem draw_lastMp (s : State)  : ((draw s).2).lastMp = s.lastMp := rfl
@[simp] theorem draw_endedMp (s : State)  : ((draw s).2).endedMp = s.endedMp := rfl
@[simp] theorem draw_frameShift (s : State)  : ((draw s).2).frameShift = s.frameShift := rfl
@[simp] theorem draw_absentBlocks (s : State)  : ((draw s).2).absentBlocks = s.absentBlocks := rfl
@[simp] theorem draw_lateDecodes (s : State)  : ((draw s).2).lateDecodes = s.lateDecodes := rfl
@[simp] theorem draw_lateEncodes (s : State)  : ((draw s).2).lateEncodes = s.lateEncodes := rfl
@[simp] theorem draw_c2Faults (s : State)  : ((draw s).2).c2Faults = s.c2Faults := rfl
@[simp] theorem draw_audioFaults (s : State)  : ((draw s).2).audioFaults = s.audioFaults := rfl
@[simp] theorem draw_uptime (s : State)  : ((draw s).2).uptime = s.uptime := rfl
@[simp] theorem draw_bootSecond (s : State)  : ((draw s).2).bootSecond = s.bootSecond := rfl
@[simp] theorem draw_inReset (s : State)  : ((draw s).2).inReset = s.inReset := rfl
@[simp] theorem draw_linkUp (s : State)  : ((draw s).2).linkUp = s.linkUp := rfl
@[simp] theorem draw_bootStep (s : State)  : ((draw s).2).bootStep = s.bootStep := rfl
@[simp] theorem draw_bootImage (s : State)  : ((draw s).2).bootImage = s.bootImage := rfl
@[simp] theorem draw_limits (s : State)  : ((draw s).2).limits = s.limits := rfl
@[simp] theorem draw_pps (s : State)  : ((draw s).2).pps = s.pps := rfl
@[simp] theorem draw_readData (s : State)  : ((draw s).2).readData = s.readData := rfl
@[simp] theorem draw_out (s : State)  : ((draw s).2).out = s.out := rfl

@[simp] theorem rateNote_pending (s : State) (d : Nat) (code : BitVec 16) (obj : BitVec 64) : (rateNote d code obj s).pending = s.pending := rfl
@[simp] theorem rateNote_fuses (s : State) (d : Nat) (code : BitVec 16) (obj : BitVec 64) : (rateNote d code obj s).fuses = s.fuses := rfl
@[simp] theorem rateNote_flash (s : State) (d : Nat) (code : BitVec 16) (obj : BitVec 64) : (rateNote d code obj s).flash = s.flash := rfl
@[simp] theorem rateNote_dies (s : State) (d : Nat) (code : BitVec 16) (obj : BitVec 64) : (rateNote d code obj s).dies = s.dies := rfl
@[simp] theorem rateNote_servo (s : State) (d : Nat) (code : BitVec 16) (obj : BitVec 64) : (rateNote d code obj s).servo = s.servo := rfl
@[simp] theorem rateNote_restr (s : State) (d : Nat) (code : BitVec 16) (obj : BitVec 64) : (rateNote d code obj s).restr = s.restr := rfl
@[simp] theorem rateNote_tables (s : State) (d : Nat) (code : BitVec 16) (obj : BitVec 64) : (rateNote d code obj s).tables = s.tables := rfl
@[simp] theorem rateNote_queues (s : State) (d : Nat) (code : BitVec 16) (obj : BitVec 64) : (rateNote d code obj s).queues = s.queues := rfl
@[simp] theorem rateNote_badBells (s : State) (d : Nat) (code : BitVec 16) (obj : BitVec 64) : (rateNote d code obj s).badBells = s.badBells := rfl
@[simp] theorem rateNote_moves (s : State) (d : Nat) (code : BitVec 16) (obj : BitVec 64) : (rateNote d code obj s).moves = s.moves := rfl
@[simp] theorem rateNote_pair (s : State) (d : Nat) (code : BitVec 16) (obj : BitVec 64) : (rateNote d code obj s).pair = s.pair := rfl
@[simp] theorem rateNote_upd (s : State) (d : Nat) (code : BitVec 16) (obj : BitVec 64) : (rateNote d code obj s).upd = s.upd := rfl
@[simp] theorem rateNote_lastMp (s : State) (d : Nat) (code : BitVec 16) (obj : BitVec 64) : (rateNote d code obj s).lastMp = s.lastMp := rfl
@[simp] theorem rateNote_endedMp (s : State) (d : Nat) (code : BitVec 16) (obj : BitVec 64) : (rateNote d code obj s).endedMp = s.endedMp := rfl
@[simp] theorem rateNote_frameShift (s : State) (d : Nat) (code : BitVec 16) (obj : BitVec 64) : (rateNote d code obj s).frameShift = s.frameShift := rfl
@[simp] theorem rateNote_absentBlocks (s : State) (d : Nat) (code : BitVec 16) (obj : BitVec 64) : (rateNote d code obj s).absentBlocks = s.absentBlocks := rfl
@[simp] theorem rateNote_lateDecodes (s : State) (d : Nat) (code : BitVec 16) (obj : BitVec 64) : (rateNote d code obj s).lateDecodes = s.lateDecodes := rfl
@[simp] theorem rateNote_lateEncodes (s : State) (d : Nat) (code : BitVec 16) (obj : BitVec 64) : (rateNote d code obj s).lateEncodes = s.lateEncodes := rfl
@[simp] theorem rateNote_c2Faults (s : State) (d : Nat) (code : BitVec 16) (obj : BitVec 64) : (rateNote d code obj s).c2Faults = s.c2Faults := rfl
@[simp] theorem rateNote_audioFaults (s : State) (d : Nat) (code : BitVec 16) (obj : BitVec 64) : (rateNote d code obj s).audioFaults = s.audioFaults := rfl
@[simp] theorem rateNote_uptime (s : State) (d : Nat) (code : BitVec 16) (obj : BitVec 64) : (rateNote d code obj s).uptime = s.uptime := rfl
@[simp] theorem rateNote_bootSecond (s : State) (d : Nat) (code : BitVec 16) (obj : BitVec 64) : (rateNote d code obj s).bootSecond = s.bootSecond := rfl
@[simp] theorem rateNote_inReset (s : State) (d : Nat) (code : BitVec 16) (obj : BitVec 64) : (rateNote d code obj s).inReset = s.inReset := rfl
@[simp] theorem rateNote_linkUp (s : State) (d : Nat) (code : BitVec 16) (obj : BitVec 64) : (rateNote d code obj s).linkUp = s.linkUp := rfl
@[simp] theorem rateNote_bootStep (s : State) (d : Nat) (code : BitVec 16) (obj : BitVec 64) : (rateNote d code obj s).bootStep = s.bootStep := rfl
@[simp] theorem rateNote_bootImage (s : State) (d : Nat) (code : BitVec 16) (obj : BitVec 64) : (rateNote d code obj s).bootImage = s.bootImage := rfl
@[simp] theorem rateNote_pps (s : State) (d : Nat) (code : BitVec 16) (obj : BitVec 64) : (rateNote d code obj s).pps = s.pps := rfl
@[simp] theorem rateNote_readData (s : State) (d : Nat) (code : BitVec 16) (obj : BitVec 64) : (rateNote d code obj s).readData = s.readData := rfl
@[simp] theorem rateNote_out (s : State) (d : Nat) (code : BitVec 16) (obj : BitVec 64) : (rateNote d code obj s).out = s.out := rfl
@[simp] theorem rateNote_free (s : State) (d : Nat) (code : BitVec 16) (obj : BitVec 64) : (rateNote d code obj s).free = s.free := rfl

@[simp] theorem emit_out (s : State) (o : Out) : (emit o s).out = o :: s.out := rfl
@[simp] theorem draw_free (s : State) : (draw s).2.free = s.free + 1 := rfl
@[simp] theorem draw_value (s : State) : (draw s).1 = Config.freeValue s.free := rfl

/-! ## Dies -/

@[simp] theorem modDie_length (s : State) (d : Nat) (f : Die → Die) : (s.modDie d f).dies.length = s.dies.length := by
  simp [State.modDie]

@[simp] theorem mapDies_length (s : State) (f : Nat → Die → Die) : (s.mapDies f).dies.length = s.dies.length := by
  simp [State.mapDies]

/-- A die that is changed reads as changed, where the package has it. -/
theorem die_modDie (s : State) (d e : Nat) (f : Die → Die) :
    (s.modDie d f).die e = if e = d ∧ d < s.dies.length then f (s.die d) else s.die e := by
  by_cases h : e = d
  · subst h
    by_cases hl : e < s.dies.length
    · simp [State.die, State.modDie, hl, List.getD_eq_getElem?_getD]
    · simp [State.die, State.modDie, hl, List.getD_eq_getElem?_getD]
  · simp [State.die, State.modDie, h, List.getD_eq_getElem?_getD, Ne.symm h]

@[simp] theorem die_modDie_self (s : State) (d : Nat) (f : Die → Die) (h : s.hasDie d = true) :
    (s.modDie d f).die d = f (s.die d) := by
  simp only [State.hasDie, decide_eq_true_eq] at h
  simp [die_modDie, h]

@[simp] theorem die_modDie_ne (s : State) (d e : Nat) (f : Die → Die) (h : e ≠ d) :
    (s.modDie d f).die e = s.die e := by
  simp [die_modDie, h]

@[simp] theorem hasDie_modDie (s : State) (d e : Nat) (f : Die → Die) : (s.modDie d f).hasDie e = s.hasDie e := by
  simp [State.hasDie]

@[simp] theorem modDie_modDie (s : State) (d : Nat) (f g : Die → Die) :
    (s.modDie d f).modDie d g = s.modDie d fun x => g (f x) := by
  simp [State.modDie, List.modify_modify_eq, Function.comp_def]

@[simp] theorem die_emit (s : State) (o : Out) (e : Nat) : (emit o s).die e = s.die e := rfl
@[simp] theorem hasDie_emit (s : State) (o : Out) (e : Nat) : (emit o s).hasDie e = s.hasDie e := rfl
@[simp] theorem die_modFq (s : State) (f : Nat) (g : FuncQueue → FuncQueue) (e : Nat) : (s.modFq f g).die e = s.die e := rfl
@[simp] theorem hasDie_modFq (s : State) (f : Nat) (g : FuncQueue → FuncQueue) (e : Nat) : (s.modFq f g).hasDie e = s.hasDie e := rfl
@[simp] theorem die_draw (s : State) (e : Nat) : (draw s).2.die e = s.die e := rfl
@[simp] theorem hasDie_draw (s : State) (e : Nat) : (draw s).2.hasDie e = s.hasDie e := rfl
@[simp] theorem hasDie_advance (s : State) (n e : Nat) : (s.advance n).hasDie e = s.hasDie e := by
  simp [State.hasDie, State.advance]

/-- Every die of an advanced state is the die of before with its time base moved on at its own rate. -/
theorem die_advance (s : State) (n e : Nat) (h : s.hasDie e = true) :
    (s.advance n).die e = { s.die e with tim := passTim n (s.die e).tim } := by
  simp only [State.hasDie, decide_eq_true_eq] at h
  simp [State.die, State.advance, State.mapDies, List.getD_eq_getElem?_getD, h]

@[simp] theorem advance_length (s : State) (n : Nat) : (s.advance n).dies.length = s.dies.length := by
  simp [State.advance]

end Sys2Proof.Machine
end

