-- ==== Sys2Proof/Laws/Tables.lean ====
section
/-! SUPPORT. The laws of sparse tables and of memory: an entry that is written reads back, no other entry changes, and every
operation keeps the canonical form. -/

namespace Sys2Proof.Machine

variable {α : Type}

/-! ## Reading after listing an entry -/

@[simp] theorem tget_nil (d : α) (i : Nat) : tget d [] i = d := rfl

@[simp] theorem tget_tins_self (d : α) (t : Tab α) (i : Nat) (x : α) : tget d (tins t i x) i = x := by
  induction t with
  | nil => simp [tins, tget]
  | cons e t ih =>
    obtain ⟨k, v⟩ := e
    simp only [tins]
    split
    · simp [tget]
    · split
      · simp [tget]
      · rename_i h1 h2
        simp [tget, h1, h2, ih]

theorem tget_tins_ne (d : α) (t : Tab α) (i j : Nat) (x : α) (h : j ≠ i) : tget d (tins t i x) j = tget d t j := by
  induction t with
  | nil =>
    simp only [tins, tget, h, if_false]
    split <;> rfl
  | cons e t ih =>
    obtain ⟨k, v⟩ := e
    simp only [tins]
    split
    · rename_i hik
      subst hik
      simp [tget, h]
    · split
      · rename_i h1 h2
        by_cases hji : j < i
        · have h3 : j ≠ k := by omega
          have h4 : j < k := by omega
          simp [tget, h, hji, h3, h4]
        · simp [tget, h, hji]
      · simp only [tget, ih]

/-! ## The canonical form -/

section
variable [DecidableEq α]

/-- Lowering the bound of a canonical table. -/
theorem tabWfFrom_mono (d : α) (t : Tab α) (lo : Option Nat) (b : Nat)
    (hb : ∀ l, lo = some l → l ≤ b) (h : tabWfFrom d (some b) t = true) : tabWfFrom d lo t = true := by
  cases t with
  | nil => rfl
  | cons e t =>
    obtain ⟨k, v⟩ := e
    simp only [tabWfFrom, Bool.and_eq_true, decide_eq_true_eq] at h ⊢
    refine ⟨⟨?_, h.1.2⟩, h.2⟩
    cases lo with
    | none => rfl
    | some l => exact decide_eq_true (Nat.lt_of_le_of_lt (hb l rfl) h.1.1)

/-- No entry of a canonical table lies at or below its bound. -/
theorem tget_below (d : α) (t : Tab α) (b i : Nat) (h : tabWfFrom d (some b) t = true) (hi : i ≤ b) : tget d t i = d := by
  cases t with
  | nil => rfl
  | cons e t =>
    obtain ⟨k, v⟩ := e
    simp only [tabWfFrom, Bool.and_eq_true, decide_eq_true_eq] at h
    have h1 : i ≠ k := by omega
    have h2 : i < k := by omega
    simp [tget, h1, h2]

theorem tget_tdel_self (d : α) (t : Tab α) (lo : Option Nat) (i : Nat) (h : tabWfFrom d lo t = true) :
    tget d (tdel t i) i = d := by
  induction t generalizing lo with
  | nil => rfl
  | cons e t ih =>
    obtain ⟨k, v⟩ := e
    simp only [tabWfFrom, Bool.and_eq_true, decide_eq_true_eq] at h
    simp only [tdel]
    split
    · rename_i hik
      exact tget_below d t k i h.2 (by omega)
    · split
      · rename_i h1 h2
        simp [tget, h1, h2]
      · rename_i h1 h2
        simp [tget, h1, h2, ih _ h.2]

theorem tget_tdel_ne (d : α) (t : Tab α) (lo : Option Nat) (i j : Nat) (h : tabWfFrom d lo t = true) (hj : j ≠ i) :
    tget d (tdel t i) j = tget d t j := by
  induction t generalizing lo with
  | nil => rfl
  | cons e t ih =>
    obtain ⟨k, v⟩ := e
    simp only [tabWfFrom, Bool.and_eq_true, decide_eq_true_eq] at h
    simp only [tdel]
    split
    · rename_i hik
      subst hik
      by_cases hlt : j < i
      · simp [tget, hj, hlt, tget_below d t i j h.2 (by omega)]
      · simp [tget, hj, hlt]
    · split
      · rfl
      · simp [tget, ih _ h.2]

theorem tabWfFrom_tdel (d : α) (t : Tab α) (lo : Option Nat) (i : Nat) (h : tabWfFrom d lo t = true) :
    tabWfFrom d lo (tdel t i) = true := by
  induction t generalizing lo with
  | nil => rfl
  | cons e t ih =>
    obtain ⟨k, v⟩ := e
    have h' := h
    simp only [tabWfFrom, Bool.and_eq_true] at h
    simp only [tdel]
    split
    · refine tabWfFrom_mono d t lo k ?_ h.2
      intro l hl
      subst hl
      exact Nat.le_of_lt (of_decide_eq_true h.1.1)
    · split
      · exact h'
      · simp only [tabWfFrom, Bool.and_eq_true]
        exact ⟨h.1, ih _ h.2⟩

/-- An entry above the bound, before a canonical rest. -/
theorem tabWfFrom_cons (d : α) (t : Tab α) (lo : Option Nat) (i : Nat) (x : α) (hx : x ≠ d)
    (hlo : ∀ l, lo = some l → l < i) (h : tabWfFrom d (some i) t = true) : tabWfFrom d lo ((i, x) :: t) = true := by
  cases lo with
  | none => simp [tabWfFrom, hx, h]
  | some l => simp [tabWfFrom, hx, h, hlo l rfl]

theorem tabWfFrom_tins (d : α) (t : Tab α) (lo : Option Nat) (i : Nat) (x : α) (hx : x ≠ d)
    (hlo : ∀ l, lo = some l → l < i) (h : tabWfFrom d lo t = true) : tabWfFrom d lo (tins t i x) = true := by
  induction t generalizing lo with
  | nil => exact tabWfFrom_cons d [] lo i x hx hlo rfl
  | cons e t ih =>
    obtain ⟨k, v⟩ := e
    simp only [tabWfFrom, Bool.and_eq_true] at h
    simp only [tins]
    split
    · rename_i hik
      subst hik
      exact tabWfFrom_cons d t lo i x hx hlo h.2
    · split
      · rename_i h1 h2
        exact tabWfFrom_cons d _ lo i x hx hlo
          (tabWfFrom_cons d t (some i) k v (of_decide_eq_true h.1.2) (by simpa using h2) h.2)
      · rename_i h1 h2
        simp only [tabWfFrom, Bool.and_eq_true]
        exact ⟨h.1, ih (some k) (by intro l hl; cases hl; omega) h.2⟩

/-- Writing an entry keeps the canonical form. -/
theorem tabWf_tset (d : α) (t : Tab α) (i : Nat) (x : α) (h : tabWf d t = true) : tabWf d (tset d t i x) = true := by
  unfold tabWf at h ⊢
  unfold tset
  split
  · exact tabWfFrom_tdel d t none i h
  · rename_i hx
    exact tabWfFrom_tins d t none i x hx (by simp) h

/-- Changing an entry keeps the canonical form. -/
theorem tabWf_tmod (d : α) (t : Tab α) (i : Nat) (f : α → α) (h : tabWf d t = true) : tabWf d (tmod d t i f) = true :=
  tabWf_tset d t i _ h

/-! ## Reading after writing -/

/-- A written entry reads back, in a canonical table. -/
theorem tget_tset_self (d : α) (t : Tab α) (i : Nat) (x : α) (h : tabWf d t = true) : tget d (tset d t i x) i = x := by
  unfold tset
  split
  · rename_i hx
    rw [hx]
    exact tget_tdel_self d t none i h
  · exact tget_tins_self d t i x

/-- No other entry changes, in a canonical table. -/
theorem tget_tset_ne (d : α) (t : Tab α) (i j : Nat) (x : α) (h : tabWf d t = true) (hj : j ≠ i) :
    tget d (tset d t i x) j = tget d t j := by
  unfold tset
  split
  · exact tget_tdel_ne d t none i j h hj
  · exact tget_tins_ne d t i j x hj

/-- A value other than the default reads back from any table. -/
theorem tget_tset_of_ne (d : α) (t : Tab α) (i : Nat) (x : α) (h : x ≠ d) : tget d (tset d t i x) i = x := by
  simp [tset, h]

/-- Writing a value other than the default changes no other entry of any table. -/
theorem tget_tset_other (d : α) (t : Tab α) (i j : Nat) (x : α) (h : x ≠ d) (hj : j ≠ i) :
    tget d (tset d t i x) j = tget d t j := by
  simp [tset, h, tget_tins_ne _ _ _ _ _ hj]

end

/-! ## Memory -/

/-- Storing bytes keeps the canonical form of memory. -/
theorem tabWf_wrBytes (m : Mem) (a : Nat) (bs : List Byte) (h : tabWf 0 m = true) : tabWf 0 (wrBytes m a bs) = true := by
  induction bs generalizing m a with
  | nil => exact h
  | cons b bs ih => exact ih _ _ (tabWf_tset 0 m a b h)

/-- Storing a word keeps the canonical form of memory. -/
theorem tabWf_wr64 (m : Mem) (a : Nat) (v : Word) (h : tabWf 0 m = true) : tabWf 0 (wr64 m a v) = true :=
  tabWf_wrBytes m a _ h

/-- Wiping a range keeps the canonical form. -/
theorem tabWf_wipe [DecidableEq α] (d : α) (t : Tab α) (lo len : Nat) (h : tabWf d t = true) :
    tabWf d (wipe t lo len) = true := by
  suffices hs : ∀ (b : Option Nat), tabWfFrom d b t = true → tabWfFrom d b (wipe t lo len) = true from hs none h
  clear h
  induction t with
  | nil => intro b h; exact h
  | cons e t ih =>
    obtain ⟨k, v⟩ := e
    intro b h
    simp only [tabWfFrom, Bool.and_eq_true] at h
    simp only [wipe, List.filter_cons]
    split
    · simp only [tabWfFrom, Bool.and_eq_true]
      exact ⟨h.1, ih (some k) h.2⟩
    · refine ih b (tabWfFrom_mono d t b k ?_ h.2)
      intro l hl
      subst hl
      exact Nat.le_of_lt (of_decide_eq_true h.1.1)

/-- No byte outside the stored ones changes. -/
theorem rdByte_wrBytes_ne (m : Mem) (a : Nat) (bs : List Byte) (x : Nat) (h : tabWf 0 m = true)
    (hx : x < a ∨ a + bs.length ≤ x) : rdByte (wrBytes m a bs) x = rdByte m x := by
  induction bs generalizing m a with
  | nil => rfl
  | cons b bs ih =>
    simp only [List.length_cons] at hx
    have h1 : rdByte (wrBytes (wrByte m a b) (a + 1) bs) x = rdByte (wrByte m a b) x :=
      ih _ _ (tabWf_tset 0 m a b h) (by omega)
    have h2 : rdByte (wrByte m a b) x = rdByte m x := tget_tset_ne 0 m a x b h (by omega)
    exact h1.trans h2

/-- The stored bytes read back. -/
theorem rdBytes_wrBytes (m : Mem) (a : Nat) (bs : List Byte) (h : tabWf 0 m = true) :
    rdBytes (wrBytes m a bs) a bs.length = bs := by
  induction bs generalizing m a with
  | nil => rfl
  | cons b bs ih =>
    have hw : tabWf 0 (wrByte m a b) = true := tabWf_tset 0 m a b h
    have h1 : rdByte (wrBytes (wrByte m a b) (a + 1) bs) a = b := by
      rw [rdByte_wrBytes_ne (wrByte m a b) (a + 1) bs a hw (by omega)]
      exact tget_tset_self 0 m a b h
    have h2 := ih (wrByte m a b) (a + 1) hw
    simp [wrBytes, rdBytes, h1, h2]

end Sys2Proof.Machine
end

