-- ==== Sys2Proof/Laws/Log.lean ====
section
/-! SUPPORT. What an error report can do: it touches the error log of its die and the outputs, nothing else. -/

namespace Sys2Proof.Laws

open Sys2Proof.Machine Sys2Proof.Safety

theorem onlyLog_refl (d : Nat) (s : State) : onlyLog d s s := ⟨rfl, rfl, fun e => by split <;> rfl⟩

theorem onlyLog_trans {d : Nat} {s t u : State} (h : onlyLog d s t) (k : onlyLog d t u) : onlyLog d s u := by
  obtain ⟨h1, h2, h3⟩ := h
  obtain ⟨k1, k2, k3⟩ := k
  refine ⟨?_, k2.trans h2, fun e => ?_⟩
  · rw [k1, h1]
  · rw [k3 e, h3 e]; split <;> rfl

theorem onlyLog_emit (d : Nat) (o : Out) (s : State) : onlyLog d s (emit o s) :=
  ⟨rfl, rfl, fun e => by split <;> rfl⟩

theorem onlyLog_modErr (d : Nat) (f : Die → Die) (s : State) (h : ∀ x, f x = { x with err := (f x).err }) :
    onlyLog d s (s.modDie d f) := by
  refine ⟨rfl, by simp [State.modDie], fun e => ?_⟩
  rw [die_modDie]
  by_cases he : e = d
  · subst he
    split
    · simpa using h _
    · simp
  · simp [he]

theorem onlyLog_errIrq (d : Nat) (s : State) : onlyLog d s (errIrq d s) := by
  unfold errIrq
  dsimp only
  split
  · exact onlyLog_emit d _ s
  · exact onlyLog_refl d s

theorem onlyLog_displace (d : Nat) (o : ErrRec) (s : State) : onlyLog d s (displace d o s) := by
  unfold displace
  dsimp only
  split
  · exact onlyLog_trans (onlyLog_modErr d _ s fun _ => rfl) (onlyLog_emit d _ _)
  · exact onlyLog_modErr d _ s fun _ => rfl

theorem onlyLog_newRecord (d : Nat) (r : ErrRec) (s : State) : onlyLog d s (newRecord d r s) := by
  unfold newRecord
  dsimp only
  split
  · exact onlyLog_trans (onlyLog_modErr d _ s fun _ => rfl) (onlyLog_errIrq d _)
  · split
    · split
      · exact onlyLog_trans (onlyLog_displace d _ s) (onlyLog_trans (onlyLog_modErr d _ _ fun _ => rfl) (onlyLog_errIrq d _))
      · exact onlyLog_trans (onlyLog_displace d _ s) (onlyLog_trans (onlyLog_modErr d _ _ fun _ => rfl) (onlyLog_errIrq d _))
    · exact onlyLog_modErr d _ s fun _ => rfl

/-- A report touches the error log of its die and the outputs, nothing else. -/
theorem onlyLog_raiseFrom (d : Nat) (src : Byte) (code : BitVec 16) (detail : BitVec 64) (s : State) :
    onlyLog d s (raiseFrom d src code detail s) := by
  unfold raiseFrom
  dsimp only
  split
  · exact onlyLog_refl d s
  · split
    · exact onlyLog_newRecord d _ s
    · split
      · exact onlyLog_modErr d _ s fun _ => rfl
      · exact onlyLog_newRecord d _ s

theorem onlyLog_raise (d : Nat) (code : BitVec 16) (detail : BitVec 64) (s : State) : onlyLog d s (raise d code detail s) :=
  onlyLog_raiseFrom d dukenCheck code detail s

end Sys2Proof.Laws
end

