-- ==== Sys2Proof/Laws/Commands.lean ====
section
/-! SUPPORT. Posted commands: what a command does depends only on what its body does in the state in which it starts. -/

namespace Sys2Proof.Laws

open Sys2Proof.Machine

/-- The state in which the body of a posted command runs: the command is no longer fetched, and running. -/
abbrev startedCmd (c : Cmd) (s : State) : State :=
  s.modFq c.func fun q => { q with fetched := q.fetched.erase c, running := q.running ++ [(tagOf c, false)] }

/-- Two bodies that agree in the state in which the command starts make the same command. -/
theorem runCmd_congr (op : BitVec 8) (c : Cmd) (f g : State → Reply × State) (s : State)
    (h : f (startedCmd c s) = g (startedCmd c s)) : runCmd op c f s = runCmd op c g s := by
  unfold runCmd
  dsimp only
  rw [h]

/-- A command that is not its queue's next one, or whose OPCODE is another's, starts nothing. -/
theorem runCmd_idle (op : BitVec 8) (c : Cmd) (f : State → Reply × State) (s : State) (h : startable op c s = false) :
    runCmd op c f s = s := by
  simp [runCmd, h]

/-- A completion changes the queues and what goes out, nothing else. -/
theorem postCompletion_frame (f : Nat) (c : Completion) (s : State) :
    postCompletion f c s = { s with queues := (postCompletion f c s).queues, out := (postCompletion f c s).out } := by
  unfold postCompletion
  dsimp only
  split
  · rfl
  · split
    · rfl
    · unfold writeCq
      dsimp only
      split <;> rfl

/-- A function whose completion queue is disabled receives none (04 R103). -/
theorem postCompletion_disabled (f : Nat) (c : Completion) (s : State) (h : (s.fq f).cqEn = false) :
    postCompletion f c s = s := by
  unfold postCompletion
  simp [h]

end Sys2Proof.Laws
end

