-- ==== Sys2Proof/Laws/KeepsBase.lean ====
section
/-! SUPPORT. That every operation of the machine keeps what `Keeps` says: the shared operations, boot, reset, update, triggers and time. One lemma for each
operation that changes the state, cited wherever that operation is called. -/

namespace Sys2Proof.Machine

/-- What no command and no tick changes: the queue of waiting commands, the number of dies, the variant; and what none
undoes: a canonical table aperture, a fuse that revokes a key, canonical queues. -/
def Keeps (s t : State) : Prop :=
  t.pending = s.pending ∧ t.dies.length = s.dies.length ∧ t.fuses.variant = s.fuses.variant ∧
    (tabWf 0 s.tables = true → tabWf 0 t.tables = true) ∧
    (∀ k, s.fuses.revoked.getLsbD k = true → t.fuses.revoked.getLsbD k = true) ∧
    (tabWf {} s.queues = true → tabWf {} t.queues = true)

theorem Keeps.refl (s : State) : Keeps s s := ⟨rfl, rfl, rfl, id, fun _ h => h, id⟩

theorem Keeps.trans {s t u : State} (h : Keeps s t) (k : Keeps t u) : Keeps s u :=
  ⟨k.1.trans h.1, k.2.1.trans h.2.1, k.2.2.1.trans h.2.2.1, fun w => k.2.2.2.1 (h.2.2.2.1 w),
    fun n w => k.2.2.2.2.1 n (h.2.2.2.2.1 n w), fun w => k.2.2.2.2.2 (h.2.2.2.2.2 w)⟩

theorem keeps_forAll {α : Type} (l : List α) (f : α → State → State) (s : State) (h : ∀ a u, Keeps u (f a u)) :
    Keeps s (forAll l f s) := by
  induction l generalizing s with
  | nil => exact Keeps.refl s
  | cons a l ih => exact (h a s).trans (ih (f a s))

theorem keeps_ite (p : Prop) [Decidable p] (s a b : State) (ha : Keeps s a) (hb : Keeps s b) : Keeps s (if p then a else b) := by
  split <;> assumption

theorem keeps_foldl {α β : Type} (l : List α) (f : β × State → α → β × State) (s : State) (b : β)
    (h : ∀ acc a, Keeps acc.2 (f acc a).2) : Keeps s (l.foldl f (b, s)).2 := by
  suffices hs : ∀ acc : β × State, Keeps acc.2 (l.foldl f acc).2 from hs (b, s)
  induction l with
  | nil => exact fun acc => Keeps.refl _
  | cons a l ih => exact fun acc => (h acc a).trans (ih (f acc a))

theorem tabWf_foldl {α β : Type} [DecidableEq α] (d : α) (l : List β) (f : Tab α → β → Tab α) (m : Tab α)
    (h : ∀ m a, tabWf d m = true → tabWf d (f m a) = true) (hm : tabWf d m = true) : tabWf d (l.foldl f m) = true := by
  induction l generalizing m with
  | nil => exact hm
  | cons a l ih => exact ih (f m a) (h m a hm)

/-- A change of anything else than the queue, the fuses, the dies, the table aperture and the queues of the functions keeps all this. -/
theorem keeps_mk_iff (s t : State) (a c d f g h i j k l m n o p q r u v w x y z z1 z2 z3 z4) :
    Keeps s (State.mk t.pending t.fuses a t.dies c d t.tables t.queues f g h i j k l m n o p q r u v w x y z z1 z2 z3 z4) ↔ Keeps s t := Iff.rfl

/-! ## Ops -/

theorem keeps_modDie (s : State) (d : Nat) (f : Die → Die) : Keeps s (State.modDie s d f) := by
  simp [Keeps]

theorem keeps_mapDies (s : State) (f : Nat → Die → Die) : Keeps s (State.mapDies s f) := by
  simp [Keeps]

theorem keeps_advance (s : State) (n : Nat) : Keeps s (State.advance s n) := by
  unfold State.advance; try dsimp (iota := false) only
  repeat' with_reducible first | exact Keeps.refl _ | assumption | simp (iota := false) only [keeps_mk_iff] | refine Keeps.trans ?_ (keeps_mapDies ..)

theorem keeps_advanceTo (s : State) (d : Nat) (t : Nat) : Keeps s (State.advanceTo s d t) := by
  unfold State.advanceTo; try dsimp (iota := false) only
  repeat' with_reducible first | exact Keeps.refl _ | assumption | simp (iota := false) only [keeps_mk_iff] | refine Keeps.trans ?_ (keeps_advance ..) | refine Keeps.trans ?_ (keeps_modDie ..) | split

theorem keeps_advanceToStamp (s : State) (d : Nat) (t : BitVec 64) : Keeps s (State.advanceToStamp s d t) := by
  unfold State.advanceToStamp; try dsimp (iota := false) only
  repeat' with_reducible first | exact Keeps.refl _ | assumption | simp (iota := false) only [keeps_mk_iff] | refine Keeps.trans ?_ (keeps_advanceTo ..)

theorem keeps_draw (s : State) : Keeps s (draw s).2 := by
  unfold draw; try dsimp (iota := false) only
  repeat' with_reducible first | exact Keeps.refl _ | assumption | simp (iota := false) only [keeps_mk_iff]

theorem keeps_draw_eq {s : State} {v1} {u1 : State} (h1 : draw s = (v1, u1)) : Keeps s u1 := by
  have kk := keeps_draw s
  rwa [h1] at kk

theorem keeps_emit (o : Out) (s : State) : Keeps s (emit o s) := by
  unfold emit; try dsimp (iota := false) only
  repeat' with_reducible first | exact Keeps.refl _ | assumption | simp (iota := false) only [keeps_mk_iff]

theorem keeps_ledger (d : Nat) (r : LedgerRec) (s : State) : Keeps s (ledger d r s) := by
  unfold ledger; try dsimp (iota := false) only
  repeat' with_reducible first | exact Keeps.refl _ | assumption | simp (iota := false) only [keeps_mk_iff] | refine Keeps.trans ?_ (keeps_emit ..) | refine Keeps.trans ?_ (keeps_modDie ..) | split

theorem keeps_drawLedger (d : Nat) (s : State) : Keeps s (drawLedger d s).2 := by
  unfold drawLedger; try dsimp (iota := false) only
  repeat' with_reducible first | exact Keeps.refl _ | assumption | simp (iota := false) only [keeps_mk_iff] | refine Keeps.trans ?_ (keeps_draw_eq (by assumption)) | refine Keeps.trans ?_ (keeps_ledger ..) | split | refine Keeps.trans ?_ (keeps_draw ..)

theorem keeps_drawLedger_eq {d : Nat} {s : State} {v1} {u1 : State} (h1 : drawLedger d s = (v1, u1)) : Keeps s u1 := by
  have kk := keeps_drawLedger d s
  rwa [h1] at kk

theorem keeps_displace (d : Nat) (o : ErrRec) (s : State) : Keeps s (displace d o s) := by
  unfold displace; try dsimp (iota := false) only
  repeat' with_reducible first | exact Keeps.refl _ | assumption | simp (iota := false) only [keeps_mk_iff] | refine Keeps.trans ?_ (keeps_emit ..) | refine Keeps.trans ?_ (keeps_modDie ..) | split

theorem keeps_errIrq (d : Nat) (s : State) : Keeps s (errIrq d s) := by
  unfold errIrq; try dsimp (iota := false) only
  repeat' with_reducible first | exact Keeps.refl _ | assumption | simp (iota := false) only [keeps_mk_iff] | refine Keeps.trans ?_ (keeps_emit ..) | split

theorem keeps_newRecord (d : Nat) (r : ErrRec) (s : State) : Keeps s (newRecord d r s) := by
  unfold newRecord; try dsimp (iota := false) only
  repeat' with_reducible first | exact Keeps.refl _ | assumption | simp (iota := false) only [keeps_mk_iff] | refine Keeps.trans ?_ (keeps_displace ..) | refine Keeps.trans ?_ (keeps_errIrq ..) | refine Keeps.trans ?_ (keeps_modDie ..) | split

theorem keeps_raiseFrom (d : Nat) (src : Byte) (code : BitVec 16) (detail : BitVec 64) (s : State) : Keeps s (raiseFrom d src code detail s) := by
  unfold raiseFrom; try dsimp (iota := false) only
  repeat' with_reducible first | exact Keeps.refl _ | assumption | simp (iota := false) only [keeps_mk_iff] | refine Keeps.trans ?_ (keeps_modDie ..) | refine Keeps.trans ?_ (keeps_newRecord ..) | split

theorem keeps_raise (d : Nat) (code : BitVec 16) (detail : BitVec 64) (s : State) : Keeps s (raise d code detail s) := by
  unfold raise; try dsimp (iota := false) only
  repeat' with_reducible first | exact Keeps.refl _ | assumption | simp (iota := false) only [keeps_mk_iff] | refine Keeps.trans ?_ (keeps_raiseFrom ..)

theorem keeps_raiseFree (d : Nat) (src : Byte) (detail : BitVec 64) (s : State) : Keeps s (raiseFree d src detail s) := by
  unfold raiseFree; try dsimp (iota := false) only
  repeat' with_reducible first | exact Keeps.refl _ | assumption | simp (iota := false) only [keeps_mk_iff] | refine Keeps.trans ?_ (keeps_draw_eq (by assumption)) | refine Keeps.trans ?_ (keeps_raiseFrom ..) | split | refine Keeps.trans ?_ (keeps_draw ..)

theorem keeps_raiseAny (d : Nat) (src : Byte) (code : BitVec 16) (s : State) : Keeps s (raiseAny d src code s) := by
  unfold raiseAny; try dsimp (iota := false) only
  repeat' with_reducible first | exact Keeps.refl _ | assumption | simp (iota := false) only [keeps_mk_iff] | refine Keeps.trans ?_ (keeps_draw_eq (by assumption)) | refine Keeps.trans ?_ (keeps_raiseFrom ..) | split | refine Keeps.trans ?_ (keeps_draw ..)

theorem keeps_rateNote (d : Nat) (code : BitVec 16) (obj : BitVec 64) (s : State) : Keeps s (rateNote d code obj s) := by
  unfold rateNote; try dsimp (iota := false) only
  repeat' with_reducible first | exact Keeps.refl _ | assumption | simp (iota := false) only [keeps_mk_iff]

theorem keeps_raiseOnce (d : Nat) (src : Byte) (code : BitVec 16) (obj detail : BitVec 64) (s : State) : Keeps s (raiseOnce d src code obj detail s) := by
  unfold raiseOnce; try dsimp (iota := false) only
  repeat' with_reducible first | exact Keeps.refl _ | assumption | simp (iota := false) only [keeps_mk_iff] | refine Keeps.trans ?_ (keeps_raiseFrom ..) | refine Keeps.trans ?_ (keeps_rateNote ..) | split

theorem keeps_raiseAnyOnce (d : Nat) (src : Byte) (code : BitVec 16) (obj : BitVec 64) (s : State) : Keeps s (raiseAnyOnce d src code obj s) := by
  unfold raiseAnyOnce; try dsimp (iota := false) only
  repeat' with_reducible first | exact Keeps.refl _ | assumption | simp (iota := false) only [keeps_mk_iff] | refine Keeps.trans ?_ (keeps_raiseAny ..) | refine Keeps.trans ?_ (keeps_rateNote ..) | split

theorem keeps_modFq (s : State) (f : Nat) (g : FuncQueue → FuncQueue) : Keeps s (State.modFq s f g) := by
  exact ⟨rfl, rfl, rfl, id, fun _ h => h, tabWf_tmod _ _ _ _⟩

theorem keeps_writeCq (f : Nat) (c : Completion) (s : State) : Keeps s (writeCq f c s) := by
  unfold writeCq; try dsimp (iota := false) only
  repeat' with_reducible first | exact Keeps.refl _ | assumption | simp (iota := false) only [keeps_mk_iff] | refine Keeps.trans ?_ (keeps_emit ..) | refine Keeps.trans ?_ (keeps_modFq ..) | split

theorem keeps_postCompletion (f : Nat) (c : Completion) (s : State) : Keeps s (postCompletion f c s) := by
  unfold postCompletion; try dsimp (iota := false) only
  repeat' with_reducible first | exact Keeps.refl _ | assumption | simp (iota := false) only [keeps_mk_iff] | refine Keeps.trans ?_ (keeps_modFq ..) | refine Keeps.trans ?_ (keeps_writeCq ..) | split

theorem keeps_drainCq (f : Nat) (fuel : Nat) (s : State) : Keeps s (drainCq f fuel s) := by
  fun_induction drainCq f fuel s <;> grind [Keeps, keeps_modFq, keeps_writeCq]

theorem keeps_drainNops (f : Nat) (fuel : Nat) (s : State) : Keeps s (drainNops f fuel s) := by
  fun_induction drainNops f fuel s <;> grind [Keeps, keeps_modFq, keeps_postCompletion]

theorem keeps_finishCmd (f : Nat) (c : Completion) (s : State) : Keeps s (finishCmd f c s) := by
  unfold finishCmd; try dsimp (iota := false) only
  repeat' with_reducible first | exact Keeps.refl _ | assumption | simp (iota := false) only [keeps_mk_iff] | refine Keeps.trans ?_ (keeps_drainNops ..) | refine Keeps.trans ?_ (keeps_modFq ..) | refine Keeps.trans ?_ (keeps_postCompletion ..)

theorem keeps_runCmd (op : BitVec 8) (c : Cmd) (body : State → Reply × State) (s : State) (h : ∀ u, Keeps u (body u).2) :
    Keeps s (runCmd op c body s) := by
  unfold runCmd; grind [Keeps, keeps_modFq, keeps_finishCmd]

/-! ## Operands -/

theorem keeps_modLeg (s : State) (l : BitVec 16) (f : Leg → Leg) : Keeps s (State.modLeg s l f) := by
  unfold State.modLeg; try dsimp (iota := false) only
  repeat' with_reducible first | exact Keeps.refl _ | assumption | simp (iota := false) only [keeps_mk_iff] | refine Keeps.trans ?_ (keeps_modDie ..)

theorem keeps_modConf (s : State) (c : BitVec 16) (f : Conf → Conf) : Keeps s (State.modConf s c f) := by
  unfold State.modConf; try dsimp (iota := false) only
  repeat' with_reducible first | exact Keeps.refl _ | assumption | simp (iota := false) only [keeps_mk_iff] | refine Keeps.trans ?_ (keeps_modDie ..)

theorem keeps_putSub (s : State) (d i : Nat) (e : SubEntry) : Keeps s (State.putSub s d i e) := by
  unfold State.putSub; grind [Keeps, tabWf_tset, tabWf_wipe, tabWf_wr64, tabWf_wrBytes]

theorem keeps_devRefused (a : Nat) (req : Byte) (s : State) : Keeps s (devRefused a req s) := by
  unfold devRefused; try dsimp (iota := false) only
  repeat' with_reducible first | exact Keeps.refl _ | assumption | simp (iota := false) only [keeps_mk_iff] | refine Keeps.trans ?_ (keeps_modDie ..) | refine Keeps.trans ?_ (keeps_raiseFrom ..)

theorem keeps_devWr (req : Byte) (a : Nat) (bs : List Byte) (s : State) : Keeps s (devWr req a bs s) := by
  unfold devWr; try dsimp (iota := false) only
  repeat' with_reducible first | exact Keeps.refl _ | assumption | simp (iota := false) only [keeps_mk_iff] | refine Keeps.trans ?_ (keeps_devRefused ..) | refine Keeps.trans ?_ (keeps_modDie ..) | split

/-! ## Flags -/

theorem keeps_timEv (d i : Nat) (s : State) : Keeps s (timEv d i s) := by
  unfold timEv; try dsimp (iota := false) only
  repeat' with_reducible first | exact Keeps.refl _ | assumption | simp (iota := false) only [keeps_mk_iff] | refine Keeps.trans ?_ (keeps_modDie ..)

theorem keeps_ingEv (d i : Nat) (s : State) : Keeps s (ingEv d i s) := by
  unfold ingEv; try dsimp (iota := false) only
  repeat' with_reducible first | exact Keeps.refl _ | assumption | simp (iota := false) only [keeps_mk_iff] | refine Keeps.trans ?_ (keeps_modDie ..)

theorem keeps_cipEv (d i : Nat) (s : State) : Keeps s (cipEv d i s) := by
  unfold cipEv; try dsimp (iota := false) only
  repeat' with_reducible first | exact Keeps.refl _ | assumption | simp (iota := false) only [keeps_mk_iff] | refine Keeps.trans ?_ (keeps_modDie ..)

theorem keeps_mixEv (d i : Nat) (s : State) : Keeps s (mixEv d i s) := by
  unfold mixEv; try dsimp (iota := false) only
  repeat' with_reducible first | exact Keeps.refl _ | assumption | simp (iota := false) only [keeps_mk_iff] | refine Keeps.trans ?_ (keeps_modDie ..)

theorem keeps_tdmEv (d i : Nat) (s : State) : Keeps s (tdmEv d i s) := by
  unfold tdmEv; try dsimp (iota := false) only
  repeat' with_reducible first | exact Keeps.refl _ | assumption | simp (iota := false) only [keeps_mk_iff] | refine Keeps.trans ?_ (keeps_modDie ..)

theorem keeps_vdcEv (d i : Nat) (s : State) : Keeps s (vdcEv d i s) := by
  unfold vdcEv; try dsimp (iota := false) only
  repeat' with_reducible first | exact Keeps.refl _ | assumption | simp (iota := false) only [keeps_mk_iff] | refine Keeps.trans ?_ (keeps_modDie ..)

theorem keeps_galEv (d i : Nat) (s : State) : Keeps s (galEv d i s) := by
  unfold galEv; try dsimp (iota := false) only
  repeat' with_reducible first | exact Keeps.refl _ | assumption | simp (iota := false) only [keeps_mk_iff] | refine Keeps.trans ?_ (keeps_modDie ..)

theorem keeps_venEv (d i : Nat) (s : State) : Keeps s (venEv d i s) := by
  unfold venEv; try dsimp (iota := false) only
  repeat' with_reducible first | exact Keeps.refl _ | assumption | simp (iota := false) only [keeps_mk_iff] | refine Keeps.trans ?_ (keeps_modDie ..)

theorem keeps_egrEv (d i : Nat) (s : State) : Keeps s (egrEv d i s) := by
  unfold egrEv; try dsimp (iota := false) only
  repeat' with_reducible first | exact Keeps.refl _ | assumption | simp (iota := false) only [keeps_mk_iff] | refine Keeps.trans ?_ (keeps_modDie ..)

theorem keeps_hstEv (d i : Nat) (s : State) : Keeps s (hstEv d i s) := by
  unfold hstEv; try dsimp (iota := false) only
  repeat' with_reducible first | exact Keeps.refl _ | assumption | simp (iota := false) only [keeps_mk_iff] | refine Keeps.trans ?_ (keeps_modDie ..)

theorem keeps_drcEv (d i : Nat) (s : State) : Keeps s (drcEv d i s) := by
  unfold drcEv; try dsimp (iota := false) only
  repeat' with_reducible first | exact Keeps.refl _ | assumption | simp (iota := false) only [keeps_mk_iff] | refine Keeps.trans ?_ (keeps_modDie ..)

theorem keeps_pwrEv (d i : Nat) (s : State) : Keeps s (pwrEv d i s) := by
  unfold pwrEv; try dsimp (iota := false) only
  repeat' with_reducible first | exact Keeps.refl _ | assumption | simp (iota := false) only [keeps_mk_iff] | refine Keeps.trans ?_ (keeps_modDie ..)

theorem keeps_seaEv (d i : Nat) (s : State) : Keeps s (seaEv d i s) := by
  unfold seaEv; try dsimp (iota := false) only
  repeat' with_reducible first | exact Keeps.refl _ | assumption | simp (iota := false) only [keeps_mk_iff] | refine Keeps.trans ?_ (keeps_modDie ..)

theorem keeps_parEv (i : Nat) (s : State) : Keeps s (parEv i s) := by
  unfold parEv; try dsimp (iota := false) only
  repeat' with_reducible first | exact Keeps.refl _ | assumption | simp (iota := false) only [keeps_mk_iff]

theorem keeps_capEv (d : Nat) (s : State) : Keeps s (capEv d s) := by
  unfold capEv; try dsimp (iota := false) only
  repeat' with_reducible first | exact Keeps.refl _ | assumption | simp (iota := false) only [keeps_mk_iff] | refine Keeps.trans ?_ (keeps_modDie ..)

theorem keeps_ingCnt (d n : Nat) (s : State) : Keeps s (ingCnt d n s) := by
  unfold ingCnt; try dsimp (iota := false) only
  repeat' with_reducible first | exact Keeps.refl _ | assumption | simp (iota := false) only [keeps_mk_iff] | refine Keeps.trans ?_ (keeps_modDie ..)

theorem keeps_ingCntN (d n k : Nat) (s : State) : Keeps s (ingCntN d n k s) := by
  unfold ingCntN; try dsimp (iota := false) only
  repeat' with_reducible first | exact Keeps.refl _ | assumption | simp (iota := false) only [keeps_mk_iff] | refine Keeps.trans ?_ (keeps_modDie ..)

theorem keeps_cipCnt (d n : Nat) (s : State) : Keeps s (cipCnt d n s) := by
  unfold cipCnt; try dsimp (iota := false) only
  repeat' with_reducible first | exact Keeps.refl _ | assumption | simp (iota := false) only [keeps_mk_iff] | refine Keeps.trans ?_ (keeps_modDie ..)

theorem keeps_mixCnt (d n : Nat) (s : State) : Keeps s (mixCnt d n s) := by
  unfold mixCnt; try dsimp (iota := false) only
  repeat' with_reducible first | exact Keeps.refl _ | assumption | simp (iota := false) only [keeps_mk_iff] | refine Keeps.trans ?_ (keeps_modDie ..)

theorem keeps_vdcCnt (d n : Nat) (s : State) : Keeps s (vdcCnt d n s) := by
  unfold vdcCnt; try dsimp (iota := false) only
  repeat' with_reducible first | exact Keeps.refl _ | assumption | simp (iota := false) only [keeps_mk_iff] | refine Keeps.trans ?_ (keeps_modDie ..)

theorem keeps_galCnt (d n : Nat) (s : State) : Keeps s (galCnt d n s) := by
  unfold galCnt; try dsimp (iota := false) only
  repeat' with_reducible first | exact Keeps.refl _ | assumption | simp (iota := false) only [keeps_mk_iff] | refine Keeps.trans ?_ (keeps_modDie ..)

theorem keeps_venCnt (d n : Nat) (s : State) : Keeps s (venCnt d n s) := by
  unfold venCnt; try dsimp (iota := false) only
  repeat' with_reducible first | exact Keeps.refl _ | assumption | simp (iota := false) only [keeps_mk_iff] | refine Keeps.trans ?_ (keeps_modDie ..)

theorem keeps_egrCnt (d n : Nat) (s : State) : Keeps s (egrCnt d n s) := by
  unfold egrCnt; try dsimp (iota := false) only
  repeat' with_reducible first | exact Keeps.refl _ | assumption | simp (iota := false) only [keeps_mk_iff] | refine Keeps.trans ?_ (keeps_modDie ..)

theorem keeps_hstCnt (d n : Nat) (s : State) : Keeps s (hstCnt d n s) := by
  unfold hstCnt; try dsimp (iota := false) only
  repeat' with_reducible first | exact Keeps.refl _ | assumption | simp (iota := false) only [keeps_mk_iff] | refine Keeps.trans ?_ (keeps_modDie ..)

theorem keeps_drcCnt (d n : Nat) (s : State) : Keeps s (drcCnt d n s) := by
  unfold drcCnt; try dsimp (iota := false) only
  repeat' with_reducible first | exact Keeps.refl _ | assumption | simp (iota := false) only [keeps_mk_iff] | refine Keeps.trans ?_ (keeps_modDie ..)

theorem keeps_parCnt (d n : Nat) (s : State) : Keeps s (parCnt d n s) := by
  unfold parCnt; try dsimp (iota := false) only
  repeat' with_reducible first | exact Keeps.refl _ | assumption | simp (iota := false) only [keeps_mk_iff] | refine Keeps.trans ?_ (keeps_modDie ..)

theorem keeps_seaCnt (d n : Nat) (s : State) : Keeps s (seaCnt d n s) := by
  unfold seaCnt; try dsimp (iota := false) only
  repeat' with_reducible first | exact Keeps.refl _ | assumption | simp (iota := false) only [keeps_mk_iff] | refine Keeps.trans ?_ (keeps_modDie ..)

theorem keeps_digestBytes (d : Nat) (u : BitVec 16) (bs : List Byte) (s : State) : Keeps s (digestBytes d u bs s) := by
  unfold digestBytes; try dsimp (iota := false) only
  repeat' with_reducible first | exact Keeps.refl _ | assumption | simp (iota := false) only [keeps_mk_iff] | refine Keeps.trans ?_ (keeps_modDie ..) | split

theorem keeps_excludeUnits (d : Nat) (us : List (BitVec 16)) (s : State) : Keeps s (excludeUnits d us s) := by
  unfold excludeUnits; try dsimp (iota := false) only
  repeat' with_reducible first | exact Keeps.refl _ | assumption | simp (iota := false) only [keeps_mk_iff] | refine Keeps.trans ?_ (keeps_modDie ..) | split

theorem keeps_excludeLeg (l : BitVec 16) (s : State) : Keeps s (excludeLeg l s) := by
  unfold excludeLeg; try dsimp (iota := false) only
  repeat' with_reducible first | exact Keeps.refl _ | assumption | simp (iota := false) only [keeps_mk_iff] | refine Keeps.trans ?_ (keeps_excludeUnits ..)

theorem keeps_modRx (s : State) (l : BitVec 16) (f : LegRx → LegRx) : Keeps s (State.modRx s l f) := by
  unfold State.modRx; try dsimp (iota := false) only
  repeat' with_reducible first | exact Keeps.refl _ | assumption | simp (iota := false) only [keeps_mk_iff] | refine Keeps.trans ?_ (keeps_modLeg ..)

theorem keeps_modTx (s : State) (l : BitVec 16) (f : LegTx → LegTx) : Keeps s (State.modTx s l f) := by
  unfold State.modTx; try dsimp (iota := false) only
  repeat' with_reducible first | exact Keeps.refl _ | assumption | simp (iota := false) only [keeps_mk_iff] | refine Keeps.trans ?_ (keeps_modLeg ..)

theorem keeps_modJb (s : State) (l : BitVec 16) (f : Jb → Jb) : Keeps s (State.modJb s l f) := by
  unfold State.modJb; try dsimp (iota := false) only
  repeat' with_reducible first | exact Keeps.refl _ | assumption | simp (iota := false) only [keeps_mk_iff] | refine Keeps.trans ?_ (keeps_modLeg ..)

theorem keeps_modAud (s : State) (l : BitVec 16) (f : LegAudio → LegAudio) : Keeps s (State.modAud s l f) := by
  unfold State.modAud; try dsimp (iota := false) only
  repeat' with_reducible first | exact Keeps.refl _ | assumption | simp (iota := false) only [keeps_mk_iff] | refine Keeps.trans ?_ (keeps_modLeg ..)

theorem keeps_modCry (s : State) (l : BitVec 16) (f : Crypto → Crypto) : Keeps s (State.modCry s l f) := by
  unfold State.modCry; try dsimp (iota := false) only
  repeat' with_reducible first | exact Keeps.refl _ | assumption | simp (iota := false) only [keeps_mk_iff] | refine Keeps.trans ?_ (keeps_modLeg ..)

/-! ## Crypt -/

theorem keeps_modSlot (s : State) (d i : Nat) (f : Slot → Slot) : Keeps s (State.modSlot s d i f) := by
  unfold State.modSlot; try dsimp (iota := false) only
  repeat' with_reducible first | exact Keeps.refl _ | assumption | simp (iota := false) only [keeps_mk_iff] | refine Keeps.trans ?_ (keeps_modDie ..)

theorem keeps_guardDrop (l : BitVec 16) (s : State) : Keeps s (guardDrop l s) := by
  unfold guardDrop; try dsimp (iota := false) only
  repeat' with_reducible first | exact Keeps.refl _ | assumption | simp (iota := false) only [keeps_mk_iff] | refine Keeps.trans ?_ (keeps_cipCnt ..) | refine Keeps.trans ?_ (keeps_cipEv ..) | refine Keeps.trans ?_ (keeps_raiseFrom ..)

theorem keeps_guardWarn (b : Bool) (l : BitVec 16) (s : State) : Keeps s (guardWarn b l s) := by
  unfold guardWarn; try dsimp (iota := false) only
  repeat' with_reducible first | exact Keeps.refl _ | assumption | simp (iota := false) only [keeps_mk_iff] | refine Keeps.trans ?_ (keeps_cipEv ..) | refine Keeps.trans ?_ (keeps_raiseFrom ..) | split

theorem keeps_protectRtp (l : BitVec 16) (ssrc : BitVec 32) (seq : BitVec 16) (payload : List Byte) (s : State) : Keeps s (protectRtp l ssrc seq payload s).2 := by
  unfold protectRtp; try dsimp (iota := false) only
  repeat' with_reducible first | exact Keeps.refl _ | assumption | refine Keeps.trans ?_ (keeps_guardDrop ..) | refine Keeps.trans ?_ (keeps_guardWarn ..) | refine Keeps.trans ?_ (keeps_modCry ..) | split

theorem keeps_protectRtcp (l : BitVec 16) (ssrc : BitVec 32) (payload : List Byte) (s : State) : Keeps s (protectRtcp l ssrc payload s).2 := by
  unfold protectRtcp; try dsimp (iota := false) only
  repeat' with_reducible first | exact Keeps.refl _ | assumption | refine Keeps.trans ?_ (keeps_guardDrop ..) | refine Keeps.trans ?_ (keeps_guardWarn ..) | refine Keeps.trans ?_ (keeps_modCry ..) | split

theorem keeps_noteIndex (l : BitVec 16) (rtcp : Bool) (ssrc : BitVec 32) (idx : Nat) (s : State) : Keeps s (noteIndex l rtcp ssrc idx s) := by
  unfold noteIndex; try dsimp (iota := false) only
  repeat' with_reducible first | exact Keeps.refl _ | assumption | simp (iota := false) only [keeps_mk_iff] | refine Keeps.trans ?_ (keeps_modCry ..)

theorem keeps_execRxGraceExpiry (leg : BitVec 16) (s : State) : ∀ t, execRxGraceExpiry leg s = .next t → Keeps s t := by
  unfold execRxGraceExpiry; intro t h; try dsimp (iota := false) only at h
  repeat' split at h
  all_goals (injection h with h; subst h)
  all_goals repeat' with_reducible first | exact Keeps.refl _ | assumption | simp (iota := false) only [keeps_mk_iff] | refine Keeps.trans ?_ (keeps_advance ..) | refine Keeps.trans ?_ (keeps_modCry ..)

/-! ## Structure -/

theorem keeps_wipeTables (d : Nat) (m : Mem) : tabWf 0 m = true → tabWf 0 (wipeTables d m) = true := by
  unfold wipeTables; grind [tabWf_wipe]

theorem keeps_loadDie (img : ImageDef) (d : Nat) (s : State) : Keeps s (loadDie img d s) := by
  unfold loadDie; grind [Keeps, keeps_modDie, keeps_wipeTables]

theorem keeps_loadServo (img : ImageDef) (s : State) : Keeps s (loadServo img s) := by
  unfold loadServo; try dsimp (iota := false) only
  repeat' with_reducible first | exact Keeps.refl _ | assumption | simp (iota := false) only [keeps_mk_iff]

theorem keeps_loadPair (img : ImageDef) (s : State) : Keeps s (loadPair img s) := by
  unfold loadPair; try dsimp (iota := false) only
  repeat' with_reducible first | exact Keeps.refl _ | assumption | simp (iota := false) only [keeps_mk_iff]

theorem keeps_rejectImage (d : Nat) (code : BitVec 16) (idx : Nat) (s : State) : Keeps s (rejectImage d code idx s) := by
  unfold rejectImage; try dsimp (iota := false) only
  repeat' with_reducible first | exact Keeps.refl _ | assumption | simp (iota := false) only [keeps_mk_iff] | refine Keeps.trans ?_ (keeps_modDie ..) | refine Keeps.trans ?_ (keeps_raise ..)

theorem keeps_armLead (d : Nat) (target : BitVec 3) (mp : Nat) (s : State) : Keeps s (armLead d target mp s) := by
  unfold armLead; try dsimp (iota := false) only
  repeat' with_reducible first | exact Keeps.refl _ | assumption | simp (iota := false) only [keeps_mk_iff] | refine Keeps.trans ?_ (keeps_modDie ..)

theorem keeps_armMpStart (s : State) : Keeps s (armMpStart s) := by
  unfold armMpStart; try dsimp (iota := false) only
  repeat' with_reducible first | exact Keeps.refl _ | assumption | simp (iota := false) only [keeps_mk_iff] | refine Keeps.trans ?_ (keeps_armLead ..) | refine Keeps.trans ?_ (keeps_forAll _ _ _ fun _ _ => ?_) | split

/-! ## Reset -/

theorem keeps_packageReset (kind : BitVec 3) (s : State) : Keeps s (packageReset kind s) := by
  unfold packageReset
  refine keeps_ite _ _ _ _ (Keeps.refl s) (Keeps.trans ?_ (keeps_forAll _ _ _ fun a u => keeps_raise ..))
  simp [Keeps, tabWf, tabWfFrom]

theorem keeps_endMove (m : Migration) (status : BitVec 8) (version : BitVec 16) (cookie : BitVec 64) (s : State) : Keeps s (endMove m status version cookie s) := by
  unfold endMove; try dsimp (iota := false) only
  repeat' with_reducible first | exact Keeps.refl _ | assumption | simp (iota := false) only [keeps_mk_iff] | refine Keeps.trans ?_ (keeps_finishCmd ..) | refine Keeps.trans ?_ (keeps_postCompletion ..) | split

theorem keeps_lockMove (m : Migration) (b : Bool) (s : State) : Keeps s (lockMove m b s) := by
  unfold lockMove; grind [Keeps, keeps_modConf, keeps_modLeg]

theorem keeps_resetMoves (d : Nat) (s : State) : Keeps s (resetMoves d s) := by
  unfold resetMoves; grind [Keeps, keeps_endMove, keeps_forAll, keeps_lockMove]

theorem keeps_lossReports (d : Nat) (s : State) : Keeps s (lossReports d s) := by
  unfold lossReports; try dsimp (iota := false) only
  repeat' with_reducible first | exact Keeps.refl _ | assumption | simp (iota := false) only [keeps_mk_iff] | refine Keeps.trans ?_ (keeps_forAll _ _ _ fun _ _ => ?_) | refine Keeps.trans ?_ (keeps_postCompletion ..) | refine Keeps.trans ?_ (keeps_raise ..)

theorem keeps_resetRestruct (d : Nat) (s : State) : Keeps s (resetRestruct d s) := by
  unfold resetRestruct; try dsimp (iota := false) only
  repeat' with_reducible first | exact Keeps.refl _ | assumption | simp (iota := false) only [keeps_mk_iff] | refine Keeps.trans ?_ (keeps_modDie ..) | split

theorem keeps_resetCopies (d : Nat) (s : State) : Keeps s (resetCopies d s) := by
  unfold resetCopies; try dsimp (iota := false) only
  repeat' with_reducible first | exact Keeps.refl _ | assumption | simp (iota := false) only [keeps_mk_iff] | refine Keeps.trans ?_ (keeps_mapDies ..)

theorem keeps_dieReset (supply : Bool) (d : Nat) (s : State) : Keeps s (dieReset supply d s) := by
  unfold dieReset; grind [Keeps, keeps_lossReports, keeps_modDie, keeps_raise, keeps_resetCopies, keeps_resetMoves, keeps_resetRestruct, keeps_wipeTables, tabWf_tset, tabWf_wipe, tabWf_wr64, tabWf_wrBytes]

theorem keeps_flrOne (f : Nat) (s : State) : Keeps s (flrOne f s) := by
  refine Keeps.trans (t := { s with queues := tset {} s.queues f { running := (s.fq f).running } }) ⟨rfl, rfl, rfl, id, fun _ h => h, tabWf_tset _ _ _ _⟩ ?_
  exact keeps_mapDies ..

theorem keeps_execPor (s : State) : ∀ t, execPor s = .next t → Keeps s t := by
  unfold execPor; intro t h; try dsimp (iota := false) only at h
  repeat' split at h
  all_goals (injection h with h; subst h)
  all_goals repeat' with_reducible first | exact Keeps.refl _ | assumption | simp (iota := false) only [keeps_mk_iff] | refine Keeps.trans ?_ (keeps_draw_eq (by assumption)) | refine Keeps.trans ?_ (keeps_packageReset ..)

theorem keeps_execPinReset (lowNs : Nat) (role : Bool) (s : State) : ∀ t, execPinReset lowNs role s = .next t → Keeps s t := by
  unfold execPinReset; intro t h; try dsimp (iota := false) only at h
  repeat' split at h
  all_goals (injection h with h; subst h)
  all_goals repeat' with_reducible first | exact Keeps.refl _ | assumption | simp (iota := false) only [keeps_mk_iff] | refine Keeps.trans ?_ (keeps_draw_eq (by assumption)) | refine Keeps.trans ?_ (keeps_packageReset ..)

theorem keeps_writeDieReset (func : Nat) (v : Word) (s : State) : Keeps s (writeDieReset func v s) := by
  unfold writeDieReset; grind [Keeps, keeps_dieReset, keeps_packageReset, keeps_raiseAny, keeps_raiseFree]

theorem keeps_execSoft (func : Nat) (v : Word) (s : State) : ∀ t, execSoft func v s = .next t → Keeps s t := by
  unfold execSoft; grind [Keeps, keeps_writeDieReset]

theorem keeps_execDieGo (func : Nat) (v : Word) (s : State) : ∀ t, execDieGo func v s = .next t → Keeps s t := by
  unfold execDieGo; grind [Keeps, keeps_writeDieReset]

theorem keeps_execLockstepStop (die : Nat) (s : State) : ∀ t, execLockstepStop die s = .next t → Keeps s t := by
  unfold execLockstepStop; grind [Keeps, keeps_dieReset, keeps_packageReset]

theorem keeps_execSupplyReset (die : Nat) (rail : Option Nat) (s : State) : ∀ t, execSupplyReset die rail s = .next t → Keeps s t := by
  unfold execSupplyReset; grind [Keeps, keeps_dieReset, keeps_modDie, keeps_packageReset, keeps_raise]

theorem keeps_execFlr (func : Nat) (s : State) : ∀ t, execFlr func s = .next t → Keeps s t := by
  unfold execFlr; intro t h; try dsimp (iota := false) only at h
  repeat' split at h
  all_goals (injection h with h; subst h)
  all_goals repeat' with_reducible first | exact Keeps.refl _ | assumption | simp (iota := false) only [keeps_mk_iff] | refine Keeps.trans ?_ (keeps_flrOne ..)

theorem keeps_execPerstN (s : State) : ∀ t, execPerstN s = .next t → Keeps s t := by
  unfold execPerstN; intro t h; try dsimp (iota := false) only at h
  repeat' split at h
  all_goals (injection h with h; subst h)
  all_goals repeat' with_reducible first | exact Keeps.refl _ | assumption | simp (iota := false) only [keeps_mk_iff] | refine Keeps.trans ?_ (keeps_flrOne ..)

theorem keeps_execPerstNRelease (s : State) : ∀ t, execPerstNRelease s = .next t → Keeps s t := by
  unfold execPerstNRelease; intro t h; try dsimp (iota := false) only at h
  all_goals (injection h with h; subst h)
  all_goals repeat' with_reducible first | exact Keeps.refl _ | assumption | simp (iota := false) only [keeps_mk_iff]

/-! ## Boot -/

theorem keeps_modFlash (b : Nat) (f : Tab Byte → Tab Byte) (s : State) : Keeps s (modFlash b f s) := by
  unfold modFlash; try dsimp (iota := false) only
  repeat' with_reducible first | exact Keeps.refl _ | assumption | simp (iota := false) only [keeps_mk_iff]

theorem keeps_eraseProg (b a len : Nat) (bs : List Byte) (s : State) : Keeps s (eraseProg b a len bs s) := by
  unfold eraseProg; try dsimp (iota := false) only
  repeat' with_reducible first | exact Keeps.refl _ | assumption | simp (iota := false) only [keeps_mk_iff] | refine Keeps.trans ?_ (keeps_modFlash ..)

theorem keeps_writePtr (p : BankPtr) (s : State) : Keeps s (writePtr p s) := by
  unfold writePtr; try dsimp (iota := false) only
  repeat' with_reducible first | exact Keeps.refl _ | assumption | simp (iota := false) only [keeps_mk_iff] | refine Keeps.trans ?_ (keeps_eraseProg ..)

theorem keeps_rejectBoot (e : BitVec 16 × Nat) (s : State) : Keeps s (rejectBoot e s) := by
  unfold rejectBoot; try dsimp (iota := false) only
  repeat' with_reducible first | exact Keeps.refl _ | assumption | simp (iota := false) only [keeps_mk_iff] | refine Keeps.trans ?_ (keeps_mapDies ..) | refine Keeps.trans ?_ (keeps_raise ..) | split

theorem keeps_fallBack (s : State) : Keeps s (fallBack s) := by
  unfold fallBack; grind [Keeps, keeps_emit, keeps_packageReset, keeps_raiseAny, keeps_writePtr]

theorem keeps_startMp (d : Nat) (s : State) : Keeps s (startMp d s) := by
  unfold startMp; try dsimp (iota := false) only
  repeat' with_reducible first | exact Keeps.refl _ | assumption | simp (iota := false) only [keeps_mk_iff] | refine Keeps.trans ?_ (keeps_modDie ..) | split

theorem keeps_activateStructure (d : Nat) (s : State) : Keeps s (activateStructure d s) := by
  unfold activateStructure; try dsimp (iota := false) only
  repeat' with_reducible first | exact Keeps.refl _ | assumption | simp (iota := false) only [keeps_mk_iff] | refine Keeps.trans ?_ (keeps_armLead ..) | refine Keeps.trans ?_ (keeps_loadDie ..) | refine Keeps.trans ?_ (keeps_modDie ..) | split

theorem keeps_endRestruct (result : BitVec 3) (s : State) : Keeps s (endRestruct result s) := by
  unfold endRestruct; try dsimp (iota := false) only
  repeat' with_reducible first | exact Keeps.refl _ | assumption | simp (iota := false) only [keeps_mk_iff] | refine Keeps.trans ?_ (keeps_modDie ..)

theorem keeps_execRestructureGo (v : Word) (s : State) : ∀ t, execRestructureGo v s = .next t → Keeps s t := by
  unfold execRestructureGo; intro t h; try dsimp (iota := false) only at h
  repeat' split at h
  all_goals (injection h with h; subst h)
  all_goals repeat' with_reducible first | exact Keeps.refl _ | assumption | simp (iota := false) only [keeps_mk_iff]

theorem keeps_execRestructureCheckDone (s : State) : ∀ t, execRestructureCheckDone s = .next t → Keeps s t := by
  unfold execRestructureCheckDone; intro t h; try dsimp (iota := false) only at h
  repeat' split at h
  all_goals (injection h with h; subst h)
  all_goals repeat' with_reducible first | exact Keeps.refl _ | assumption | simp (iota := false) only [keeps_mk_iff] | refine Keeps.trans ?_ (keeps_endRestruct ..) | refine Keeps.trans ?_ (keeps_modDie ..) | refine Keeps.trans ?_ (keeps_raise ..)

theorem keeps_execRestructureDrainStart (s : State) : ∀ t, execRestructureDrainStart s = .next t → Keeps s t := by
  unfold execRestructureDrainStart; intro t h
  extract_lets r u at h
  clear_value r
  have k : ∀ e, Keeps s (s.advanceToStamp 0 e) := fun e => keeps_advanceToStamp s 0 e
  have k : Keeps s u := k _
  clear_value u
  split at h
  · injection h with h; subst h; exact Keeps.refl s
  · injection h with h; subst h
    exact k.trans (((keeps_mk_iff u u ..).2 (Keeps.refl u)).trans (keeps_modDie ..))

theorem keeps_execRestructureLateCheck (s : State) : ∀ t, execRestructureLateCheck s = .next t → Keeps s t := by
  unfold execRestructureLateCheck; grind [Keeps, keeps_advanceToStamp, keeps_armLead, keeps_endRestruct]

/-! ## Update -/

theorem keeps_updCompletion (status : BitVec 8) (s : State) : Keeps s (updCompletion status s) := by
  unfold updCompletion; try dsimp (iota := false) only
  repeat' with_reducible first | exact Keeps.refl _ | assumption | simp (iota := false) only [keeps_mk_iff] | refine Keeps.trans ?_ (keeps_postCompletion ..) | split

theorem keeps_updRefused (s : State) : Keeps s (updRefused s) := by
  unfold updRefused; try dsimp (iota := false) only
  repeat' with_reducible first | exact Keeps.refl _ | assumption | simp (iota := false) only [keeps_mk_iff] | refine Keeps.trans ?_ (keeps_draw_eq (by assumption)) | refine Keeps.trans ?_ (keeps_raise ..) | split | refine Keeps.trans ?_ (keeps_draw ..)

theorem keeps_updCancelled (s : State) : Keeps s (updCancelled s) := by
  unfold updCancelled; try dsimp (iota := false) only
  repeat' with_reducible first | exact Keeps.refl _ | assumption | simp (iota := false) only [keeps_mk_iff] | refine Keeps.trans ?_ (keeps_modDie ..) | refine Keeps.trans ?_ (keeps_raiseAny ..)

theorem keeps_execApply (s : State) : ∀ t, execApply s = .next t → Keeps s t := by
  unfold execApply; intro t h; try dsimp (iota := false) only at h
  repeat' split at h
  all_goals (injection h with h; subst h)
  all_goals repeat' with_reducible first | exact Keeps.refl _ | assumption | simp (iota := false) only [keeps_mk_iff] | refine Keeps.trans ?_ (keeps_eraseProg ..) | refine Keeps.trans ?_ (keeps_updCompletion ..) | refine Keeps.trans ?_ (keeps_updRefused ..)

theorem keeps_applyEnds (s : State) : Keeps s (applyEnds s) := by
  unfold applyEnds; try dsimp (iota := false) only
  repeat' with_reducible first | exact Keeps.refl _ | assumption | simp (iota := false) only [keeps_mk_iff] | refine Keeps.trans ?_ (keeps_updCompletion ..)

theorem keeps_setUpd (s : State) (x : Upd) : Keeps s { s with upd := x } := (keeps_mk_iff s s ..).2 (Keeps.refl s)

theorem keeps_execApplyBlockDone (readback : List Bool) (s : State) : ∀ t, execApplyBlockDone readback s = .next t → Keeps s t := by
  unfold execApplyBlockDone; intro t h
  split at h
  · injection h with h; subst h; exact Keeps.refl s
  split at h
  · injection h with h; subst h; exact (keeps_setUpd s _).trans (keeps_updCompletion ..)
  extract_lets b at h
  split at h
  · injection h with h; subst h; exact keeps_applyEnds ..
  rename_i op _
  extract_lets bytes prev u1 u w at h
  have k : Keeps s u := (keeps_eraseProg ..).trans (keeps_modFlash ..)
  have kw : Keeps u w := keeps_modFlash ..
  refine k.trans ?_
  clear_value u w
  split at h
  · refine kw.trans ?_
    split at h
    · injection h with h; subst h; exact (keeps_eraseProg ..).trans (keeps_applyEnds ..)
    · extract_lets v at h
      have kv : Keeps w v := keeps_setUpd w _
      clear_value v
      split at h
      · injection h with h; subst h; exact kv.trans ((keeps_setUpd v _).trans (keeps_updCompletion ..))
      · injection h with h; subst h; exact kv
  · split at h
    · injection h with h; subst h; exact (keeps_setUpd u _).trans ((keeps_raise ..).trans (keeps_updCompletion ..))
    · injection h with h; subst h; exact Keeps.refl _

theorem keeps_activateNow (s : State) : Keeps s (activateNow s) := by
  unfold activateNow; try dsimp (iota := false) only
  repeat' with_reducible first | exact Keeps.refl _ | assumption | simp (iota := false) only [keeps_mk_iff] | refine Keeps.trans ?_ (keeps_packageReset ..) | refine Keeps.trans ?_ (keeps_writePtr ..)

theorem keeps_activateUpdate (s : State) : Keeps s (activateUpdate s) := by
  unfold activateUpdate; try dsimp (iota := false) only
  repeat' with_reducible first | exact Keeps.refl _ | assumption | simp (iota := false) only [keeps_mk_iff] | refine Keeps.trans ?_ (keeps_activateNow ..) | split

theorem keeps_expireWait (s : State) : Keeps s (expireWait s) := by
  unfold expireWait; try dsimp (iota := false) only
  repeat' with_reducible first | exact Keeps.refl _ | assumption | simp (iota := false) only [keeps_mk_iff] | refine Keeps.trans ?_ (keeps_updCancelled ..) | split

theorem keeps_execActivate (s : State) : ∀ t, execActivate s = .next t → Keeps s t := by
  unfold execActivate; intro t h; try dsimp (iota := false) only at h
  repeat' split at h
  all_goals (injection h with h; subst h)
  all_goals repeat' with_reducible first | exact Keeps.refl _ | assumption | simp (iota := false) only [keeps_mk_iff] | refine Keeps.trans ?_ (keeps_activateNow ..) | refine Keeps.trans ?_ (keeps_armLead ..) | refine Keeps.trans ?_ (keeps_updRefused ..)

theorem keeps_execCancel (s : State) : ∀ t, execCancel s = .next t → Keeps s t := by
  unfold execCancel; intro t h; try dsimp (iota := false) only at h
  repeat' split at h
  all_goals (injection h with h; subst h)
  all_goals repeat' with_reducible first | exact Keeps.refl _ | assumption | simp (iota := false) only [keeps_mk_iff] | refine Keeps.trans ?_ (keeps_updCancelled ..) | refine Keeps.trans ?_ (keeps_updRefused ..)

theorem keeps_execConfirm (s : State) : ∀ t, execConfirm s = .next t → Keeps s t := by
  unfold execConfirm; intro t h; try dsimp (iota := false) only at h
  repeat' split at h
  all_goals (injection h with h; subst h)
  all_goals repeat' with_reducible first | exact Keeps.refl _ | assumption | simp (iota := false) only [keeps_mk_iff]

theorem keeps_execActivationReadinessCheck (peerReady : Bool) (s : State) : ∀ t, execActivationReadinessCheck peerReady s = .next t → Keeps s t := by
  unfold execActivationReadinessCheck; grind [Keeps, keeps_advanceToStamp, keeps_updCancelled, keeps_updCompletion]

theorem keeps_execTrialConfirmation (s : State) : ∀ t, execTrialConfirmation s = .next t → Keeps s t := by
  unfold execTrialConfirmation; intro t h; dsimp only at h
  repeat' split at h
  all_goals cases h
  · exact Keeps.refl s
  · exact (keeps_writePtr { bank := (bankPtr s).bank } s).trans (Keeps.trans (by simp [Keeps]) (keeps_raiseAny ..))
  · exact (keeps_writePtr { bank := (bankPtr s).bank } s).trans (Keeps.trans (by simp [Keeps]) (keeps_raiseAny ..))

theorem keeps_execTrialWindowExpiry (s : State) : ∀ t, execTrialWindowExpiry s = .next t → Keeps s t := by
  unfold execTrialWindowExpiry; intro t h; try dsimp (iota := false) only at h
  repeat' split at h
  all_goals (injection h with h; subst h)
  all_goals repeat' with_reducible first | exact Keeps.refl _ | assumption | simp (iota := false) only [keeps_mk_iff] | refine Keeps.trans ?_ (keeps_advance ..) | refine Keeps.trans ?_ (keeps_fallBack ..)

theorem keeps_execPeerFallbackNotice (manSeq' : BitVec 32) (s : State) : ∀ t, execPeerFallbackNotice manSeq' s = .next t → Keeps s t := by
  unfold execPeerFallbackNotice; intro t h; try dsimp (iota := false) only at h
  repeat' split at h
  all_goals (injection h with h; subst h)
  all_goals repeat' with_reducible first | exact Keeps.refl _ | assumption | simp (iota := false) only [keeps_mk_iff] | refine Keeps.trans ?_ (keeps_fallBack ..)

theorem keeps_execDieResetRejoin (die : Nat) (s : State) : ∀ t, execDieResetRejoin die s = .next t → Keeps s t := by
  unfold execDieResetRejoin; intro t h; try dsimp (iota := false) only at h
  repeat' split at h
  all_goals (injection h with h; subst h)
  all_goals repeat' with_reducible first | exact Keeps.refl _ | assumption | simp (iota := false) only [keeps_mk_iff] | refine Keeps.trans ?_ (keeps_armLead ..) | refine Keeps.trans ?_ (keeps_modDie ..)

/-! ## Tdm -/

theorem keeps_modPort (s : State) (d p : Nat) (f : TdmPort → TdmPort) : Keeps s (State.modPort s d p f) := by
  unfold State.modPort; try dsimp (iota := false) only
  repeat' with_reducible first | exact Keeps.refl _ | assumption | simp (iota := false) only [keeps_mk_iff] | refine Keeps.trans ?_ (keeps_modDie ..)

theorem keeps_startPort (d m p : Nat) (s : State) : Keeps s (startPort d m p s) := by
  unfold startPort; try dsimp (iota := false) only
  repeat' with_reducible first | exact Keeps.refl _ | assumption | simp (iota := false) only [keeps_mk_iff] | refine Keeps.trans ?_ (keeps_modPort ..) | refine Keeps.trans ?_ (keeps_raiseAny ..) | refine Keeps.trans ?_ (keeps_startMp ..) | split

theorem keeps_tdmStart (d m : Nat) (mask : BitVec 8) (s : State) : Keeps s (tdmStart d m mask s) := by
  unfold tdmStart; try dsimp (iota := false) only
  repeat' with_reducible first | exact Keeps.refl _ | assumption | simp (iota := false) only [keeps_mk_iff] | refine Keeps.trans ?_ (keeps_forAll _ _ _ fun _ _ => ?_) | refine Keeps.trans ?_ (keeps_startPort ..)

theorem keeps_tdmStops (d : Nat) (s : State) : Keeps s (tdmStops d s) := by
  unfold tdmStops; try dsimp (iota := false) only
  repeat' with_reducible first | exact Keeps.refl _ | assumption | simp (iota := false) only [keeps_mk_iff] | refine Keeps.trans ?_ (keeps_forAll _ _ _ fun _ _ => ?_) | refine Keeps.trans ?_ (keeps_modPort ..)

theorem keeps_execTdmStop (die p : Nat) (s : State) : ∀ t, execTdmStop die p s = .next t → Keeps s t := by
  unfold execTdmStop; intro t h; try dsimp (iota := false) only at h
  repeat' split at h
  all_goals (injection h with h; subst h)
  all_goals repeat' with_reducible first | exact Keeps.refl _ | assumption | simp (iota := false) only [keeps_mk_iff] | refine Keeps.trans ?_ (keeps_modPort ..)

theorem keeps_execTdmPortCfgWrite (die p : Nat) (v : Word) (s : State) : ∀ t, execTdmPortCfgWrite die p v s = .next t → Keeps s t := by
  unfold execTdmPortCfgWrite; intro t h; try dsimp (iota := false) only at h
  repeat' split at h
  all_goals (injection h with h; subst h)
  all_goals repeat' with_reducible first | exact Keeps.refl _ | assumption | simp (iota := false) only [keeps_mk_iff] | refine Keeps.trans ?_ (keeps_modPort ..) | refine Keeps.trans ?_ (keeps_raiseAny ..) | refine Keeps.trans ?_ (keeps_tdmEv ..)

theorem keeps_openBlock (d g m : Nat) (s : State) : Keeps s (openBlock d g m s) := by
  unfold openBlock; try dsimp (iota := false) only
  repeat' with_reducible first | exact Keeps.refl _ | assumption | simp (iota := false) only [keeps_mk_iff] | refine Keeps.trans ?_ (keeps_modDie ..) | split

theorem keeps_modBlock (d g m : Nat) (f : TdmBlock → TdmBlock) (s : State) : Keeps s (modBlock d g m f s) := by
  unfold modBlock; try dsimp (iota := false) only
  repeat' with_reducible first | exact Keeps.refl _ | assumption | simp (iota := false) only [keeps_mk_iff] | refine Keeps.trans ?_ (keeps_modDie ..)

theorem keeps_putFrame (d p k : Nat) (bs : List Byte) (s : State) : Keeps s (putFrame d p k bs s) := by
  unfold putFrame; try dsimp (iota := false) only
  repeat' with_reducible first | exact Keeps.refl _ | assumption | simp (iota := false) only [keeps_mk_iff] | refine Keeps.trans ?_ (keeps_modDie ..) | refine Keeps.trans ?_ (keeps_openBlock ..)

theorem keeps_measurePort (d p : Nat) (t : Int) (s : State) : Keeps s (measurePort d p t s) := by
  unfold measurePort; try dsimp (iota := false) only
  repeat' with_reducible first | exact Keeps.refl _ | assumption | simp (iota := false) only [keeps_mk_iff] | refine Keeps.trans ?_ (keeps_modPort ..)

theorem keeps_slipPort (d p : Nat) (t : Int) (k : Nat) (slow : Bool) (s : State) : Keeps s (slipPort d p t k slow s) := by
  unfold slipPort; try dsimp (iota := false) only
  repeat' with_reducible first | exact Keeps.refl _ | assumption | simp (iota := false) only [keeps_mk_iff] | refine Keeps.trans ?_ (keeps_modPort ..) | refine Keeps.trans ?_ (keeps_putFrame ..) | refine Keeps.trans ?_ (keeps_raiseAny ..) | refine Keeps.trans ?_ (keeps_tdmEv ..) | split

theorem keeps_trackPort (d p : Nat) (t : Int) (k0 : Nat) (periods : Nat) (s : State) : Keeps s (trackPort d p t k0 periods s) := by
  unfold trackPort; try dsimp (iota := false) only
  repeat' with_reducible first | exact Keeps.refl _ | assumption | simp (iota := false) only [keeps_mk_iff] | refine Keeps.trans ?_ (keeps_modPort ..) | refine Keeps.trans ?_ (keeps_slipPort ..) | split

theorem keeps_flushPort (d p n : Nat) (s : State) : Keeps s (flushPort d p n s) := by
  unfold flushPort; try dsimp (iota := false) only
  repeat' with_reducible first | exact Keeps.refl _ | assumption | simp (iota := false) only [keeps_mk_iff] | refine Keeps.trans ?_ (keeps_emit ..) | refine Keeps.trans ?_ (keeps_modPort ..) | split

theorem keeps_tdmPutOut (s : State) : Keeps s (tdmPutOut s) := by
  exact keeps_forAll _ _ _ fun _ u => keeps_forAll _ _ _ fun _ v => keeps_flushPort ..

theorem keeps_execTdmOutputFetch (die g : Nat) (s : State) : ∀ t, execTdmOutputFetch die g s = .next t → Keeps s t := by
  unfold execTdmOutputFetch; intro t h; dsimp only at h; repeat' split at h
  all_goals grind [Keeps, keeps_advanceTo, keeps_forAll, keeps_modDie, keeps_modPort, keeps_raiseAnyOnce, keeps_tdmEv]

theorem keeps_loseClock (d p : Nat) (s : State) : Keeps s (loseClock d p s) := by
  unfold loseClock; try dsimp (iota := false) only
  repeat' with_reducible first | exact Keeps.refl _ | assumption | simp (iota := false) only [keeps_mk_iff] | refine Keeps.trans ?_ (keeps_flushPort ..) | refine Keeps.trans ?_ (keeps_modPort ..) | refine Keeps.trans ?_ (keeps_raiseAny ..) | refine Keeps.trans ?_ (keeps_tdmEv ..)

theorem keeps_resumePort (d p : Nat) (t : Int) (s : State) : Keeps s (resumePort d p t s) := by
  unfold resumePort; try dsimp (iota := false) only
  repeat' with_reducible first | exact Keeps.refl _ | assumption | simp (iota := false) only [keeps_mk_iff] | refine Keeps.trans ?_ (keeps_measurePort ..) | refine Keeps.trans ?_ (keeps_modPort ..)

theorem keeps_execTdmFsyncEdge (die p : Nat) (raw : BitVec 64) (s : State) : ∀ t, execTdmFsyncEdge die p raw s = .next t → Keeps s t := by
  unfold execTdmFsyncEdge; grind [Keeps, keeps_loseClock, keeps_measurePort, keeps_modPort, keeps_resumePort, keeps_trackPort]

theorem keeps_execTdmClockLoss (die p : Nat) (s : State) : ∀ t, execTdmClockLoss die p s = .next t → Keeps s t := by
  unfold execTdmClockLoss; intro t h; try dsimp (iota := false) only at h
  repeat' split at h
  all_goals (injection h with h; subst h)
  all_goals repeat' with_reducible first | exact Keeps.refl _ | assumption | simp (iota := false) only [keeps_mk_iff] | refine Keeps.trans ?_ (keeps_advanceTo ..) | refine Keeps.trans ?_ (keeps_loseClock ..)

theorem keeps_iecFrame (d p f : Nat) (slots : List (BitVec 32)) (s : State) : Keeps s (iecFrame d p f slots s) := by
  unfold iecFrame; try dsimp (iota := false) only
  repeat' with_reducible first | exact Keeps.refl _ | assumption | simp (iota := false) only [keeps_mk_iff] | refine Keeps.trans ?_ (keeps_forAll _ _ _ fun _ _ => ?_) | refine Keeps.trans ?_ (keeps_modPort ..) | refine Keeps.trans ?_ (keeps_raiseAny ..) | refine Keeps.trans ?_ (keeps_tdmEv ..)

theorem keeps_execTdmInputFrame (die p : Nat) (slots : List (BitVec 32)) (fits : Bool) (s : State) : ∀ t, execTdmInputFrame die p slots fits s = .next t → Keeps s t := by
  unfold execTdmInputFrame; grind [Keeps, keeps_advanceTo, keeps_iecFrame, keeps_modBlock, keeps_modPort, keeps_openBlock, keeps_putFrame, keeps_raiseAnyOnce, keeps_tdmEv]

theorem keeps_execIecUnmute (die p k : Nat) (s : State) : ∀ t, execIecUnmute die p k s = .next t → Keeps s t := by
  unfold execIecUnmute; intro t h; try dsimp (iota := false) only at h
  repeat' split at h
  all_goals (injection h with h; subst h)
  all_goals repeat' with_reducible first | exact Keeps.refl _ | assumption | simp (iota := false) only [keeps_mk_iff] | refine Keeps.trans ?_ (keeps_advanceTo ..) | refine Keeps.trans ?_ (keeps_modPort ..)

/-! ## Layout -/

theorem keeps_modLay (s : State) (h : BitVec 16) (f : Layout → Layout) : Keeps s (State.modLay s h f) := by
  unfold State.modLay; try dsimp (iota := false) only
  repeat' with_reducible first | exact Keeps.refl _ | assumption | simp (iota := false) only [keeps_mk_iff] | refine Keeps.trans ?_ (keeps_modDie ..)

theorem keeps_endFlip (d : Nat) (g : FlipGroup) (status : BitVec 8) (s : State) : Keeps s (endFlip d g status s) := by
  unfold endFlip; try dsimp (iota := false) only
  repeat' with_reducible first | exact Keeps.refl _ | assumption | simp (iota := false) only [keeps_mk_iff] | refine Keeps.trans ?_ (keeps_finishCmd ..) | refine Keeps.trans ?_ (keeps_forAll _ _ _ fun _ _ => ?_) | refine Keeps.trans ?_ (keeps_modDie ..)

theorem keeps_cancelFlip (d : Nat) (g : FlipGroup) (s : State) : Keeps s (cancelFlip d g s) := by
  unfold cancelFlip; grind [Keeps, keeps_endFlip, keeps_galCnt, keeps_galEv, keeps_raiseAny]

theorem keeps_flipDeadline (d : Nat) (unit : Bool) (s : State) : Keeps s (flipDeadline d unit s) := by
  unfold flipDeadline; try dsimp (iota := false) only
  repeat' with_reducible first | exact Keeps.refl _ | assumption | simp (iota := false) only [keeps_mk_iff] | refine Keeps.trans ?_ (keeps_cancelFlip ..) | refine Keeps.trans ?_ (keeps_forAll _ _ _ fun _ _ => ?_)

/-! ## Trigger -/

theorem keeps_modTrig (s : State) (d n : Nat) (f : Trigger → Trigger) : Keeps s (State.modTrig s d n f) := by
  unfold State.modTrig; try dsimp (iota := false) only
  repeat' with_reducible first | exact Keeps.refl _ | assumption | simp (iota := false) only [keeps_mk_iff] | refine Keeps.trans ?_ (keeps_modDie ..)

theorem keeps_targetAction (d : Nat) (target : BitVec 3) (arg : BitVec 8) (m : Nat) (s : State) : Keeps s (targetAction d target arg m s) := by
  unfold targetAction; try dsimp (iota := false) only
  repeat' with_reducible first | exact Keeps.refl _ | assumption | simp (iota := false) only [keeps_mk_iff] | refine Keeps.trans ?_ (keeps_activateStructure ..) | refine Keeps.trans ?_ (keeps_activateUpdate ..) | refine Keeps.trans ?_ (keeps_flipDeadline ..) | refine Keeps.trans ?_ (keeps_startMp ..) | refine Keeps.trans ?_ (keeps_tdmStart ..) | split

theorem keeps_fireTrigger (d n : Nat) (s : State) : Keeps s (fireTrigger d n s) := by
  unfold fireTrigger; try dsimp (iota := false) only
  repeat' with_reducible first | exact Keeps.refl _ | assumption | simp (iota := false) only [keeps_mk_iff] | refine Keeps.trans ?_ (keeps_modTrig ..) | refine Keeps.trans ?_ (keeps_targetAction ..) | refine Keeps.trans ?_ (keeps_timEv ..)

theorem keeps_lateError (d n : Nat) (target : BitVec 3) (step : Bool) (s : State) : Keeps s (lateError d n target step s) := by
  unfold lateError; try dsimp (iota := false) only
  repeat' with_reducible first | exact Keeps.refl _ | assumption | simp (iota := false) only [keeps_mk_iff] | refine Keeps.trans ?_ (keeps_raise ..)

theorem keeps_fireLate (d n : Nat) (step : Bool) (s : State) : Keeps s (fireLate d n step s) := by
  unfold fireLate; try dsimp (iota := false) only
  repeat' with_reducible first | exact Keeps.refl _ | assumption | simp (iota := false) only [keeps_mk_iff] | refine Keeps.trans ?_ (keeps_lateError ..) | refine Keeps.trans ?_ (keeps_modTrig ..) | refine Keeps.trans ?_ (keeps_targetAction ..) | refine Keeps.trans ?_ (keeps_timEv ..) | split

theorem keeps_waitingActions (d : Nat) (s : State) : Keeps s (waitingActions d s) := by
  unfold waitingActions; try dsimp (iota := false) only
  repeat' with_reducible first | exact Keeps.refl _ | assumption | simp (iota := false) only [keeps_mk_iff] | refine Keeps.trans ?_ (keeps_forAll _ _ _ fun _ _ => ?_) | refine Keeps.trans ?_ (keeps_modTrig ..) | refine Keeps.trans ?_ (keeps_targetAction ..) | split

theorem keeps_execTriggerArm (die n : Nat) (v : Word) (s : State) : ∀ t, execTriggerArm die n v s = .next t → Keeps s t := by
  unfold execTriggerArm; intro t h; try dsimp (iota := false) only at h
  repeat' split at h
  all_goals (injection h with h; subst h)
  all_goals repeat' with_reducible first | exact Keeps.refl _ | assumption | simp (iota := false) only [keeps_mk_iff] | refine Keeps.trans ?_ (keeps_fireLate ..) | refine Keeps.trans ?_ (keeps_lateError ..) | refine Keeps.trans ?_ (keeps_modTrig ..) | refine Keeps.trans ?_ (keeps_timEv ..)

theorem keeps_execTriggerDisarm (die n : Nat) (v : Word) (s : State) : ∀ t, execTriggerDisarm die n v s = .next t → Keeps s t := by
  unfold execTriggerDisarm; intro t h; try dsimp (iota := false) only at h
  repeat' split at h
  all_goals (injection h with h; subst h)
  all_goals repeat' with_reducible first | exact Keeps.refl _ | assumption | simp (iota := false) only [keeps_mk_iff] | refine Keeps.trans ?_ (keeps_fireTrigger ..) | refine Keeps.trans ?_ (keeps_modTrig ..)

theorem keeps_execTriggerFire (die n : Nat) (s : State) : ∀ t, execTriggerFire die n s = .next t → Keeps s t := by
  unfold execTriggerFire; grind [Keeps, keeps_advanceToStamp, keeps_fireTrigger]

theorem keeps_execRestructureResume (s : State) : ∀ t, execRestructureResume s = .next t → Keeps s t := by
  unfold execRestructureResume; intro t h; dsimp only at h; repeat' split at h
  all_goals grind [Keeps, keeps_advanceToStamp, keeps_endRestruct, keeps_fireTrigger, keeps_startMp]

/-! ## Time -/

theorem keeps_execSlaveTimeExchange (die : Nat) (t1 t2 t3 t4 : BitVec 64) (s : State) : ∀ t, execSlaveTimeExchange die t1 t2 t3 t4 s = .next t → Keeps s t := by
  unfold execSlaveTimeExchange; intro t h; try dsimp (iota := false) only at h
  repeat' split at h
  all_goals (injection h with h; subst h)
  all_goals repeat' with_reducible first | exact Keeps.refl _ | assumption | simp (iota := false) only [keeps_mk_iff] | refine Keeps.trans ?_ (keeps_draw_eq (by assumption)) | refine Keeps.trans ?_ (keeps_modDie ..)

theorem keeps_execSlaveRemeasureDone (die : Nat) (s : State) : ∀ t, execSlaveRemeasureDone die s = .next t → Keeps s t := by
  unfold execSlaveRemeasureDone; intro t h; try dsimp (iota := false) only at h
  all_goals (injection h with h; subst h)
  all_goals repeat' with_reducible first | exact Keeps.refl _ | assumption | simp (iota := false) only [keeps_mk_iff] | refine Keeps.trans ?_ (keeps_modDie ..)

theorem keeps_execSlaveOffsetError (die : Nat) (s : State) : ∀ t, execSlaveOffsetError die s = .next t → Keeps s t := by
  unfold execSlaveOffsetError; intro t h; try dsimp (iota := false) only at h
  repeat' split at h
  all_goals (injection h with h; subst h)
  all_goals repeat' with_reducible first | exact Keeps.refl _ | assumption | simp (iota := false) only [keeps_mk_iff] | refine Keeps.trans ?_ (keeps_advance ..) | refine Keeps.trans ?_ (keeps_modDie ..) | refine Keeps.trans ?_ (keeps_raise ..)

theorem keeps_stepDone (detail : BitVec 64) (s : State) : Keeps s (stepDone detail s) := by
  unfold stepDone; try dsimp (iota := false) only
  repeat' with_reducible first | exact Keeps.refl _ | assumption | simp (iota := false) only [keeps_mk_iff] | refine Keeps.trans ?_ (keeps_forAll _ _ _ fun _ _ => ?_) | refine Keeps.trans ?_ (keeps_raise ..) | refine Keeps.trans ?_ (keeps_timEv ..)

theorem keeps_setTime (t : Nat) (s : State) : Keeps s (setTime t s) := by
  unfold setTime; try dsimp (iota := false) only
  repeat' with_reducible first | exact Keeps.refl _ | assumption | simp (iota := false) only [keeps_mk_iff] | refine Keeps.trans ?_ (keeps_armMpStart ..) | refine Keeps.trans ?_ (keeps_fireLate ..) | refine Keeps.trans ?_ (keeps_forAll _ _ _ fun _ _ => ?_) | refine Keeps.trans ?_ (keeps_mapDies ..) | refine Keeps.trans ?_ (keeps_stepDone ..)

theorem keeps_modRef (s : State) (c : Nat) (f : Ref → Ref) : Keeps s (State.modRef s c f) := by
  unfold State.modRef; try dsimp (iota := false) only
  repeat' with_reducible first | exact Keeps.refl _ | assumption | simp (iota := false) only [keeps_mk_iff]

theorem keeps_servoTo (st : ServoState) (s : State) : Keeps s (servoTo st s) := by
  unfold servoTo; try dsimp (iota := false) only
  repeat' with_reducible first | exact Keeps.refl _ | assumption | simp (iota := false) only [keeps_mk_iff] | refine Keeps.trans ?_ (keeps_timEv ..) | split

theorem keeps_noteRate (c : Nat) (est : Int) (s : State) : Keeps s (noteRate c est s) := by
  unfold noteRate; try dsimp (iota := false) only
  repeat' with_reducible first | exact Keeps.refl _ | assumption | simp (iota := false) only [keeps_mk_iff] | refine Keeps.trans ?_ (keeps_modRef ..)

theorem keeps_noteFreeRate (c : Nat) (s : State) : Keeps s (noteFreeRate c s) := by
  unfold noteFreeRate; try dsimp (iota := false) only
  repeat' with_reducible first | exact Keeps.refl _ | assumption | simp (iota := false) only [keeps_mk_iff] | refine Keeps.trans ?_ (keeps_draw_eq (by assumption)) | refine Keeps.trans ?_ (keeps_noteRate ..) | split | refine Keeps.trans ?_ (keeps_draw ..)

theorem keeps_servoEval (lost : Nat) (s : State) : Keeps s (servoEval lost s) := by
  unfold servoEval; try dsimp (iota := false) only
  repeat' with_reducible first | exact Keeps.refl _ | assumption | simp (iota := false) only [keeps_mk_iff] | refine Keeps.trans ?_ (keeps_raise ..) | refine Keeps.trans ?_ (keeps_servoTo ..) | refine Keeps.trans ?_ (keeps_setTime ..) | split

theorem keeps_servoMp (s : State) : Keeps s (servoMp s) := by
  unfold servoMp; try dsimp (iota := false) only
  repeat' with_reducible first | exact Keeps.refl _ | assumption | simp (iota := false) only [keeps_mk_iff] | refine Keeps.trans ?_ (keeps_draw_eq (by assumption)) | refine Keeps.trans ?_ (keeps_modDie ..) | split | refine Keeps.trans ?_ (keeps_draw ..)

theorem keeps_refTo (c : Nat) (st : RefSt) (s : State) : Keeps s (refTo c st s) := by
  unfold refTo; try dsimp (iota := false) only
  repeat' with_reducible first | exact Keeps.refl _ | assumption | simp (iota := false) only [keeps_mk_iff] | refine Keeps.trans ?_ (keeps_modRef ..) | refine Keeps.trans ?_ (keeps_servoEval ..) | refine Keeps.trans ?_ (keeps_timEv ..) | split

theorem keeps_disqualify (c : Nat) (st : RefSt) (code : BitVec 16) (detail : BitVec 64) (s : State) : Keeps s (disqualify c st code detail s) := by
  unfold disqualify; try dsimp (iota := false) only
  repeat' with_reducible first | exact Keeps.refl _ | assumption | simp (iota := false) only [keeps_mk_iff] | refine Keeps.trans ?_ (keeps_raise ..) | refine Keeps.trans ?_ (keeps_refTo ..)

theorem keeps_noteOffset (ofs : Int) (s : State) : Keeps s (noteOffset ofs s) := by
  unfold noteOffset; try dsimp (iota := false) only
  repeat' with_reducible first | exact Keeps.refl _ | assumption | simp (iota := false) only [keeps_mk_iff] | refine Keeps.trans ?_ (keeps_modDie ..) | split

theorem keeps_stopRef (src : Nat) (s : State) : Keeps s (stopRef src s) := by
  unfold stopRef; try dsimp (iota := false) only
  repeat' with_reducible first | exact Keeps.refl _ | assumption | simp (iota := false) only [keeps_mk_iff] | refine Keeps.trans ?_ (keeps_disqualify ..) | refine Keeps.trans ?_ (keeps_modRef ..)

theorem keeps_execReferenceEdge (src : Nat) (raw : BitVec 64) (s : State) : ∀ t, execReferenceEdge src raw s = .next t → Keeps s t := by
  unfold execReferenceEdge; grind [Keeps, keeps_disqualify, keeps_modRef, keeps_noteOffset, keeps_raise, keeps_stopRef]

theorem keeps_execFrequencyWindowEnd (src : Nat) (ppt : Int) (s : State) : ∀ t, execFrequencyWindowEnd src ppt s = .next t → Keeps s t := by
  unfold execFrequencyWindowEnd; intro t h; try dsimp (iota := false) only at h
  repeat' split at h
  all_goals (injection h with h; subst h)
  all_goals repeat' with_reducible first | exact Keeps.refl _ | assumption | simp (iota := false) only [keeps_mk_iff] | refine Keeps.trans ?_ (keeps_disqualify ..) | refine Keeps.trans ?_ (keeps_modRef ..)

theorem keeps_execReferenceStop (src : Nat) (s : State) : ∀ t, execReferenceStop src s = .next t → Keeps s t := by
  unfold execReferenceStop; grind [Keeps, keeps_advanceToStamp, keeps_stopRef]

theorem keeps_execReferenceQualified (src : Nat) (s : State) : ∀ t, execReferenceQualified src s = .next t → Keeps s t := by
  unfold execReferenceQualified; grind [Keeps, keeps_advanceToStamp, keeps_execReferenceStop, keeps_refTo]

theorem keeps_execTimRefRearm (mask : Word) (s : State) : ∀ t, execTimRefRearm mask s = .next t → Keeps s t := by
  unfold execTimRefRearm; intro t h; try dsimp (iota := false) only at h
  repeat' split at h
  all_goals (injection h with h; subst h)
  all_goals repeat' with_reducible first | exact Keeps.refl _ | assumption | simp (iota := false) only [keeps_mk_iff] | refine Keeps.trans ?_ (keeps_forAll _ _ _ fun _ _ => ?_) | refine Keeps.trans ?_ (keeps_modRef ..) | refine Keeps.trans ?_ (keeps_refTo ..)

theorem keeps_ptpLost (s : State) : Keeps s (ptpLost s) := by
  unfold ptpLost; try dsimp (iota := false) only
  repeat' with_reducible first | exact Keeps.refl _ | assumption | simp (iota := false) only [keeps_mk_iff] | refine Keeps.trans ?_ (keeps_disqualify ..) | refine Keeps.trans ?_ (keeps_modRef ..) | split

theorem keeps_ptpOffset (v : Int) (s : State) : Keeps s (ptpOffset v s) := by
  unfold ptpOffset; grind [Keeps, keeps_disqualify, keeps_modRef, keeps_noteFreeRate, keeps_noteOffset, keeps_refTo]

theorem keeps_synceQl (code : BitVec 4) (s : State) : Keeps s (synceQl code s) := by
  unfold synceQl; try dsimp (iota := false) only
  repeat' with_reducible first | exact Keeps.refl _ | assumption | simp (iota := false) only [keeps_mk_iff] | refine Keeps.trans ?_ (keeps_raise ..) | refine Keeps.trans ?_ (keeps_refTo ..) | split

theorem keeps_judgeSynce (s : State) : Keeps s (judgeSynce s) := by
  unfold judgeSynce; try dsimp (iota := false) only
  repeat' with_reducible first | exact Keeps.refl _ | assumption | simp (iota := false) only [keeps_mk_iff] | refine Keeps.trans ?_ (keeps_modRef ..) | refine Keeps.trans ?_ (keeps_refTo ..) | refine Keeps.trans ?_ (keeps_synceQl ..) | split

theorem keeps_synceFresh (s : State) : Keeps s (synceFresh s) := by
  unfold synceFresh; try dsimp (iota := false) only
  repeat' with_reducible first | exact Keeps.refl _ | assumption | simp (iota := false) only [keeps_mk_iff] | refine Keeps.trans ?_ (keeps_modRef ..)

theorem keeps_synceLinkChange (d sub : Nat) (s : State) : Keeps s (synceLinkChange d sub s) := by
  unfold synceLinkChange; grind [Keeps, keeps_disqualify, keeps_synceFresh]

theorem keeps_writeSynceCfg (v : Word) (s : State) : Keeps s (writeSynceCfg v s) := by
  unfold writeSynceCfg
  refine keeps_ite _ _ _ _ (Keeps.trans ?_ (keeps_judgeSynce ..)) (Keeps.trans (Keeps.trans ?_ (keeps_synceFresh ..)) (keeps_refTo ..))
  all_goals simp (iota := false) only [keeps_mk_iff]; exact Keeps.refl s

theorem keeps_execEsmcMessage (code : BitVec 4) (s : State) : ∀ t, execEsmcMessage code s = .next t → Keeps s t := by
  unfold execEsmcMessage; intro t h; try dsimp (iota := false) only at h
  repeat' split at h
  all_goals (injection h with h; subst h)
  all_goals repeat' with_reducible first | exact Keeps.refl _ | assumption | simp (iota := false) only [keeps_mk_iff] | refine Keeps.trans ?_ (keeps_judgeSynce ..) | refine Keeps.trans ?_ (keeps_modRef ..)

theorem keeps_execEsmcTimeout (s : State) : ∀ t, execEsmcTimeout s = .next t → Keeps s t := by
  unfold execEsmcTimeout; grind [Keeps, keeps_advanceToStamp, keeps_judgeSynce, keeps_modRef]

theorem keeps_execSynceRequalify (s : State) : ∀ t, execSynceRequalify s = .next t → Keeps s t := by
  unfold execSynceRequalify; intro t h; dsimp only at h; repeat' split at h
  all_goals grind [Keeps, keeps_advanceToStamp, keeps_execEsmcTimeout, keeps_refTo]

theorem keeps_execServoLock (s : State) : ∀ t, execServoLock s = .next t → Keeps s t := by
  unfold execServoLock; intro t h; try dsimp (iota := false) only at h
  repeat' split at h
  all_goals (injection h with h; subst h)
  all_goals repeat' with_reducible first | exact Keeps.refl _ | assumption | simp (iota := false) only [keeps_mk_iff] | refine Keeps.trans ?_ (keeps_advance ..) | refine Keeps.trans ?_ (keeps_servoTo ..)

theorem keeps_execAditTimeExchange (t1 t2 t3 t4 : BitVec 64) (s : State) : ∀ t, execAditTimeExchange t1 t2 t3 t4 s = .next t → Keeps s t := by
  unfold execAditTimeExchange; grind [Keeps, keeps_noteFreeRate, keeps_noteOffset, keeps_servoTo, keeps_setTime]

theorem keeps_execStepGoInitial (s : State) : ∀ t, execStepGoInitial s = .next t → Keeps s t := by
  unfold execStepGoInitial; intro t h; try dsimp (iota := false) only at h
  repeat' split at h
  all_goals (injection h with h; subst h)
  all_goals repeat' with_reducible first | exact Keeps.refl _ | assumption | simp (iota := false) only [keeps_mk_iff] | refine Keeps.trans ?_ (keeps_setTime ..)

theorem keeps_execStepGo (s : State) : ∀ t, execStepGo s = .next t → Keeps s t := by
  unfold execStepGo; intro t h; try dsimp (iota := false) only at h
  repeat' split at h
  all_goals (injection h with h; subst h)
  all_goals repeat' with_reducible first | exact Keeps.refl _ | assumption | simp (iota := false) only [keeps_mk_iff] | refine Keeps.trans ?_ (keeps_ledger ..)

theorem keeps_execTimSnap (die : Nat) (s : State) : ∀ t, execTimSnap die s = .next t → Keeps s t := by
  unfold execTimSnap; intro t h; try dsimp (iota := false) only at h
  repeat' split at h
  all_goals (injection h with h; subst h)
  all_goals repeat' with_reducible first | exact Keeps.refl _ | assumption | simp (iota := false) only [keeps_mk_iff] | refine Keeps.trans ?_ (keeps_modDie ..)

theorem keeps_execTimTxsPop (die q : Nat) (s : State) : ∀ t, execTimTxsPop die q s = .next t → Keeps s t := by
  unfold execTimTxsPop; intro t h; try dsimp (iota := false) only at h
  repeat' split at h
  all_goals (injection h with h; subst h)
  all_goals repeat' with_reducible first | exact Keeps.refl _ | assumption | simp (iota := false) only [keeps_mk_iff] | refine Keeps.trans ?_ (keeps_modDie ..)

theorem keeps_pushTxs (d q : Nat) (stamp : BitVec 64) (tag : BitVec 16) (s : State) : Keeps s (pushTxs d q stamp tag s) := by
  unfold pushTxs; try dsimp (iota := false) only
  repeat' with_reducible first | exact Keeps.refl _ | assumption | simp (iota := false) only [keeps_mk_iff] | refine Keeps.trans ?_ (keeps_modDie ..) | refine Keeps.trans ?_ (keeps_raise ..) | refine Keeps.trans ?_ (keeps_timEv ..) | split

theorem keeps_modCap (s : State) (d c : Nat) (f : CapUnit → CapUnit) : Keeps s (State.modCap s d c f) := by
  unfold State.modCap; try dsimp (iota := false) only
  repeat' with_reducible first | exact Keeps.refl _ | assumption | simp (iota := false) only [keeps_mk_iff] | refine Keeps.trans ?_ (keeps_modDie ..)

theorem keeps_execCaptureEdge (die unit : Nat) (raw : BitVec 64) (rising : Bool) (widthNs : Nat) (s : State) : ∀ t, execCaptureEdge die unit raw rising widthNs s = .next t → Keeps s t := by
  unfold execCaptureEdge; intro t h; try dsimp (iota := false) only at h
  repeat' split at h
  all_goals (injection h with h; subst h)
  all_goals repeat' with_reducible first | exact Keeps.refl _ | assumption | simp (iota := false) only [keeps_mk_iff] | refine Keeps.trans ?_ (keeps_modCap ..) | refine Keeps.trans ?_ (keeps_raise ..) | refine Keeps.trans ?_ (keeps_timEv ..)

theorem keeps_execTimCapPop (die c : Nat) (s : State) : ∀ t, execTimCapPop die c s = .next t → Keeps s t := by
  unfold execTimCapPop; intro t h; try dsimp (iota := false) only at h
  repeat' split at h
  all_goals (injection h with h; subst h)
  all_goals repeat' with_reducible first | exact Keeps.refl _ | assumption | simp (iota := false) only [keeps_mk_iff] | refine Keeps.trans ?_ (keeps_modCap ..)

theorem keeps_execTimCapCfgWrite (die c : Nat) (v : Word) (s : State) : ∀ t, execTimCapCfgWrite die c v s = .next t → Keeps s t := by
  unfold execTimCapCfgWrite; intro t h; try dsimp (iota := false) only at h
  repeat' split at h
  all_goals (injection h with h; subst h)
  all_goals repeat' with_reducible first | exact Keeps.refl _ | assumption | simp (iota := false) only [keeps_mk_iff] | refine Keeps.trans ?_ (keeps_modCap ..)

theorem keeps_execPpsOutPulse (s : State) : ∀ t, execPpsOutPulse s = .next t → Keeps s t := by
  unfold execPpsOutPulse; grind [Keeps, keeps_advanceTo, keeps_emit]

/-! ## Ptp -/

theorem keeps_modSub8 (s : State) (d i : Nat) (f : Subport → Subport) : Keeps s (State.modSub8 s d i f) := by
  unfold State.modSub8; try dsimp (iota := false) only
  repeat' with_reducible first | exact Keeps.refl _ | assumption | simp (iota := false) only [keeps_mk_iff] | refine Keeps.trans ?_ (keeps_modDie ..)

theorem keeps_sendDuken (d i : Nat) (m : DukenMsg) (s : State) : Keeps s (sendDuken d i m s) := by
  unfold sendDuken; try dsimp (iota := false) only
  repeat' with_reducible first | exact Keeps.refl _ | assumption | simp (iota := false) only [keeps_mk_iff] | refine Keeps.trans ?_ (keeps_modSub8 ..) | split

theorem keeps_modPtp (s : State) (p : Nat) (f : PtpPort → PtpPort) : Keeps s (State.modPtp s p f) := by
  unfold State.modPtp; try dsimp (iota := false) only
  repeat' with_reducible first | exact Keeps.refl _ | assumption | simp (iota := false) only [keeps_mk_iff]

theorem keeps_ptpDecide (s : State) : Keeps s (ptpDecide s) := by
  unfold ptpDecide
  extract_lets t
  have k : Keeps s t := keeps_forAll _ _ _ fun _ u => keeps_modPtp ..
  clear_value t
  refine k.trans ?_
  split
  · exact keeps_ptpLost ..
  · exact keeps_ite _ _ _ _ (Keeps.refl t) ((keeps_modRef ..).trans (keeps_refTo ..))

theorem keeps_ptpTime (p : Nat) (origin arrival : BitVec 64) (s : State) : Keeps s (ptpTime p origin arrival s) := by
  unfold ptpTime; try dsimp (iota := false) only
  repeat' with_reducible first | exact Keeps.refl _ | assumption | simp (iota := false) only [keeps_mk_iff] | refine Keeps.trans ?_ (keeps_modPtp ..) | refine Keeps.trans ?_ (keeps_ptpOffset ..) | split

theorem keeps_fromMaster (m : PtpMsg) (at_ : BitVec 64) (s : State) : Keeps s (fromMaster m at_ s) := by
  unfold fromMaster; try dsimp (iota := false) only
  repeat' with_reducible first | exact Keeps.refl _ | assumption | simp (iota := false) only [keeps_mk_iff] | refine Keeps.trans ?_ (keeps_modPtp ..) | refine Keeps.trans ?_ (keeps_ptpTime ..) | split

theorem keeps_sendPtp (p : Nat) (k : PtpSent) (seq : BitVec 16) (stamp : BitVec 64) (s : State) : Keeps s (sendPtp p k seq stamp s) := by
  unfold sendPtp; try dsimp (iota := false) only
  repeat' with_reducible first | exact Keeps.refl _ | assumption | simp (iota := false) only [keeps_mk_iff] | refine Keeps.trans ?_ (keeps_sendDuken ..)

theorem keeps_dukenDeparted (m : DukenMsg) (stamp : BitVec 64) (s : State) : Keeps s (dukenDeparted m stamp s) := by
  unfold dukenDeparted; try dsimp (iota := false) only
  repeat' with_reducible first | exact Keeps.refl _ | assumption | simp (iota := false) only [keeps_mk_iff] | refine Keeps.trans ?_ (keeps_modPtp ..) | refine Keeps.trans ?_ (keeps_sendPtp ..) | split

theorem keeps_hearAnnounce (m : PtpMsg) (c : PtpClock) (utc : BitVec 16) (valid : Bool) (s : State) : Keeps s (hearAnnounce m c utc valid s) := by
  unfold hearAnnounce
  extract_lets takes u
  have k : Keeps s u := (keeps_modPtp ..).trans (keeps_ptpDecide ..)
  clear_value takes u
  refine keeps_ite _ _ _ _ (Keeps.refl s) (k.trans (keeps_ite _ _ _ _ ?_ (Keeps.refl u)))
  exact ⟨rfl, rfl, rfl, id, fun _ h => h, id⟩

theorem keeps_peerDelay (m : PtpMsg) (at_ : BitVec 64) (s : State) : Keeps s (peerDelay m at_ s) := by
  unfold peerDelay; try dsimp (iota := false) only
  repeat' with_reducible first | exact Keeps.refl _ | assumption | simp (iota := false) only [keeps_mk_iff] | refine Keeps.trans ?_ (keeps_modPtp ..) | refine Keeps.trans ?_ (keeps_sendPtp ..) | split

theorem keeps_execPtpMessage (m : PtpMsg) (s : State) : ∀ t, execPtpMessage m s = .next t → Keeps s t := by
  unfold execPtpMessage; grind [Keeps, keeps_fromMaster, keeps_hearAnnounce, keeps_peerDelay, keeps_sendPtp]

theorem keeps_announceLost (p : Nat) (s : State) : Keeps s (announceLost p s) := by
  unfold announceLost; grind [Keeps, keeps_advance, keeps_modPtp, keeps_ptpDecide, keeps_ptpLost]

theorem keeps_execAnnounceReceiptTimeout (s : State) : ∀ t, execAnnounceReceiptTimeout s = .next t → Keeps s t := by
  unfold execAnnounceReceiptTimeout; intro t h; try dsimp (iota := false) only at h
  repeat' split at h
  all_goals (injection h with h; subst h)
  all_goals repeat' with_reducible first | exact Keeps.refl _ | assumption | simp (iota := false) only [keeps_mk_iff] | refine Keeps.trans ?_ (keeps_announceLost ..) | refine Keeps.trans ?_ (keeps_forAll _ _ _ fun _ _ => ?_) | refine Keeps.trans ?_ (keeps_modPtp ..)

theorem keeps_execPtpRequalify (s : State) : ∀ t, execPtpRequalify s = .next t → Keeps s t := by
  unfold execPtpRequalify; grind [Keeps, keeps_advanceToStamp, keeps_announceLost, keeps_refTo]

theorem keeps_ptpRestart (s : State) : Keeps s (ptpRestart s) := by
  unfold ptpRestart; try dsimp (iota := false) only
  repeat' with_reducible first | exact Keeps.refl _ | assumption | simp (iota := false) only [keeps_mk_iff] | refine Keeps.trans ?_ (keeps_disqualify ..) | refine Keeps.trans ?_ (keeps_modRef ..) | split

theorem keeps_writePtpCfg (v : Word) (s : State) : Keeps s (writePtpCfg v s) := by
  unfold writePtpCfg; try dsimp (iota := false) only
  repeat' with_reducible first | exact Keeps.refl _ | assumption | simp (iota := false) only [keeps_mk_iff] | refine Keeps.trans ?_ (keeps_ptpRestart ..) | split

theorem keeps_writePtpPorts (v : BitVec 32) (s : State) : Keeps s (writePtpPorts v s) := by
  unfold writePtpPorts; grind [Keeps, keeps_forAll, keeps_modPtp, keeps_ptpDecide]

theorem keeps_execTimPtpCfgWrite (v : Word) (s : State) : ∀ t, execTimPtpCfgWrite v s = .next t → Keeps s t := by
  unfold execTimPtpCfgWrite; intro t h; try dsimp (iota := false) only at h
  repeat' split at h
  all_goals (injection h with h; subst h)
  all_goals repeat' with_reducible first | exact Keeps.refl _ | assumption | simp (iota := false) only [keeps_mk_iff] | refine Keeps.trans ?_ (keeps_writePtpCfg ..)

theorem keeps_ptpSend (k : PtpKind) (p : Nat) (s : State) : Keeps s (ptpSend k p s) := by
  unfold ptpSend; try dsimp (iota := false) only
  repeat' with_reducible first | exact Keeps.refl _ | assumption | simp (iota := false) only [keeps_mk_iff] | refine Keeps.trans ?_ (keeps_modPtp ..) | refine Keeps.trans ?_ (keeps_sendPtp ..) | split

theorem keeps_execPtpSyncInterval (k : PtpKind) (s : State) : ∀ t, execPtpSyncInterval k s = .next t → Keeps s t := by
  unfold execPtpSyncInterval; intro t h; try dsimp (iota := false) only at h
  all_goals (injection h with h; subst h)
  all_goals repeat' with_reducible first | exact Keeps.refl _ | assumption | simp (iota := false) only [keeps_mk_iff] | refine Keeps.trans ?_ (keeps_forAll _ _ _ fun _ _ => ?_) | refine Keeps.trans ?_ (keeps_ptpSend ..)

theorem keeps_execEsmcTransmit (s : State) : ∀ t, execEsmcTransmit s = .next t → Keeps s t := by
  unfold execEsmcTransmit; intro t h; try dsimp (iota := false) only at h
  repeat' split at h
  all_goals (injection h with h; subst h)
  all_goals repeat' with_reducible first | exact Keeps.refl _ | assumption | simp (iota := false) only [keeps_mk_iff] | refine Keeps.trans ?_ (keeps_draw_eq (by assumption)) | refine Keeps.trans ?_ (keeps_sendDuken ..)

end Sys2Proof.Machine
end

