-- ==== Sys2Proof/Laws/KeepsMedia.lean ====
section
/-! SUPPORT. That every operation of the machine keeps what `Keeps` says: packets, audio and video. One lemma for each
operation that changes the state, cited wherever that operation is called. -/

namespace Sys2Proof.Machine

/-! ## Egress -/

theorem keeps_advanceMs (s : State) (since : BitVec 64) (ms : Nat) : Keeps s (State.advanceMs s since ms) := by
  unfold State.advanceMs; try dsimp (iota := false) only
  repeat' with_reducible first | exact Keeps.refl _ | assumption | simp (iota := false) only [keeps_mk_iff] | refine Keeps.trans ?_ (keeps_advance ..)

theorem keeps_queueDrop (l : BitVec 16) (s : State) : Keeps s (queueDrop l s) := by
  unfold queueDrop; try dsimp (iota := false) only
  repeat' with_reducible first | exact Keeps.refl _ | assumption | simp (iota := false) only [keeps_mk_iff] | refine Keeps.trans ?_ (keeps_egrCnt ..) | refine Keeps.trans ?_ (keeps_egrEv ..) | refine Keeps.trans ?_ (keeps_modTx ..) | refine Keeps.trans ?_ (keeps_raiseOnce ..)

theorem keeps_enqueueAfter (after : Nat) (p : TxPacket) (s : State) : Keeps s (enqueueAfter after p s) := by
  unfold enqueueAfter; try dsimp (iota := false) only
  repeat' with_reducible first | exact Keeps.refl _ | assumption | simp (iota := false) only [keeps_mk_iff] | refine Keeps.trans ?_ (keeps_forAll _ _ _ fun _ _ => ?_) | refine Keeps.trans ?_ (keeps_modTx ..) | refine Keeps.trans ?_ (keeps_queueDrop ..) | split

theorem keeps_enqueueLeg (p : TxPacket) (s : State) : Keeps s (enqueueLeg p s) := by
  unfold enqueueLeg; try dsimp (iota := false) only
  repeat' with_reducible first | exact Keeps.refl _ | assumption | simp (iota := false) only [keeps_mk_iff] | refine Keeps.trans ?_ (keeps_enqueueAfter ..)

theorem keeps_pktPoolAdd (d : Nat) (n : Nat) (s : State) : Keeps s (pktPoolAdd d n s) := by
  unfold pktPoolAdd; try dsimp (iota := false) only
  repeat' with_reducible first | exact Keeps.refl _ | assumption | simp (iota := false) only [keeps_mk_iff] | refine Keeps.trans ?_ (keeps_modDie ..)

theorem keeps_pktPoolSub (d : Nat) (n : Nat) (s : State) : Keeps s (pktPoolSub d n s) := by
  unfold pktPoolSub; try dsimp (iota := false) only
  repeat' with_reducible first | exact Keeps.refl _ | assumption | simp (iota := false) only [keeps_mk_iff] | refine Keeps.trans ?_ (keeps_modDie ..)

theorem keeps_jbPoolAdd (d : Nat) (n : Nat) (s : State) : Keeps s (jbPoolAdd d n s) := by
  unfold jbPoolAdd; try dsimp (iota := false) only
  repeat' with_reducible first | exact Keeps.refl _ | assumption | simp (iota := false) only [keeps_mk_iff] | refine Keeps.trans ?_ (keeps_modDie ..)

theorem keeps_jbPoolSub (d : Nat) (n : Nat) (s : State) : Keeps s (jbPoolSub d n s) := by
  unfold jbPoolSub; try dsimp (iota := false) only
  repeat' with_reducible first | exact Keeps.refl _ | assumption | simp (iota := false) only [keeps_mk_iff] | refine Keeps.trans ?_ (keeps_modDie ..)

theorem keeps_dropHeld (l : BitVec 16) (s : State) : Keeps s (dropHeld l s) := by
  unfold dropHeld; try dsimp (iota := false) only
  repeat' with_reducible first | exact Keeps.refl _ | assumption | simp (iota := false) only [keeps_mk_iff] | refine Keeps.trans ?_ (keeps_modTx ..) | refine Keeps.trans ?_ (keeps_pktPoolSub ..) | split

theorem keeps_trimHeld (d : Nat) (fuel : Nat) (s : State) : Keeps s (trimHeld d fuel s) := by
  fun_induction trimHeld d fuel s <;> grind [Keeps, keeps_dropHeld]

theorem keeps_holdPacket (p : TxPacket) (plain : List Byte) (s : State) : Keeps s (holdPacket p plain s) := by
  unfold holdPacket; try dsimp (iota := false) only
  repeat' with_reducible first | exact Keeps.refl _ | assumption | simp (iota := false) only [keeps_mk_iff] | refine Keeps.trans ?_ (keeps_modTx ..) | refine Keeps.trans ?_ (keeps_pktPoolAdd ..) | refine Keeps.trans ?_ (keeps_trimHeld ..)

theorem keeps_sendRtpAfter (after : Nat) (p : TxPacket) (s : State) : Keeps s (sendRtpAfter after p s) := by
  unfold sendRtpAfter; grind [Keeps, keeps_digestBytes, keeps_enqueueAfter, keeps_holdPacket, keeps_protectRtp]

theorem keeps_sendRtp (p : TxPacket) (s : State) : Keeps s (sendRtp p s) := by
  unfold sendRtp; try dsimp (iota := false) only
  repeat' with_reducible first | exact Keeps.refl _ | assumption | simp (iota := false) only [keeps_mk_iff] | refine Keeps.trans ?_ (keeps_sendRtpAfter ..)

theorem keeps_execEgressEnqueue (p : TxPacket) (s : State) : ∀ t, execEgressEnqueue p s = .next t → Keeps s t := by
  unfold execEgressEnqueue; intro t h; try dsimp (iota := false) only at h
  repeat' split at h
  all_goals (injection h with h; subst h)
  all_goals repeat' with_reducible first | exact Keeps.refl _ | assumption | simp (iota := false) only [keeps_mk_iff] | refine Keeps.trans ?_ (keeps_sendRtp ..)

theorem keeps_sendRtcp (l : BitVec 16) (m : RtcpMsg) (s : State) : Keeps s (sendRtcp l m s) := by
  unfold sendRtcp; grind [Keeps, keeps_enqueueLeg, keeps_protectRtcp]

theorem keeps_tsBaseOf (l : BitVec 16) (ssrc : BitVec 32) (s : State) : Keeps s (tsBaseOf l ssrc s).2 := by
  unfold tsBaseOf; try dsimp (iota := false) only
  repeat' with_reducible first | exact Keeps.refl _ | assumption | simp (iota := false) only [keeps_mk_iff] | refine Keeps.trans ?_ (keeps_drawLedger_eq (by assumption)) | refine Keeps.trans ?_ (keeps_modTx ..) | split | refine Keeps.trans ?_ (keeps_drawLedger ..)

theorem keeps_tsBaseOf_eq {l : BitVec 16} {ssrc : BitVec 32} {s : State} {v1} {u1 : State} (h1 : tsBaseOf l ssrc s = (v1, u1)) : Keeps s u1 := by
  have kk := keeps_tsBaseOf l ssrc s
  rwa [h1] at kk

theorem keeps_nextSeqOf (l : BitVec 16) (ssrc : BitVec 32) (s : State) : Keeps s (nextSeqOf l ssrc s).2 := by
  unfold nextSeqOf; try dsimp (iota := false) only
  repeat' with_reducible first | exact Keeps.refl _ | assumption | refine Keeps.trans ?_ (keeps_drawLedger_eq (by assumption)) | refine Keeps.trans ?_ (keeps_modTx ..) | split | refine Keeps.trans ?_ (keeps_drawLedger ..)

theorem keeps_nextSeqOf_eq {l : BitVec 16} {ssrc : BitVec 32} {s : State} {v1} {u1 : State} (h1 : nextSeqOf l ssrc s = (v1, u1)) : Keeps s u1 := by
  have kk := keeps_nextSeqOf l ssrc s
  rwa [h1] at kk

theorem keeps_senderReport (l : BitVec 16) (ssrc : BitVec 32) (s : State) : Keeps s (senderReport l ssrc s) := by
  unfold senderReport; try dsimp (iota := false) only
  repeat' with_reducible first | exact Keeps.refl _ | assumption | simp (iota := false) only [keeps_mk_iff] | refine Keeps.trans ?_ (keeps_sendRtcp ..) | refine Keeps.trans ?_ (keeps_tsBaseOf_eq (by assumption)) | split | refine Keeps.trans ?_ (keeps_tsBaseOf ..)

theorem keeps_advanceDue (s : State) (due : Option (BitVec 64)) : Keeps s (State.advanceDue s due) := by
  unfold State.advanceDue; try dsimp (iota := false) only
  repeat' with_reducible first | exact Keeps.refl _ | assumption | simp (iota := false) only [keeps_mk_iff] | refine Keeps.trans ?_ (keeps_advance ..) | split

theorem keeps_nextReport (l : BitVec 16) (ssrc : BitVec 32) (s : State) : Keeps s (nextReport l ssrc s) := by
  unfold nextReport; try dsimp (iota := false) only
  repeat' with_reducible first | exact Keeps.refl _ | assumption | simp (iota := false) only [keeps_mk_iff] | refine Keeps.trans ?_ (keeps_advanceDue ..) | refine Keeps.trans ?_ (keeps_draw_eq (by assumption)) | refine Keeps.trans ?_ (keeps_modTx ..)

theorem keeps_nextCcfb (l : BitVec 16) (s : State) : Keeps s (nextCcfb l s) := by
  unfold nextCcfb; try dsimp (iota := false) only
  repeat' with_reducible first | exact Keeps.refl _ | assumption | simp (iota := false) only [keeps_mk_iff] | refine Keeps.trans ?_ (keeps_advanceDue ..) | refine Keeps.trans ?_ (keeps_modTx ..)

theorem keeps_execRtcpReportTimer (leg : BitVec 16) (ssrc : Option (BitVec 32)) (s : State) : ∀ t, execRtcpReportTimer leg ssrc s = .next t → Keeps s t := by
  unfold execRtcpReportTimer; intro t h; try dsimp (iota := false) only at h
  repeat' split at h
  all_goals (injection h with h; subst h)
  all_goals repeat' with_reducible first | exact Keeps.refl _ | assumption | simp (iota := false) only [keeps_mk_iff] | refine Keeps.trans ?_ (keeps_modRx ..) | refine Keeps.trans ?_ (keeps_nextCcfb ..) | refine Keeps.trans ?_ (keeps_nextReport ..) | refine Keeps.trans ?_ (keeps_sendRtcp ..) | refine Keeps.trans ?_ (keeps_senderReport ..)

theorem keeps_resendOne (l : BitVec 16) (ssrc : BitVec 32) (seq : BitVec 16) (s : State) : Keeps s (resendOne l ssrc seq s) := by
  unfold resendOne; grind [Keeps, keeps_egrCnt, keeps_enqueueLeg, keeps_modTx, keeps_nextSeqOf, keeps_raiseOnce, keeps_sendRtp]

theorem keeps_answerNack (l : BitVec 16) (ssrc : BitVec 32) (seqs : List (BitVec 16)) (s : State) : Keeps s (answerNack l ssrc seqs s) := by
  unfold answerNack; grind [Keeps, keeps_forAll, keeps_modTx, keeps_resendOne]

theorem keeps_execRtxHoldExpiry (leg : BitVec 16) (s : State) : ∀ t, execRtxHoldExpiry leg s = .next t → Keeps s t := by
  unfold execRtxHoldExpiry; intro t h; try dsimp (iota := false) only at h
  repeat' split at h
  all_goals (injection h with h; subst h)
  all_goals repeat' with_reducible first | exact Keeps.refl _ | assumption | simp (iota := false) only [keeps_mk_iff] | refine Keeps.trans ?_ (keeps_advanceMs ..) | refine Keeps.trans ?_ (keeps_dropHeld ..)

theorem keeps_modCls (s : State) (d i c : Nat) (f : Sfq → Sfq) : Keeps s (State.modCls s d i c f) := by
  unfold State.modCls; try dsimp (iota := false) only
  repeat' with_reducible first | exact Keeps.refl _ | assumption | simp (iota := false) only [keeps_mk_iff] | refine Keeps.trans ?_ (keeps_modSub8 ..)

theorem keeps_readyLegs (d i c : Nat) (s : State) : Keeps s (readyLegs d i c s) := by
  unfold readyLegs; try dsimp (iota := false) only
  repeat' with_reducible first | exact Keeps.refl _ | assumption | simp (iota := false) only [keeps_mk_iff] | refine Keeps.trans ?_ (keeps_forAll _ _ _ fun _ _ => ?_) | refine Keeps.trans ?_ (keeps_modTx ..)

theorem keeps_readySub (d i : Nat) (s : State) : Keeps s (readySub d i s) := by
  unfold readySub; grind [Keeps, keeps_forAll, keeps_modCls, keeps_readyLegs]

theorem keeps_departMac (d i : Nat) (p : TxPacket) (s : State) : Keeps s (departMac d i p s) := by
  unfold departMac
  extract_lets stamp s1 s2 s3 s4 s5
  have k1 : Keeps s s1 := (keeps_egrCnt ..).trans (keeps_emit ..)
  have k2 : Keeps s1 s2 := keeps_modSub8 ..
  have k3 : Keeps s2 s3 := by
    change Keeps s2 (match p.stampTag with | some tag => pushTxs d i stamp tag s2 | none => s2)
    split
    · exact keeps_pushTxs ..
    · exact Keeps.refl s2
  have k4 : Keeps s3 s4 := by
    change Keeps s3 (match p.duken with
      | some m => dukenDeparted m stamp (match m with
        | .ptp _ k seq _ => if ptpEvent k then pushTxs d i stamp seq s3 else s3
        | .esmc _ => s3)
      | none => s3)
    split
    · refine Keeps.trans ?_ (keeps_dukenDeparted ..)
      split
      · exact keeps_ite _ _ _ _ (keeps_pushTxs ..) (Keeps.refl s3)
      · exact Keeps.refl s3
    · exact Keeps.refl s3
  have k5 : Keeps s4 s5 := keeps_ite _ _ _ _ (keeps_ledger ..) (Keeps.refl s4)
  refine keeps_ite _ _ _ _ (keeps_egrCnt ..) (keeps_ite _ _ _ _ (keeps_ite _ _ _ _ (Keeps.refl s) (keeps_modTx ..)) ?_)
  exact k1.trans (k2.trans (k3.trans (k4.trans (k5.trans (keeps_ite _ _ _ _ (Keeps.refl s5) (keeps_modTx ..))))))

theorem keeps_serveLeg (d i c : Nat) (l : BitVec 16) (s : State) : Keeps s (serveLeg d i c l s) := by
  unfold serveLeg; grind [Keeps, keeps_departMac, keeps_modCls, keeps_modSub8, keeps_modTx]

theorem keeps_fillHost (d : Nat) (s : State) : Keeps s (fillHost d s) := by
  unfold fillHost; try dsimp (iota := false) only
  repeat' with_reducible first | exact Keeps.refl _ | assumption | simp (iota := false) only [keeps_mk_iff] | refine Keeps.trans ?_ (keeps_modDie ..) | split

theorem keeps_drainHost (d : Nat) (fuel : Nat) (s : State) : Keeps s (drainHost d fuel s) := by
  fun_induction drainHost d fuel s <;> grind [Keeps, keeps_modDie, keeps_modSub8]

theorem keeps_serveControl (d i : Nat) (p : TxPacket) (s : State) : Keeps s (serveControl d i p s) := by
  unfold serveControl; grind [Keeps, keeps_departMac, keeps_egrCnt, keeps_finishCmd, keeps_modSub8]

theorem keeps_execPacketDeparture (die sub : Nat) (s : State) : ∀ t, execPacketDeparture die sub s = .next t → Keeps s t := by
  unfold execPacketDeparture; grind [Keeps, keeps_drainHost, keeps_fillHost, keeps_readySub, keeps_serveControl, keeps_serveLeg]

theorem keeps_execWaitDrop (leg : BitVec 16) (s : State) : ∀ t, execWaitDrop leg s = .next t → Keeps s t := by
  unfold execWaitDrop; intro t h; try dsimp (iota := false) only at h
  repeat' split at h
  all_goals (injection h with h; subst h)
  all_goals repeat' with_reducible first | exact Keeps.refl _ | assumption | simp (iota := false) only [keeps_mk_iff] | refine Keeps.trans ?_ (keeps_advanceMs ..) | refine Keeps.trans ?_ (keeps_egrCnt ..) | refine Keeps.trans ?_ (keeps_egrEv ..) | refine Keeps.trans ?_ (keeps_modTx ..) | refine Keeps.trans ?_ (keeps_raiseOnce ..)

theorem keeps_execEgrSend (c : Cmd) (s : State) : ∀ t, execEgrSend c s = .next t → Keeps s t := by
  unfold execEgrSend; intro t h; cases h; apply keeps_runCmd; intro u; grind [Keeps, keeps_drainHost, keeps_egrEv, keeps_fillHost, keeps_modDie, keeps_raiseAny, keeps_runCmd]

theorem keeps_setTarget (l : BitVec 16) (rate : Nat) (src : BitVec 2) (s : State) : Keeps s (setTarget l rate src s) := by
  unfold setTarget; try dsimp (iota := false) only
  repeat' with_reducible first | exact Keeps.refl _ | assumption | simp (iota := false) only [keeps_mk_iff] | refine Keeps.trans ?_ (keeps_ledger ..) | refine Keeps.trans ?_ (keeps_modTx ..)

theorem keeps_ccStep (l : BitVec 16) (s : State) : Keeps s (ccStep l s) := by
  unfold ccStep; try dsimp (iota := false) only
  repeat' with_reducible first | exact Keeps.refl _ | assumption | simp (iota := false) only [keeps_mk_iff] | refine Keeps.trans ?_ (keeps_draw_eq (by assumption)) | refine Keeps.trans ?_ (keeps_modTx ..) | refine Keeps.trans ?_ (keeps_setTarget ..) | split

theorem keeps_execFeedbackTimeout (leg : BitVec 16) (s : State) : ∀ t, execFeedbackTimeout leg s = .next t → Keeps s t := by
  unfold execFeedbackTimeout; grind [Keeps, keeps_advanceToStamp, keeps_egrEv, keeps_modTx, keeps_raiseFrom, keeps_setTarget]

/-! ## Request -/

theorem keeps_modDec (s : State) (c : BitVec 16) (f : DecCtx → DecCtx) : Keeps s (State.modDec s c f) := by
  unfold State.modDec; try dsimp (iota := false) only
  repeat' with_reducible first | exact Keeps.refl _ | assumption | simp (iota := false) only [keeps_mk_iff] | refine Keeps.trans ?_ (keeps_modDie ..)

theorem keeps_modEnc (s : State) (c : BitVec 16) (f : EncCtx → EncCtx) : Keeps s (State.modEnc s c f) := by
  unfold State.modEnc; try dsimp (iota := false) only
  repeat' with_reducible first | exact Keeps.refl _ | assumption | simp (iota := false) only [keeps_mk_iff] | refine Keeps.trans ?_ (keeps_modDie ..)

theorem keeps_putKf (l : BitVec 16) (k : KfLimit) (s : State) : Keeps s (putKf l k s) := by
  unfold putKf; try dsimp (iota := false) only
  repeat' with_reducible first | exact Keeps.refl _ | assumption | simp (iota := false) only [keeps_mk_iff] | refine Keeps.trans ?_ (keeps_modLeg ..)

theorem keeps_sendKeyframe (l : BitVec 16) (ssrc : BitVec 32) (s : State) : Keeps s (sendKeyframe l ssrc s) := by
  unfold sendKeyframe; try dsimp (iota := false) only
  repeat' with_reducible first | exact Keeps.refl _ | assumption | simp (iota := false) only [keeps_mk_iff] | refine Keeps.trans ?_ (keeps_forAll _ _ _ fun _ _ => ?_) | refine Keeps.trans ?_ (keeps_modDec ..) | refine Keeps.trans ?_ (keeps_putKf ..) | refine Keeps.trans ?_ (keeps_sendRtcp ..) | refine Keeps.trans ?_ (keeps_vdcCnt ..)

theorem keeps_keyframeRequest (l : BitVec 16) (ssrc : BitVec 32) (s : State) : Keeps s (keyframeRequest l ssrc s) := by
  unfold keyframeRequest; try dsimp (iota := false) only
  repeat' with_reducible first | exact Keeps.refl _ | assumption | simp (iota := false) only [keeps_mk_iff] | refine Keeps.trans ?_ (keeps_forAll _ _ _ fun _ _ => ?_) | refine Keeps.trans ?_ (keeps_modDec ..) | refine Keeps.trans ?_ (keeps_sendKeyframe ..) | refine Keeps.trans ?_ (keeps_vdcCnt ..) | split

theorem keeps_clearKf (l : BitVec 16) (ssrc : BitVec 32) (s : State) : Keeps s (clearKf l ssrc s) := by
  unfold clearKf; try dsimp (iota := false) only
  repeat' with_reducible first | exact Keeps.refl _ | assumption | simp (iota := false) only [keeps_mk_iff] | refine Keeps.trans ?_ (keeps_modLeg ..)

theorem keeps_execKeyframeGapEnd (leg : BitVec 16) (ssrc : BitVec 32) (s : State) : ∀ t, execKeyframeGapEnd leg ssrc s = .next t → Keeps s t := by
  unfold execKeyframeGapEnd; intro t h; try dsimp (iota := false) only at h
  repeat' split at h
  all_goals (injection h with h; subst h)
  all_goals repeat' with_reducible first | exact Keeps.refl _ | assumption | simp (iota := false) only [keeps_mk_iff] | refine Keeps.trans ?_ (keeps_advance ..) | refine Keeps.trans ?_ (keeps_sendKeyframe ..)

theorem keeps_intraRung (c : BitVec 16) (k : Nat) (s : State) : Keeps s (intraRung c k s) := by
  unfold intraRung; try dsimp (iota := false) only
  repeat' with_reducible first | exact Keeps.refl _ | assumption | simp (iota := false) only [keeps_mk_iff] | refine Keeps.trans ?_ (keeps_modEnc ..) | refine Keeps.trans ?_ (keeps_venCnt ..) | split

theorem keeps_intraRequest (c : BitVec 16) (mask : Nat) (s : State) : Keeps s (intraRequest c mask s) := by
  unfold intraRequest; try dsimp (iota := false) only
  repeat' with_reducible first | exact Keeps.refl _ | assumption | simp (iota := false) only [keeps_mk_iff] | refine Keeps.trans ?_ (keeps_forAll _ _ _ fun _ _ => ?_) | refine Keeps.trans ?_ (keeps_intraRung ..) | split

theorem keeps_execIntraGapEnd (ctx : BitVec 16) (rung : Nat) (s : State) : ∀ t, execIntraGapEnd ctx rung s = .next t → Keeps s t := by
  unfold execIntraGapEnd; intro t h; try dsimp (iota := false) only at h
  repeat' split at h
  all_goals (injection h with h; subst h)
  all_goals repeat' with_reducible first | exact Keeps.refl _ | assumption | simp (iota := false) only [keeps_mk_iff] | refine Keeps.trans ?_ (keeps_advance ..) | refine Keeps.trans ?_ (keeps_modEnc ..)

theorem keeps_modTile (s : State) (d i : Nat) (f : TileStream → TileStream) : Keeps s (State.modTile s d i f) := by
  unfold State.modTile; try dsimp (iota := false) only
  repeat' with_reducible first | exact Keeps.refl _ | assumption | simp (iota := false) only [keeps_mk_iff] | refine Keeps.trans ?_ (keeps_modDie ..)

theorem keeps_sendTileIntra (d i : Nat) (t : TileStream) (s : State) : Keeps s (sendTileIntra d i t s) := by
  unfold sendTileIntra; try dsimp (iota := false) only
  repeat' with_reducible first | exact Keeps.refl _ | assumption | simp (iota := false) only [keeps_mk_iff] | refine Keeps.trans ?_ (keeps_intraRequest ..) | refine Keeps.trans ?_ (keeps_modTile ..) | refine Keeps.trans ?_ (keeps_seaCnt ..) | split

theorem keeps_tileIntra (d i : Nat) (s : State) : Keeps s (tileIntra d i s) := by
  unfold tileIntra; try dsimp (iota := false) only
  repeat' with_reducible first | exact Keeps.refl _ | assumption | simp (iota := false) only [keeps_mk_iff] | refine Keeps.trans ?_ (keeps_modTile ..) | refine Keeps.trans ?_ (keeps_sendTileIntra ..) | split

theorem keeps_execSeamIntraGapEnd (die i : Nat) (s : State) : ∀ t, execSeamIntraGapEnd die i s = .next t → Keeps s t := by
  unfold execSeamIntraGapEnd; intro t h; try dsimp (iota := false) only at h
  repeat' split at h
  all_goals (injection h with h; subst h)
  all_goals repeat' with_reducible first | exact Keeps.refl _ | assumption | simp (iota := false) only [keeps_mk_iff] | refine Keeps.trans ?_ (keeps_advance ..) | refine Keeps.trans ?_ (keeps_sendTileIntra ..)

theorem keeps_startViewer (l lay : BitVec 16) (s : State) : Keeps s (startViewer l lay s) := by
  unfold startViewer; try dsimp (iota := false) only
  repeat' with_reducible first | exact Keeps.refl _ | assumption | simp (iota := false) only [keeps_mk_iff] | refine Keeps.trans ?_ (keeps_forAll _ _ _ fun _ _ => ?_) | refine Keeps.trans ?_ (keeps_modLeg ..) | refine Keeps.trans ?_ (keeps_seaCnt ..) | refine Keeps.trans ?_ (keeps_seaEv ..) | refine Keeps.trans ?_ (keeps_tileIntra ..) | split

theorem keeps_viewerRestart (l : BitVec 16) (s : State) : Keeps s (viewerRestart l s) := by
  unfold viewerRestart; try dsimp (iota := false) only
  repeat' with_reducible first | exact Keeps.refl _ | assumption | simp (iota := false) only [keeps_mk_iff] | refine Keeps.trans ?_ (keeps_seaCnt ..) | refine Keeps.trans ?_ (keeps_startViewer ..) | split

/-! ## Forward -/

theorem keeps_modLayer (s : State) (l : BitVec 16) (sp t : Nat) (f : Layer → Layer) : Keeps s (State.modLayer s l sp t f) := by
  unfold State.modLayer; try dsimp (iota := false) only
  repeat' with_reducible first | exact Keeps.refl _ | assumption | simp (iota := false) only [keeps_mk_iff] | refine Keeps.trans ?_ (keeps_modLeg ..)

theorem keeps_noteLayer (l : BitVec 16) (sp t len : Nat) (s : State) : Keeps s (noteLayer l sp t len s) := by
  unfold noteLayer; try dsimp (iota := false) only
  repeat' with_reducible first | exact Keeps.refl _ | assumption | simp (iota := false) only [keeps_mk_iff] | refine Keeps.trans ?_ (keeps_modLayer ..)

theorem keeps_measureLayers (l : BitVec 16) (s : State) : Keeps s (measureLayers l s) := by
  unfold measureLayers; try dsimp (iota := false) only
  repeat' with_reducible first | exact Keeps.refl _ | assumption | simp (iota := false) only [keeps_mk_iff] | refine Keeps.trans ?_ (keeps_forAll _ _ _ fun _ _ => ?_) | refine Keeps.trans ?_ (keeps_modLayer ..)

theorem keeps_putItem (l : BitVec 16) (r : ItemRef) (e : SubEntry) (s : State) : Keeps s (putItem l r e s) := by
  unfold putItem; try dsimp (iota := false) only
  repeat' with_reducible first | exact Keeps.refl _ | assumption | simp (iota := false) only [keeps_mk_iff] | refine Keeps.trans ?_ (keeps_modTx ..) | refine Keeps.trans ?_ (keeps_putSub ..) | split

theorem keeps_requestLayer (f : Feed) (k : Nat) (s : State) : Keeps s (requestLayer f k s) := by
  unfold requestLayer; try dsimp (iota := false) only
  repeat' with_reducible first | exact Keeps.refl _ | assumption | simp (iota := false) only [keeps_mk_iff] | refine Keeps.trans ?_ (keeps_intraRequest ..) | refine Keeps.trans ?_ (keeps_keyframeRequest ..) | split

theorem keeps_pauseItem (l : BitVec 16) (r : ItemRef) (s : State) : Keeps s (pauseItem l r s) := by
  unfold pauseItem; try dsimp (iota := false) only
  repeat' with_reducible first | exact Keeps.refl _ | assumption | simp (iota := false) only [keeps_mk_iff] | refine Keeps.trans ?_ (keeps_egrCnt ..) | refine Keeps.trans ?_ (keeps_egrEv ..) | refine Keeps.trans ?_ (keeps_ledger ..) | refine Keeps.trans ?_ (keeps_putItem ..) | refine Keeps.trans ?_ (keeps_raiseFrom ..) | split

theorem keeps_applyWant (l : BitVec 16) (r : ItemRef) (w : Option Cand) (s : State) : Keeps s (applyWant l r w s) := by
  unfold applyWant; try dsimp (iota := false) only
  repeat' with_reducible first | exact Keeps.refl _ | assumption | simp (iota := false) only [keeps_mk_iff] | refine Keeps.trans ?_ (keeps_ledger ..) | refine Keeps.trans ?_ (keeps_pauseItem ..) | refine Keeps.trans ?_ (keeps_putItem ..) | refine Keeps.trans ?_ (keeps_requestLayer ..) | split

theorem keeps_noteIdle (l : BitVec 16) (s : State) : Keeps s (noteIdle l s) := by
  unfold noteIdle; try dsimp (iota := false) only
  repeat' with_reducible first | exact Keeps.refl _ | assumption | simp (iota := false) only [keeps_mk_iff] | refine Keeps.trans ?_ (keeps_egrCnt ..) | refine Keeps.trans ?_ (keeps_egrEv ..) | refine Keeps.trans ?_ (keeps_forAll _ _ _ fun _ _ => ?_) | refine Keeps.trans ?_ (keeps_raiseOnce ..)

theorem keeps_evaluateReceiver (l : BitVec 16) (s : State) : Keeps s (evaluateReceiver l s) := by
  unfold evaluateReceiver; grind [Keeps, keeps_applyWant, keeps_forAll, keeps_noteIdle]

theorem keeps_entrySeq (e : SubEntry) (s : State) : Keeps s (entrySeq e s).2 := by
  unfold entrySeq; try dsimp (iota := false) only
  repeat' with_reducible first | exact Keeps.refl _ | assumption | refine Keeps.trans ?_ (keeps_drawLedger_eq (by assumption)) | split | refine Keeps.trans ?_ (keeps_drawLedger ..)

theorem keeps_entrySeq_eq {e : SubEntry} {s : State} {v1} {u1 : State} (h1 : entrySeq e s = (v1, u1)) : Keeps s u1 := by
  have kk := keeps_entrySeq e s
  rwa [h1] at kk

theorem keeps_entryDelta (l : BitVec 16) (ssrc ts : BitVec 32) (s : State) : Keeps s (entryDelta l ssrc ts s).2 := by
  unfold entryDelta; try dsimp (iota := false) only
  repeat' with_reducible first | exact Keeps.refl _ | assumption | refine Keeps.trans ?_ (keeps_drawLedger_eq (by assumption)) | split | refine Keeps.trans ?_ (keeps_drawLedger ..)

theorem keeps_entryDelta_eq {l : BitVec 16} {ssrc ts : BitVec 32} {s : State} {v1} {u1 : State} (h1 : entryDelta l ssrc ts s = (v1, u1)) : Keeps s u1 := by
  have kk := keeps_entryDelta l ssrc ts s
  rwa [h1] at kk

theorem keeps_noteTs (l : BitVec 16) (ssrc ts : BitVec 32) (s : State) : Keeps s (noteTs l ssrc ts s) := by
  unfold noteTs; try dsimp (iota := false) only
  repeat' with_reducible first | exact Keeps.refl _ | assumption | simp (iota := false) only [keeps_mk_iff] | refine Keeps.trans ?_ (keeps_modTx ..)

theorem keeps_sendForwarded (p : TxPacket) (s : State) : Keeps s (sendForwarded p s) := by
  unfold sendForwarded; try dsimp (iota := false) only
  repeat' with_reducible first | exact Keeps.refl _ | assumption | simp (iota := false) only [keeps_mk_iff] | refine Keeps.trans ?_ (keeps_draw_eq (by assumption)) | refine Keeps.trans ?_ (keeps_sendRtpAfter ..) | split | refine Keeps.trans ?_ (keeps_draw ..)

theorem keeps_sendEntry (l : BitVec 16) (r : ItemRef) (e : SubEntry) (fresh : Bool) (kind : TxKind) (p : Packet) (s : State) : Keeps s (sendEntry l r e fresh kind p s) := by
  unfold sendEntry; try dsimp (iota := false) only
  repeat' with_reducible first | exact Keeps.refl _ | assumption | refine Keeps.trans ?_ (keeps_entryDelta_eq (by assumption)) | refine Keeps.trans ?_ (keeps_entrySeq_eq (by assumption)) | refine Keeps.trans ?_ (keeps_noteTs ..) | refine Keeps.trans ?_ (keeps_putItem ..) | refine Keeps.trans ?_ (keeps_sendForwarded ..) | split | refine Keeps.trans ?_ (keeps_entryDelta ..) | refine Keeps.trans ?_ (keeps_entrySeq ..)

theorem keeps_countSwitch (l : BitVec 16) (s : State) : Keeps s (countSwitch l s) := by
  unfold countSwitch; try dsimp (iota := false) only
  repeat' with_reducible first | exact Keeps.refl _ | assumption | simp (iota := false) only [keeps_mk_iff] | refine Keeps.trans ?_ (keeps_egrCnt ..) | refine Keeps.trans ?_ (keeps_modTx ..)

theorem keeps_forwardItem (l : BitVec 16) (r : ItemRef) (f : Feed) (k t : Nat) (v : VInfo) (p : Packet) (s : State) : Keeps s (forwardItem l r f k t v p s) := by
  unfold forwardItem; try dsimp (iota := false) only
  repeat' with_reducible first | exact Keeps.refl _ | assumption | simp (iota := false) only [keeps_mk_iff] | refine Keeps.trans ?_ (keeps_countSwitch ..) | refine Keeps.trans ?_ (keeps_putItem ..) | refine Keeps.trans ?_ (keeps_sendEntry ..) | split

theorem keeps_forwardAudio (src : BitVec 16) (p : Packet) (s : State) : Keeps s (forwardAudio src p s) := by
  unfold forwardAudio; try dsimp (iota := false) only
  repeat' with_reducible first | exact Keeps.refl _ | assumption | simp (iota := false) only [keeps_mk_iff] | refine Keeps.trans ?_ (keeps_forAll _ _ _ fun _ _ => ?_) | refine Keeps.trans ?_ (keeps_sendEntry ..)

theorem keeps_forwardVideo (src : BitVec 16) (k t : Nat) (v : VInfo) (p : Packet) (s : State) : Keeps s (forwardVideo src k t v p s) := by
  unfold forwardVideo; try dsimp (iota := false) only
  repeat' with_reducible first | exact Keeps.refl _ | assumption | simp (iota := false) only [keeps_mk_iff] | refine Keeps.trans ?_ (keeps_forAll _ _ _ fun _ _ => ?_) | refine Keeps.trans ?_ (keeps_forwardItem ..) | split

theorem keeps_sendCoded (c : BitVec 16) (k t m : Nat) (intra : Bool) (payloads : List (List Byte)) (s : State) : Keeps s (sendCoded c k t m intra payloads s) := by
  unfold sendCoded; try dsimp (iota := false) only
  repeat' with_reducible first | exact Keeps.refl _ | assumption | simp (iota := false) only [keeps_mk_iff] | refine Keeps.trans ?_ (keeps_countSwitch ..) | refine Keeps.trans ?_ (keeps_forAll _ _ _ fun _ _ => ?_) | refine Keeps.trans ?_ (keeps_putItem ..) | refine Keeps.trans ?_ (keeps_sendEntry ..) | split

theorem keeps_sendOwnVideo (l : BitVec 16) (m : Nat) (payloads : List (List Byte)) (s : State) : Keeps s (sendOwnVideo l m payloads s) := by
  unfold sendOwnVideo; try dsimp (iota := false) only
  repeat' with_reducible first | exact Keeps.refl _ | assumption | simp (iota := false) only [keeps_mk_iff] | refine Keeps.trans ?_ (keeps_forAll _ _ _ fun _ _ => ?_) | refine Keeps.trans ?_ (keeps_nextSeqOf_eq (by assumption)) | refine Keeps.trans ?_ (keeps_sendRtp ..) | refine Keeps.trans ?_ (keeps_tsBaseOf_eq (by assumption)) | split | refine Keeps.trans ?_ (keeps_nextSeqOf ..) | refine Keeps.trans ?_ (keeps_tsBaseOf ..)

theorem keeps_dropItem (l : BitVec 16) (i : Nat) (s : State) : Keeps s (dropItem l i s) := by
  unfold dropItem; dsimp only
  split
  · apply keeps_ite
    · exact Keeps.refl s
    · split
      · exact (keeps_putItem ..).trans (keeps_countSwitch ..)
      · exact (keeps_putItem ..).trans (keeps_forAll _ _ _ fun a u => keeps_applyWant ..)
  · exact Keeps.refl s

theorem keeps_breakLayer (src : BitVec 16) (k t : Nat) (s : State) : Keeps s (breakLayer src k t s) := by
  unfold breakLayer; grind [Keeps, keeps_dropItem, keeps_forAll, keeps_keyframeRequest, keeps_modLayer]

theorem keeps_mendLayer (src : BitVec 16) (k t : Nat) (v : VInfo) (s : State) : Keeps s (mendLayer src k t v s) := by
  unfold mendLayer; try dsimp (iota := false) only
  repeat' with_reducible first | exact Keeps.refl _ | assumption | simp (iota := false) only [keeps_mk_iff] | refine Keeps.trans ?_ (keeps_forAll _ _ _ fun _ _ => ?_) | refine Keeps.trans ?_ (keeps_modLayer ..) | split

theorem keeps_routeKeyframe (l : BitVec 16) (ssrc : BitVec 32) (s : State) : Keeps s (routeKeyframe l ssrc s) := by
  unfold routeKeyframe; try dsimp (iota := false) only
  repeat' with_reducible first | exact Keeps.refl _ | assumption | simp (iota := false) only [keeps_mk_iff] | refine Keeps.trans ?_ (keeps_modTx ..) | refine Keeps.trans ?_ (keeps_requestLayer ..) | refine Keeps.trans ?_ (keeps_viewerRestart ..) | split

theorem keeps_ccFeedback (l : BitVec 16) (stamp : BitVec 32) (reports : List (BitVec 32 × BitVec 16 × Bool × BitVec 2 × BitVec 13)) (s : State) : Keeps s (ccFeedback l stamp reports s) := by
  unfold ccFeedback; try dsimp (iota := false) only
  repeat' with_reducible first | exact Keeps.refl _ | assumption | simp (iota := false) only [keeps_mk_iff] | refine Keeps.trans ?_ (keeps_modTx ..) | split

theorem keeps_rtcpItem (l : BitVec 16) (i : RtcpItem) (s : State) : Keeps s (rtcpItem l i s) := by
  unfold rtcpItem; try dsimp (iota := false) only
  repeat' with_reducible first | exact Keeps.refl _ | assumption | simp (iota := false) only [keeps_mk_iff] | refine Keeps.trans ?_ (keeps_answerNack ..) | refine Keeps.trans ?_ (keeps_ccFeedback ..) | refine Keeps.trans ?_ (keeps_modRx ..) | refine Keeps.trans ?_ (keeps_modTx ..) | refine Keeps.trans ?_ (keeps_routeKeyframe ..) | refine Keeps.trans ?_ (keeps_senderReport ..) | split

/-! ## Jitter -/

theorem keeps_mirrorAudio (l : BitVec 16) (seq : BitVec 16) (size : Nat) (s : State) : Keeps s (mirrorAudio l seq size s) := by
  unfold mirrorAudio; try dsimp (iota := false) only
  repeat' with_reducible first | exact Keeps.refl _ | assumption | simp (iota := false) only [keeps_mk_iff] | refine Keeps.trans ?_ (keeps_jbPoolAdd ..) | refine Keeps.trans ?_ (keeps_modJb ..) | split

theorem keeps_placeAudio (l : BitVec 16) (p : Packet) (arrival placed : BitVec 64) (size : Nat) (provisional : Bool) (forced : Option (BitVec 3)) (s : State) : Keeps s (placeAudio l p arrival placed size provisional forced s).2 := by
  unfold placeAudio; grind [Keeps, keeps_jbPoolSub, keeps_ledger, keeps_mirrorAudio, keeps_modLeg]

theorem keeps_placeAudio_eq {l : BitVec 16} {p : Packet} {arrival placed : BitVec 64} {size : Nat} {provisional : Bool} {forced : Option (BitVec 3)} {s : State} {v1} {u1 : State} (h1 : placeAudio l p arrival placed size provisional forced s = (v1, u1)) : Keeps s u1 := by
  have kk := keeps_placeAudio l p arrival placed size provisional forced s
  rwa [h1] at kk

theorem keeps_dropProvisional (l : BitVec 16) (seq : BitVec 16) (s : State) : Keeps s (dropProvisional l seq s) := by
  unfold dropProvisional; try dsimp (iota := false) only
  repeat' with_reducible first | exact Keeps.refl _ | assumption | simp (iota := false) only [keeps_mk_iff] | refine Keeps.trans ?_ (keeps_modJb ..)

theorem keeps_jbBoundary (l : BitVec 16) (mp : Nat) (s : State) : Keeps s (jbBoundary l mp s) := by
  unfold jbBoundary; grind [Keeps, keeps_jbPoolSub, keeps_ledger, keeps_modLeg, keeps_raiseFrom]

theorem keeps_jbStretch (l : BitVec 16) (s : State) : Keeps s (jbStretch l s) := by
  unfold jbStretch; try dsimp (iota := false) only
  repeat' with_reducible first | exact Keeps.refl _ | assumption | simp (iota := false) only [keeps_mk_iff] | refine Keeps.trans ?_ (keeps_modLeg ..)

/-! ## Ingress -/

theorem keeps_checkFail (d : Nat) (src : Byte) (code : BitVec 16) (l : BitVec 16) (sub : Nat) (s : State) : Keeps s (checkFail d src code l sub s) := by
  unfold checkFail; try dsimp (iota := false) only
  repeat' with_reducible first | exact Keeps.refl _ | assumption | simp (iota := false) only [keeps_mk_iff] | refine Keeps.trans ?_ (keeps_carryFail ..) | refine Keeps.trans ?_ (keeps_ingCnt ..) | refine Keeps.trans ?_ (keeps_ingEv ..) | refine Keeps.trans ?_ (keeps_modRx ..) | refine Keeps.trans ?_ (keeps_raiseFrom ..) | split

theorem keeps_carryFail (d : Nat) (l : BitVec 16) (sub : Nat) (s : State) : Keeps s (carryFail d l sub s) := by
  unfold carryFail; try dsimp (iota := false) only
  repeat' with_reducible first | exact Keeps.refl _ | assumption | simp (iota := false) only [keeps_mk_iff] | refine Keeps.trans ?_ (keeps_checkFail ..)

theorem keeps_blockFail (d : Nat) (src : Byte) (l : BitVec 16) (s : State) : Keeps s (blockFail d src l s) := by
  unfold blockFail; try dsimp (iota := false) only
  repeat' with_reducible first | exact Keeps.refl _ | assumption | simp (iota := false) only [keeps_mk_iff] | refine Keeps.trans ?_ (keeps_checkFail ..)

theorem keeps_stranger (d : Nat) (r : BitVec 4) (sub : Nat) (arrival : BitVec 64) (l : BitVec 16) (ssrc : BitVec 32) (raw : List Byte) (c0Ok : Bool) (s : State) : Keeps s (stranger d r sub arrival l ssrc raw c0Ok s) := by
  unfold stranger; grind [Keeps, keeps_carryFail, keeps_emit, keeps_ingCnt, keeps_ingEv, keeps_modDie, keeps_raiseFrom]

theorem keeps_strangerOnce (d : Nat) (r : BitVec 4) (obj : BitVec 64) (sub : Nat) (arrival : BitVec 64) (l : BitVec 16) (ssrc : BitVec 32) (raw : List Byte) (c0Ok : Bool) (s : State) : Keeps s (strangerOnce d r obj sub arrival l ssrc raw c0Ok s) := by
  unfold strangerOnce; grind [Keeps, keeps_rateNote, keeps_stranger]

theorem keeps_execIngStrHeadWrite (die : Nat) (v : Word) (s : State) : ∀ t, execIngStrHeadWrite die v s = .next t → Keeps s t := by
  unfold execIngStrHeadWrite; intro t h; try dsimp (iota := false) only at h
  repeat' split at h
  all_goals (injection h with h; subst h)
  all_goals repeat' with_reducible first | exact Keeps.refl _ | assumption | simp (iota := false) only [keeps_mk_iff] | refine Keeps.trans ?_ (keeps_modDie ..)

theorem keeps_execIngStrCfgWrite (die : Nat) (v : Word) (s : State) : ∀ t, execIngStrCfgWrite die v s = .next t → Keeps s t := by
  unfold execIngStrCfgWrite; intro t h; try dsimp (iota := false) only at h
  repeat' split at h
  all_goals (injection h with h; subst h)
  all_goals repeat' with_reducible first | exact Keeps.refl _ | assumption | simp (iota := false) only [keeps_mk_iff] | refine Keeps.trans ?_ (keeps_modDie ..)

theorem keeps_poolTakes (d : Nat) (l : BitVec 16) (jb marked : Bool) (len : Nat) (s : State) : Keeps s (poolTakes d l jb marked len s).2 := by
  unfold poolTakes; try dsimp (iota := false) only
  repeat' with_reducible first | exact Keeps.refl _ | assumption | refine Keeps.trans ?_ (keeps_ingCnt ..) | refine Keeps.trans ?_ (keeps_ingEv ..) | refine Keeps.trans ?_ (keeps_jbPoolAdd ..) | refine Keeps.trans ?_ (keeps_modDie ..) | refine Keeps.trans ?_ (keeps_pktPoolAdd ..) | refine Keeps.trans ?_ (keeps_raiseFrom ..) | split

theorem keeps_poolTakes_eq {d : Nat} {l : BitVec 16} {jb marked : Bool} {len : Nat} {s : State} {v1} {u1 : State} (h1 : poolTakes d l jb marked len s = (v1, u1)) : Keeps s u1 := by
  have kk := keeps_poolTakes d l jb marked len s
  rwa [h1] at kk

theorem keeps_homeArrive (l : BitVec 16) (r : RxPacket) (s : State) : Keeps s (homeArrive l r s) := by
  unfold homeArrive
  extract_lets d h ssrc pkt r'
  clear_value r'
  refine keeps_ite _ _ _ _ ((keeps_strangerOnce ..).trans (keeps_raiseOnce ..)) ?_
  refine keeps_ite _ _ _ _ ((keeps_modRx ..).trans (keeps_strangerOnce ..)) ?_
  refine keeps_ite _ _ _ _ ((keeps_modRx ..).trans (keeps_cipCnt ..)) ?_
  have k := keeps_poolTakes d l (toJb h r'.pkt) r'.marked r'.ipLen s
  generalize poolTakes d l (toJb h r'.pkt) r'.marked r'.ipLen s = q at k ⊢
  obtain ⟨ok, u⟩ := q
  refine keeps_ite _ _ _ _ k (k.trans ?_)
  clear k
  extract_lets r2 w pos f
  have k2 : Keeps u w := keeps_modDie ..
  clear_value w
  exact keeps_ite _ _ _ _ (keeps_ite _ _ _ _ (k2.trans (keeps_modJb ..)) k2) k2

theorem keeps_policeLeg (d : Nat) (l : BitVec 16) (arrival : BitVec 64) (len : Nat) (s : State) : Keeps s (policeLeg d l arrival len s).2 := by
  unfold policeLeg; dsimp only
  repeat' split
  all_goals first | exact Keeps.refl s | exact keeps_modRx .. | exact (keeps_modRx ..).trans (keeps_ingCnt ..)

theorem keeps_demux (d sub : Nat) (l : BitVec 16) (arrival : BitVec 64) (marked : Bool) (f : Frame) (s : State) : Keeps s (demux d sub l arrival marked f s) := by
  unfold demux; dsimp only
  refine keeps_ite _ _ _ _ (keeps_stranger ..) ?_
  refine keeps_ite _ _ _ _ (keeps_stranger ..) ?_
  refine keeps_ite _ _ _ _ (keeps_stranger ..) ?_
  exact keeps_ite _ _ _ _ (keeps_homeArrive ..) (Keeps.refl s)

theorem keeps_classify (d sub : Nat) (arrival : BitVec 64) (f : Frame) (s : State) : Keeps s (classify d sub arrival f s) := by
  unfold classify; grind [Keeps, keeps_demux, keeps_ingCnt, keeps_ledger, keeps_policeLeg, keeps_raiseOnce, keeps_stranger]

theorem keeps_execFrameReceive (die sub : Nat) (raw : BitVec 64) (f : Frame) (s : State) : ∀ t, execFrameReceive die sub raw f s = .next t → Keeps s t := by
  unfold execFrameReceive; intro t h
  extract_lets g arrival u at h
  split at h
  · cases h; exact Keeps.refl s
  have k : Keeps s u := (keeps_ingCntN ..).trans (keeps_ingCntN ..)
  refine k.trans ?_
  clear_value u
  repeat' split at h
  all_goals (injection h with h; subst h)
  all_goals first | exact Keeps.refl _ | exact keeps_ingCnt .. | exact keeps_stranger .. | exact keeps_classify .. | exact keeps_carryFail ..

theorem keeps_execLinkChange (die sub : Nat) (up : Bool) (s : State) : ∀ t, execLinkChange die sub up s = .next t → Keeps s t := by
  unfold execLinkChange; intro t h; try dsimp (iota := false) only at h
  repeat' split at h
  all_goals (injection h with h; subst h)
  all_goals repeat' with_reducible first | exact Keeps.refl _ | assumption | simp (iota := false) only [keeps_mk_iff] | refine Keeps.trans ?_ (keeps_ingEv ..) | refine Keeps.trans ?_ (keeps_modDie ..) | refine Keeps.trans ?_ (keeps_raiseFrom ..) | refine Keeps.trans ?_ (keeps_synceLinkChange ..)

theorem keeps_noteVideo (l : BitVec 16) (ssrc ts : BitVec 32) (arrival : BitVec 64) (s : State) : Keeps s (noteVideo l ssrc ts arrival s) := by
  unfold noteVideo; try dsimp (iota := false) only
  repeat' with_reducible first | exact Keeps.refl _ | assumption | simp (iota := false) only [keeps_mk_iff] | refine Keeps.trans ?_ (keeps_modRx ..)

theorem keeps_noteSeq (l : BitVec 16) (ssrc : BitVec 32) (seq : BitVec 16) (s : State) : Keeps s (noteSeq l ssrc seq s) := by
  unfold noteSeq; try dsimp (iota := false) only
  repeat' with_reducible first | exact Keeps.refl _ | assumption | simp (iota := false) only [keeps_mk_iff] | refine Keeps.trans ?_ (keeps_modRx ..)

theorem keeps_execNackTimer (leg : BitVec 16) (seq : BitVec 16) (s : State) : ∀ t, execNackTimer leg seq s = .next t → Keeps s t := by
  unfold execNackTimer; intro t h; try dsimp (iota := false) only at h
  repeat' split at h
  all_goals (injection h with h; subst h)
  all_goals repeat' with_reducible first | exact Keeps.refl _ | assumption | simp (iota := false) only [keeps_mk_iff] | refine Keeps.trans ?_ (keeps_advance ..) | refine Keeps.trans ?_ (keeps_modRx ..) | refine Keeps.trans ?_ (keeps_sendRtcp ..)

theorem keeps_mirrorVideo (l : BitVec 16) (ts : BitVec 32) (sp : BitVec 2) (len : Nat) (s : State) : Keeps s (mirrorVideo l ts sp len s) := by
  unfold mirrorVideo; try dsimp (iota := false) only
  repeat' with_reducible first | exact Keeps.refl _ | assumption | simp (iota := false) only [keeps_mk_iff] | refine Keeps.trans ?_ (keeps_modLeg ..) | refine Keeps.trans ?_ (keeps_pktPoolAdd ..) | split

theorem keeps_releaseVideo (l : BitVec 16) (k : Nat) (p : Packet) (len : Nat) (arrival : BitVec 64) (s : State) : Keeps s (releaseVideo l k p len arrival s) := by
  unfold releaseVideo; grind [Keeps, keeps_forwardVideo, keeps_mendLayer, keeps_mirrorVideo, keeps_modLeg, keeps_modRx, keeps_noteLayer, keeps_noteSeq, keeps_noteVideo, keeps_pktPoolSub]

theorem keeps_execVideoFrameTimeout (leg : BitVec 16) (spatial : BitVec 2) (ts : BitVec 32) (s : State) : ∀ t, execVideoFrameTimeout leg spatial ts s = .next t → Keeps s t := by
  unfold execVideoFrameTimeout; grind [Keeps, keeps_advanceToStamp, keeps_breakLayer, keeps_forAll, keeps_ledger, keeps_modLeg, keeps_pktPoolSub]

theorem keeps_releaseRtp (l : BitVec 16) (r : RxPacket) (p : Packet) (forced : Option (BitVec 3)) (s : State) : Keeps s (releaseRtp l r p forced s) := by
  unfold releaseRtp
  extract_lets d h free s1 placed s2 seq s3 q
  have kf : ∀ u, Keeps u (free u) := fun u => keeps_ite _ _ _ _ (keeps_jbPoolSub ..) (keeps_pktPoolSub ..)
  have k2 : Keeps s s2 := keeps_ledger ..
  have k3 : Keeps s2 s3 := keeps_noteSeq ..
  clear_value s2 s3 free
  refine keeps_ite _ _ _ _ ((keeps_modRx ..).trans (kf _)) ?_
  split
  · have k1 : Keeps s s1 := keeps_noteSeq ..
    have k2 := keeps_placeAudio l p r.arrival placed r.ipLen false forced s1
    generalize placeAudio l p r.arrival placed r.ipLen false forced s1 = q at k2 ⊢
    obtain ⟨v, u⟩ := q
    exact k1.trans (k2.trans ((keeps_ledger ..).trans (keeps_forwardAudio ..)))
  · split
    · exact k2.trans (keeps_releaseVideo ..)
    · refine k2.trans (keeps_ite _ _ _ _ ((keeps_modRx ..).trans (kf _)) (k3.trans ?_))
      exact keeps_ite _ _ _ _ ((keeps_modRx ..).trans (keeps_releaseVideo ..)) ((keeps_modRx ..).trans (kf _))

theorem keeps_releaseRtcp (l : BitVec 16) (r : RxPacket) (p : Packet) (s : State) : Keeps s (releaseRtcp l r p s) := by
  unfold releaseRtcp
  refine ((keeps_pktPoolSub ..).trans (keeps_forAll _ _ _ fun a u => keeps_rtcpItem ..)).trans (keeps_forAll _ _ _ fun a u => ?_)
  split
  · exact keeps_stranger ..
  · exact Keeps.refl _

theorem keeps_freePacket (l : BitVec 16) (r : RxPacket) (s : State) : Keeps s (freePacket l r s) := by
  unfold freePacket; try dsimp (iota := false) only
  repeat' with_reducible first | exact Keeps.refl _ | assumption | simp (iota := false) only [keeps_mk_iff] | refine Keeps.trans ?_ (keeps_dropProvisional ..) | refine Keeps.trans ?_ (keeps_jbPoolSub ..) | refine Keeps.trans ?_ (keeps_pktPoolSub ..) | split

theorem keeps_standbyRtp (r : RxPacket) (s : State) : Keeps s (standbyRtp r s) := by
  unfold standbyRtp; try dsimp (iota := false) only
  repeat' with_reducible first | exact Keeps.refl _ | assumption | simp (iota := false) only [keeps_mk_iff] | refine Keeps.trans ?_ (keeps_freePacket ..) | refine Keeps.trans ?_ (keeps_ledger ..) | refine Keeps.trans ?_ (keeps_modRx ..) | refine Keeps.trans ?_ (keeps_releaseRtp ..) | split

theorem keeps_execTagVerdict (die : Nat) (leg : BitVec 16) (v : Verdict) (s : State) : ∀ t, execTagVerdict die leg v s = .next t → Keeps s t := by
  unfold execTagVerdict; intro t h
  split at h
  · cases h; exact Keeps.refl s
  rename_i r _
  extract_lets hh u grace u1 u2 u3 p at h
  have k : Keeps s u := keeps_modDie ..
  refine k.trans ?_
  have k1 : Keeps u u1 := keeps_ite _ _ _ _ (keeps_cipCnt ..) (Keeps.refl _)
  have k2 : Keeps u1 u2 := keeps_ite _ _ _ _ (Keeps.refl _) (keeps_noteIndex ..)
  have k3 : Keeps u2 u3 := keeps_modRx ..
  clear_value u u1 u2 u3
  split at h
  · injection h with h; subst h; exact (keeps_carryFail ..).trans (keeps_freePacket ..)
  split at h
  · injection h with h; subst h
    exact (keeps_modRx ..).trans ((keeps_cipCnt ..).trans ((keeps_cipEv ..).trans ((keeps_raiseFrom ..).trans (keeps_freePacket ..))))
  split at h
  · injection h with h; subst h; exact (keeps_modRx ..).trans ((keeps_cipCnt ..).trans (keeps_freePacket ..))
  injection h with h; subst h
  exact k1.trans (k2.trans (k3.trans (keeps_ite _ _ _ _ (keeps_releaseRtcp ..) (keeps_ite _ _ _ _ (keeps_standbyRtp ..) (keeps_releaseRtp ..)))))

/-! ## VideoDecode -/

theorem keeps_bwAdd (d c est : Nat) (s : State) : Keeps s (bwAdd d c est s) := by
  unfold bwAdd; try dsimp (iota := false) only
  repeat' with_reducible first | exact Keeps.refl _ | assumption | simp (iota := false) only [keeps_mk_iff] | refine Keeps.trans ?_ (keeps_modDie ..)

theorem keeps_bwSub (d c est : Nat) (s : State) : Keeps s (bwSub d c est s) := by
  unfold bwSub; try dsimp (iota := false) only
  repeat' with_reducible first | exact Keeps.refl _ | assumption | simp (iota := false) only [keeps_mk_iff] | refine Keeps.trans ?_ (keeps_modDie ..)

theorem keeps_modPool (d : Nat) (f : Vdc → Vdc) (s : State) : Keeps s (modPool d f s) := by
  unfold modPool; try dsimp (iota := false) only
  repeat' with_reducible first | exact Keeps.refl _ | assumption | simp (iota := false) only [keeps_mk_iff] | refine Keeps.trans ?_ (keeps_modDie ..)

theorem keeps_openDec (d i : Nat) (x : DecCtx) (s : State) : Keeps s (openDec d i x s) := by
  unfold openDec; try dsimp (iota := false) only
  repeat' with_reducible first | exact Keeps.refl _ | assumption | refine Keeps.trans ?_ (keeps_bwAdd ..) | refine Keeps.trans ?_ (keeps_modDie ..) | refine Keeps.trans ?_ (keeps_modPool ..) | split

theorem keeps_execDecOpen (c : Cmd) (s : State) : ∀ t, execDecOpen c s = .next t → Keeps s t := by
  unfold execDecOpen; intro t h; cases h; apply keeps_runCmd; intro u; grind [Keeps, keeps_openDec, keeps_runCmd, keeps_startMp]

theorem keeps_execDecClose (c : Cmd) (s : State) : ∀ t, execDecClose c s = .next t → Keeps s t := by
  unfold execDecClose; intro t h; cases h; apply keeps_runCmd; intro u; grind [Keeps, keeps_modDec, keeps_runCmd]

theorem keeps_execDecKeyreq (c : Cmd) (s : State) : ∀ t, execDecKeyreq c s = .next t → Keeps s t := by
  unfold execDecKeyreq; intro t h; cases h; apply keeps_runCmd; intro u; grind [Keeps, keeps_keyframeRequest, keeps_runCmd]

theorem keeps_closeDec (k : BitVec 16) (moved : Option (BitVec 16)) (s : State) : Keeps s (closeDec k moved s) := by
  unfold closeDec; try dsimp (iota := false) only
  repeat' with_reducible first | exact Keeps.refl _ | assumption | refine Keeps.trans ?_ (keeps_bwSub ..) | refine Keeps.trans ?_ (keeps_modDec ..) | refine Keeps.trans ?_ (keeps_modDie ..) | refine Keeps.trans ?_ (keeps_modPool ..) | split

theorem keeps_bridgeCloseDec (k : BitVec 16) (s : State) : Keeps s (bridgeCloseDec k s) := by
  unfold bridgeCloseDec; grind [Keeps, keeps_closeDec, keeps_postCompletion]

theorem keeps_dropFrames (k : BitVec 16) (ts : BitVec 32) (s : State) : Keeps s (dropFrames k ts s) := by
  unfold dropFrames; try dsimp (iota := false) only
  repeat' with_reducible first | exact Keeps.refl _ | assumption | simp (iota := false) only [keeps_mk_iff] | refine Keeps.trans ?_ (keeps_modLeg ..) | refine Keeps.trans ?_ (keeps_pktPoolSub ..)

theorem keeps_noBuffer (k : BitVec 16) (ts : BitVec 32) (s : State) : Keeps s (noBuffer k ts s) := by
  unfold noBuffer; try dsimp (iota := false) only
  repeat' with_reducible first | exact Keeps.refl _ | assumption | simp (iota := false) only [keeps_mk_iff] | refine Keeps.trans ?_ (keeps_ledger ..) | refine Keeps.trans ?_ (keeps_modDec ..) | refine Keeps.trans ?_ (keeps_raiseFrom ..) | refine Keeps.trans ?_ (keeps_vdcCnt ..) | refine Keeps.trans ?_ (keeps_vdcEv ..)

theorem keeps_trimPics (k : BitVec 16) (s : State) : Keeps s (trimPics k s) := by
  unfold trimPics; try dsimp (iota := false) only
  repeat' with_reducible first | exact Keeps.refl _ | assumption | simp (iota := false) only [keeps_mk_iff] | refine Keeps.trans ?_ (keeps_modDec ..) | refine Keeps.trans ?_ (keeps_modPool ..)

theorem keeps_execVideoFrameRelease (ctx : BitVec 16) (ts : BitVec 32) (s : State) : ∀ t, execVideoFrameRelease ctx ts s = .next t → Keeps s t := by
  unfold execVideoFrameRelease; intro t h
  extract_lets x d ssrc fs u w p at h
  split at h
  · injection h with h; subst h; exact Keeps.refl s
  have k : Keeps s u := by
    change Keeps s (match videoRelease s x.leg ssrc ts with | some t => s.advanceToStamp d t | none => s)
    split
    · exact keeps_advanceToStamp ..
    · exact Keeps.refl s
  refine k.trans ?_
  have kw : Keeps u w := keeps_trimPics ..
  clear_value u w
  split at h
  · injection h with h; subst h; exact keeps_dropFrames ..
  refine kw.trans ?_
  split at h
  · injection h with h; subst h; exact (keeps_noBuffer ..).trans (keeps_dropFrames ..)
  split at h
  · injection h with h; subst h
    exact (keeps_ite _ _ _ _ (keeps_modLeg ..) (keeps_noBuffer ..)).trans (keeps_dropFrames ..)
  extract_lets q sp pic lent at h
  injection h with h; subst h
  exact (keeps_draw w).trans ((keeps_modDec ..).trans ((keeps_modPool ..).trans (keeps_dropFrames ..)))

theorem keeps_markLate (k : BitVec 16) (p : Pic) (s : State) : Keeps s (markLate k p s) := by
  unfold markLate; try dsimp (iota := false) only
  repeat' with_reducible first | exact Keeps.refl _ | assumption | simp (iota := false) only [keeps_mk_iff] | refine Keeps.trans ?_ (keeps_ledger ..) | refine Keeps.trans ?_ (keeps_modDec ..) | refine Keeps.trans ?_ (keeps_raiseOnce ..) | refine Keeps.trans ?_ (keeps_vdcCnt ..) | refine Keeps.trans ?_ (keeps_vdcEv ..)

theorem keeps_execPictureLate (ctx : BitVec 16) (pid : Nat) (s : State) : ∀ t, execPictureLate ctx pid s = .next t → Keeps s t := by
  unfold execPictureLate; intro t h; try dsimp (iota := false) only at h
  repeat' split at h
  all_goals (injection h with h; subst h)
  all_goals repeat' with_reducible first | exact Keeps.refl _ | assumption | simp (iota := false) only [keeps_mk_iff] | refine Keeps.trans ?_ (keeps_advance ..) | refine Keeps.trans ?_ (keeps_markLate ..)

theorem keeps_storeBuf (d : Nat) (b : PicBuf) (bytes : List Byte) (s : State) : Keeps s (storeBuf d b bytes s) := by
  unfold storeBuf; try dsimp (iota := false) only
  repeat' with_reducible first | exact Keeps.refl _ | assumption | simp (iota := false) only [keeps_mk_iff] | refine Keeps.trans ?_ (keeps_modDie ..)

theorem keeps_storeStandIn (k : BitVec 16) (q : Pic) (layer w h : Nat) (s : State) : Keeps s (storeStandIn k q layer w h s) := by
  unfold storeStandIn; try dsimp (iota := false) only
  repeat' with_reducible first | exact Keeps.refl _ | assumption | simp (iota := false) only [keeps_mk_iff] | refine Keeps.trans ?_ (keeps_forAll _ _ _ fun _ _ => ?_) | refine Keeps.trans ?_ (keeps_storeBuf ..)

theorem keeps_fenceUp (d : Nat) (f : Option Nat) (s : State) : Keeps s (fenceUp d f s) := by
  unfold fenceUp; try dsimp (iota := false) only
  repeat' with_reducible first | exact Keeps.refl _ | assumption | simp (iota := false) only [keeps_mk_iff] | refine Keeps.trans ?_ (keeps_modDie ..) | split

theorem keeps_picFaults (k : BitVec 16) (bs unsup : Bool) (s : State) : Keeps s (picFaults k bs unsup s) := by
  unfold picFaults; try dsimp (iota := false) only
  repeat' with_reducible first | exact Keeps.refl _ | assumption | simp (iota := false) only [keeps_mk_iff] | refine Keeps.trans ?_ (keeps_modDec ..) | refine Keeps.trans ?_ (keeps_raiseOnce ..) | refine Keeps.trans ?_ (keeps_vdcCnt ..) | refine Keeps.trans ?_ (keeps_vdcEv ..) | split

theorem keeps_useStandIns (k : BitVec 16) (n : Nat) (sp t : Nat) (s : State) : Keeps s (useStandIns k n sp t s) := by
  unfold useStandIns; grind [Keeps, keeps_breakLayer, keeps_forAll, keeps_modDec, keeps_raiseOnce, keeps_vdcCnt, keeps_vdcEv]

theorem keeps_execPictureDecodeDone (ctx : BitVec 16) (p : PicInfo) (s : State) : ∀ t, execPictureDecodeDone ctx p s = .next t → Keeps s t := by
  unfold execPictureDecodeDone; intro t h
  extract_lets x d ssrc absent n refTaint at h
  split at h
  · extract_lets overdue s1 unsup s2 bad refresh taint s3 s4 s5 s6 w hh s7 done mp cores s8 at h
    injection h with h; subst h
    have k1 : Keeps s s1 := keeps_ite _ _ _ _ (keeps_markLate ..) (Keeps.refl s)
    have k2 : Keeps s1 s2 := keeps_ite _ _ _ _ (Keeps.refl _) (keeps_checkFail ..)
    have k3 : Keeps s2 s3 := keeps_picFaults ..
    have k4 : Keeps s3 s4 := keeps_useStandIns ..
    have k5 : Keeps s4 s5 := keeps_ite _ _ _ _ (keeps_keyframeRequest ..) (Keeps.refl _)
    have k6 : Keeps s5 s6 := keeps_ite _ _ _ _ (keeps_clearKf ..) (Keeps.refl _)
    have k7 : Keeps s6 s7 := keeps_ite _ _ _ _ (keeps_storeStandIn ..) (keeps_forAll _ _ _ fun a u => keeps_storeBuf ..)
    have k8 : Keeps s7 s8 := keeps_modDec ..
    exact k1.trans (k2.trans (k3.trans (k4.trans (k5.trans (k6.trans (k7.trans (k8.trans
      ((keeps_vdcCnt ..).trans ((keeps_fenceUp ..).trans (keeps_trimPics ..))))))))))
  · injection h with h; subst h; exact Keeps.refl s

theorem keeps_stripeFail (k : BitVec 16) (stripe : Nat) (s : State) : Keeps s (stripeFail k stripe s) := by
  unfold stripeFail
  extract_lets x u
  have k1 : Keeps s u := keeps_blockFail ..
  clear_value u x
  split
  · exact Keeps.refl s
  refine keeps_ite _ _ _ _ (Keeps.refl s) (k1.trans ?_)
  extract_lets u2 u3 u4
  have k2 : Keeps u u2 := keeps_useStandIns ..
  have k3 : Keeps u2 u3 := keeps_keyframeRequest ..
  have k4 : Keeps u3 u4 := keeps_ite _ _ _ _ (Keeps.refl _) (keeps_storeStandIn ..)
  exact k2.trans (k3.trans (k4.trans (keeps_modDec ..)))

theorem keeps_decBoundary (d b : Nat) (s : State) : Keeps s (decBoundary d b s) := by
  unfold decBoundary; grind [Keeps, keeps_closeDec, keeps_forAll, keeps_modDie]

/-! ## Encode -/

theorem keeps_encAdd (d enc ana bw : Nat) (s : State) : Keeps s (encAdd d enc ana bw s) := by
  unfold encAdd; generalize splitLoad s d enc ana = p; obtain ⟨e, a⟩ := p; exact (keeps_modDie ..).trans (keeps_bwAdd ..)

theorem keeps_encSub (d enc ana bw : Nat) (s : State) : Keeps s (encSub d enc ana bw s) := by
  unfold encSub; generalize splitLoad s d enc ana = p; obtain ⟨e, a⟩ := p; exact (keeps_modDie ..).trans (keeps_bwSub ..)

theorem keeps_openEnc (d i : Nat) (x : EncCtx) (s : State) : Keeps s (openEnc d i x s) := by
  unfold openEnc; try dsimp (iota := false) only
  repeat' with_reducible first | exact Keeps.refl _ | assumption | simp (iota := false) only [keeps_mk_iff] | refine Keeps.trans ?_ (keeps_encAdd ..) | refine Keeps.trans ?_ (keeps_modDie ..)

theorem keeps_closeEnc (c : BitVec 16) (moved : Option (BitVec 16)) (s : State) : Keeps s (closeEnc c moved s) := by
  unfold closeEnc; grind [Keeps, keeps_encSub, keeps_modEnc]

theorem keeps_execEncOpen (c : Cmd) (s : State) : ∀ t, execEncOpen c s = .next t → Keeps s t := by
  unfold execEncOpen; intro t h; cases h; apply keeps_runCmd; intro u; grind [Keeps, keeps_openEnc, keeps_runCmd]

theorem keeps_onEnc (c : Cmd) (ok : EncCtx → Bool) (body : State → State) (s : State) (h : Keeps s (body s)) : Keeps s (onEnc c ok body s).2 := by
  unfold onEnc; dsimp only; repeat' split
  all_goals first | exact h | exact Keeps.refl s

theorem keeps_execEncClose (c : Cmd) (s : State) : ∀ t, execEncClose c s = .next t → Keeps s t := by
  unfold execEncClose; intro t h; cases h; apply keeps_runCmd; intro u; grind [Keeps, keeps_modEnc, keeps_onEnc, keeps_runCmd]

theorem keeps_execEncRate (c : Cmd) (s : State) : ∀ t, execEncRate c s = .next t → Keeps s t := by
  unfold execEncRate; intro t h; cases h; apply keeps_runCmd; intro u; grind [Keeps, keeps_forAll, keeps_modEnc, keeps_onEnc, keeps_runCmd]

theorem keeps_execEncKey (c : Cmd) (s : State) : ∀ t, execEncKey c s = .next t → Keeps s t := by
  unfold execEncKey; intro t h; cases h; apply keeps_runCmd; intro u; grind [Keeps, keeps_intraRequest, keeps_onEnc, keeps_runCmd]

theorem keeps_endRung (c : BitVec 16) (m : Nat) (k : Nat) (s : State) : Keeps s (endRung c m k s) := by
  unfold endRung; grind [Keeps, keeps_forAll, keeps_modEnc, keeps_raiseOnce, keeps_sendCoded, keeps_venCnt, keeps_venEv]

theorem keeps_endPicture (c : BitVec 16) (m : Nat) (s : State) : Keeps s (endPicture c m s) := by
  unfold endPicture; grind [Keeps, keeps_endRung, keeps_forAll, keeps_modEnc, keeps_venCnt]

theorem keeps_keyIntRequests (c : BitVec 16) (s : State) : Keeps s (keyIntRequests c s) := by
  unfold keyIntRequests; try dsimp (iota := false) only
  repeat' with_reducible first | exact Keeps.refl _ | assumption | simp (iota := false) only [keeps_mk_iff] | refine Keeps.trans ?_ (keeps_forAll _ _ _ fun _ _ => ?_) | refine Keeps.trans ?_ (keeps_intraRequest ..) | split

theorem keeps_beginPicture (c : BitVec 16) (n : Nat) (src : Option SrcPic) (fail : Bool) (s : State) : Keeps s (beginPicture c n src fail s) := by
  unfold beginPicture; grind [Keeps, keeps_keyIntRequests, keeps_modEnc, keeps_raiseFrom, keeps_venCnt, keeps_venEv]

theorem keeps_encTick (c : BitVec 16) (m : Nat) (src : Option SrcPic) (fail : Bool) (s : State) : Keeps s (encTick c m src fail s) := by
  unfold encTick; grind [Keeps, keeps_beginPicture, keeps_closeEnc, keeps_endPicture]

theorem keeps_transcodeTick (d m : Nat) (failed : List (BitVec 16)) (s : State) : Keeps s (transcodeTick d m failed s) := by
  unfold transcodeTick; try dsimp (iota := false) only
  repeat' with_reducible first | exact Keeps.refl _ | assumption | simp (iota := false) only [keeps_mk_iff] | refine Keeps.trans ?_ (keeps_encTick ..) | refine Keeps.trans ?_ (keeps_forAll _ _ _ fun _ _ => ?_) | refine Keeps.trans ?_ (keeps_trimPics ..)

theorem keeps_execLateDryGuard (ctx : BitVec 16) (rung row : Nat) (s : State) : ∀ t, execLateDryGuard ctx rung row s = .next t → Keeps s t := by
  unfold execLateDryGuard; grind [Keeps, keeps_advanceTo, keeps_ledger, keeps_modEnc, keeps_raiseFrom, keeps_venEv]

theorem keeps_encReports (d b : Nat) (s : State) : Keeps s (encReports d b s) := by
  unfold encReports; try dsimp (iota := false) only
  repeat' with_reducible first | exact Keeps.refl _ | assumption | simp (iota := false) only [keeps_mk_iff] | refine Keeps.trans ?_ (keeps_modDie ..)

/-! ## Seam -/

theorem keeps_toBoundary (s : State) : Keeps s (State.toBoundary s) := by
  unfold State.toBoundary; try dsimp (iota := false) only
  repeat' with_reducible first | exact Keeps.refl _ | assumption | simp (iota := false) only [keeps_mk_iff] | refine Keeps.trans ?_ (keeps_advanceTo ..)

theorem keeps_refreshSea (s : State) : Keeps s (refreshSea s) := by
  unfold refreshSea; try dsimp (iota := false) only
  repeat' with_reducible first | exact Keeps.refl _ | assumption | simp (iota := false) only [keeps_mk_iff] | refine Keeps.trans ?_ (keeps_forAll _ _ _ fun _ _ => ?_) | refine Keeps.trans ?_ (keeps_modDie ..)

theorem keeps_modSlotOf (v : BitVec 16) (i : Nat) (f : SeamSlot → SeamSlot) (s : State) : Keeps s (modSlotOf v i f s) := by
  unfold modSlotOf; try dsimp (iota := false) only
  repeat' with_reducible first | exact Keeps.refl _ | assumption | simp (iota := false) only [keeps_mk_iff] | refine Keeps.trans ?_ (keeps_modLeg ..)

theorem keeps_spliceSlot (v lay : BitVec 16) (i : Nat) (x : SlotDef) (s : State) : Keeps s (spliceSlot v lay i x s) := by
  unfold spliceSlot; grind [Keeps, keeps_modSlotOf, keeps_raiseAnyOnce, keeps_seaCnt, keeps_seaEv, keeps_tileIntra]

theorem keeps_startMosaic (v lay : BitVec 16) (s : State) : Keeps s (startMosaic v lay s) := by
  unfold startMosaic; try dsimp (iota := false) only
  repeat' with_reducible first | exact Keeps.refl _ | assumption | simp (iota := false) only [keeps_mk_iff] | refine Keeps.trans ?_ (keeps_modLeg ..)

theorem keeps_emitMosaic (v lay : BitVec 16) (idr : Bool) (s : State) : Keeps s (emitMosaic v lay idr s) := by
  unfold emitMosaic; try dsimp (iota := false) only
  repeat' with_reducible first | exact Keeps.refl _ | assumption | simp (iota := false) only [keeps_mk_iff] | refine Keeps.trans ?_ (keeps_emit ..) | refine Keeps.trans ?_ (keeps_modLeg ..) | refine Keeps.trans ?_ (keeps_seaCnt ..) | refine Keeps.trans ?_ (keeps_sendOwnVideo ..) | split

theorem keeps_spliceViewer (v lay : BitVec 16) (s : State) : Keeps s (spliceViewer v lay s) := by
  unfold spliceViewer; grind [Keeps, keeps_emitMosaic, keeps_forAll, keeps_modLeg, keeps_spliceSlot, keeps_startMosaic, keeps_startViewer]

theorem keeps_execSeamStartWaitExpiry (leg : BitVec 16) (s : State) : ∀ t, execSeamStartWaitExpiry leg s = .next t → Keeps s t := by
  unfold execSeamStartWaitExpiry; grind [Keeps, keeps_advanceMs, keeps_emitMosaic, keeps_forAll, keeps_raiseAny, keeps_seaCnt, keeps_seaEv, keeps_startMosaic]

theorem keeps_startTile (lay : BitVec 16) (t : BitVec 16 × BitVec 32) (s : State) : Keeps s (startTile lay t s) := by
  unfold startTile; grind [Keeps, keeps_modDie, keeps_openEnc]

theorem keeps_stopTiles (lay : BitVec 16) (keep : List (BitVec 16 × BitVec 32)) (s : State) : Keeps s (stopTiles lay keep s) := by
  unfold stopTiles
  refine Keeps.trans (keeps_forAll _ _ _ fun t u => ?_) (keeps_modDie ..)
  split
  · exact keeps_closeEnc ..
  · exact Keeps.refl u

theorem keeps_seamBoundary (lay : BitVec 16) (m : Nat) (failed : List (BitVec 16)) (s : State) : Keeps s (seamBoundary lay m failed s) := by
  unfold seamBoundary; grind [Keeps, keeps_encTick, keeps_forAll, keeps_modDie, keeps_modLeg, keeps_spliceViewer, keeps_startTile, keeps_stopTiles]

theorem keeps_execTilePictureReceive (die i : Nat) (t : TilePic) (s : State) : ∀ t', execTilePictureReceive die i t s = .next t' → Keeps s t' := by
  unfold execTilePictureReceive; intro t' h; try dsimp (iota := false) only at h
  repeat' split at h
  all_goals (injection h with h; subst h)
  all_goals repeat' with_reducible first | exact Keeps.refl _ | assumption | simp (iota := false) only [keeps_mk_iff] | refine Keeps.trans ?_ (keeps_modTile ..) | refine Keeps.trans ?_ (keeps_raiseAnyOnce ..) | refine Keeps.trans ?_ (keeps_seaCnt ..) | refine Keeps.trans ?_ (keeps_seaEv ..)

/-! ## Gallery -/

theorem keeps_execLayoutAlloc (c : Cmd) (s : State) : ∀ t, execLayoutAlloc c s = .next t → Keeps s t := by
  unfold execLayoutAlloc; intro t h; cases h; apply keeps_runCmd; intro u; grind [Keeps, keeps_modLay, keeps_runCmd]

theorem keeps_execLayoutFree (c : Cmd) (s : State) : ∀ t, execLayoutFree c s = .next t → Keeps s t := by
  unfold execLayoutFree; intro t h; cases h; apply keeps_runCmd; intro u; grind [Keeps, keeps_modLay, keeps_runCmd]

theorem keeps_execFlip (c : Cmd) (s : State) : ∀ t, execFlip c s = .next t → Keeps s t := by
  unfold execFlip; intro t h; cases h; apply keeps_runCmd; intro u
  dsimp only
  split
  · exact Keeps.refl u
  · exact (keeps_forAll _ _ _ fun a u => keeps_modLay ..).trans (keeps_modDie ..)

theorem keeps_execFenceBind (c : Cmd) (s : State) : ∀ t, execFenceBind c s = .next t → Keeps s t := by
  unfold execFenceBind; intro t h; cases h; apply keeps_runCmd; intro u; grind [Keeps, keeps_modDec, keeps_runCmd]

theorem keeps_fenceSet (d i : Nat) (new : BitVec 32) (s : State) : Keeps s (fenceSet d i new s) := by
  unfold fenceSet; try dsimp (iota := false) only
  repeat' with_reducible first | exact Keeps.refl _ | assumption | simp (iota := false) only [keeps_mk_iff] | refine Keeps.trans ?_ (keeps_modDie ..) | split

theorem keeps_execGalFenceWrite (die i : Nat) (v : Word) (s : State) : ∀ t, execGalFenceWrite die i v s = .next t → Keeps s t := by
  unfold execGalFenceWrite; intro t h; try dsimp (iota := false) only at h
  repeat' split at h
  all_goals (injection h with h; subst h)
  all_goals repeat' with_reducible first | exact Keeps.refl _ | assumption | simp (iota := false) only [keeps_mk_iff] | refine Keeps.trans ?_ (keeps_fenceSet ..)

theorem keeps_dropLayLoad (l : BitVec 16) (s : State) : Keeps s (dropLayLoad l s) := by
  unfold dropLayLoad; grind [Keeps, keeps_bwSub, keeps_encSub, keeps_modDie, keeps_modPool]

theorem keeps_addLayLoad (l : BitVec 16) (n : LayLoad) (s : State) : Keeps s (addLayLoad l n s) := by
  unfold addLayLoad; grind [Keeps, keeps_bwAdd, keeps_encAdd, keeps_modDie, keeps_modLay, keeps_modPool]

theorem keeps_commitLayout (l : BitVec 16) (s : State) : Keeps s (commitLayout l s) := by
  unfold commitLayout
  extract_lets old u new
  have k : Keeps s u := keeps_modLay ..
  clear_value u
  refine k.trans (keeps_ite _ _ _ _ (keeps_ite _ _ _ _ (keeps_stopTiles ..) (keeps_ite _ _ _ _ (keeps_forAll _ _ _ fun v w => ?_) (Keeps.refl u)))
    (keeps_ite _ _ _ _ (keeps_modLay ..) (Keeps.refl u)))
  exact keeps_ite _ _ _ _ (keeps_startViewer ..) (Keeps.refl w)

theorem keeps_commitGroup (hs : List (BitVec 16 × LayLoad)) (s : State) : Keeps s (commitGroup hs s) := by
  unfold commitGroup; grind [Keeps, keeps_addLayLoad, keeps_commitLayout, keeps_dropLayLoad, keeps_forAll, keeps_refreshSea]

theorem keeps_commitFlip (d : Nat) (g : FlipGroup) (m : Nat) (s : State) : Keeps s (commitFlip d g m s) := by
  unfold commitFlip; grind [Keeps, keeps_commitGroup, keeps_endFlip, keeps_galCnt, keeps_ledger]

theorem keeps_cancelDue (die : Nat) (g : FlipGroup) (m : Nat) (s : State) : Keeps s (cancelDue die g m s) := by
  unfold cancelDue; try dsimp (iota := false) only
  repeat' with_reducible first | exact Keeps.refl _ | assumption | simp (iota := false) only [keeps_mk_iff] | refine Keeps.trans ?_ (keeps_cancelFlip ..) | refine Keeps.trans ?_ (keeps_ledger ..)

theorem keeps_failFlip (die : Nat) (g : FlipGroup) (st : BitVec 8) (s : State) : Keeps s (failFlip die g st s) := by
  unfold failFlip; grind [Keeps, keeps_endFlip, keeps_galEv, keeps_raiseAny]

theorem keeps_evalFlip (die : Nat) (g : FlipGroup) (due here : Bool) (m : Nat) (s : State) : Keeps s (evalFlip die g due here m s) := by
  unfold evalFlip; grind [Keeps, keeps_cancelDue, keeps_commitFlip, keeps_failFlip]

theorem keeps_execFlipEvaluate (die i : Nat) (atDeadline : Bool) (s : State) : ∀ t, execFlipEvaluate die i atDeadline s = .next t → Keeps s t := by
  unfold execFlipEvaluate; intro t h; try dsimp (iota := false) only at h
  repeat' split at h
  all_goals (injection h with h; subst h)
  all_goals repeat' with_reducible first | exact Keeps.refl _ | assumption | simp (iota := false) only [keeps_mk_iff] | refine Keeps.trans ?_ (keeps_evalFlip ..) | refine Keeps.trans ?_ (keeps_toBoundary ..)

theorem keeps_reportLayers (d : Nat) (x : Layout) (ls : List LayerNow) (s : State) : Keeps s (reportLayers d x ls s) := by
  unfold reportLayers; try dsimp (iota := false) only
  repeat' with_reducible first | exact Keeps.refl _ | assumption | simp (iota := false) only [keeps_mk_iff] | refine Keeps.trans ?_ (keeps_forAll _ _ _ fun _ _ => ?_) | refine Keeps.trans ?_ (keeps_galCnt ..) | refine Keeps.trans ?_ (keeps_galEv ..) | refine Keeps.trans ?_ (keeps_raiseAny ..) | split

theorem keeps_takeCoefs (d : Nat) (s : State) : Keeps s (takeCoefs d s) := by
  unfold takeCoefs; try dsimp (iota := false) only
  repeat' with_reducible first | exact Keeps.refl _ | assumption | simp (iota := false) only [keeps_mk_iff] | refine Keeps.trans ?_ (keeps_modDie ..) | split

theorem keeps_finishCanvas (l : BitVec 16) (late : Bool) (s : State) : Keeps s (finishCanvas l late s) := by
  unfold finishCanvas; try dsimp (iota := false) only
  repeat' with_reducible first | exact Keeps.refl _ | assumption | simp (iota := false) only [keeps_mk_iff] | refine Keeps.trans ?_ (keeps_galCnt ..) | refine Keeps.trans ?_ (keeps_galEv ..) | refine Keeps.trans ?_ (keeps_modLay ..) | refine Keeps.trans ?_ (keeps_raiseAny ..) | split

theorem keeps_beginCanvas (l : BitVec 16) (m : Nat) (s : State) : Keeps s (beginCanvas l m s) := by
  unfold beginCanvas; try dsimp (iota := false) only
  repeat' with_reducible first | exact Keeps.refl _ | assumption | simp (iota := false) only [keeps_mk_iff] | refine Keeps.trans ?_ (keeps_modDie ..) | refine Keeps.trans ?_ (keeps_modLay ..) | refine Keeps.trans ?_ (keeps_reportLayers ..) | refine Keeps.trans ?_ (keeps_takeCoefs ..)

theorem keeps_galleryTick (l : BitVec 16) (m : Nat) (failed : List (BitVec 16)) (s : State) : Keeps s (galleryTick l m failed s) := by
  unfold galleryTick; try dsimp (iota := false) only
  repeat' with_reducible first | exact Keeps.refl _ | assumption | simp (iota := false) only [keeps_mk_iff] | refine Keeps.trans ?_ (keeps_encTick ..) | refine Keeps.trans ?_ (keeps_forAll _ _ _ fun _ _ => ?_)

theorem keeps_execPictureBoundary (die idx : Nat) (late : Bool) (failed : List (BitVec 16)) (s : State) : ∀ t, execPictureBoundary die idx late failed s = .next t → Keeps s t := by
  unfold execPictureBoundary; grind [Keeps, keeps_beginCanvas, keeps_finishCanvas, keeps_forAll, keeps_galleryTick, keeps_seamBoundary, keeps_toBoundary, keeps_trimPics]

/-! ## Audio -/

theorem keeps_decodeLegMp (l : BitVec 16) (s : State) : Keeps s (decodeLegMp l s).2 := by
  unfold decodeLegMp; try dsimp (iota := false) only
  repeat' with_reducible first | exact Keeps.refl _ | assumption | simp (iota := false) only [keeps_mk_iff] | refine Keeps.trans ?_ (keeps_draw_eq (by assumption)) | refine Keeps.trans ?_ (keeps_modLeg ..) | split | refine Keeps.trans ?_ (keeps_draw ..)

theorem keeps_decodeLegMp_eq {l : BitVec 16} {s : State} {v1} {u1 : State} (h1 : decodeLegMp l s = (v1, u1)) : Keeps s u1 := by
  have kk := keeps_decodeLegMp l s
  rwa [h1] at kk

theorem keeps_endLegMp (l : BitVec 16) (s : State) : Keeps s (endLegMp l s).2 := by
  unfold endLegMp; grind [Keeps, keeps_decodeLegMp, keeps_jbStretch, keeps_modAud]

theorem keeps_endLegMp_eq {l : BitVec 16} {s : State} {v1} {u1 : State} (h1 : endLegMp l s = (v1, u1)) : Keeps s u1 := by
  have kk := keeps_endLegMp l s
  rwa [h1] at kk

theorem keeps_selectTalkers (c : BitVec 16) (b : Nat) (s : State) : Keeps s (selectTalkers c b s) := by
  unfold selectTalkers
  extract_lets x k act el last0 scored active s1 last1 pinned held t0 t gone changed s3 s4
  have k1 : Keeps s s1 := keeps_forAll _ _ _ fun a u => keeps_modAud ..
  have k3 : Keeps s1 s3 := keeps_forAll _ _ _ fun a u => keeps_modAud ..
  have k4 : Keeps s3 s4 := keeps_ite _ _ _ _ (keeps_mixCnt ..) (Keeps.refl _)
  exact k1.trans (k3.trans (k4.trans (keeps_modConf ..)))

/-! ## AudioMp -/

theorem keeps_noteClamps (d : Nat) (c : BitVec 16) (n : Nat) (s : State) : Keeps s (noteClamps d c n s) := by
  unfold noteClamps; try dsimp (iota := false) only
  repeat' with_reducible first | exact Keeps.refl _ | assumption | simp (iota := false) only [keeps_mk_iff] | refine Keeps.trans ?_ (keeps_forAll _ _ _ fun _ _ => ?_) | refine Keeps.trans ?_ (keeps_mixCnt ..) | refine Keeps.trans ?_ (keeps_mixEv ..) | refine Keeps.trans ?_ (keeps_modConf ..) | refine Keeps.trans ?_ (keeps_raiseOnce ..) | split

theorem keeps_limitedMp (c : BitVec 16) (x : MixedMp) (gains : Nat → List Nat) (s : State) : Keeps s (limitedMp c x gains s).2 := by
  unfold limitedMp; try dsimp (iota := false) only
  repeat' with_reducible first | exact Keeps.refl _ | assumption | simp (iota := false) only [keeps_mk_iff] | refine Keeps.trans ?_ (keeps_forAll _ _ _ fun _ _ => ?_) | refine Keeps.trans ?_ (keeps_modConf ..) | refine Keeps.trans ?_ (keeps_noteClamps ..)

theorem keeps_limitedMp_eq {c : BitVec 16} {x : MixedMp} {gains : Nat → List Nat} {s : State} {v1} {u1 : State} (h1 : limitedMp c x gains s = (v1, u1)) : Keeps s u1 := by
  have kk := keeps_limitedMp c x gains s
  rwa [h1] at kk

theorem keeps_mixConf (c : BitVec 16) (m : Nat) (parts : List (BitVec 16 × List Sample)) (s : State) : Keeps s (mixConf c m parts s).2 := by
  unfold mixConf; try dsimp (iota := false) only
  repeat' with_reducible first | exact Keeps.refl _ | assumption | refine Keeps.trans ?_ (keeps_limitedMp_eq (by assumption)) | refine Keeps.trans ?_ (keeps_modConf ..) | split | refine Keeps.trans ?_ (keeps_limitedMp ..)

theorem keeps_digestTdm (m : Nat) (s : State) : Keeps s (digestTdm m s) := by
  unfold digestTdm; try dsimp (iota := false) only
  repeat' with_reducible first | exact Keeps.refl _ | assumption | simp (iota := false) only [keeps_mk_iff] | refine Keeps.trans ?_ (keeps_digestBytes ..) | refine Keeps.trans ?_ (keeps_forAll _ _ _ fun _ _ => ?_) | split

theorem keeps_writeOutBlocks (m : Nat) (outs : List (Nat × Int)) (s : State) : Keeps s (writeOutBlocks m outs s) := by
  unfold writeOutBlocks; try dsimp (iota := false) only
  repeat' with_reducible first | exact Keeps.refl _ | assumption | simp (iota := false) only [keeps_mk_iff] | refine Keeps.trans ?_ (keeps_mapDies ..)

theorem keeps_missingInputs (c : BitVec 16) (m : Nat) (s : State) : Keeps s (missingInputs c m s) := by
  unfold missingInputs; try dsimp (iota := false) only
  repeat' with_reducible first | exact Keeps.refl _ | assumption | simp (iota := false) only [keeps_mk_iff] | refine Keeps.trans ?_ (keeps_forAll _ _ _ fun _ _ => ?_) | refine Keeps.trans ?_ (keeps_mixCnt ..) | refine Keeps.trans ?_ (keeps_mixEv ..) | refine Keeps.trans ?_ (keeps_raiseFrom ..)

theorem keeps_raiseMix (d : Nat) (code : BitVec 16) (l c : BitVec 16) (s : State) : Keeps s (raiseMix d code l c s) := by
  unfold raiseMix; try dsimp (iota := false) only
  repeat' with_reducible first | exact Keeps.refl _ | assumption | simp (iota := false) only [keeps_mk_iff] | refine Keeps.trans ?_ (keeps_draw_eq (by assumption)) | refine Keeps.trans ?_ (keeps_raiseFrom ..) | split | refine Keeps.trans ?_ (keeps_draw ..)

theorem keeps_encodeLate (l : BitVec 16) (s : State) : Keeps s (encodeLate l s) := by
  unfold encodeLate; try dsimp (iota := false) only
  repeat' with_reducible first | exact Keeps.refl _ | assumption | simp (iota := false) only [keeps_mk_iff] | refine Keeps.trans ?_ (keeps_mixCnt ..) | refine Keeps.trans ?_ (keeps_mixEv ..) | refine Keeps.trans ?_ (keeps_raiseMix ..)

theorem keeps_setShared (c : BitVec 16) (d : Nat) (k : EncCfg) (v : BitVec 64) (s : State) : Keeps s (setShared c d k v s) := by
  unfold setShared; try dsimp (iota := false) only
  repeat' with_reducible first | exact Keeps.refl _ | assumption | simp (iota := false) only [keeps_mk_iff] | refine Keeps.trans ?_ (keeps_modConf ..)

theorem keeps_sendFrame (l : BitVec 16) (m : Nat) (e : EncCfg) (late : Bool) (samples : List Sample) (v : BitVec 64) (s : State) : Keeps s (sendFrame l m e late samples v s) := by
  unfold sendFrame; try dsimp (iota := false) only
  repeat' with_reducible first | exact Keeps.refl _ | assumption | simp (iota := false) only [keeps_mk_iff] | refine Keeps.trans ?_ (keeps_nextSeqOf_eq (by assumption)) | refine Keeps.trans ?_ (keeps_sendRtpAfter ..) | refine Keeps.trans ?_ (keeps_tsBaseOf_eq (by assumption)) | split | refine Keeps.trans ?_ (keeps_nextSeqOf ..) | refine Keeps.trans ?_ (keeps_tsBaseOf ..)

theorem keeps_codeFrame (c l : BitVec 16) (m : Nat) (e : EncCfg) (own : Bool) (samples : List Sample) (codes : Coded) (s : State) : Keeps s (codeFrame c l m e own samples codes s).2 := by
  unfold codeFrame
  extract_lets d k late v v1 v2 v3
  split
  · exact (keeps_modTx ..).trans ((keeps_ite _ _ _ _ (keeps_encodeLate ..) (Keeps.refl _)).trans (keeps_sendFrame ..))
  · split
    · exact keeps_sendFrame ..
    · exact (keeps_ite _ _ _ _ (keeps_encodeLate ..) (Keeps.refl _)).trans ((keeps_setShared ..).trans (keeps_sendFrame ..))

theorem keeps_codeFrame_eq {c l : BitVec 16} {m : Nat} {e : EncCfg} {own : Bool} {samples : List Sample} {codes : Coded} {s : State} {v1} {u1 : State} (h1 : codeFrame c l m e own samples codes s = (v1, u1)) : Keeps s u1 := by
  have kk := keeps_codeFrame c l m e own samples codes s
  rwa [h1] at kk

theorem keeps_encodeNext (c : BitVec 16) (m : Nat) (outs : List (Nat × OutSt)) (codes : Coded) (e : BitVec 16 × EncCfg) (s : State) : Keeps s (encodeNext c m outs codes e s).2 := by
  unfold encodeNext
  extract_lets l n at_ t
  split
  · exact Keeps.refl s
  extract_lets minus own block acc whole u
  have k : Keeps s u := keeps_modTx ..
  clear_value u
  split
  · exact k.trans (keeps_codeFrame ..)
  · exact k

theorem keeps_encodeNext_eq {c : BitVec 16} {m : Nat} {outs : List (Nat × OutSt)} {codes : Coded} {e : BitVec 16 × EncCfg} {s : State} {v1} {u1 : State} (h1 : encodeNext c m outs codes e s = (v1, u1)) : Keeps s u1 := by
  have kk := keeps_encodeNext c m outs codes e s
  rwa [h1] at kk

theorem keeps_encodeConf (c : BitVec 16) (m : Nat) (listeners : List (BitVec 16 × EncCfg)) (outs : List (Nat × OutSt)) (s : State) : Keeps s (encodeConf c m listeners outs s) := by
  exact keeps_foldl _ _ _ _ fun acc a => keeps_encodeNext ..

theorem keeps_lateBlock (l : BitVec 16) (b : List Sample) (s : State) : Keeps s (lateBlock l b s).2 := by
  unfold lateBlock; try dsimp (iota := false) only
  repeat' with_reducible first | exact Keeps.refl _ | assumption | refine Keeps.trans ?_ (keeps_mixCnt ..) | refine Keeps.trans ?_ (keeps_mixEv ..) | refine Keeps.trans ?_ (keeps_modAud ..) | refine Keeps.trans ?_ (keeps_raiseMix ..) | split

theorem keeps_lateBlock_eq {l : BitVec 16} {b : List Sample} {s : State} {v1} {u1 : State} (h1 : lateBlock l b s = (v1, u1)) : Keeps s u1 := by
  have kk := keeps_lateBlock l b s
  rwa [h1] at kk

theorem keeps_endLegNext (parts : List (BitVec 16 × List Sample)) (l : BitVec 16) (s : State) : Keeps s (endLegNext parts l s).2 := by
  unfold endLegNext; grind [Keeps, keeps_endLegMp, keeps_lateBlock]

theorem keeps_endLegNext_eq {parts : List (BitVec 16 × List Sample)} {l : BitVec 16} {s : State} {v1} {u1 : State} (h1 : endLegNext parts l s = (v1, u1)) : Keeps s u1 := by
  have kk := keeps_endLegNext parts l s
  rwa [h1] at kk

theorem keeps_mixNext (m : Nat) (parts : List (BitVec 16 × List Sample)) (outs : List (Nat × Int)) (c : BitVec 16) (s : State) : Keeps s (mixNext m parts outs c s).2 := by
  unfold mixNext; grind [Keeps, keeps_encodeConf, keeps_missingInputs, keeps_mixConf]

theorem keeps_mixNext_eq {m : Nat} {parts : List (BitVec 16 × List Sample)} {outs : List (Nat × Int)} {c : BitVec 16} {s : State} {v1} {u1 : State} (h1 : mixNext m parts outs c s = (v1, u1)) : Keeps s u1 := by
  have kk := keeps_mixNext m parts outs c s
  rwa [h1] at kk

theorem keeps_audioEnd (m : Nat) (s : State) : Keeps s (audioEnd m s) := by
  unfold audioEnd
  extract_lets p q
  have k1 : Keeps s p.2 := keeps_foldl _ _ _ _ fun acc a => keeps_endLegNext ..
  have k2 : Keeps p.2 q.2 := keeps_foldl _ _ _ _ fun acc a => keeps_mixNext ..
  exact k1.trans (k2.trans ((keeps_writeOutBlocks ..).trans ((keeps_digestTdm ..).trans (keeps_tdmPutOut ..))))

theorem keeps_startLegMp (b : Nat) (l : BitVec 16) (s : State) : Keeps s (startLegMp b l s) := by
  unfold startLegMp; try dsimp (iota := false) only
  repeat' with_reducible first | exact Keeps.refl _ | assumption | simp (iota := false) only [keeps_mk_iff] | refine Keeps.trans ?_ (keeps_jbBoundary ..) | refine Keeps.trans ?_ (keeps_modAud ..)

theorem keeps_leaveLegMp (b : Nat) (l : BitVec 16) (s : State) : Keeps s (leaveLegMp b l s) := by
  unfold leaveLegMp; try dsimp (iota := false) only
  repeat' with_reducible first | exact Keeps.refl _ | assumption | simp (iota := false) only [keeps_mk_iff] | refine Keeps.trans ?_ (keeps_modLeg ..)

theorem keeps_audioStart (b : Nat) (s : State) : Keeps s (audioStart b s) := by
  unfold audioStart
  extract_lets s1 s2 s3 s4 s5
  have k1 : Keeps s s1 := keeps_forAll _ _ _ fun a u => keeps_startLegMp ..
  have k2 : Keeps s1 s2 := keeps_forAll _ _ _ fun a u => keeps_selectTalkers ..
  have k3 : Keeps s2 s3 := keeps_forAll _ _ _ fun a u => keeps_leaveLegMp ..
  have k4 : Keeps s3 s4 := keeps_forAll _ _ _ fun a u => keeps_modAud ..
  have k5 : Keeps s4 s5 := keeps_forAll _ _ _ fun a u => keeps_modConf ..
  exact k1.trans (k2.trans (k3.trans (k4.trans (k5.trans (keeps_forAll _ _ _ fun a u => (keeps_draw u).trans (keeps_modDie ..))))))

theorem keeps_setDb (isConf : Bool) (id : BitVec 16) (f : Option Doorbell → Option Doorbell) (g : List Doorbell → List Doorbell) (s : State) : Keeps s (setDb isConf id f g s) := by
  unfold setDb; grind [Keeps, keeps_modConf, keeps_modLeg]

theorem keeps_ringEntry (isConf : Bool) (id : BitVec 16) (db : Doorbell) (s : State) : Keeps s (ringEntry isConf id db s) := by
  unfold ringEntry; grind [Keeps, keeps_setDb]

theorem keeps_endBell (isConf : Bool) (id : BitVec 16) (db : Doorbell) (status : BitVec 8) (s : State) : Keeps s (endBell isConf id db status s) := by
  unfold endBell; try dsimp (iota := false) only
  repeat' with_reducible first | exact Keeps.refl _ | assumption | simp (iota := false) only [keeps_mk_iff] | refine Keeps.trans ?_ (keeps_finishCmd ..) | refine Keeps.trans ?_ (keeps_postCompletion ..) | split

theorem keeps_execSafeLoad (c : Cmd) (s : State) : ∀ t, execSafeLoad c s = .next t → Keeps s t := by
  unfold execSafeLoad; intro t h; cases h; apply keeps_runCmd; intro u; grind [Keeps, keeps_ringEntry, keeps_runCmd]

theorem keeps_finishSafeLoad (isConf : Bool) (id : BitVec 16) (s : State) : Keeps s (finishSafeLoad isConf id s) := by
  unfold finishSafeLoad; grind [Keeps, keeps_endBell, keeps_mixCnt, keeps_setDb]

theorem keeps_execSafeLoadApply (die : Nat) (isConf : Bool) (idx : Nat) (s : State) : ∀ t, execSafeLoadApply die isConf idx s = .next t → Keeps s t := by
  unfold execSafeLoadApply; intro t h; try dsimp (iota := false) only at h
  repeat' split at h
  all_goals (injection h with h; subst h)
  all_goals repeat' with_reducible first | exact Keeps.refl _ | assumption | simp (iota := false) only [keeps_mk_iff] | refine Keeps.trans ?_ (keeps_advanceTo ..) | refine Keeps.trans ?_ (keeps_finishSafeLoad ..)

end Sys2Proof.Machine
end

