-- ==== Sys2Proof/Laws/KeepsTables.lean ====
section
/-! SUPPORT. That every operation of the machine keeps what `Keeps` says: tables, keys, moves and the Hoist. One lemma for each
operation that changes the state, cited wherever that operation is called. -/

namespace Sys2Proof.Machine

/-! ## Tables -/

theorem keeps_rangeError (d f : Nat) (s : State) : Keeps s (rangeError d f s) := by
  unfold rangeError; try dsimp (iota := false) only
  repeat' with_reducible first | exact Keeps.refl _ | assumption | simp (iota := false) only [keeps_mk_iff] | refine Keeps.trans ?_ (keeps_raiseAny ..)

theorem keeps_tableWrite (f : Nat) (fuel a : Nat) (x1 : List Byte) (s : State) : Keeps s (tableWrite f fuel a x1 s) := by
  fun_induction tableWrite f fuel a x1 s <;> grind [Keeps, keeps_raiseFrom, keeps_rangeError, tabWf_tset, tabWf_wipe, tabWf_wr64, tabWf_wrBytes]

theorem keeps_execBar2TableWrite (func off : Nat) (bytes : List Byte) (s : State) : ∀ t, execBar2TableWrite func off bytes s = .next t → Keeps s t := by
  unfold execBar2TableWrite; intro t h; try dsimp (iota := false) only at h
  repeat' split at h
  all_goals (injection h with h; subst h)
  all_goals repeat' with_reducible first | exact Keeps.refl _ | assumption | simp (iota := false) only [keeps_mk_iff] | refine Keeps.trans ?_ (keeps_tableWrite ..)

theorem keeps_publishStats (b : Nat) (s : State) : Keeps s (publishStats b s) := by
  unfold publishStats; try dsimp (iota := false) only
  repeat' with_reducible first | exact Keeps.refl _ | assumption | simp (iota := false) only [keeps_mk_iff] | refine Keeps.trans ?_ (keeps_forAll _ _ _ fun _ _ => ?_) | refine Keeps.trans ?_ (keeps_modLeg ..) | split

theorem keeps_execBar2StagingWrite (func off : Nat) (acc : StageAccess) (s : State) : ∀ t, execBar2StagingWrite func off acc s = .next t → Keeps s t := by
  unfold execBar2StagingWrite; intro t h; try dsimp (iota := false) only at h
  repeat' split at h
  all_goals (injection h with h; subst h)
  all_goals repeat' with_reducible first | exact Keeps.refl _ | assumption | simp (iota := false) only [keeps_mk_iff] | refine Keeps.trans ?_ (keeps_modDie ..) | refine Keeps.trans ?_ (keeps_raiseFrom ..)

theorem keeps_execTableDoorbell (func : Nat) (v : Word) (s : State) : ∀ t, execTableDoorbell func v s = .next t → Keeps s t := by
  unfold execTableDoorbell; intro t h; try dsimp (iota := false) only at h
  repeat' split at h
  all_goals (injection h with h; subst h)
  all_goals repeat' with_reducible first | exact Keeps.refl _ | assumption | simp (iota := false) only [keeps_mk_iff] | refine Keeps.trans ?_ (keeps_postCompletion ..) | refine Keeps.trans ?_ (keeps_ringEntry ..)

/-! ## Keys -/

theorem keeps_sealSlots (s : State) : Keeps s (sealSlots s) := by
  unfold sealSlots; try dsimp (iota := false) only
  repeat' with_reducible first | exact Keeps.refl _ | assumption | simp (iota := false) only [keeps_mk_iff]

theorem keeps_fillSlot (k : BitVec 16) (ktype : Nat) (usage : BitVec 6) (v : BitVec 512) (s : State) : Keeps s (fillSlot k ktype usage v s) := by
  unfold fillSlot; grind [Keeps, keeps_modSlot, keeps_sealSlots]

theorem keeps_wrBuffer (off : Nat) (bs : List Byte) (s : State) : Keeps s (wrBuffer off bs s) := by
  unfold wrBuffer; try dsimp (iota := false) only
  repeat' with_reducible first | exact Keeps.refl _ | assumption | simp (iota := false) only [keeps_mk_iff] | refine Keeps.trans ?_ (keeps_modDie ..) | split

theorem keeps_execKeyAlloc (c : Cmd) (s : State) : ∀ t, execKeyAlloc c s = .next t → Keeps s t := by
  unfold execKeyAlloc; intro t h; cases h; apply keeps_runCmd; intro u; grind [Keeps, keeps_modSlot, keeps_runCmd]

theorem keeps_execKeyFree (c : Cmd) (s : State) : ∀ t, execKeyFree c s = .next t → Keeps s t := by
  unfold execKeyFree; intro t h; cases h; apply keeps_runCmd; intro u; grind [Keeps, keeps_modSlot, keeps_runCmd, keeps_sealSlots]

theorem keeps_execKeyUnwrap (c : Cmd) (s : State) : ∀ t, execKeyUnwrap c s = .next t → Keeps s t := by
  unfold execKeyUnwrap; intro t h; cases h; apply keeps_runCmd; intro u
  extract_lets k off b key opened t' persist was u1 u2 u3
  have k1 : Keeps u u1 := keeps_modSlot ..
  have k2 : Keeps u1 u2 := keeps_ite _ _ _ _ (keeps_modSlot ..) (Keeps.refl _)
  clear_value u1 u2 opened
  split
  · exact Keeps.refl u
  split
  · exact keeps_raise ..
  split
  · exact keeps_raise ..
  · exact k1.trans (k2.trans ((keeps_fillSlot ..).trans (keeps_ite _ _ _ _ (keeps_sealSlots ..) (Keeps.refl _))))

theorem keeps_drawWide (s : State) : Keeps s (drawWide s).2 := by
  unfold drawWide; try dsimp (iota := false) only
  repeat' with_reducible first | exact Keeps.refl _ | assumption | refine Keeps.trans ?_ (keeps_draw_eq (by assumption)) | split | refine Keeps.trans ?_ (keeps_draw ..)

theorem keeps_drawWide_eq {s : State} {v1} {u1 : State} (h1 : drawWide s = (v1, u1)) : Keeps s u1 := by
  have kk := keeps_drawWide s
  rwa [h1] at kk

theorem keeps_execKeyGen (c : Cmd) (s : State) : ∀ t, execKeyGen c s = .next t → Keeps s t := by
  unfold execKeyGen; intro t h; cases h; apply keeps_runCmd; intro u; grind [Keeps, keeps_drawWide, keeps_fillSlot, keeps_runCmd, keeps_wrBuffer]

theorem keeps_execKeyAgree (c : Cmd) (s : State) : ∀ t, execKeyAgree c s = .next t → Keeps s t := by
  unfold execKeyAgree; intro t h; cases h; apply keeps_runCmd; intro u; grind [Keeps, keeps_fillSlot, keeps_runCmd]

theorem keeps_execKeyDerive (c : Cmd) (s : State) : ∀ t, execKeyDerive c s = .next t → Keeps s t := by
  unfold execKeyDerive; intro t h; cases h; apply keeps_runCmd; intro u; grind [Keeps, keeps_fillSlot, keeps_runCmd]

theorem keeps_execKeyFinished (c : Cmd) (s : State) : ∀ t, execKeyFinished c s = .next t → Keeps s t := by
  unfold execKeyFinished; intro t h; cases h; apply keeps_runCmd; intro u; grind [Keeps, keeps_runCmd, keeps_wrBuffer]

theorem keeps_execKeyExportSrtp (c : Cmd) (s : State) : ∀ t, execKeyExportSrtp c s = .next t → Keeps s t := by
  unfold execKeyExportSrtp; intro t h; cases h; apply keeps_runCmd; intro u; grind [Keeps, keeps_fillSlot, keeps_runCmd]

theorem keeps_execKeyCopy (c : Cmd) (s : State) : ∀ t, execKeyCopy c s = .next t → Keeps s t := by
  unfold execKeyCopy; intro t h; cases h; apply keeps_runCmd; intro u; grind [Keeps, keeps_modSlot, keeps_runCmd, keeps_sealSlots]

theorem keeps_execKeyRewrap (c : Cmd) (s : State) : ∀ t, execKeyRewrap c s = .next t → Keeps s t := by
  unfold execKeyRewrap; intro t h; cases h; apply keeps_runCmd; intro u; grind [Keeps, keeps_runCmd, keeps_sealSlots]

theorem keeps_execOwnerEnroll (c : Cmd) (s : State) : ∀ t, execOwnerEnroll c s = .next t → Keeps s t := by
  unfold execOwnerEnroll; intro t h; cases h; apply keeps_runCmd; intro u; grind [Keeps, keeps_runCmd]

/-! ## Adopt -/

theorem keeps_frameC2Fail (l : BitVec 16) (s : State) : Keeps s (frameC2Fail l s) := by
  unfold frameC2Fail; try dsimp (iota := false) only
  repeat' with_reducible first | exact Keeps.refl _ | assumption | simp (iota := false) only [keeps_mk_iff] | refine Keeps.trans ?_ (keeps_checkFail ..) | refine Keeps.trans ?_ (keeps_draw_eq (by assumption)) | refine Keeps.trans ?_ (keeps_jbPoolSub ..) | refine Keeps.trans ?_ (keeps_modLeg ..) | split | refine Keeps.trans ?_ (keeps_draw ..)

theorem keeps_endMp (b : Nat) (s : State) : Keeps s (endMp b s) := by
  unfold endMp
  refine keeps_ite _ _ _ _ (Keeps.refl s) ?_
  extract_lets u v w
  have k1 : Keeps s u := keeps_forAll _ _ _ fun a u => keeps_frameC2Fail ..
  have k2 : Keeps u v := keeps_forAll _ _ _ fun a u => keeps_ite _ _ _ _ ((keeps_modLeg ..).trans (keeps_blockFail ..)) (Keeps.refl u)
  have k : Keeps s w := by
    change Keeps s (match s.lastMp with | some m => audioEnd m v | none => s)
    split
    · exact k1.trans (k2.trans (keeps_audioEnd ..))
    · exact Keeps.refl s
  clear_value w
  exact (keeps_mk_iff s w ..).2 k

theorem keeps_sendByes (l : BitVec 16) (old new : LegHalf) (s : State) : Keeps s (sendByes l old new s) := by
  unfold sendByes; try dsimp (iota := false) only
  repeat' with_reducible first | exact Keeps.refl _ | assumption | simp (iota := false) only [keeps_mk_iff] | refine Keeps.trans ?_ (keeps_forAll _ _ _ fun _ _ => ?_) | refine Keeps.trans ?_ (keeps_sendRtcp ..) | split

theorem keeps_closeDecs (l : BitVec 16) (old new : LegHalf) (s : State) : Keeps s (closeDecs l old new s) := by
  unfold closeDecs; try dsimp (iota := false) only
  repeat' with_reducible first | exact Keeps.refl _ | assumption | simp (iota := false) only [keeps_mk_iff] | refine Keeps.trans ?_ (keeps_bridgeCloseDec ..) | refine Keeps.trans ?_ (keeps_forAll _ _ _ fun _ _ => ?_)

theorem keeps_emptyLeg (l : BitVec 16) (s : State) : Keeps s (emptyLeg l s) := by
  unfold emptyLeg; try dsimp (iota := false) only
  repeat' with_reducible first | exact Keeps.refl _ | assumption | simp (iota := false) only [keeps_mk_iff] | refine Keeps.trans ?_ (keeps_jbPoolSub ..) | refine Keeps.trans ?_ (keeps_modLeg ..) | refine Keeps.trans ?_ (keeps_pktPoolSub ..)

theorem keeps_setLegLoad (l : BitVec 16) (n : Nat) (s : State) : Keeps s (setLegLoad l n s) := by
  unfold setLegLoad; try dsimp (iota := false) only
  repeat' with_reducible first | exact Keeps.refl _ | assumption | simp (iota := false) only [keeps_mk_iff] | refine Keeps.trans ?_ (keeps_bwAdd ..) | refine Keeps.trans ?_ (keeps_bwSub ..) | refine Keeps.trans ?_ (keeps_modLeg ..)

theorem keeps_cacheMp (s : State) : Keeps s (cacheMp s) := by
  unfold cacheMp; try dsimp (iota := false) only
  repeat' with_reducible first | exact Keeps.refl _ | assumption | simp (iota := false) only [keeps_mk_iff] | refine Keeps.trans ?_ (keeps_forAll _ _ _ fun _ _ => ?_) | refine Keeps.trans ?_ (keeps_modDie ..)

theorem keeps_flipLeg (l : BitVec 16) (b smp : Nat) (s : State) : Keeps s (flipLeg l b smp s) := by
  unfold flipLeg; grind [Keeps, keeps_closeDecs, keeps_emptyLeg, keeps_excludeLeg, keeps_modDie, keeps_modLeg, keeps_sendByes, keeps_setLegLoad, keeps_setTarget]

theorem keeps_flipConf (c : BitVec 16) (smp : Nat) (s : State) : Keeps s (flipConf c smp s) := by
  unfold flipConf; try dsimp (iota := false) only
  repeat' with_reducible first | exact Keeps.refl _ | assumption | simp (iota := false) only [keeps_mk_iff] | refine Keeps.trans ?_ (keeps_modConf ..)

theorem keeps_refreshLoads (s : State) : Keeps s (refreshLoads s) := by
  unfold refreshLoads; try dsimp (iota := false) only
  repeat' with_reducible first | exact Keeps.refl _ | assumption | refine Keeps.trans ?_ (keeps_forAll _ _ _ fun _ _ => ?_) | refine Keeps.trans ?_ (keeps_modDie ..) | refine Keeps.trans ?_ (keeps_refreshSea ..) | split

theorem keeps_withShadow (isConf : Bool) (id : BitVec 16) (s : State) : Keeps s (withShadow isConf id s) := by
  unfold withShadow; grind [Keeps, keeps_modConf, keeps_modLeg, keeps_setLegLoad]

theorem keeps_adoptEntry (isConf : Bool) (id : BitVec 16) (b : Nat) (sample : Option (BitVec 6)) (s : State) : Keeps s (adoptEntry isConf id b sample s) := by
  unfold adoptEntry; grind [Keeps, keeps_flipConf, keeps_flipLeg, keeps_ledger, keeps_refreshLoads]

theorem keeps_dropBell (e : DueBell) (s : State) : Keeps s (dropBell e s) := by
  unfold dropBell; try dsimp (iota := false) only
  repeat' with_reducible first | exact Keeps.refl _ | assumption | simp (iota := false) only [keeps_mk_iff] | refine Keeps.trans ?_ (keeps_setDb ..) | split

theorem keeps_endDue (b : Nat) (st : BitVec 8) (e : DueBell) (s : State) : Keeps s (endDue b st e s) := by
  unfold endDue; try dsimp (iota := false) only
  repeat' with_reducible first | exact Keeps.refl _ | assumption | simp (iota := false) only [keeps_mk_iff] | refine Keeps.trans ?_ (keeps_adoptEntry ..) | refine Keeps.trans ?_ (keeps_dropBell ..) | refine Keeps.trans ?_ (keeps_endBell ..) | refine Keeps.trans ?_ (keeps_modDie ..) | refine Keeps.trans ?_ (keeps_setDb ..) | split

theorem keeps_adoptUpTo (m b : Nat) (s : State) : Keeps s (adoptUpTo m b s) := by
  unfold adoptUpTo; try dsimp (iota := false) only
  repeat' with_reducible first | exact Keeps.refl _ | assumption | simp (iota := false) only [keeps_mk_iff] | refine Keeps.trans ?_ (keeps_endDue ..) | refine Keeps.trans ?_ (keeps_forAll _ _ _ fun _ _ => ?_)

theorem keeps_execEntryAdoption (die : Nat) (isConf : Bool) (idx : Nat) (s : State) : ∀ t, execEntryAdoption die isConf idx s = .next t → Keeps s t := by
  unfold execEntryAdoption; grind [Keeps, keeps_adoptUpTo, keeps_advanceTo, keeps_endMp]

theorem keeps_endBadBells (b : Nat) (s : State) : Keeps s (endBadBells b s) := by
  unfold endBadBells; try dsimp (iota := false) only
  repeat' with_reducible first | exact Keeps.refl _ | assumption | simp (iota := false) only [keeps_mk_iff] | refine Keeps.trans ?_ (keeps_endBell ..) | refine Keeps.trans ?_ (keeps_forAll _ _ _ fun _ _ => ?_)

/-! ## BootLoad -/

theorem keeps_finishLoad (b : Nat) (img : ImageDef) (s : State) : ∀ t, finishLoad b img s = .ok t → Keeps s t := by
  unfold finishLoad; grind [Keeps, keeps_armMpStart, keeps_forAll, keeps_loadDie, keeps_loadPair, keeps_loadServo, keeps_mapDies, keeps_servoEval]

theorem keeps_bootSecondBank (b : Nat) (s : State) : Keeps s (bootSecondBank b s) := by
  unfold bootSecondBank; dsimp only
  split
  · grind [Keeps, keeps_rejectBoot]
  · split
    · split
      · grind [Keeps, keeps_rejectBoot]
      · rename_i h
        have := keeps_finishLoad _ _ _ _ h
        grind [Keeps]
    · grind [Keeps]

theorem keeps_bootFailed (e : BitVec 16 × Nat) (s : State) : Keeps s (bootFailed e s) := by
  unfold bootFailed; grind [Keeps, keeps_bootSecondBank, keeps_fallBack, keeps_rejectBoot]

theorem keeps_bootFirstBank (s : State) : Keeps s (bootFirstBank s) := by
  unfold bootFirstBank; grind [Keeps, keeps_bootFailed, keeps_finishLoad]

theorem keeps_execBootLoad (s : State) : ∀ t, execBootLoad s = .next t → Keeps s t := by
  unfold execBootLoad; grind [Keeps, keeps_bootFirstBank, keeps_fallBack, keeps_mapDies, keeps_modDie, keeps_writePtr]

theorem keeps_execDramTrainingDone (die : Nat) (r : Training) (s : State) : ∀ t, execDramTrainingDone die r s = .next t → Keeps s t := by
  unfold execDramTrainingDone; intro t h; dsimp only at h
  generalize hu : forAll _ _ (s.modDie die fun x => _) = u at h
  have k : Keeps s u := by rw [← hu]; grind [Keeps, keeps_drcEv, keeps_forAll, keeps_modDie, keeps_raiseFrom]
  clear hu
  repeat' split at h
  all_goals cases h
  all_goals first
    | exact k
    | exact k.trans (keeps_bootFailed ..)
    | exact k.trans (keeps_finishLoad _ _ _ _ ‹_›)

/-! ## Legs -/

theorem keeps_fetchCmds (f : Nat) (s : State) : Keeps s (fetchCmds f s) := by
  unfold fetchCmds; try dsimp (iota := false) only
  repeat' with_reducible first | exact Keeps.refl _ | assumption | simp (iota := false) only [keeps_mk_iff] | refine Keeps.trans ?_ (keeps_modFq ..) | split

theorem keeps_execSqTailWrite (func : Nat) (tail : Word) (cmds : List Cmd) (s : State) : ∀ t, execSqTailWrite func tail cmds s = .next t → Keeps s t := by
  unfold execSqTailWrite; intro t h; try dsimp (iota := false) only at h
  all_goals (injection h with h; subst h)
  all_goals repeat' with_reducible first | exact Keeps.refl _ | assumption | simp (iota := false) only [keeps_mk_iff] | refine Keeps.trans ?_ (keeps_fetchCmds ..) | refine Keeps.trans ?_ (keeps_modFq ..)

theorem keeps_execCqHeadWrite (func : Nat) (head : Word) (s : State) : ∀ t, execCqHeadWrite func head s = .next t → Keeps s t := by
  unfold execCqHeadWrite; grind [Keeps, keeps_drainCq, keeps_fetchCmds, keeps_modFq]

theorem keeps_execQueueCfgWrite (func : Nat) (isCq : Bool) (v : Word) (s : State) : ∀ t, execQueueCfgWrite func isCq v s = .next t → Keeps s t := by
  unfold execQueueCfgWrite; intro t h; try dsimp (iota := false) only at h
  repeat' split at h
  all_goals (injection h with h; subst h)
  all_goals repeat' with_reducible first | exact Keeps.refl _ | assumption | simp (iota := false) only [keeps_mk_iff] | refine Keeps.trans ?_ (keeps_fetchCmds ..) | refine Keeps.trans ?_ (keeps_modFq ..)

theorem keeps_execNop (c : Cmd) (s : State) : ∀ t, execNop c s = .next t → Keeps s t := by
  unfold execNop; intro t h; try dsimp (iota := false) only at h
  repeat' split at h
  all_goals (injection h with h; subst h)
  all_goals repeat' with_reducible first | exact Keeps.refl _ | assumption | simp (iota := false) only [keeps_mk_iff] | refine Keeps.trans ?_ (keeps_drainNops ..) | refine Keeps.trans ?_ (keeps_modFq ..)

theorem keeps_execUnknownOpcode (c : Cmd) (s : State) : ∀ t, execUnknownOpcode c s = .next t → Keeps s t := by
  unfold execUnknownOpcode; intro t h
  extract_lets i at h
  split at h
  · injection h with h; subst h; exact Keeps.refl s
  · injection h with h; subst h; exact keeps_runCmd _ _ _ _ fun u => keeps_raiseFrom ..

theorem keeps_allocLeg (f : Nat) (l : BitVec 16) (s : State) : Keeps s (allocLeg f l s) := by
  unfold allocLeg; try dsimp (iota := false) only
  repeat' with_reducible first | exact Keeps.refl _ | assumption | simp (iota := false) only [keeps_mk_iff] | refine Keeps.trans ?_ (keeps_modLeg ..)

theorem keeps_execAllocLeg (c : Cmd) (s : State) : ∀ t, execAllocLeg c s = .next t → Keeps s t := by
  unfold execAllocLeg; intro t h; cases h; apply keeps_runCmd; intro u; grind [Keeps, keeps_allocLeg, keeps_runCmd]

theorem keeps_execFreeLeg (c : Cmd) (s : State) : ∀ t, execFreeLeg c s = .next t → Keeps s t := by
  unfold execFreeLeg; intro t h; cases h; apply keeps_runCmd; intro u; grind [Keeps, keeps_modLeg, keeps_runCmd]

theorem keeps_execReleaseHeld (c : Cmd) (s : State) : ∀ t, execReleaseHeld c s = .next t → Keeps s t := by
  unfold execReleaseHeld; intro t h; cases h; apply keeps_runCmd; intro u; grind [Keeps, keeps_mapDies, keeps_runCmd]

theorem keeps_execLegConfOwnerWrite (func die i : Nat) (v : Word) (s : State) : ∀ t, execLegConfOwnerWrite func die i v s = .next t → Keeps s t := by
  unfold execLegConfOwnerWrite; intro t h; try dsimp (iota := false) only at h
  repeat' split at h
  all_goals (injection h with h; subst h)
  all_goals repeat' with_reducible first | exact Keeps.refl _ | assumption | simp (iota := false) only [keeps_mk_iff] | refine Keeps.trans ?_ (keeps_modDie ..) | refine Keeps.trans ?_ (keeps_raiseFrom ..)

/-! ## Moves -/

theorem keeps_forAllOk {α : Type} (s : State) (l : List α) (f : α → Except (BitVec 8) (CtxMoves × State) → Except (BitVec 8) (CtxMoves × State))
    (e : Except (BitVec 8) (CtxMoves × State)) (h : ∀ a e, (∀ r t, e = .ok (r, t) → Keeps s t) → ∀ r t, f a e = .ok (r, t) → Keeps s t)
    (he : ∀ r t, e = .ok (r, t) → Keeps s t) : ∀ r t, forAll l f e = .ok (r, t) → Keeps s t := by
  induction l generalizing e with
  | nil => exact he
  | cons a l ih => exact ih (f a e) (h a e he)

theorem keeps_reserveEnc (s : State) (d : Nat) (new e : BitVec 16) (x : Except (BitVec 8) (CtxMoves × State))
    (hx : ∀ r t, x = .ok (r, t) → Keeps s t) : ∀ r t, reserveEnc d new e x = .ok (r, t) → Keeps s t := by
  intro r t h
  cases x with
  | error st => simp [reserveEnc] at h
  | ok p =>
    obtain ⟨l, u⟩ := p
    have k := hx l u rfl
    simp only [reserveEnc] at h
    repeat' split at h
    all_goals first
      | (injection h with h; injection h with _ h; subst h; exact k.trans (keeps_openEnc ..))
      | cases h

theorem keeps_reserveDec (s : State) (leg' : BitVec 16) (m : BitVec 64) (k : BitVec 16) (x : Except (BitVec 8) (CtxMoves × State))
    (hx : ∀ r t, x = .ok (r, t) → Keeps s t) : ∀ r t, reserveDec leg' m k x = .ok (r, t) → Keeps s t := by
  intro r t h
  cases x with
  | error st => simp [reserveDec] at h
  | ok p =>
    obtain ⟨l, u⟩ := p
    have k := hx l u rfl
    simp only [reserveDec] at h
    split at h
    · cases h
    · refine keeps_forAllOk s _ _ _ (fun a e he => keeps_reserveEnc s _ _ a e he) ?_ r t h
      intro r t h
      injection h with h; injection h with _ h; subst h
      exact k.trans (keeps_openDec ..)

theorem keeps_reserveCtxs (leg leg' : BitVec 16) (at_ : BitVec 64) (s : State) :
    ∀ r t, reserveCtxs leg leg' at_ s = .ok (r, t) → Keeps s t := by
  refine keeps_forAllOk s _ _ _ (fun a e he => keeps_reserveDec s _ _ a e he) ?_
  intro r t h
  injection h with h; injection h with _ h; subst h
  exact Keeps.refl _

theorem keeps_startMove (m : Migration) (s : State) : Keeps s (startMove m s).2 := by
  unfold startMove
  split
  · exact Keeps.refl s
  extract_lets st
  split
  · exact Keeps.refl s
  split
  · exact Keeps.refl s
  · rename_i l u h
    have k : Keeps s u := by
      split at h
      · injection h with h; injection h with _ h; subst h; exact Keeps.refl s
      · exact keeps_reserveCtxs _ _ _ s _ _ h
    refine k.trans (Keeps.trans ?_ (keeps_lockMove ..))
    exact (keeps_mk_iff u u ..).2 (Keeps.refl u)

theorem keeps_startMove_eq {m : Migration} {s : State} {v1} {u1 : State} (h1 : startMove m s = (v1, u1)) : Keeps s u1 := by
  have kk := keeps_startMove m s
  rwa [h1] at kk

theorem keeps_postMove (isConf : Bool) (c : Cmd) (s : State) : Keeps s (postMove isConf c s) := by
  unfold postMove; grind [Keeps, keeps_runCmd, keeps_startMove]

theorem keeps_execMigrateLeg (c : Cmd) (s : State) : ∀ t, execMigrateLeg c s = .next t → Keeps s t := by
  unfold execMigrateLeg; intro t h; try dsimp (iota := false) only at h
  all_goals (injection h with h; subst h)
  all_goals repeat' with_reducible first | exact Keeps.refl _ | assumption | simp (iota := false) only [keeps_mk_iff] | refine Keeps.trans ?_ (keeps_postMove ..)

theorem keeps_execRehomeConf (c : Cmd) (s : State) : ∀ t, execRehomeConf c s = .next t → Keeps s t := by
  unfold execRehomeConf; intro t h; try dsimp (iota := false) only at h
  all_goals (injection h with h; subst h)
  all_goals repeat' with_reducible first | exact Keeps.refl _ | assumption | simp (iota := false) only [keeps_mk_iff] | refine Keeps.trans ?_ (keeps_postMove ..)

theorem keeps_toSwitch (m : Migration) (s : State) : Keeps s (toSwitch m s) := by
  unfold toSwitch; try dsimp (iota := false) only
  repeat' with_reducible first | exact Keeps.refl _ | assumption | simp (iota := false) only [keeps_mk_iff] | refine Keeps.trans ?_ (keeps_advanceTo ..) | refine Keeps.trans ?_ (keeps_endMp ..)

theorem keeps_execMigrationStateSend (leg : BitVec 16) (s : State) : ∀ t, execMigrationStateSend leg s = .next t → Keeps s t := by
  unfold execMigrationStateSend; intro t h; try dsimp (iota := false) only at h
  repeat' split at h
  all_goals (injection h with h; subst h)
  all_goals repeat' with_reducible first | exact Keeps.refl _ | assumption | simp (iota := false) only [keeps_mk_iff] | refine Keeps.trans ?_ (keeps_toSwitch ..)

theorem keeps_renameAll (a b : BitVec 16) (s : State) : Keeps s (renameAll a b s) := by
  unfold renameAll; try dsimp (iota := false) only
  repeat' with_reducible first | exact Keeps.refl _ | assumption | simp (iota := false) only [keeps_mk_iff] | refine Keeps.trans ?_ (keeps_mapDies ..) | refine Keeps.trans ?_ (keeps_modDie ..)

theorem keeps_copyPic (a b : BitVec 16) (p : Pic) (s : State) : Keeps s (copyPic a b p s) := by
  unfold copyPic
  extract_lets y
  split
  · exact Keeps.refl s
  extract_lets u
  have k : Keeps s u := (keeps_modDec ..).trans (keeps_modPool ..)
  clear_value u
  refine k.trans (keeps_forAll _ _ _ fun n v => ?_)
  split
  · exact keeps_storeBuf ..
  · exact Keeps.refl v

theorem keeps_moveCtx (e : Bool × BitVec 16 × BitVec 16) (s : State) : Keeps s (moveCtx e s) := by
  unfold moveCtx; grind [Keeps, keeps_closeDec, keeps_closeEnc, keeps_copyPic, keeps_forAll, keeps_modDec, keeps_modEnc]

theorem keeps_closeHalf (a n len : Nat) (m : Mem) (h : tabWf 0 m = true) : tabWf 0 (closeHalf a n len m) = true := by
  unfold closeHalf; grind [tabWf_wr64, tabWf_wrBytes]

theorem keeps_closeTables (s : State) (a n len : Nat) : Keeps s { s with tables := closeHalf a n len s.tables } :=
  ⟨rfl, rfl, rfl, keeps_closeHalf a n len s.tables, fun _ h => h, id⟩

theorem keeps_closeMoved (a b : BitVec 16) (s : State) : Keeps s (closeMoved a b s) := by
  unfold closeMoved
  extract_lets live s1 s2
  have k0 := keeps_closeTables s (legHalfAt a live) (legHalfAt a (!live)) 256
  have k1 : Keeps s s1 := k0.trans (keeps_setLegLoad ..)
  have k2 : Keeps s1 s2 := keeps_modDie ..
  exact k1.trans (k2.trans (keeps_modLeg ..))

theorem keeps_switchLeg (m : Migration) (s : State) : Keeps s (switchLeg m s) := by
  unfold switchLeg
  extract_lets a b s1 mp x s2 new s3 s4 s5 s6 s7
  have k1 : Keeps s s1 := keeps_toSwitch ..
  have k2 : Keeps s1 s2 := (keeps_ledger ..).trans (keeps_flipLeg ..)
  have k3 : Keeps s2 s3 := keeps_modLeg ..
  have k4 : Keeps s3 s4 := (keeps_jbPoolAdd ..).trans (keeps_pktPoolAdd ..)
  have k5 : Keeps s4 s5 := (keeps_jbPoolSub ..).trans (keeps_pktPoolSub ..)
  have k6 : Keeps s5 s6 := keeps_forAll _ _ _ fun a u => keeps_moveCtx ..
  have k7 : Keeps s6 s7 := (keeps_renameAll ..).trans ((keeps_closeMoved ..).trans ((keeps_excludeLeg ..).trans (keeps_excludeLeg ..)))
  exact k1.trans (k2.trans (k3.trans (k4.trans (k5.trans (k6.trans (k7.trans ((keeps_endMove ..).trans (keeps_refreshLoads ..))))))))

theorem keeps_execMigrationSwitch (leg : BitVec 16) (s : State) : ∀ t, execMigrationSwitch leg s = .next t → Keeps s t := by
  unfold execMigrationSwitch; intro t h; try dsimp (iota := false) only at h
  repeat' split at h
  all_goals (injection h with h; subst h)
  all_goals repeat' with_reducible first | exact Keeps.refl _ | assumption | simp (iota := false) only [keeps_mk_iff] | refine Keeps.trans ?_ (keeps_switchLeg ..)

theorem keeps_switchConf (m : Migration) (s : State) : Keeps s (switchConf m s) := by
  unfold switchConf
  extract_lets a b s1 mp x s2 s3 live s4 s5 s6 new
  have k1 : Keeps s s1 := keeps_toSwitch ..
  have k2 : Keeps s1 s2 := (keeps_ledger ..).trans (keeps_flipConf ..)
  have k3 : Keeps s2 s3 := keeps_modConf ..
  have k4 : Keeps s3 s4 := keeps_closeTables ..
  have k5 : Keeps s4 s5 := keeps_modConf ..
  have k6 : Keeps s5 s6 := keeps_mapDies ..
  exact k1.trans (k2.trans (k3.trans (k4.trans (k5.trans (k6.trans ((keeps_endMove ..).trans (keeps_refreshLoads ..)))))))

theorem keeps_execConfRehomeSwitch (conf : BitVec 16) (s : State) : ∀ t, execConfRehomeSwitch conf s = .next t → Keeps s t := by
  unfold execConfRehomeSwitch; intro t h; try dsimp (iota := false) only at h
  repeat' split at h
  all_goals (injection h with h; subst h)
  all_goals repeat' with_reducible first | exact Keeps.refl _ | assumption | simp (iota := false) only [keeps_mk_iff] | refine Keeps.trans ?_ (keeps_switchConf ..)

theorem keeps_endConfAliases (s : State) : Keeps s (endConfAliases s) := by
  unfold endConfAliases; try dsimp (iota := false) only
  repeat' with_reducible first | exact Keeps.refl _ | assumption | simp (iota := false) only [keeps_mk_iff] | refine Keeps.trans ?_ (keeps_mapDies ..)

theorem keeps_sweepCtxs (s : State) : Keeps s (sweepCtxs s) := by
  unfold sweepCtxs; grind [Keeps, keeps_closeDec, keeps_closeEnc, keeps_forAll]

/-! ## Hoist -/

theorem keeps_modHst (s : State) (d : Nat) (f : Hst → Hst) : Keeps s (State.modHst s d f) := by
  unfold State.modHst; try dsimp (iota := false) only
  repeat' with_reducible first | exact Keeps.refl _ | assumption | simp (iota := false) only [keeps_mk_iff] | refine Keeps.trans ?_ (keeps_modDie ..)

theorem keeps_trace (d event core : Nat) (t : Tub) (src : Byte) (waitNs : Nat) (s : State) : Keeps s (trace d event core t src waitNs s) := by
  unfold trace; try dsimp (iota := false) only
  repeat' with_reducible first | exact Keeps.refl _ | assumption | simp (iota := false) only [keeps_mk_iff] | refine Keeps.trans ?_ (keeps_hstEv ..) | refine Keeps.trans ?_ (keeps_modHst ..) | refine Keeps.trans ?_ (keeps_raiseOnce ..) | split

theorem keeps_drainTrace (d : Nat) (fuel : Nat) (s : State) : Keeps s (drainTrace d fuel s) := by
  fun_induction drainTrace d fuel s <;> grind [Keeps, keeps_modDie, keeps_modHst]

theorem keeps_notePeak (d level : Nat) (s : State) : Keeps s (notePeak d level s) := by
  unfold notePeak; try dsimp (iota := false) only
  repeat' with_reducible first | exact Keeps.refl _ | assumption | simp (iota := false) only [keeps_mk_iff] | refine Keeps.trans ?_ (keeps_modHst ..)

theorem keeps_acceptTub (d : Nat) (src : Byte) (t : Tub) (s : State) : Keeps s (acceptTub d src t s) := by
  unfold acceptTub; try dsimp (iota := false) only
  repeat' with_reducible first | exact Keeps.refl _ | assumption | simp (iota := false) only [keeps_mk_iff] | refine Keeps.trans ?_ (keeps_hstCnt ..) | refine Keeps.trans ?_ (keeps_modHst ..) | refine Keeps.trans ?_ (keeps_notePeak ..) | refine Keeps.trans ?_ (keeps_trace ..)

theorem keeps_busyTub (d : Nat) (src : Byte) (t : Tub) (s : State) : Keeps s (busyTub d src t s) := by
  unfold busyTub; try dsimp (iota := false) only
  repeat' with_reducible first | exact Keeps.refl _ | assumption | simp (iota := false) only [keeps_mk_iff] | refine Keeps.trans ?_ (keeps_hstCnt ..) | refine Keeps.trans ?_ (keeps_hstEv ..) | refine Keeps.trans ?_ (keeps_raiseOnce ..) | refine Keeps.trans ?_ (keeps_trace ..)

theorem keeps_refuseTub (d : Nat) (src : Byte) (t : Tub) (s : State) : Keeps s (refuseTub d src t s) := by
  unfold refuseTub; try dsimp (iota := false) only
  repeat' with_reducible first | exact Keeps.refl _ | assumption | simp (iota := false) only [keeps_mk_iff] | refine Keeps.trans ?_ (keeps_hstCnt ..) | refine Keeps.trans ?_ (keeps_hstEv ..) | refine Keeps.trans ?_ (keeps_raiseFrom ..) | refine Keeps.trans ?_ (keeps_trace ..)

theorem keeps_enqueueTub (d : Nat) (src : Byte) (t : Tub) (s : State) : Keeps s (enqueueTub d src t s).2 := by
  unfold enqueueTub; grind [Keeps, keeps_acceptTub, keeps_busyTub, keeps_hstCnt, keeps_modHst, keeps_refuseTub, keeps_trace]

theorem keeps_enqueueTub_eq {d : Nat} {src : Byte} {t : Tub} {s : State} {v1} {u1 : State} (h1 : enqueueTub d src t s = (v1, u1)) : Keeps s u1 := by
  have kk := keeps_enqueueTub d src t s
  rwa [h1] at kk

theorem keeps_execHstEnqWrite (func die : Nat) (v : Word) (s : State) : ∀ t, execHstEnqWrite func die v s = .next t → Keeps s t := by
  unfold execHstEnqWrite; intro t h; try dsimp (iota := false) only at h
  repeat' split at h
  all_goals (injection h with h; subst h)
  all_goals repeat' with_reducible first | exact Keeps.refl _ | assumption | simp (iota := false) only [keeps_mk_iff] | refine Keeps.trans ?_ (keeps_enqueueTub_eq (by assumption)) | refine Keeps.trans ?_ (keeps_modHst ..)

theorem keeps_modFlow (s : State) (d i : Nat) (f : Flow → Flow) : Keeps s (State.modFlow s d i f) := by
  unfold State.modFlow; try dsimp (iota := false) only
  repeat' with_reducible first | exact Keeps.refl _ | assumption | simp (iota := false) only [keeps_mk_iff] | refine Keeps.trans ?_ (keeps_modHst ..)

theorem keeps_handOn (d : Nat) (src : Byte) (h : HandOff) (s : State) : Keeps s (handOn d src h s) := by
  unfold handOn; grind [Keeps, keeps_enqueueTub, keeps_modHst, keeps_sendRtp]

theorem keeps_releaseFlow (d i : Nat) (fuel : Nat) (s : State) : Keeps s (releaseFlow d i fuel s) := by
  fun_induction releaseFlow d i fuel s <;> grind [Keeps, keeps_forAll, keeps_handOn, keeps_modFlow]

theorem keeps_tallyDone (d : Nat) (t : Tub) (s : State) : Keeps s (tallyDone d t s) := by
  unfold tallyDone; try dsimp (iota := false) only
  repeat' with_reducible first | exact Keeps.refl _ | assumption | simp (iota := false) only [keeps_mk_iff] | refine Keeps.trans ?_ (keeps_modFlow ..) | refine Keeps.trans ?_ (keeps_releaseFlow ..) | split

theorem keeps_tallySkip (d : Nat) (t : Tub) (lost : Bool) (s : State) : Keeps s (tallySkip d t lost s) := by
  unfold tallySkip; grind [Keeps, keeps_hstCnt, keeps_hstEv, keeps_modFlow, keeps_raiseAny, keeps_releaseFlow, keeps_trace]

theorem keeps_execTallySkip (die flow : Nat) (s : State) : ∀ t, execTallySkip die flow s = .next t → Keeps s t := by
  unfold execTallySkip; grind [Keeps, keeps_advance, keeps_tallySkip]

theorem keeps_carryOut (d : Nat) (src : Byte) (o : HandOff) (s : State) : Keeps s (carryOut d src o s).2 := by
  unfold carryOut; grind [Keeps, keeps_enqueueTub, keeps_sendRtp]

theorem keeps_carryOut_eq {d : Nat} {src : Byte} {o : HandOff} {s : State} {v1} {u1 : State} (h1 : carryOut d src o s = (v1, u1)) : Keeps s u1 := by
  have kk := keeps_carryOut d src o s
  rwa [h1] at kk

theorem keeps_coreHands (d idx : Nat) (src : Byte) (o : HandOff) (s : State) : Keeps s (coreHands d idx src o s).2 := by
  unfold coreHands; try dsimp (iota := false) only
  repeat' with_reducible first | exact Keeps.refl _ | assumption | refine Keeps.trans ?_ (keeps_carryOut_eq (by assumption)) | refine Keeps.trans ?_ (keeps_modFlow ..) | refine Keeps.trans ?_ (keeps_refuseTub ..) | split | refine Keeps.trans ?_ (keeps_carryOut ..)

theorem keeps_coreHands_eq {d idx : Nat} {src : Byte} {o : HandOff} {s : State} {v1} {u1 : State} (h1 : coreHands d idx src o s = (v1, u1)) : Keeps s u1 := by
  have kk := keeps_coreHands d idx src o s
  rwa [h1] at kk

theorem keeps_dropTub (d idx : Nat) (s : State) : Keeps s (dropTub d idx s) := by
  unfold dropTub; try dsimp (iota := false) only
  repeat' with_reducible first | exact Keeps.refl _ | assumption | simp (iota := false) only [keeps_mk_iff] | refine Keeps.trans ?_ (keeps_modHst ..) | split

theorem keeps_doneTub (d idx : Nat) (s : State) : Keeps s (doneTub d idx s) := by
  unfold doneTub; try dsimp (iota := false) only
  repeat' with_reducible first | exact Keeps.refl _ | assumption | simp (iota := false) only [keeps_mk_iff] | refine Keeps.trans ?_ (keeps_dropTub ..) | refine Keeps.trans ?_ (keeps_tallyDone ..) | refine Keeps.trans ?_ (keeps_trace ..) | split

theorem keeps_loseTub (d idx : Nat) (s : State) : Keeps s (loseTub d idx s) := by
  unfold loseTub; grind [Keeps, keeps_dropTub, keeps_modFlow, keeps_tallySkip]

theorem keeps_requeueTub (d idx : Nat) (s : State) : Keeps s (requeueTub d idx s) := by
  unfold requeueTub
  split
  · exact Keeps.refl s
  extract_lets s1 s2 s3
  have k1 : Keeps s s1 := keeps_dropTub ..
  have k2 : Keeps s1 s2 := keeps_ite _ _ _ _ (keeps_modFlow ..) (Keeps.refl s1)
  have k3 : Keeps s2 s3 := (keeps_modHst ..).trans (keeps_notePeak ..)
  clear_value s1 s2 s3
  exact k1.trans (k2.trans (k3.trans ((keeps_hstCnt ..).trans ((keeps_hstEv ..).trans ((keeps_trace ..).trans (keeps_raiseFrom ..))))))

theorem keeps_admitStalled (d : Nat) (s : State) : Keeps s (admitStalled d s).2 := by
  unfold admitStalled; try dsimp (iota := false) only
  repeat' with_reducible first | exact Keeps.refl _ | assumption | refine Keeps.trans ?_ (keeps_acceptTub ..) | refine Keeps.trans ?_ (keeps_modHst ..) | split

theorem keeps_takeTub (d cls core : Nat) (t : Tub) (s : State) : Keeps s (takeTub d cls core t s) := by
  unfold takeTub; try dsimp (iota := false) only
  repeat' with_reducible first | exact Keeps.refl _ | assumption | simp (iota := false) only [keeps_mk_iff] | refine Keeps.trans ?_ (keeps_hstCnt ..) | refine Keeps.trans ?_ (keeps_modHst ..) | refine Keeps.trans ?_ (keeps_trace ..)

theorem keeps_hoistBoundary (d : Nat) (s : State) : Keeps s (hoistBoundary d s) := by
  unfold hoistBoundary; try dsimp (iota := false) only
  repeat' with_reducible first | exact Keeps.refl _ | assumption | simp (iota := false) only [keeps_mk_iff] | refine Keeps.trans ?_ (keeps_modHst ..)

/-! ## Cipher -/

theorem keeps_modCip (s : State) (d : Nat) (f : Cip → Cip) : Keeps s (State.modCip s d f) := by
  unfold State.modCip; try dsimp (iota := false) only
  repeat' with_reducible first | exact Keeps.refl _ | assumption | simp (iota := false) only [keeps_mk_iff] | refine Keeps.trans ?_ (keeps_modDie ..)

theorem keeps_execCipLockAcquire (die : Nat) (ids : List Byte) (s : State) : ∀ t, execCipLockAcquire die ids s = .next t → Keeps s t := by
  unfold execCipLockAcquire; intro t h; try dsimp (iota := false) only at h
  repeat' split at h
  all_goals (injection h with h; subst h)
  all_goals repeat' with_reducible first | exact Keeps.refl _ | assumption | simp (iota := false) only [keeps_mk_iff] | refine Keeps.trans ?_ (keeps_modCip ..)

theorem keeps_execCipLockRelease (die : Nat) (req : Byte) (s : State) : ∀ t, execCipLockRelease die req s = .next t → Keeps s t := by
  unfold execCipLockRelease; intro t h; try dsimp (iota := false) only at h
  repeat' split at h
  all_goals (injection h with h; subst h)
  all_goals repeat' with_reducible first | exact Keeps.refl _ | assumption | simp (iota := false) only [keeps_mk_iff] | refine Keeps.trans ?_ (keeps_modCip ..)

theorem keeps_writeSave (d : Nat) (req : Byte) (s : State) : Keeps s (writeSave d req s) := by
  unfold writeSave; try dsimp (iota := false) only
  repeat' with_reducible first | exact Keeps.refl _ | assumption | simp (iota := false) only [keeps_mk_iff] | refine Keeps.trans ?_ (keeps_devWr ..) | refine Keeps.trans ?_ (keeps_modCip ..) | refine Keeps.trans ?_ (keeps_modSlot ..)

theorem keeps_blkError (d : Nat) (err : BitVec 4) (s : State) : Keeps s (blkError d err s) := by
  unfold blkError; try dsimp (iota := false) only
  repeat' with_reducible first | exact Keeps.refl _ | assumption | simp (iota := false) only [keeps_mk_iff] | refine Keeps.trans ?_ (keeps_modCip ..)

theorem keeps_countGcm (d : Nat) (k : BitVec 16) (s : State) : Keeps s (countGcm d k s) := by
  unfold countGcm; grind [Keeps, keeps_cipEv, keeps_modSlot, keeps_raiseFrom, keeps_sealSlots]

theorem keeps_execBulkJobGo (die : Nat) (req : Byte) (v : Word) (s : State) : ∀ t, execBulkJobGo die req v s = .next t → Keeps s t := by
  unfold execBulkJobGo; grind (splits := 25) [Keeps, keeps_blkError, keeps_cipEv, keeps_countGcm, keeps_modCip, keeps_modSlot, keeps_raiseAny, keeps_raiseFrom]

theorem keeps_endJob (d : Nat) (s : State) : Keeps s (endJob d s) := by
  unfold endJob; grind [Keeps, keeps_devWr, keeps_modCip, keeps_writeSave]

theorem keeps_execBulkJobDone (die : Nat) (s : State) : ∀ t, execBulkJobDone die s = .next t → Keeps s t := by
  unfold execBulkJobDone; grind [Keeps, keeps_endJob]

theorem keeps_execLockPreempt (die : Nat) (s : State) : ∀ t, execLockPreempt die s = .next t → Keeps s t := by
  unfold execLockPreempt; grind [Keeps, keeps_advance, keeps_cipEv, keeps_endJob, keeps_modCip, keeps_raiseAny, keeps_writeSave]

theorem keeps_execRngReseedFailure (die : Nat) (s : State) : ∀ t, execRngReseedFailure die s = .next t → Keeps s t := by
  unfold execRngReseedFailure; intro t h; try dsimp (iota := false) only at h
  repeat' split at h
  all_goals (injection h with h; subst h)
  all_goals repeat' with_reducible first | exact Keeps.refl _ | assumption | simp (iota := false) only [keeps_mk_iff] | refine Keeps.trans ?_ (keeps_cipEv ..) | refine Keeps.trans ?_ (keeps_modCip ..) | refine Keeps.trans ?_ (keeps_raiseAny ..)

theorem keeps_execRngOkReturn (die : Nat) (s : State) : ∀ t, execRngOkReturn die s = .next t → Keeps s t := by
  unfold execRngOkReturn; intro t h; try dsimp (iota := false) only at h
  all_goals (injection h with h; subst h)
  all_goals repeat' with_reducible first | exact Keeps.refl _ | assumption | simp (iota := false) only [keeps_mk_iff] | refine Keeps.trans ?_ (keeps_modCip ..)

theorem keeps_scBoundary (s : State) : Keeps s (scBoundary s) := by
  unfold scBoundary; try dsimp (iota := false) only
  repeat' with_reducible first | exact Keeps.refl _ | assumption | simp (iota := false) only [keeps_mk_iff] | refine Keeps.trans ?_ (keeps_mapDies ..)

/-! ## CipRegs -/

theorem keeps_lockWrite (d : Nat) (req : Byte) (v : Word) (s : State) : Keeps s (lockWrite d req v s) := by
  unfold lockWrite; grind [Keeps, keeps_execCipLockAcquire, keeps_execCipLockRelease]

theorem keeps_blkWrite (d off : Nat) (v : Word) (s : State) : Keeps s (blkWrite d off v s) := by
  unfold blkWrite; try dsimp (iota := false) only
  repeat' with_reducible first | exact Keeps.refl _ | assumption | simp (iota := false) only [keeps_mk_iff] | refine Keeps.trans ?_ (keeps_modCip ..)

theorem keeps_cipWr (d : Nat) (req : Byte) (off : Nat) (v : Word) (s : State) : Keeps s (cipWr d req off v s) := by
  unfold cipWr
  refine keeps_ite _ _ _ _ (keeps_modCip ..) (keeps_ite _ _ _ _ (keeps_modCip ..) (keeps_ite _ _ _ _ (keeps_modCip ..)
    (keeps_ite _ _ _ _ (keeps_modCip ..) (keeps_ite _ _ _ _ (keeps_lockWrite ..) (keeps_ite _ _ _ _ (keeps_modCip ..)
    (keeps_ite _ _ _ _ (keeps_modCip ..) (keeps_ite _ _ _ _ ?_ (keeps_ite _ _ _ _
      (keeps_ite _ _ _ _ (keeps_raiseAny ..) (keeps_blkWrite ..)) (Keeps.refl s)))))))))
  split
  · rename_i t h; exact keeps_execBulkJobGo _ _ _ _ _ h
  · exact Keeps.refl s

end Sys2Proof.Machine
end

