-- ==== Sys2Proof/Laws/KeepsCores.lean ====
section
/-! SUPPORT. That every operation of the machine keeps what `Keeps` says: the Face cores, pairs, wear, memory, the boundary and registers. One lemma for each
operation that changes the state, cited wherever that operation is called. -/

namespace Sys2Proof.Machine

/-! ## Face -/

theorem keeps_modFace (s : State) (d c : Nat) (f : FaceCore → FaceCore) : Keeps s (State.modFace s d c f) := by
  unfold State.modFace; try dsimp (iota := false) only
  repeat' with_reducible first | exact Keeps.refl _ | assumption | simp (iota := false) only [keeps_mk_iff] | refine Keeps.trans ?_ (keeps_modDie ..)

theorem keeps_windowWr (d c o : Nat) (v : Word) (s : State) : Keeps s (windowWr d c o v s) := by
  unfold windowWr; try dsimp (iota := false) only
  repeat' with_reducible first | exact Keeps.refl _ | assumption | simp (iota := false) only [keeps_mk_iff] | refine Keeps.trans ?_ (keeps_cipWr ..) | refine Keeps.trans ?_ (keeps_fenceSet ..) | split

theorem keeps_leaveWait (d c : Nat) (s : State) : Keeps s (leaveWait d c s) := by
  unfold leaveWait; try dsimp (iota := false) only
  repeat' with_reducible first | exact Keeps.refl _ | assumption | simp (iota := false) only [keeps_mk_iff] | refine Keeps.trans ?_ (keeps_modHst ..)

theorem keeps_faultCore (d c : Nat) (cause : BitVec 4) (addr : Nat) (s : State) : Keeps s (faultCore d c cause addr s) := by
  unfold faultCore; try dsimp (iota := false) only
  repeat' with_reducible first | exact Keeps.refl _ | assumption | simp (iota := false) only [keeps_mk_iff] | refine Keeps.trans ?_ (keeps_leaveWait ..) | refine Keeps.trans ?_ (keeps_loseTub ..) | refine Keeps.trans ?_ (keeps_modFace ..) | refine Keeps.trans ?_ (keeps_raiseAny ..)

theorem keeps_stopCore (d c : Nat) (s : State) : Keeps s (stopCore d c s) := by
  unfold stopCore; try dsimp (iota := false) only
  repeat' with_reducible first | exact Keeps.refl _ | assumption | simp (iota := false) only [keeps_mk_iff] | refine Keeps.trans ?_ (keeps_leaveWait ..) | refine Keeps.trans ?_ (keeps_loseTub ..) | refine Keeps.trans ?_ (keeps_modFace ..)

theorem keeps_dmaStart (d c ch : Nat) (desc : List (BitVec 64)) (y : FaceCore) (s : State) : Keeps s (dmaStart d c ch desc y s).2 := by
  unfold dmaStart; try dsimp (iota := false) only
  repeat' with_reducible first | exact Keeps.refl _ | assumption | refine Keeps.trans ?_ (keeps_raiseAny ..) | split

theorem keeps_dmaStart_eq {d c ch : Nat} {desc : List (BitVec 64)} {y : FaceCore} {s : State} {v1} {u1 : State} (h1 : dmaStart d c ch desc y s = (v1, u1)) : Keeps s u1 := by
  have kk := keeps_dmaStart d c ch desc y s
  rwa [h1] at kk

theorem keeps_modDrc (s : State) (d : Nat) (f : Drc → Drc) : Keeps s (State.modDrc s d f) := by
  unfold State.modDrc; try dsimp (iota := false) only
  repeat' with_reducible first | exact Keeps.refl _ | assumption | simp (iota := false) only [keeps_mk_iff] | refine Keeps.trans ?_ (keeps_modDie ..)

theorem keeps_poisoned (d a : Nat) (req : Byte) (s : State) : Keeps s (poisoned d a req s) := by
  unfold poisoned; try dsimp (iota := false) only
  repeat' with_reducible first | exact Keeps.refl _ | assumption | simp (iota := false) only [keeps_mk_iff] | refine Keeps.trans ?_ (keeps_drcCnt ..) | refine Keeps.trans ?_ (keeps_drcEv ..) | refine Keeps.trans ?_ (keeps_modDrc ..) | refine Keeps.trans ?_ (keeps_raiseFrom ..)

theorem keeps_dmaMove (d c : Nat) (desc : List (BitVec 64)) (s : State) : Keeps s (dmaMove d c desc s) := by
  unfold dmaMove; try dsimp (iota := false) only
  repeat' with_reducible first | exact Keeps.refl _ | assumption | simp (iota := false) only [keeps_mk_iff] | refine Keeps.trans ?_ (keeps_devWr ..) | refine Keeps.trans ?_ (keeps_forAll _ _ _ fun _ _ => ?_) | refine Keeps.trans ?_ (keeps_modFace ..) | split

theorem keeps_endBundle (k : Nat) (inTake : Bool) (d c : Nat) (s : State) : Keeps s (endBundle k inTake d c s) := by
  unfold endBundle; try dsimp (iota := false) only
  repeat' with_reducible first | exact Keeps.refl _ | assumption | simp (iota := false) only [keeps_mk_iff] | refine Keeps.trans ?_ (keeps_faultCore ..) | refine Keeps.trans ?_ (keeps_modFace ..) | refine Keeps.trans ?_ (keeps_stopCore ..) | split

theorem keeps_resume (inTake : Bool) (d c : Nat) (s : State) : Keeps s (resume inTake d c s) := by
  unfold resume; try dsimp (iota := false) only
  repeat' with_reducible first | exact Keeps.refl _ | assumption | simp (iota := false) only [keeps_mk_iff] | refine Keeps.trans ?_ (keeps_draw_eq (by assumption)) | refine Keeps.trans ?_ (keeps_endBundle ..) | split | refine Keeps.trans ?_ (keeps_draw ..)

theorem keeps_ctlOp (d c : Nat) (x : FaceCore) (w : BitVec 32) (y : FaceCore) (s : State) : Keeps s (ctlOp d c x w y s).2 := by
  unfold ctlOp; try dsimp (iota := false) only
  repeat' with_reducible first | exact Keeps.refl _ | assumption | refine Keeps.trans ?_ (keeps_coreHands_eq (by assumption)) | refine Keeps.trans ?_ (keeps_doneTub ..) | refine Keeps.trans ?_ (keeps_modHst ..) | split | refine Keeps.trans ?_ (keeps_coreHands ..)

theorem keeps_ctlOp_eq {d c : Nat} {x : FaceCore} {w : BitVec 32} {y : FaceCore} {s : State} {v1} {u1 : State} (h1 : ctlOp d c x w y s = (v1, u1)) : Keeps s u1 := by
  have kk := keeps_ctlOp d c x w y s
  rwa [h1] at kk

theorem keeps_memOp (d c : Nat) (x : FaceCore) (w : BitVec 32) (y : FaceCore) (s : State) : Keeps s (memOp d c x w y s).2.2 := by
  unfold memOp; try dsimp (iota := false) only
  repeat' with_reducible first | exact Keeps.refl _ | assumption | refine Keeps.trans ?_ (keeps_dmaStart_eq (by assumption)) | refine Keeps.trans ?_ (keeps_draw_eq (by assumption)) | refine Keeps.trans ?_ (keeps_windowWr ..) | split | refine Keeps.trans ?_ (keeps_dmaStart ..) | refine Keeps.trans ?_ (keeps_draw ..)

theorem keeps_memOp_eq {d c : Nat} {x : FaceCore} {w : BitVec 32} {y : FaceCore} {s : State} {v1 v2} {u1 : State} (h1 : memOp d c x w y s = (v1, v2, u1)) : Keeps s u1 := by
  have kk := keeps_memOp d c x w y s
  rwa [h1] at kk

theorem keeps_runBundle (d c : Nat) (x : FaceCore) (b : BitVec 128) (s : State) : Keeps s (runBundle d c x b s).2 := by
  unfold runBundle; try dsimp (iota := false) only
  repeat' with_reducible first | exact Keeps.refl _ | assumption | refine Keeps.trans ?_ (keeps_ctlOp_eq (by assumption)) | refine Keeps.trans ?_ (keeps_memOp_eq (by assumption)) | refine Keeps.trans ?_ (keeps_modFace ..) | split | refine Keeps.trans ?_ (keeps_ctlOp ..) | refine Keeps.trans ?_ (keeps_memOp ..)

theorem keeps_runBundle_eq {d c : Nat} {x : FaceCore} {b : BitVec 128} {s : State} {v1} {u1 : State} (h1 : runBundle d c x b s = (v1, u1)) : Keeps s u1 := by
  have kk := keeps_runBundle d c x b s
  rwa [h1] at kk

theorem keeps_execBundleIssue (die core : Nat) (s : State) : ∀ t, execBundleIssue die core s = .next t → Keeps s t := by
  unfold execBundleIssue; intro t h; try dsimp (iota := false) only at h
  repeat' split at h
  all_goals (injection h with h; subst h)
  all_goals repeat' with_reducible first | exact Keeps.refl _ | assumption | simp (iota := false) only [keeps_mk_iff] | refine Keeps.trans ?_ (keeps_endBundle ..) | refine Keeps.trans ?_ (keeps_faultCore ..) | refine Keeps.trans ?_ (keeps_modFace ..) | refine Keeps.trans ?_ (keeps_resume ..) | refine Keeps.trans ?_ (keeps_runBundle_eq (by assumption))

theorem keeps_retryDma (d c : Nat) (s : State) : Keeps s (retryDma d c s) := by
  unfold retryDma; try dsimp (iota := false) only
  repeat' with_reducible first | exact Keeps.refl _ | assumption | simp (iota := false) only [keeps_mk_iff] | refine Keeps.trans ?_ (keeps_dmaStart_eq (by assumption)) | refine Keeps.trans ?_ (keeps_forAll _ _ _ fun _ _ => ?_) | refine Keeps.trans ?_ (keeps_modFace ..) | split | refine Keeps.trans ?_ (keeps_dmaStart ..)

theorem keeps_execDmaDone (die core ch : Nat) (s : State) : ∀ t, execDmaDone die core ch s = .next t → Keeps s t := by
  unfold execDmaDone; grind [Keeps, keeps_dmaMove, keeps_draw, keeps_fenceSet, keeps_forAll, keeps_modFace, keeps_poisoned, keeps_resume, keeps_retryDma]

theorem keeps_enqEnds (d : Nat) (src : Byte) (result : Nat) (s : State) : Keeps s (enqEnds d src result s) := by
  unfold enqEnds; try dsimp (iota := false) only
  repeat' with_reducible first | exact Keeps.refl _ | assumption | simp (iota := false) only [keeps_mk_iff] | refine Keeps.trans ?_ (keeps_modFace ..) | refine Keeps.trans ?_ (keeps_resume ..) | split

theorem keeps_admitAll (d : Nat) (fuel : Nat) (s : State) : Keeps s (admitAll d fuel s) := by
  fun_induction admitAll d fuel s <;> grind [Keeps, keeps_admitStalled, keeps_enqEnds]

theorem keeps_execStallTimeout (die : Nat) (src : BitVec 8) (s : State) : ∀ t, execStallTimeout die src s = .next t → Keeps s t := by
  unfold execStallTimeout; intro t h
  split at h
  · injection h with h; subst h; exact Keeps.refl s
  rename_i x _
  extract_lets s1 s2 s3 at h
  injection h with h; subst h
  have k1 : ∀ e, Keeps s (s.advance e) := fun e => keeps_advance s e
  have k1 : Keeps s s1 := k1 _
  clear_value s1
  have k2 : Keeps s1 s2 := keeps_modHst ..
  clear_value s2
  have k3 : Keeps s2 s3 := (keeps_hstCnt ..).trans ((keeps_hstEv ..).trans ((keeps_trace ..).trans (keeps_raiseFrom ..)))
  clear_value s3
  exact k1.trans (k2.trans (k3.trans (keeps_ite _ _ _ _ (Keeps.refl s3) (keeps_enqEnds ..))))

theorem keeps_deliver (d c : Nat) (t : Tub) (s : State) : Keeps s (deliver d c t s) := by
  unfold deliver; try dsimp (iota := false) only
  repeat' with_reducible first | exact Keeps.refl _ | assumption | simp (iota := false) only [keeps_mk_iff] | refine Keeps.trans ?_ (keeps_faultCore ..) | refine Keeps.trans ?_ (keeps_modFace ..) | refine Keeps.trans ?_ (keeps_resume ..) | split

theorem keeps_execTakeDelivery (die cls core : Nat) (s : State) : ∀ t, execTakeDelivery die cls core s = .next t → Keeps s t := by
  unfold execTakeDelivery; intro t h; try dsimp (iota := false) only at h
  repeat' split at h
  all_goals (injection h with h; subst h)
  all_goals repeat' with_reducible first | exact Keeps.refl _ | assumption | simp (iota := false) only [keeps_mk_iff] | refine Keeps.trans ?_ (keeps_admitAll ..) | refine Keeps.trans ?_ (keeps_deliver ..) | refine Keeps.trans ?_ (keeps_doneTub ..) | refine Keeps.trans ?_ (keeps_takeTub ..)

theorem keeps_faceCtrl (d c : Nat) (v : Word) (s : State) : Keeps s (faceCtrl d c v s) := by
  unfold faceCtrl; try dsimp (iota := false) only
  repeat' with_reducible first | exact Keeps.refl _ | assumption | simp (iota := false) only [keeps_mk_iff] | refine Keeps.trans ?_ (keeps_modFace ..) | refine Keeps.trans ?_ (keeps_stopCore ..) | split

theorem keeps_execRun (die core : Nat) (v : Word) (s : State) : ∀ t, execRun die core v s = .next t → Keeps s t := by
  unfold execRun; intro t h; try dsimp (iota := false) only at h
  all_goals (injection h with h; subst h)
  all_goals repeat' with_reducible first | exact Keeps.refl _ | assumption | simp (iota := false) only [keeps_mk_iff] | refine Keeps.trans ?_ (keeps_faceCtrl ..)

theorem keeps_execStop (die core : Nat) (v : Word) (s : State) : ∀ t, execStop die core v s = .next t → Keeps s t := by
  unfold execStop; intro t h; try dsimp (iota := false) only at h
  all_goals (injection h with h; subst h)
  all_goals repeat' with_reducible first | exact Keeps.refl _ | assumption | simp (iota := false) only [keeps_mk_iff] | refine Keeps.trans ?_ (keeps_faceCtrl ..)

theorem keeps_imemWrite (d c off : Nat) (v : Word) (s : State) : Keeps s (imemWrite d c off v s) := by
  unfold imemWrite; try dsimp (iota := false) only
  repeat' with_reducible first | exact Keeps.refl _ | assumption | simp (iota := false) only [keeps_mk_iff] | refine Keeps.trans ?_ (keeps_modFace ..) | refine Keeps.trans ?_ (keeps_raiseAny ..) | split

theorem keeps_execFaceImemWrite (func die core off : Nat) (v : Word) (s : State) : ∀ t, execFaceImemWrite func die core off v s = .next t → Keeps s t := by
  unfold execFaceImemWrite; intro t h; try dsimp (iota := false) only at h
  repeat' split at h
  all_goals (injection h with h; subst h)
  all_goals repeat' with_reducible first | exact Keeps.refl _ | assumption | simp (iota := false) only [keeps_mk_iff] | refine Keeps.trans ?_ (keeps_imemWrite ..) | refine Keeps.trans ?_ (keeps_rangeError ..)

theorem keeps_execVendorCoreRestart (die core : Nat) (s : State) : ∀ t, execVendorCoreRestart die core s = .next t → Keeps s t := by
  unfold execVendorCoreRestart; grind [Keeps, keeps_draw, keeps_forAll, keeps_loseTub, keeps_modFace, keeps_raiseAny]

/-! ## Wear -/

theorem keeps_modCan (s : State) (d : Nat) (f : Can → Can) : Keeps s (State.modCan s d f) := by
  unfold State.modCan; try dsimp (iota := false) only
  repeat' with_reducible first | exact Keeps.refl _ | assumption | simp (iota := false) only [keeps_mk_iff] | refine Keeps.trans ?_ (keeps_modDie ..)

theorem keeps_modCluster (s : State) (d k : Nat) (f : Cluster → Cluster) : Keeps s (State.modCluster s d k f) := by
  unfold State.modCluster; try dsimp (iota := false) only
  repeat' with_reducible first | exact Keeps.refl _ | assumption | simp (iota := false) only [keeps_mk_iff] | refine Keeps.trans ?_ (keeps_modCan ..)

theorem keeps_lowerCap (d : Nat) (f : Capacity → Capacity) (s : State) : Keeps s (lowerCap d f s) := by
  unfold lowerCap; try dsimp (iota := false) only
  repeat' with_reducible first | exact Keeps.refl _ | assumption | simp (iota := false) only [keeps_mk_iff] | refine Keeps.trans ?_ (keeps_capEv ..) | refine Keeps.trans ?_ (keeps_modDie ..) | refine Keeps.trans ?_ (keeps_raiseAny ..)

theorem keeps_copyKey (e : Nat) (k : BitVec 16) (s : State) : ∀ r t, copyKey e k s = some (r, t) → Keeps s t := by
  unfold copyKey; grind [Keeps, keeps_modSlot]

theorem keeps_copySubs (l l' : BitVec 16) (s : State) : Keeps s (copySubs l l' s).2 := by
  exact ⟨rfl, rfl, rfl, fun h => tabWf_foldl _ _ _ _ (fun m a hm => tabWf_wr64 _ _ _ (tabWf_wrBytes _ _ _ hm)) h, fun _ h => h, id⟩

theorem keeps_copySubs_eq {l l' : BitVec 16} {s : State} {v1} {u1 : State} (h1 : copySubs l l' s = (v1, u1)) : Keeps s u1 := by
  have kk := keeps_copySubs l l' s
  rwa [h1] at kk

theorem keeps_writeMoved (l l' k1 k2 : BitVec 16) (head : Nat) (s : State) : Keeps s (writeMoved l l' k1 k2 head s) := by
  unfold writeMoved; grind [Keeps, tabWf_tset, tabWf_wipe, tabWf_wr64, tabWf_wrBytes]

theorem keeps_startBridge (l l' k1 k2 : BitVec 16) (h : LegHalf) (s : State) : Keeps s (startBridge l l' k1 k2 h s).2 := by
  unfold startBridge; grind [Keeps, keeps_copySubs, keeps_startMove, keeps_writeMoved]

theorem keeps_startBridge_eq {l l' k1 k2 : BitVec 16} {h : LegHalf} {s : State} {v1} {u1 : State} (h1 : startBridge l l' k1 k2 h s = (v1, u1)) : Keeps s u1 := by
  have kk := keeps_startBridge l l' k1 k2 h s
  rwa [h1] at kk

theorem keeps_bridgeMove (l : BitVec 16) (s : State) : ∀ t, bridgeMove l s = some t → Keeps s t := by
  intro t h
  unfold bridgeMove at h
  split at h
  · cases h
  · split at h
    · cases h
    · dsimp only at h
      split at h
      · cases h
      · rename_i e _ _ l' _ _ k1 t1 h1
        split at h
        · cases h
        · rename_i k2 t2 h2
          have a1 : Keeps s t1 := (keeps_modLeg ..).trans (keeps_copyKey _ _ _ _ _ h1)
          have a2 : Keeps t1 t2 := by
            split at h2
            · cases h2; exact Keeps.refl _
            · exact keeps_copyKey _ _ _ _ _ h2
          split at h
          · injection h with h; subst h
            exact a1.trans (a2.trans (keeps_startBridge ..))
          · cases h

theorem keeps_shedLegs (d : Nat) (ls gone : List (BitVec 16)) (s : State) : Keeps s (shedLegs d ls gone s).2 := by
  induction ls generalizing gone s with
  | nil => exact Keeps.refl s
  | cons l ls ih =>
    simp only [shedLegs]
    split
    · exact Keeps.refl s
    · split
      · rename_i u hu
        exact (keeps_bridgeMove _ _ _ hu).trans (ih _ u)
      · exact ih _ s

theorem keeps_settleCap (d : Nat) (s : State) : Keeps s (settleCap d s) := by
  unfold settleCap; grind [Keeps, keeps_capEv, keeps_modDie, keeps_raiseAny, keeps_shedLegs]

theorem keeps_takeRole (d c j : Nat) (old : FaceCore) (s : State) : Keeps s (takeRole d c j old s) := by
  unfold takeRole; try dsimp (iota := false) only
  repeat' with_reducible first | exact Keeps.refl _ | assumption | simp (iota := false) only [keeps_mk_iff] | refine Keeps.trans ?_ (keeps_modDie ..) | refine Keeps.trans ?_ (keeps_modFace ..) | refine Keeps.trans ?_ (keeps_raiseAny ..)

theorem keeps_retireFace (d c : Nat) (s : State) : Keeps s (retireFace d c s) := by
  unfold retireFace; grind [Keeps, keeps_leaveWait, keeps_lowerCap, keeps_modDie, keeps_modFace, keeps_modHst, keeps_requeueTub, keeps_takeRole]

theorem keeps_retirePacket (d j : Nat) (wasActive : Bool) (s : State) : Keeps s (retirePacket d j wasActive s) := by
  unfold retirePacket; grind [Keeps, keeps_lowerCap, keeps_raiseAny, keeps_requeueTub]

theorem keeps_retireKind (d k : Nat) (active : Bool) (s : State) : Keeps s (retireKind d k active s) := by
  unfold retireKind; grind [Keeps, keeps_lowerCap, keeps_requeueTub, keeps_retireFace, keeps_retirePacket]

theorem keeps_retireUnit (d k : Nat) (s : State) : Keeps s (retireUnit d k s) := by
  unfold retireUnit; grind [Keeps, keeps_modCluster, keeps_modDie, keeps_raiseAny, keeps_retireKind, keeps_settleCap]

theorem keeps_repairRow (d k : Nat) (s : State) : Keeps s (repairRow d k s) := by
  unfold repairRow; grind [Keeps, keeps_modCan, keeps_raiseAny, keeps_retireUnit]

theorem keeps_execAssaySelfTest (die unit : Nat) (pass : Bool) (s : State) : ∀ t, execAssaySelfTest die unit pass s = .next t → Keeps s t := by
  unfold execAssaySelfTest; grind [Keeps, keeps_raiseAny, keeps_repairRow, keeps_retireUnit]

theorem keeps_execCanaryMeasure (die k : Nat) (slack : BitVec 8) (s : State) : ∀ t, execCanaryMeasure die k slack s = .next t → Keeps s t := by
  unfold execCanaryMeasure; grind [Keeps, keeps_draw, keeps_modCluster, keeps_retireUnit]

theorem keeps_execReplan (die : Nat) (auto : Bool) (s : State) : ∀ t, execReplan die auto s = .next t → Keeps s t := by
  unfold execReplan; intro t h; try dsimp (iota := false) only at h
  repeat' split at h
  all_goals (injection h with h; subst h)
  all_goals repeat' with_reducible first | exact Keeps.refl _ | assumption | simp (iota := false) only [keeps_mk_iff] | refine Keeps.trans ?_ (keeps_advance ..) | refine Keeps.trans ?_ (keeps_modCan ..)

theorem keeps_execMarginReplanDone (die : Nat) (slack : List (Nat × List (BitVec 8))) (s : State) : ∀ t, execMarginReplanDone die slack s = .next t → Keeps s t := by
  unfold execMarginReplanDone; intro t h; try dsimp (iota := false) only at h
  repeat' split at h
  all_goals (injection h with h; subst h)
  all_goals repeat' with_reducible first | exact Keeps.refl _ | assumption | simp (iota := false) only [keeps_mk_iff] | refine Keeps.trans ?_ (keeps_advance ..) | refine Keeps.trans ?_ (keeps_forAll _ _ _ fun _ _ => ?_) | refine Keeps.trans ?_ (keeps_modCan ..) | refine Keeps.trans ?_ (keeps_modCluster ..) | refine Keeps.trans ?_ (keeps_raiseAny ..)

theorem keeps_stepBins (s : State) : Keeps s (stepBins s) := by
  unfold stepBins; try dsimp (iota := false) only
  repeat' with_reducible first | exact Keeps.refl _ | assumption | simp (iota := false) only [keeps_mk_iff] | refine Keeps.trans ?_ (keeps_mapDies ..)

theorem keeps_countHours (b : Nat) (s : State) : Keeps s (countHours b s) := by
  unfold countHours; try dsimp (iota := false) only
  repeat' with_reducible first | exact Keeps.refl _ | assumption | simp (iota := false) only [keeps_mk_iff] | refine Keeps.trans ?_ (keeps_mapDies ..) | split

/-! ## Relabel -/

theorem keeps_relabel (ms : Int) (s : State) : Keeps s (relabel ms s) := by
  unfold relabel; try dsimp (iota := false) only
  repeat' with_reducible first | exact Keeps.refl _ | assumption | simp (iota := false) only [keeps_mk_iff] | refine Keeps.trans ?_ (keeps_mapDies ..)

/-! ## Pair -/

theorem keeps_modPair (s : State) (f : Pair → Pair) : Keeps s (State.modPair s f) := by
  unfold State.modPair; try dsimp (iota := false) only
  repeat' with_reducible first | exact Keeps.refl _ | assumption | simp (iota := false) only [keeps_mk_iff]

theorem keeps_modPar (s : State) (d : Nat) (f : Par → Par) : Keeps s (State.modPar s d f) := by
  unfold State.modPar; try dsimp (iota := false) only
  repeat' with_reducible first | exact Keeps.refl _ | assumption | simp (iota := false) only [keeps_mk_iff] | refine Keeps.trans ?_ (keeps_modDie ..)

theorem keeps_diverge (l : BitVec 16) (s : State) : Keeps s (diverge l s) := by
  unfold diverge
  refine keeps_ite _ _ _ _ (Keeps.refl s) ?_
  extract_lets u at_
  have k : Keeps s u := keeps_forAll _ _ _ fun a v => (keeps_modLeg ..).trans (keeps_excludeLeg ..)
  clear_value u
  exact k.trans ((keeps_modPair ..).trans ((keeps_parEv ..).trans (keeps_emit ..)))

theorem keeps_divergeDie (d : Nat) (s : State) : Keeps s (divergeDie d s) := by
  unfold divergeDie; try dsimp (iota := false) only
  repeat' with_reducible first | exact Keeps.refl _ | assumption | simp (iota := false) only [keeps_mk_iff] | refine Keeps.trans ?_ (keeps_diverge ..) | refine Keeps.trans ?_ (keeps_forAll _ _ _ fun _ _ => ?_)

theorem keeps_goActive (s : State) : Keeps s (goActive s) := by
  unfold goActive; try dsimp (iota := false) only
  repeat' with_reducible first | exact Keeps.refl _ | assumption | simp (iota := false) only [keeps_mk_iff] | refine Keeps.trans ?_ (keeps_mapDies ..) | refine Keeps.trans ?_ (keeps_modPair ..)

theorem keeps_goJoining (s : State) : Keeps s (goJoining s) := by
  unfold goJoining; try dsimp (iota := false) only
  repeat' with_reducible first | exact Keeps.refl _ | assumption | simp (iota := false) only [keeps_mk_iff] | refine Keeps.trans ?_ (keeps_diverge ..) | refine Keeps.trans ?_ (keeps_forAll _ _ _ fun _ _ => ?_) | refine Keeps.trans ?_ (keeps_mapDies ..) | refine Keeps.trans ?_ (keeps_modPair ..)

theorem keeps_execPairRoleSettle (p : PeerSeen) (s : State) : ∀ t, execPairRoleSettle p s = .next t → Keeps s t := by
  unfold execPairRoleSettle; intro t h; try dsimp (iota := false) only at h
  repeat' split at h
  all_goals (injection h with h; subst h)
  all_goals repeat' with_reducible first | exact Keeps.refl _ | assumption | simp (iota := false) only [keeps_mk_iff] | refine Keeps.trans ?_ (keeps_goActive ..) | refine Keeps.trans ?_ (keeps_goJoining ..) | refine Keeps.trans ?_ (keeps_modPair ..) | refine Keeps.trans ?_ (keeps_parEv ..) | refine Keeps.trans ?_ (keeps_raiseAny ..)

theorem keeps_execPeerSearchTimeout (s : State) : ∀ t, execPeerSearchTimeout s = .next t → Keeps s t := by
  unfold execPeerSearchTimeout; intro t h; try dsimp (iota := false) only at h
  repeat' split at h
  all_goals (injection h with h; subst h)
  all_goals repeat' with_reducible first | exact Keeps.refl _ | assumption | simp (iota := false) only [keeps_mk_iff] | refine Keeps.trans ?_ (keeps_goActive ..) | refine Keeps.trans ?_ (keeps_goJoining ..) | refine Keeps.trans ?_ (keeps_modPair ..)

theorem keeps_installKey (k : KeyCopy) (s : State) : Keeps s (installKey k s) := by
  unfold installKey
  extract_lets slot d u w
  have k1 : Keeps s u := keeps_modSlot ..
  have k2 : Keeps u w := keeps_ite _ _ _ _ (keeps_modSlot ..) (Keeps.refl u)
  exact k1.trans (k2.trans (keeps_ite _ _ _ _ (keeps_sealSlots ..) (Keeps.refl w)))

theorem keeps_installBytes (e : Nat × List Byte) (s : State) : Keeps s (installBytes e s) := by
  unfold installBytes; grind [Keeps, tabWf_tset, tabWf_wipe, tabWf_wr64, tabWf_wrBytes]

theorem keeps_rematch (s : State) : Keeps s (rematch s) := by
  unfold rematch; try dsimp (iota := false) only
  repeat' with_reducible first | exact Keeps.refl _ | assumption | simp (iota := false) only [keeps_mk_iff] | refine Keeps.trans ?_ (keeps_forAll _ _ _ fun _ _ => ?_) | refine Keeps.trans ?_ (keeps_modPair ..) | refine Keeps.trans ?_ (keeps_standbyRtp ..) | split

theorem keeps_sealMp (mp : BitVec 64) (s : State) : Keeps s (sealMp mp s) := by
  unfold sealMp; try dsimp (iota := false) only
  repeat' with_reducible first | exact Keeps.refl _ | assumption | simp (iota := false) only [keeps_mk_iff] | refine Keeps.trans ?_ (keeps_forAll _ _ _ fun _ _ => ?_) | refine Keeps.trans ?_ (keeps_freePacket ..) | refine Keeps.trans ?_ (keeps_modPair ..) | refine Keeps.trans ?_ (keeps_parCnt ..)

theorem keeps_ledgerAdopt (isConf : Bool) (id : BitVec 16) (mp : BitVec 64) (sample : Option (BitVec 6)) (half : List Byte) (subs : List (Nat × List Byte)) (keys : List KeyCopy) (s : State) : Keeps s (ledgerAdopt isConf id mp sample half subs keys s) := by
  unfold ledgerAdopt; try dsimp (iota := false) only
  repeat' with_reducible first | exact Keeps.refl _ | assumption | simp (iota := false) only [keeps_mk_iff] | refine Keeps.trans ?_ (keeps_adoptEntry ..) | refine Keeps.trans ?_ (keeps_advanceTo ..) | refine Keeps.trans ?_ (keeps_endMp ..) | refine Keeps.trans ?_ (keeps_forAll _ _ _ fun _ _ => ?_) | refine Keeps.trans ?_ (keeps_installBytes ..) | refine Keeps.trans ?_ (keeps_installKey ..)

theorem keeps_ledgerFlip (d : Nat) (commit : Bool) (mp : BitVec 64) (layouts : List (BitVec 16 × List Byte)) (s : State) : Keeps s (ledgerFlip d commit mp layouts s) := by
  unfold ledgerFlip; try dsimp (iota := false) only
  repeat' with_reducible first | exact Keeps.refl _ | assumption | simp (iota := false) only [keeps_mk_iff] | refine Keeps.trans ?_ (keeps_advanceTo ..) | refine Keeps.trans ?_ (keeps_commitGroup ..) | refine Keeps.trans ?_ (keeps_forAll _ _ _ fun _ _ => ?_) | refine Keeps.trans ?_ (keeps_galCnt ..) | refine Keeps.trans ?_ (keeps_galEv ..) | refine Keeps.trans ?_ (keeps_installBytes ..) | split

theorem keeps_ledgerForward (d idx : Nat) (want : Option (BitVec 2 × BitVec 2)) (s : State) : Keeps s (ledgerForward d idx want s) := by
  unfold ledgerForward; try dsimp (iota := false) only
  repeat' with_reducible first | exact Keeps.refl _ | assumption | simp (iota := false) only [keeps_mk_iff] | refine Keeps.trans ?_ (keeps_pauseItem ..) | refine Keeps.trans ?_ (keeps_putItem ..) | split

theorem keeps_execLedgerRecord (die : Nat) (r : LedgerRec) (s : State) : ∀ t, execLedgerRecord die r s = .next t → Keeps s t := by
  unfold execLedgerRecord; grind [Keeps, keeps_ledger, keeps_ledgerAdopt, keeps_ledgerFlip, keeps_ledgerForward, keeps_modJb, keeps_modPair, keeps_modTx, keeps_parCnt, keeps_rematch, keeps_sealMp]

theorem keeps_execLedgerFetch (die : Nat) (r : LedgerRec) (got : Option RxPacket) (s : State) : ∀ t, execLedgerFetch die r got s = .next t → Keeps s t := by
  unfold execLedgerFetch; intro t h; try dsimp (iota := false) only at h
  repeat' split at h
  all_goals (injection h with h; subst h)
  all_goals repeat' with_reducible first | exact Keeps.refl _ | assumption | simp (iota := false) only [keeps_mk_iff] | refine Keeps.trans ?_ (keeps_diverge ..) | refine Keeps.trans ?_ (keeps_emit ..) | refine Keeps.trans ?_ (keeps_jbPoolAdd ..) | refine Keeps.trans ?_ (keeps_ledger ..) | refine Keeps.trans ?_ (keeps_modPair ..) | refine Keeps.trans ?_ (keeps_parCnt ..) | refine Keeps.trans ?_ (keeps_pktPoolAdd ..) | refine Keeps.trans ?_ (keeps_raise ..) | refine Keeps.trans ?_ (keeps_standbyRtp ..)

theorem keeps_installReseed (leg : BitVec 16) (r : Reseed) (b : Nat) (s : State) : Keeps s (installReseed leg r b s) := by
  unfold installReseed
  extract_lets s1 s2 s3 s4 s5 s6 s7 s8 others s9
  have k1 : Keeps s s1 := (keeps_advanceTo ..).trans (keeps_endMp ..)
  have k2 : Keeps s1 s2 := (keeps_forAll _ _ _ fun a u => keeps_installBytes ..).trans (keeps_forAll _ _ _ fun a u => keeps_installKey ..)
  have k3 : Keeps s2 s3 := keeps_forAll _ _ _ fun a u => keeps_modLeg ..
  have k4 : Keeps s3 s4 := keeps_forAll _ _ _ fun a u => keeps_modConf ..
  have k5 : Keeps s4 s5 := keeps_forAll _ _ _ fun a u => keeps_modDec ..
  have k6 : Keeps s5 s6 := keeps_forAll _ _ _ fun a u => keeps_modEnc ..
  have k7 : Keeps s6 s7 := keeps_modLeg ..
  have k8 : Keeps s7 s8 := keeps_modPair ..
  have k9 : Keeps s8 s9 := keeps_forAll _ _ _ fun a u => keeps_ite _ _ _ _ (Keeps.refl u) (keeps_modLeg ..)
  exact k1.trans (k2.trans (k3.trans (k4.trans (k5.trans (k6.trans (k7.trans (k8.trans (k9.trans ((keeps_parCnt ..).trans (keeps_refreshLoads ..))))))))))

theorem keeps_execReseedInstall (leg : BitVec 16) (r : Option Reseed) (s : State) : ∀ t, execReseedInstall leg r s = .next t → Keeps s t := by
  unfold execReseedInstall; intro t h; try dsimp (iota := false) only at h
  repeat' split at h
  all_goals (injection h with h; subst h)
  all_goals repeat' with_reducible first | exact Keeps.refl _ | assumption | simp (iota := false) only [keeps_mk_iff] | refine Keeps.trans ?_ (keeps_installReseed ..) | refine Keeps.trans ?_ (keeps_modPair ..)

theorem keeps_rollDigests (b : Nat) (s : State) : Keeps s (rollDigests b s) := by
  unfold rollDigests; try dsimp (iota := false) only
  repeat' with_reducible first | exact Keeps.refl _ | assumption | simp (iota := false) only [keeps_mk_iff] | refine Keeps.trans ?_ (keeps_mapDies ..) | split

theorem keeps_execDigestSend (die second : Nat) (peerInStep : Bool) (s : State) : ∀ t, execDigestSend die second peerInStep s = .next t → Keeps s t := by
  unfold execDigestSend; intro t h; try dsimp (iota := false) only at h
  repeat' split at h
  all_goals (injection h with h; subst h)
  all_goals repeat' with_reducible first | exact Keeps.refl _ | assumption | simp (iota := false) only [keeps_mk_iff] | refine Keeps.trans ?_ (keeps_emit ..) | refine Keeps.trans ?_ (keeps_modPair ..)

theorem keeps_mismatch (d : Nat) (u : BitVec 16) (s : State) : Keeps s (mismatch d u s) := by
  unfold mismatch; try dsimp (iota := false) only
  repeat' with_reducible first | exact Keeps.refl _ | assumption | simp (iota := false) only [keeps_mk_iff] | refine Keeps.trans ?_ (keeps_diverge ..) | refine Keeps.trans ?_ (keeps_parCnt ..) | refine Keeps.trans ?_ (keeps_raise ..) | split

theorem keeps_soundMismatch (d second : Nat) (s : State) : Keeps s (soundMismatch d second s) := by
  unfold soundMismatch; try dsimp (iota := false) only
  repeat' with_reducible first | exact Keeps.refl _ | assumption | simp (iota := false) only [keeps_mk_iff] | refine Keeps.trans ?_ (keeps_modPair ..) | refine Keeps.trans ?_ (keeps_raise ..) | split

theorem keeps_noteInStep (second : Nat) (s : State) : Keeps s (noteInStep second s) := by
  unfold noteInStep; try dsimp (iota := false) only
  repeat' with_reducible first | exact Keeps.refl _ | assumption | simp (iota := false) only [keeps_mk_iff] | refine Keeps.trans ?_ (keeps_modPair ..) | refine Keeps.trans ?_ (keeps_parEv ..) | split

theorem keeps_execDigestCompare (die second : Nat) (image : BitVec 64) (version : BitVec 32) (theirs : List (BitVec 16 × BitVec 32)) (failed : List Nat) (s : State) : ∀ t, execDigestCompare die second image version theirs failed s = .next t → Keeps s t := by
  unfold execDigestCompare; intro t h; try dsimp (iota := false) only at h
  repeat' split at h
  all_goals (injection h with h; subst h)
  all_goals repeat' with_reducible first | exact Keeps.refl _ | assumption | simp (iota := false) only [keeps_mk_iff] | refine Keeps.trans ?_ (keeps_forAll _ _ _ fun _ _ => ?_) | refine Keeps.trans ?_ (keeps_mismatch ..) | refine Keeps.trans ?_ (keeps_modPar ..) | refine Keeps.trans ?_ (keeps_noteInStep ..) | refine Keeps.trans ?_ (keeps_raiseAny ..) | refine Keeps.trans ?_ (keeps_retireUnit ..) | refine Keeps.trans ?_ (keeps_soundMismatch ..)

theorem keeps_toBeat (s : State) : Keeps s (toBeat s) := by
  unfold toBeat; try dsimp (iota := false) only
  repeat' with_reducible first | exact Keeps.refl _ | assumption | simp (iota := false) only [keeps_mk_iff] | refine Keeps.trans ?_ (keeps_advance ..)

theorem keeps_settleBeats (s : State) : Keeps s (settleBeats s) := by
  unfold settleBeats; try dsimp (iota := false) only
  repeat' with_reducible first | exact Keeps.refl _ | assumption | simp (iota := false) only [keeps_mk_iff] | refine Keeps.trans ?_ (keeps_divergeDie ..) | refine Keeps.trans ?_ (keeps_forAll _ _ _ fun _ _ => ?_) | refine Keeps.trans ?_ (keeps_mapDies ..) | refine Keeps.trans ?_ (keeps_modPair ..) | refine Keeps.trans ?_ (keeps_raise ..) | split

theorem keeps_execHeartbeatSend (s : State) : ∀ t, execHeartbeatSend s = .next t → Keeps s t := by
  unfold execHeartbeatSend; intro t h; try dsimp (iota := false) only at h
  repeat' split at h
  all_goals (injection h with h; subst h)
  all_goals repeat' with_reducible first | exact Keeps.refl _ | assumption | simp (iota := false) only [keeps_mk_iff] | refine Keeps.trans ?_ (keeps_emit ..) | refine Keeps.trans ?_ (keeps_forAll _ _ _ fun _ _ => ?_) | refine Keeps.trans ?_ (keeps_modPair ..) | refine Keeps.trans ?_ (keeps_settleBeats ..) | refine Keeps.trans ?_ (keeps_toBeat ..)

theorem keeps_ownArrivals (s : State) : Keeps s (ownArrivals s) := by
  unfold ownArrivals; try dsimp (iota := false) only
  repeat' with_reducible first | exact Keeps.refl _ | assumption | simp (iota := false) only [keeps_mk_iff] | refine Keeps.trans ?_ (keeps_forAll _ _ _ fun _ _ => ?_) | refine Keeps.trans ?_ (keeps_modPair ..) | refine Keeps.trans ?_ (keeps_releaseRtp ..)

theorem keeps_losePeer (s : State) : Keeps s (losePeer s) := by
  unfold losePeer; try dsimp (iota := false) only
  repeat' with_reducible first | exact Keeps.refl _ | assumption | simp (iota := false) only [keeps_mk_iff] | refine Keeps.trans ?_ (keeps_modPair ..) | refine Keeps.trans ?_ (keeps_ownArrivals ..) | refine Keeps.trans ?_ (keeps_parEv ..) | refine Keeps.trans ?_ (keeps_raise ..) | split

theorem keeps_execHeartbeatMiss (die : Nat) (s : State) : ∀ t, execHeartbeatMiss die s = .next t → Keeps s t := by
  unfold execHeartbeatMiss; intro t h; try dsimp (iota := false) only at h
  repeat' split at h
  all_goals (injection h with h; subst h)
  all_goals repeat' with_reducible first | exact Keeps.refl _ | assumption | simp (iota := false) only [keeps_mk_iff] | refine Keeps.trans ?_ (keeps_advance ..) | refine Keeps.trans ?_ (keeps_losePeer ..) | refine Keeps.trans ?_ (keeps_modPar ..)

theorem keeps_execPairAliveInChange (level : Bool) (s : State) : ∀ t, execPairAliveInChange level s = .next t → Keeps s t := by
  unfold execPairAliveInChange; intro t h; try dsimp (iota := false) only at h
  all_goals (injection h with h; subst h)
  all_goals repeat' with_reducible first | exact Keeps.refl _ | assumption | simp (iota := false) only [keeps_mk_iff] | refine Keeps.trans ?_ (keeps_modPair ..)

theorem keeps_restartEgress (s : State) : Keeps s (restartEgress s) := by
  unfold restartEgress; try dsimp (iota := false) only
  repeat' with_reducible first | exact Keeps.refl _ | assumption | simp (iota := false) only [keeps_mk_iff] | refine Keeps.trans ?_ (keeps_forAll _ _ _ fun _ _ => ?_) | refine Keeps.trans ?_ (keeps_mapDies ..) | refine Keeps.trans ?_ (keeps_modTx ..)

theorem keeps_startOutput (t : Nat) (s : State) : Keeps s (startOutput t s) := by
  unfold startOutput; grind [Keeps, keeps_endMp, keeps_goActive, keeps_modPair, keeps_restartEgress, keeps_servoEval]

theorem keeps_execTakeoverBoundary (s : State) : ∀ t, execTakeoverBoundary s = .next t → Keeps s t := by
  unfold execTakeoverBoundary; grind [Keeps, keeps_advanceTo, keeps_forAll, keeps_intraRequest, keeps_modEnc, keeps_modPair, keeps_startOutput]

theorem keeps_execAddressAnnouncement (s : State) : ∀ t, execAddressAnnouncement s = .next t → Keeps s t := by
  unfold execAddressAnnouncement; grind [Keeps, keeps_advanceTo, keeps_forAll, keeps_modPair, keeps_modSub8]

theorem keeps_execTakeoverCheck (bad : List (Nat × Nat)) (s : State) : ∀ t, execTakeoverCheck bad s = .next t → Keeps s t := by
  unfold execTakeoverCheck; grind [Keeps, keeps_advanceTo, keeps_forAll, keeps_modPair, keeps_modSub8, keeps_parEv, keeps_raise]

theorem keeps_execSwitch (v : Word) (s : State) : ∀ t, execSwitch v s = .next t → Keeps s t := by
  unfold execSwitch; intro t h; try dsimp (iota := false) only at h
  repeat' split at h
  all_goals (injection h with h; subst h)
  all_goals repeat' with_reducible first | exact Keeps.refl _ | assumption | simp (iota := false) only [keeps_mk_iff] | refine Keeps.trans ?_ (keeps_emit ..) | refine Keeps.trans ?_ (keeps_modPair ..)

theorem keeps_plannedActive (t : BitVec 64) (s : State) : Keeps s (plannedActive t s) := by
  unfold plannedActive; try dsimp (iota := false) only
  repeat' with_reducible first | exact Keeps.refl _ | assumption | simp (iota := false) only [keeps_mk_iff] | refine Keeps.trans ?_ (keeps_goJoining ..) | refine Keeps.trans ?_ (keeps_modPair ..)

theorem keeps_execPlannedSwitch (peerMp : BitVec 64) (s : State) : ∀ t, execPlannedSwitch peerMp s = .next t → Keeps s t := by
  unfold execPlannedSwitch; grind [Keeps, keeps_advanceTo, keeps_endMp, keeps_modPair, keeps_parEv, keeps_plannedActive, keeps_startOutput]

/-! ## Power -/

theorem keeps_modPwr (s : State) (d : Nat) (f : Pwr → Pwr) : Keeps s (State.modPwr s d f) := by
  unfold State.modPwr; try dsimp (iota := false) only
  repeat' with_reducible first | exact Keeps.refl _ | assumption | simp (iota := false) only [keeps_mk_iff] | refine Keeps.trans ?_ (keeps_modDie ..)

theorem keeps_modErr (s : State) (d : Nat) (f : Err → Err) : Keeps s (State.modErr s d f) := by
  unfold State.modErr; try dsimp (iota := false) only
  repeat' with_reducible first | exact Keeps.refl _ | assumption | simp (iota := false) only [keeps_mk_iff] | refine Keeps.trans ?_ (keeps_modDie ..)

theorem keeps_railMonitor (die rail : Nat) (below : Bool) (s : State) : Keeps s (railMonitor die rail below s) := by
  unfold railMonitor; try dsimp (iota := false) only
  repeat' with_reducible first | exact Keeps.refl _ | assumption | simp (iota := false) only [keeps_mk_iff] | refine Keeps.trans ?_ (keeps_modPwr ..) | refine Keeps.trans ?_ (keeps_pwrEv ..) | split

theorem keeps_execRailWarning (die rail : Nat) (below : Bool) (s : State) : ∀ t, execRailWarning die rail below s = .next t → Keeps s t := by
  unfold execRailWarning; intro t h; try dsimp (iota := false) only at h
  repeat' split at h
  all_goals (injection h with h; subst h)
  all_goals repeat' with_reducible first | exact Keeps.refl _ | assumption | simp (iota := false) only [keeps_mk_iff] | refine Keeps.trans ?_ (keeps_railMonitor ..) | refine Keeps.trans ?_ (keeps_raiseAny ..)

theorem keeps_execBraceEntry (die : Nat) (sram : Bool) (s : State) : ∀ t, execBraceEntry die sram s = .next t → Keeps s t := by
  unfold execBraceEntry; intro t h; try dsimp (iota := false) only at h
  repeat' split at h
  all_goals (injection h with h; subst h)
  all_goals repeat' with_reducible first | exact Keeps.refl _ | assumption | simp (iota := false) only [keeps_mk_iff] | refine Keeps.trans ?_ (keeps_modPwr ..) | refine Keeps.trans ?_ (keeps_pwrEv ..) | refine Keeps.trans ?_ (keeps_railMonitor ..) | refine Keeps.trans ?_ (keeps_raiseAny ..)

theorem keeps_execBraceExit (die : Nat) (s : State) : ∀ t, execBraceExit die s = .next t → Keeps s t := by
  unfold execBraceExit; intro t h; try dsimp (iota := false) only at h
  repeat' split at h
  all_goals (injection h with h; subst h)
  all_goals repeat' with_reducible first | exact Keeps.refl _ | assumption | simp (iota := false) only [keeps_mk_iff] | refine Keeps.trans ?_ (keeps_modPwr ..) | refine Keeps.trans ?_ (keeps_raise ..)

theorem keeps_execBraceSustained (die : Nat) (s : State) : ∀ t, execBraceSustained die s = .next t → Keeps s t := by
  unfold execBraceSustained; intro t h; try dsimp (iota := false) only at h
  repeat' split at h
  all_goals (injection h with h; subst h)
  all_goals repeat' with_reducible first | exact Keeps.refl _ | assumption | simp (iota := false) only [keeps_mk_iff] | refine Keeps.trans ?_ (keeps_advance ..) | refine Keeps.trans ?_ (keeps_modPwr ..) | refine Keeps.trans ?_ (keeps_pwrEv ..) | refine Keeps.trans ?_ (keeps_raiseAny ..)

theorem keeps_execBraceAlarmClear (die : Nat) (s : State) : ∀ t, execBraceAlarmClear die s = .next t → Keeps s t := by
  unfold execBraceAlarmClear; intro t h; try dsimp (iota := false) only at h
  repeat' split at h
  all_goals (injection h with h; subst h)
  all_goals repeat' with_reducible first | exact Keeps.refl _ | assumption | simp (iota := false) only [keeps_mk_iff] | refine Keeps.trans ?_ (keeps_advance ..) | refine Keeps.trans ?_ (keeps_modPwr ..)

theorem keeps_execJunctionHot (die : Nat) (s : State) : ∀ t, execJunctionHot die s = .next t → Keeps s t := by
  unfold execJunctionHot; intro t h; try dsimp (iota := false) only at h
  repeat' split at h
  all_goals (injection h with h; subst h)
  all_goals repeat' with_reducible first | exact Keeps.refl _ | assumption | simp (iota := false) only [keeps_mk_iff] | refine Keeps.trans ?_ (keeps_modPwr ..) | refine Keeps.trans ?_ (keeps_pwrEv ..) | refine Keeps.trans ?_ (keeps_raiseAny ..)

theorem keeps_execJunctionEpisodeEnd (die : Nat) (s : State) : ∀ t, execJunctionEpisodeEnd die s = .next t → Keeps s t := by
  unfold execJunctionEpisodeEnd; intro t h; try dsimp (iota := false) only at h
  all_goals (injection h with h; subst h)
  all_goals repeat' with_reducible first | exact Keeps.refl _ | assumption | simp (iota := false) only [keeps_mk_iff] | refine Keeps.trans ?_ (keeps_modPwr ..)

theorem keeps_execErrHeadWrite (die : Nat) (v : Word) (s : State) : ∀ t, execErrHeadWrite die v s = .next t → Keeps s t := by
  unfold execErrHeadWrite; intro t h; try dsimp (iota := false) only at h
  all_goals (injection h with h; subst h)
  all_goals repeat' with_reducible first | exact Keeps.refl _ | assumption | simp (iota := false) only [keeps_mk_iff] | refine Keeps.trans ?_ (keeps_modErr ..)

theorem keeps_execErrClear (die : Nat) (v : Word) (s : State) : ∀ t, execErrClear die v s = .next t → Keeps s t := by
  unfold execErrClear; intro t h; try dsimp (iota := false) only at h
  repeat' split at h
  all_goals (injection h with h; subst h)
  all_goals repeat' with_reducible first | exact Keeps.refl _ | assumption | simp (iota := false) only [keeps_mk_iff] | refine Keeps.trans ?_ (keeps_modErr ..)

theorem keeps_execErrOvfCfgWrite (die : Nat) (v : Word) (s : State) : ∀ t, execErrOvfCfgWrite die v s = .next t → Keeps s t := by
  unfold execErrOvfCfgWrite; intro t h; try dsimp (iota := false) only at h
  repeat' split at h
  all_goals (injection h with h; subst h)
  all_goals repeat' with_reducible first | exact Keeps.refl _ | assumption | simp (iota := false) only [keeps_mk_iff] | refine Keeps.trans ?_ (keeps_modErr ..)

/-! ## Dram -/

theorem keeps_waitThrottle (d : Nat) (l : DramLoc) (req : Byte) (s : State) : Keeps s (waitThrottle d l req s) := by
  unfold waitThrottle; try dsimp (iota := false) only
  repeat' with_reducible first | exact Keeps.refl _ | assumption | simp (iota := false) only [keeps_mk_iff] | refine Keeps.trans ?_ (keeps_advance ..) | refine Keeps.trans ?_ (keeps_modDrc ..) | split

theorem keeps_rowEpisode (d : Nat) (l : DramLoc) (r : RowCount) (s : State) : Keeps s (rowEpisode d l r s) := by
  unfold rowEpisode; try dsimp (iota := false) only
  repeat' with_reducible first | exact Keeps.refl _ | assumption | simp (iota := false) only [keeps_mk_iff] | refine Keeps.trans ?_ (keeps_drcCnt ..) | refine Keeps.trans ?_ (keeps_drcEv ..) | refine Keeps.trans ?_ (keeps_modDrc ..) | refine Keeps.trans ?_ (keeps_raiseFrom ..)

theorem keeps_activate (d a : Nat) (req : Byte) (s : State) : Keeps s (activate d a req s) := by
  unfold activate; try dsimp (iota := false) only
  repeat' with_reducible first | exact Keeps.refl _ | assumption | simp (iota := false) only [keeps_mk_iff] | refine Keeps.trans ?_ (keeps_modDrc ..) | refine Keeps.trans ?_ (keeps_rowEpisode ..) | refine Keeps.trans ?_ (keeps_waitThrottle ..) | split

theorem keeps_execRowWindowEnd (die : Nat) (s : State) : ∀ t, execRowWindowEnd die s = .next t → Keeps s t := by
  unfold execRowWindowEnd; intro t h; try dsimp (iota := false) only at h
  all_goals (injection h with h; subst h)
  all_goals repeat' with_reducible first | exact Keeps.refl _ | assumption | simp (iota := false) only [keeps_mk_iff] | refine Keeps.trans ?_ (keeps_modDrc ..)

theorem keeps_corrected (d a : Nat) (req : Byte) (s : State) : Keeps s (corrected d a req s) := by
  unfold corrected; try dsimp (iota := false) only
  repeat' with_reducible first | exact Keeps.refl _ | assumption | simp (iota := false) only [keeps_mk_iff] | refine Keeps.trans ?_ (keeps_drcCnt ..) | refine Keeps.trans ?_ (keeps_drcEv ..) | refine Keeps.trans ?_ (keeps_modDrc ..) | refine Keeps.trans ?_ (keeps_raiseOnce ..)

theorem keeps_dmaPoison (d c ch : Nat) (s : State) : Keeps s (dmaPoison d c ch s) := by
  unfold dmaPoison; try dsimp (iota := false) only
  repeat' with_reducible first | exact Keeps.refl _ | assumption | simp (iota := false) only [keeps_mk_iff] | refine Keeps.trans ?_ (keeps_modFace ..) | refine Keeps.trans ?_ (keeps_resume ..) | refine Keeps.trans ?_ (keeps_retryDma ..) | split

theorem keeps_takePoison (d a : Nat) (req : Byte) (s : State) : Keeps s (takePoison d a req s) := by
  unfold takePoison
  extract_lets r c
  refine keeps_ite _ _ _ _ (keeps_emit ..) (keeps_ite _ _ _ _ (keeps_forAll _ _ _ fun ch u => keeps_dmaPoison ..) ?_)
  split
  · split
    · rename_i t h; exact keeps_execLockstepStop _ _ _ h
    · exact Keeps.refl s
  · have k := keeps_draw s
    generalize draw s = q at k ⊢
    obtain ⟨v, u⟩ := q
    refine Keeps.trans k ?_
    extract_lets legs leg confs decs
    exact keeps_ite _ _ _ _ (keeps_modDec ..) (keeps_ite _ _ _ _ (keeps_modLeg ..) (keeps_ite _ _ _ _ (keeps_modConf ..) (keeps_blockFail ..)))

theorem keeps_execDramAccess (a : DramReq) (s : State) : ∀ t, execDramAccess a s = .next t → Keeps s t := by
  unfold execDramAccess; grind [Keeps, keeps_activate, keeps_corrected, keeps_devWr, keeps_drcCnt, keeps_poisoned, keeps_raiseFrom, keeps_takePoison]

theorem keeps_execSameBankRefresh (die : Nat) (s : State) : ∀ t, execSameBankRefresh die s = .next t → Keeps s t := by
  unfold execSameBankRefresh; intro t h; try dsimp (iota := false) only at h
  all_goals (injection h with h; subst h)
  all_goals repeat' with_reducible first | exact Keeps.refl _ | assumption | simp (iota := false) only [keeps_mk_iff] | refine Keeps.trans ?_ (keeps_modDrc ..)

theorem keeps_execDramTemperatureRead (die : Nat) (milliC : Int) (s : State) : ∀ t, execDramTemperatureRead die milliC s = .next t → Keeps s t := by
  unfold execDramTemperatureRead; intro t h; try dsimp (iota := false) only at h
  repeat' split at h
  all_goals (injection h with h; subst h)
  all_goals repeat' with_reducible first | exact Keeps.refl _ | assumption | simp (iota := false) only [keeps_mk_iff] | refine Keeps.trans ?_ (keeps_drcEv ..) | refine Keeps.trans ?_ (keeps_modDrc ..) | refine Keeps.trans ?_ (keeps_raiseAny ..)

theorem keeps_execRetrainCheck (die sub driftPs : Nat) (dTempMilliC : Int) (s : State) : ∀ t, execRetrainCheck die sub driftPs dTempMilliC s = .next t → Keeps s t := by
  unfold execRetrainCheck; intro t h; try dsimp (iota := false) only at h
  repeat' split at h
  all_goals (injection h with h; subst h)
  all_goals repeat' with_reducible first | exact Keeps.refl _ | assumption | simp (iota := false) only [keeps_mk_iff] | refine Keeps.trans ?_ (keeps_drcCnt ..) | refine Keeps.trans ?_ (keeps_drcEv ..) | refine Keeps.trans ?_ (keeps_modDrc ..)

theorem keeps_execPatrolScrub (die : Nat) (e : EccResult) (s : State) : ∀ t, execPatrolScrub die e s = .next t → Keeps s t := by
  unfold execPatrolScrub; intro t h; try dsimp (iota := false) only at h
  repeat' split at h
  all_goals (injection h with h; subst h)
  all_goals repeat' with_reducible first | exact Keeps.refl _ | assumption | simp (iota := false) only [keeps_mk_iff] | refine Keeps.trans ?_ (keeps_corrected ..) | refine Keeps.trans ?_ (keeps_drcCnt ..) | refine Keeps.trans ?_ (keeps_modDrc ..) | refine Keeps.trans ?_ (keeps_poisoned ..)

theorem keeps_execBwWindow (die : Nat) (demand : List (Nat × Nat)) (s : State) : ∀ t, execBwWindow die demand s = .next t → Keeps s t := by
  unfold execBwWindow; intro t h; try dsimp (iota := false) only at h
  all_goals (injection h with h; subst h)
  all_goals repeat' with_reducible first | exact Keeps.refl _ | assumption | simp (iota := false) only [keeps_mk_iff] | refine Keeps.trans ?_ (keeps_drainTrace ..) | refine Keeps.trans ?_ (keeps_modDie ..)

theorem keeps_modUbh (s : State) (d p : Nat) (f : Ubh → Ubh) : Keeps s (State.modUbh s d p f) := by
  unfold State.modUbh; try dsimp (iota := false) only
  repeat' with_reducible first | exact Keeps.refl _ | assumption | simp (iota := false) only [keeps_mk_iff] | refine Keeps.trans ?_ (keeps_modDie ..)

theorem keeps_lowerCapacity (d : Nat) (s : State) : Keeps s (lowerCapacity d s) := by
  unfold lowerCapacity; try dsimp (iota := false) only
  repeat' with_reducible first | exact Keeps.refl _ | assumption | simp (iota := false) only [keeps_mk_iff] | refine Keeps.trans ?_ (keeps_capEv ..) | refine Keeps.trans ?_ (keeps_draw_eq (by assumption)) | refine Keeps.trans ?_ (keeps_modDie ..) | split | refine Keeps.trans ?_ (keeps_draw ..)

theorem keeps_takeOut (d p : Nat) (s : State) : Keeps s (takeOut d p s) := by
  unfold takeOut; try dsimp (iota := false) only
  repeat' with_reducible first | exact Keeps.refl _ | assumption | simp (iota := false) only [keeps_mk_iff] | refine Keeps.trans ?_ (keeps_forAll _ _ _ fun _ _ => ?_) | refine Keeps.trans ?_ (keeps_modDie ..)

theorem keeps_execUbhanLaneFailure (die port : Nat) (s : State) : ∀ t, execUbhanLaneFailure die port s = .next t → Keeps s t := by
  unfold execUbhanLaneFailure; intro t h
  extract_lets u w at h
  split at h
  · injection h with h; subst h; exact Keeps.refl s
  split at h
  · injection h with h; subst h; exact (keeps_modUbh ..).trans (keeps_raiseAny ..)
  · have k : Keeps s w := (keeps_modUbh ..).trans (keeps_takeOut ..)
    clear_value w
    injection h with h; subst h
    exact k.trans (keeps_forAll _ _ _ fun a v => (keeps_lowerCapacity ..).trans (keeps_raiseAny ..))

/-! ## Queues -/

theorem keeps_modQueue (s : State) (d q : Nat) (f : QPrim → QPrim) : Keeps s (State.modQueue s d q f) := by
  unfold State.modQueue; try dsimp (iota := false) only
  repeat' with_reducible first | exact Keeps.refl _ | assumption | simp (iota := false) only [keeps_mk_iff] | refine Keeps.trans ?_ (keeps_modDie ..)

theorem keeps_execQueueWrite (die q : Nat) (bytes : List (BitVec 8)) (last : Bool) (s : State) : ∀ t, execQueueWrite die q bytes last s = .next t → Keeps s t := by
  unfold execQueueWrite; intro t h; try dsimp (iota := false) only at h
  repeat' split at h
  all_goals (injection h with h; subst h)
  all_goals repeat' with_reducible first | exact Keeps.refl _ | assumption | simp (iota := false) only [keeps_mk_iff] | refine Keeps.trans ?_ (keeps_forAll _ _ _ fun _ _ => ?_) | refine Keeps.trans ?_ (keeps_modQueue ..)

theorem keeps_execDrop (die q : Nat) (s : State) : ∀ t, execDrop die q s = .next t → Keeps s t := by
  unfold execDrop; intro t h; try dsimp (iota := false) only at h
  repeat' split at h
  all_goals (injection h with h; subst h)
  all_goals repeat' with_reducible first | exact Keeps.refl _ | assumption | simp (iota := false) only [keeps_mk_iff] | refine Keeps.trans ?_ (keeps_modQueue ..)

theorem keeps_countDiscarded (d q units : Nat) (s : State) : Keeps s (countDiscarded d q units s) := by
  unfold countDiscarded; try dsimp (iota := false) only
  repeat' with_reducible first | exact Keeps.refl _ | assumption | refine Keeps.trans ?_ (keeps_draw_eq (by assumption)) | refine Keeps.trans ?_ (keeps_forAll _ _ _ fun _ _ => ?_) | refine Keeps.trans ?_ (keeps_ingCnt ..) | refine Keeps.trans ?_ (keeps_ingEv ..) | refine Keeps.trans ?_ (keeps_modDie ..) | refine Keeps.trans ?_ (keeps_queueDrop ..) | refine Keeps.trans ?_ (keeps_raiseAny ..) | split | refine Keeps.trans ?_ (keeps_draw ..)

theorem keeps_execQueuePointerCheck (die q : Nat) (upset : BitVec 64) (s : State) : ∀ t, execQueuePointerCheck die q upset s = .next t → Keeps s t := by
  unfold execQueuePointerCheck; intro t h; try dsimp (iota := false) only at h
  repeat' split at h
  all_goals (injection h with h; subst h)
  all_goals repeat' with_reducible first | exact Keeps.refl _ | assumption | simp (iota := false) only [keeps_mk_iff] | refine Keeps.trans ?_ (keeps_countDiscarded ..) | refine Keeps.trans ?_ (keeps_drcCnt ..) | refine Keeps.trans ?_ (keeps_drcEv ..) | refine Keeps.trans ?_ (keeps_modQueue ..) | refine Keeps.trans ?_ (keeps_raise ..)

/-! ## Boundary -/

theorem keeps_takeWrites (s : State) : Keeps s (takeWrites s) := by
  unfold takeWrites; try dsimp (iota := false) only
  repeat' with_reducible first | exact Keeps.refl _ | assumption | simp (iota := false) only [keeps_mk_iff] | refine Keeps.trans ?_ (keeps_mapDies ..)

theorem keeps_publishBw (s : State) : Keeps s (publishBw s) := by
  unfold publishBw; try dsimp (iota := false) only
  repeat' with_reducible first | exact Keeps.refl _ | assumption | simp (iota := false) only [keeps_mk_iff] | refine Keeps.trans ?_ (keeps_mapDies ..)

theorem keeps_publishPower (s : State) : Keeps s (publishPower s) := by
  unfold publishPower; try dsimp (iota := false) only
  repeat' with_reducible first | exact Keeps.refl _ | assumption | simp (iota := false) only [keeps_mk_iff] | refine Keeps.trans ?_ (keeps_draw_eq (by assumption)) | refine Keeps.trans ?_ (keeps_forAll _ _ _ fun _ _ => ?_) | refine Keeps.trans ?_ (keeps_modPwr ..) | split | refine Keeps.trans ?_ (keeps_draw ..)

theorem keeps_finishSafeLoads (b : Nat) (s : State) : Keeps s (finishSafeLoads b s) := by
  unfold finishSafeLoads; try dsimp (iota := false) only
  repeat' with_reducible first | exact Keeps.refl _ | assumption | simp (iota := false) only [keeps_mk_iff] | refine Keeps.trans ?_ (keeps_finishSafeLoad ..) | refine Keeps.trans ?_ (keeps_forAll _ _ _ fun _ _ => ?_)

theorem keeps_deferBoundary (b f : Nat) (s : State) : Keeps s (deferBoundary b f s) := by
  unfold deferBoundary; try dsimp (iota := false) only
  repeat' with_reducible first | exact Keeps.refl _ | assumption | simp (iota := false) only [keeps_mk_iff] | refine Keeps.trans ?_ (keeps_modFq ..) | refine Keeps.trans ?_ (keeps_raiseFrom ..) | split

theorem keeps_idleGalleryTick (d b : Nat) (failed : List (BitVec 16)) (s : State) : Keeps s (idleGalleryTick d b failed s) := by
  unfold idleGalleryTick; try dsimp (iota := false) only
  repeat' with_reducible first | exact Keeps.refl _ | assumption | simp (iota := false) only [keeps_mk_iff] | refine Keeps.trans ?_ (keeps_encTick ..) | refine Keeps.trans ?_ (keeps_forAll _ _ _ fun _ _ => ?_)

theorem keeps_countUnserved (b : Nat) (s : State) : Keeps s (countUnserved b s) := by
  unfold countUnserved; try dsimp (iota := false) only
  repeat' with_reducible first | exact Keeps.refl _ | assumption | simp (iota := false) only [keeps_mk_iff] | refine Keeps.trans ?_ (keeps_forAll _ _ _ fun _ _ => ?_) | refine Keeps.trans ?_ (keeps_venCnt ..) | split

theorem keeps_videoBoundary (d b : Nat) (failed : List (BitVec 16)) (s : State) : Keeps s (videoBoundary d b failed s) := by
  unfold videoBoundary; grind [Keeps, keeps_decBoundary, keeps_encReports, keeps_idleGalleryTick, keeps_transcodeTick]

theorem keeps_egressBoundary (b : Nat) (s : State) : Keeps s (egressBoundary b s) := by
  unfold egressBoundary; grind [Keeps, keeps_ccStep, keeps_evaluateReceiver, keeps_forAll, keeps_measureLayers]

theorem keeps_sealMps (b : Nat) (s : State) : Keeps s (sealMps b s) := by
  unfold sealMps; try dsimp (iota := false) only
  repeat' with_reducible first | exact Keeps.refl _ | assumption | simp (iota := false) only [keeps_mk_iff] | refine Keeps.trans ?_ (keeps_forAll _ _ _ fun _ _ => ?_) | refine Keeps.trans ?_ (keeps_ledger ..) | refine Keeps.trans ?_ (keeps_modPar ..)

theorem keeps_execMpBoundary (f : MpFaults) (s : State) : ∀ t, execMpBoundary f s = .next t → Keeps s t := by
  intro t h
  unfold execMpBoundary at h
  extract_lets b s1 s2 s3 s4 s5 s6 s7 s8 s9 s10 s11 s12 at h
  injection h with h; subst h
  have k1 : Keeps s s1 := (keeps_toBoundary ..).trans (keeps_endMp ..)
  clear_value s1
  have k2 : Keeps s1 s2 := (keeps_sealMps ..).trans ((keeps_finishSafeLoads ..).trans ((keeps_endBadBells ..).trans (keeps_cacheMp ..)))
  clear_value s2
  have k3 : Keeps s2 s3 := (keeps_mk_iff s2 s2 ..).2 (Keeps.refl s2)
  clear_value s3
  have k4 : Keeps s3 s4 := (keeps_takeWrites ..).trans ((keeps_expireWait ..).trans (keeps_servoMp ..))
  clear_value s4
  have k5 : Keeps s4 s5 := keeps_forAll _ _ _ fun a u => (keeps_tdmStops ..).trans (keeps_waitingActions ..)
  clear_value s5
  have k6 : Keeps s5 s6 := keeps_audioStart ..
  clear_value s6
  have k7 : Keeps s6 s7 := keeps_forAll _ _ _ fun a u => keeps_stripeFail ..
  clear_value s7
  have k8 : Keeps s7 s8 := keeps_forAll _ _ _ fun a u => keeps_videoBoundary ..
  clear_value s8
  have k9 : Keeps s8 s9 := (keeps_egressBoundary ..).trans (keeps_countUnserved ..)
  clear_value s9
  have k10 : Keeps s9 s10 := (keeps_endConfAliases ..).trans (keeps_sweepCtxs ..)
  clear_value s10
  have k11 : Keeps s10 s11 := (keeps_stepBins ..).trans ((keeps_countHours ..).trans (keeps_forAll _ _ _ fun a u => keeps_hoistBoundary ..))
  clear_value s11
  have k12 : Keeps s11 s12 := (keeps_publishBw ..).trans ((keeps_publishPower ..).trans (keeps_rollDigests ..))
  clear_value s12
  exact k1.trans (k2.trans (k3.trans (k4.trans (k5.trans (k6.trans (k7.trans (k8.trans (k9.trans (k10.trans (k11.trans (k12.trans
    ((keeps_forAll _ _ _ fun a u => keeps_deferBoundary ..).trans (keeps_publishStats ..)))))))))))))

/-! ## RegWrite -/

theorem keeps_stateOf (s : State) (o : Host.Outcome State Fault Refusal) (h : ∀ t, o = .next t → Keeps s t) : Keeps s (stateOf s o) := by
  cases o with
  | next t => exact h t rfl
  | fault r => exact Keeps.refl s
  | refused r => exact Keeps.refl s

theorem keeps_restructWrite (v : Word) (s : State) : Keeps s (restructWrite v s) := by
  unfold restructWrite; grind [Keeps, keeps_execRestructureGo, keeps_stateOf]

theorem keeps_dieWr (f d off : Nat) (v : Word) (s : State) : Keeps s (dieWr f d off v s) := by
  unfold dieWr; try dsimp (iota := false) only
  repeat' with_reducible first | exact Keeps.refl _ | assumption | simp (iota := false) only [keeps_mk_iff] | refine Keeps.trans ?_ (keeps_faceCtrl ..) | refine Keeps.trans ?_ (keeps_modDie ..) | refine Keeps.trans ?_ (keeps_modPwr ..) | refine Keeps.trans ?_ (keeps_restructWrite ..) | refine Keeps.trans ?_ (keeps_writeDieReset ..) | split

theorem keeps_stepCtrlWrite (v : Word) (s : State) : Keeps s (stepCtrlWrite v s) := by
  unfold stepCtrlWrite; grind [Keeps, keeps_execStepGo, keeps_execStepGoInitial, keeps_stateOf]

theorem keeps_dlyWrite (d k w : Nat) (v : Word) (s : State) : Keeps s (dlyWrite d k w v s) := by
  unfold dlyWrite; try dsimp (iota := false) only
  repeat' with_reducible first | exact Keeps.refl _ | assumption | simp (iota := false) only [keeps_mk_iff] | refine Keeps.trans ?_ (keeps_modDie ..) | split

theorem keeps_servoWr (off : Nat) (v : Word) (s : State) : Keeps s (servoWr off v s) := by
  unfold servoWr; grind [Keeps, keeps_execTimRefRearm, keeps_servoEval, keeps_stateOf, keeps_stepCtrlWrite, keeps_writePtpCfg, keeps_writePtpPorts, keeps_writeSynceCfg]

theorem keeps_timArrWr (d off : Nat) (v : Word) (s : State) : Keeps s (timArrWr d off v s) := by
  unfold timArrWr; grind [Keeps, keeps_dlyWrite, keeps_execTimCapCfgWrite, keeps_execTimCapPop, keeps_execTimTxsPop, keeps_execTriggerArm, keeps_execTriggerDisarm, keeps_modTrig, keeps_stateOf]

theorem keeps_timWr (d off : Nat) (v : Word) (s : State) : Keeps s (timWr d off v s) := by
  unfold timWr; grind [Keeps, keeps_execTimSnap, keeps_modDie, keeps_servoEval, keeps_servoWr, keeps_stateOf, keeps_timArrWr]

theorem keeps_hstWr (f d off : Nat) (v : Word) (s : State) : Keeps s (hstWr f d off v s) := by
  unfold hstWr; grind [Keeps, keeps_admitAll, keeps_execHstEnqWrite, keeps_modHst, keeps_stateOf]

theorem keeps_queueRegWr (f w : Nat) (v : Word) (s : State) : Keeps s (queueRegWr f w v s) := by
  unfold queueRegWr; grind [Keeps, keeps_execQueueCfgWrite, keeps_modFq, keeps_stateOf]

theorem keeps_legWr (f d off : Nat) (v : Word) (s : State) : Keeps s (legWr f d off v s) := by
  unfold legWr; grind [Keeps, keeps_execLegConfOwnerWrite, keeps_modDie, keeps_queueRegWr, keeps_stateOf]

theorem keeps_ingWr (d off : Nat) (v : Word) (s : State) : Keeps s (ingWr d off v s) := by
  unfold ingWr; grind [Keeps, keeps_execIngStrCfgWrite, keeps_execIngStrHeadWrite, keeps_modDie, keeps_stateOf]

theorem keeps_mixWr (d off : Nat) (v : Word) (s : State) : Keeps s (mixWr d off v s) := by
  unfold mixWr; try dsimp (iota := false) only
  repeat' with_reducible first | exact Keeps.refl _ | assumption | simp (iota := false) only [keeps_mk_iff] | refine Keeps.trans ?_ (keeps_modDie ..) | split

theorem keeps_tdmWr (d off : Nat) (v : Word) (s : State) : Keeps s (tdmWr d off v s) := by
  unfold tdmWr; grind [Keeps, keeps_execTdmPortCfgWrite, keeps_execTdmStop, keeps_modDie, keeps_stateOf]

theorem keeps_vdcWr (d off : Nat) (v : Word) (s : State) : Keeps s (vdcWr d off v s) := by
  unfold vdcWr; try dsimp (iota := false) only
  repeat' with_reducible first | exact Keeps.refl _ | assumption | simp (iota := false) only [keeps_mk_iff] | refine Keeps.trans ?_ (keeps_modDie ..) | split

theorem keeps_coefWrite (d i : Nat) (v : Word) (s : State) : Keeps s (coefWrite d i v s) := by
  unfold coefWrite; try dsimp (iota := false) only
  repeat' with_reducible first | exact Keeps.refl _ | assumption | simp (iota := false) only [keeps_mk_iff] | refine Keeps.trans ?_ (keeps_modDie ..)

theorem keeps_galWr (d off : Nat) (v : Word) (s : State) : Keeps s (galWr d off v s) := by
  unfold galWr; grind [Keeps, keeps_coefWrite, keeps_execGalFenceWrite, keeps_modDie, keeps_stateOf]

theorem keeps_venWr (d off : Nat) (v : Word) (s : State) : Keeps s (venWr d off v s) := by
  unfold venWr; try dsimp (iota := false) only
  repeat' with_reducible first | exact Keeps.refl _ | assumption | simp (iota := false) only [keeps_mk_iff] | refine Keeps.trans ?_ (keeps_modDie ..) | split

theorem keeps_egrWr (d off : Nat) (v : Word) (s : State) : Keeps s (egrWr d off v s) := by
  unfold egrWr; try dsimp (iota := false) only
  repeat' with_reducible first | exact Keeps.refl _ | assumption | simp (iota := false) only [keeps_mk_iff] | refine Keeps.trans ?_ (keeps_modCls ..) | refine Keeps.trans ?_ (keeps_modDie ..) | split

theorem keeps_drcWr (d off : Nat) (v : Word) (s : State) : Keeps s (drcWr d off v s) := by
  unfold drcWr; try dsimp (iota := false) only
  repeat' with_reducible first | exact Keeps.refl _ | assumption | simp (iota := false) only [keeps_mk_iff] | refine Keeps.trans ?_ (keeps_modDrc ..) | split

theorem keeps_parWr (d off : Nat) (v : Word) (s : State) : Keeps s (parWr d off v s) := by
  unfold parWr; grind [Keeps, keeps_execSwitch, keeps_modPair, keeps_stateOf]

theorem keeps_canWr (d off : Nat) (v : Word) (s : State) : Keeps s (canWr d off v s) := by
  unfold canWr; grind [Keeps, keeps_execReplan, keeps_modCan, keeps_stateOf]

theorem keeps_errWr (d off : Nat) (v : Word) (s : State) : Keeps s (errWr d off v s) := by
  unfold errWr; grind [Keeps, keeps_execErrClear, keeps_execErrHeadWrite, keeps_execErrOvfCfgWrite, keeps_modErr, keeps_stateOf]

theorem keeps_updCtrlWrite (v : Word) (s : State) : Keeps s (updCtrlWrite v s) := by
  unfold updCtrlWrite; grind [Keeps, keeps_execActivate, keeps_execApply, keeps_execCancel, keeps_execConfirm, keeps_stateOf]

theorem keeps_updWr (d off : Nat) (v : Word) (s : State) : Keeps s (updWr d off v s) := by
  unfold updWr; try dsimp (iota := false) only
  repeat' with_reducible first | exact Keeps.refl _ | assumption | simp (iota := false) only [keeps_mk_iff] | refine Keeps.trans ?_ (keeps_updCtrlWrite ..) | split

theorem keeps_coreWindowWr (d off : Nat) (v : Word) (s : State) : Keeps s (coreWindowWr d off v s) := by
  unfold coreWindowWr; try dsimp (iota := false) only
  repeat' with_reducible first | exact Keeps.refl _ | assumption | simp (iota := false) only [keeps_mk_iff] | refine Keeps.trans ?_ (keeps_imemWrite ..) | refine Keeps.trans ?_ (keeps_modFace ..) | split

theorem keeps_windowWrites (f d off : Nat) (v : Word) (s : State) : Keeps s (windowWrites f d off v s) := by
  unfold windowWrites; try dsimp (iota := false) only
  repeat' with_reducible first | exact Keeps.refl _ | assumption | simp (iota := false) only [keeps_mk_iff] | refine Keeps.trans ?_ (keeps_canWr ..) | refine Keeps.trans ?_ (keeps_cipWr ..) | refine Keeps.trans ?_ (keeps_coreWindowWr ..) | refine Keeps.trans ?_ (keeps_dieWr ..) | refine Keeps.trans ?_ (keeps_drcWr ..) | refine Keeps.trans ?_ (keeps_egrWr ..) | refine Keeps.trans ?_ (keeps_errWr ..) | refine Keeps.trans ?_ (keeps_galWr ..) | refine Keeps.trans ?_ (keeps_hstWr ..) | refine Keeps.trans ?_ (keeps_ingWr ..) | refine Keeps.trans ?_ (keeps_legWr ..) | refine Keeps.trans ?_ (keeps_mixWr ..) | refine Keeps.trans ?_ (keeps_parWr ..) | refine Keeps.trans ?_ (keeps_tdmWr ..) | refine Keeps.trans ?_ (keeps_timWr ..) | refine Keeps.trans ?_ (keeps_updWr ..) | refine Keeps.trans ?_ (keeps_vdcWr ..) | refine Keeps.trans ?_ (keeps_venWr ..) | split

/-! ## Registers -/

theorem keeps_dieClear (d off : Nat) (s : State) : Keeps s (dieClear d off s) := by
  unfold dieClear; try dsimp (iota := false) only
  repeat' with_reducible first | exact Keeps.refl _ | assumption | simp (iota := false) only [keeps_mk_iff] | refine Keeps.trans ?_ (keeps_modDie ..) | refine Keeps.trans ?_ (keeps_modFace ..) | split

theorem keeps_timClear (d off : Nat) (s : State) : Keeps s (timClear d off s) := by
  unfold timClear; try dsimp (iota := false) only
  repeat' with_reducible first | exact Keeps.refl _ | assumption | simp (iota := false) only [keeps_mk_iff] | refine Keeps.trans ?_ (keeps_modCap ..) | refine Keeps.trans ?_ (keeps_modDie ..) | split

theorem keeps_hstClear (d off : Nat) (s : State) : Keeps s (hstClear d off s) := by
  unfold hstClear; try dsimp (iota := false) only
  repeat' with_reducible first | exact Keeps.refl _ | assumption | simp (iota := false) only [keeps_mk_iff] | refine Keeps.trans ?_ (keeps_modHst ..)

theorem keeps_legClear (d off : Nat) (s : State) : Keeps s (legClear d off s) := by
  unfold legClear; try dsimp (iota := false) only
  repeat' with_reducible first | exact Keeps.refl _ | assumption | simp (iota := false) only [keeps_mk_iff] | refine Keeps.trans ?_ (keeps_modDie ..) | refine Keeps.trans ?_ (keeps_modFq ..) | split

theorem keeps_tdmClear (d off : Nat) (s : State) : Keeps s (tdmClear d off s) := by
  unfold tdmClear; try dsimp (iota := false) only
  repeat' with_reducible first | exact Keeps.refl _ | assumption | simp (iota := false) only [keeps_mk_iff] | refine Keeps.trans ?_ (keeps_modPort ..) | split

theorem keeps_vdcClear (d off : Nat) (s : State) : Keeps s (vdcClear d off s) := by
  unfold vdcClear; try dsimp (iota := false) only
  repeat' with_reducible first | exact Keeps.refl _ | assumption | simp (iota := false) only [keeps_mk_iff] | refine Keeps.trans ?_ (keeps_modDie ..)

theorem keeps_ubhClear (d off : Nat) (s : State) : Keeps s (ubhClear d off s) := by
  unfold ubhClear; try dsimp (iota := false) only
  repeat' with_reducible first | exact Keeps.refl _ | assumption | simp (iota := false) only [keeps_mk_iff] | refine Keeps.trans ?_ (keeps_modDie ..) | split

theorem keeps_parClear (d off : Nat) (s : State) : Keeps s (parClear d off s) := by
  unfold parClear; try dsimp (iota := false) only
  repeat' with_reducible first | exact Keeps.refl _ | assumption | simp (iota := false) only [keeps_mk_iff] | refine Keeps.trans ?_ (keeps_modPar ..)

theorem keeps_readClears (d off : Nat) (s : State) : Keeps s (readClears d off s) := by
  unfold readClears; try dsimp (iota := false) only
  repeat' with_reducible first | exact Keeps.refl _ | assumption | simp (iota := false) only [keeps_mk_iff] | refine Keeps.trans ?_ (keeps_dieClear ..) | refine Keeps.trans ?_ (keeps_hstClear ..) | refine Keeps.trans ?_ (keeps_legClear ..) | refine Keeps.trans ?_ (keeps_modCip ..) | refine Keeps.trans ?_ (keeps_modDie ..) | refine Keeps.trans ?_ (keeps_modDrc ..) | refine Keeps.trans ?_ (keeps_modErr ..) | refine Keeps.trans ?_ (keeps_parClear ..) | refine Keeps.trans ?_ (keeps_seaCnt ..) | refine Keeps.trans ?_ (keeps_tdmClear ..) | refine Keeps.trans ?_ (keeps_timClear ..) | refine Keeps.trans ?_ (keeps_ubhClear ..) | refine Keeps.trans ?_ (keeps_vdcClear ..) | split

theorem keeps_barRead (f off width : Nat) (s : State) : Keeps s (barRead f off width s) := by
  unfold barRead; try dsimp (iota := false) only
  repeat' with_reducible first | exact Keeps.refl _ | assumption | simp (iota := false) only [keeps_mk_iff] | refine Keeps.trans ?_ (keeps_readClears ..) | split

theorem keeps_barWrite (f off width : Nat) (v : Word) (s : State) : Keeps s (barWrite f off width v s) := by
  unfold barWrite; try dsimp (iota := false) only
  repeat' with_reducible first | exact Keeps.refl _ | assumption | simp (iota := false) only [keeps_mk_iff] | refine Keeps.trans ?_ (keeps_raiseFrom ..) | refine Keeps.trans ?_ (keeps_rangeError ..) | refine Keeps.trans ?_ (keeps_windowWrites ..) | split

theorem keeps_execRegisterWrite (func off : Nat) (acc : RegAccess) (s : State) : ∀ t, execRegisterWrite func off acc s = .next t → Keeps s t := by
  unfold execRegisterWrite; intro t h; try dsimp (iota := false) only at h
  repeat' split at h
  all_goals (injection h with h; subst h)
  all_goals repeat' with_reducible first | exact Keeps.refl _ | assumption | simp (iota := false) only [keeps_mk_iff] | refine Keeps.trans ?_ (keeps_barRead ..) | refine Keeps.trans ?_ (keeps_barWrite ..)

/-! ## StepApply -/

theorem keeps_runSkipped (b : Nat) (a : Skipped) (s : State) : Keeps s (runSkipped b a s) := by
  unfold runSkipped
  split
  · exact keeps_ite _ _ _ _ (keeps_fireLate ..) (Keeps.refl s)
  · exact keeps_adoptUpTo ..
  · split
    · exact keeps_ite _ _ _ _ (keeps_switchConf ..) (keeps_switchLeg ..)
    · exact Keeps.refl s
  · exact keeps_plannedActive ..

theorem keeps_execStepApply (s : State) : ∀ t, execStepApply s = .next t → Keeps s t := by
  unfold execStepApply; grind [Keeps, keeps_advanceTo, keeps_endMp, keeps_forAll, keeps_relabel, keeps_runSkipped, keeps_stepDone]

/-! ## Tick -/

theorem keeps_tenMEdge (t u : Nat) (s : State) : Keeps s (tenMEdge t u s) := by
  unfold tenMEdge; try dsimp (iota := false) only
  repeat' with_reducible first | exact Keeps.refl _ | assumption | simp (iota := false) only [keeps_mk_iff] | refine Keeps.trans ?_ (keeps_emit ..) | split

theorem keeps_readLine (d q : Nat) (s : State) : Keeps s (readLine d q s) := by
  unfold readLine; try dsimp (iota := false) only
  repeat' with_reducible first | exact Keeps.refl _ | assumption | simp (iota := false) only [keeps_mk_iff] | refine Keeps.trans ?_ (keeps_emit ..) | refine Keeps.trans ?_ (keeps_modDie ..) | split

theorem keeps_tick (s : State) : Keeps s (tick s) := by
  unfold tick; try dsimp (iota := false) only
  repeat' with_reducible first | exact Keeps.refl _ | assumption | simp (iota := false) only [keeps_mk_iff] | refine Keeps.trans ?_ (keeps_forAll _ _ _ fun _ _ => ?_) | refine Keeps.trans ?_ (keeps_mapDies ..) | refine Keeps.trans ?_ (keeps_readLine ..) | refine Keeps.trans ?_ (keeps_tenMEdge ..)

end Sys2Proof.Machine
end

