-- ==== Sys2Proof/Laws/PerInstr.lean ====
section
/-! SUPPORT. What well-formedness gives of each command: the dies, functions and legs that it names exist on some part. One
lemma per constructor. -/

namespace Sys2Proof.Laws.Wf

/-- The dies that a command's operands name. -/
def dies : Instr → List Nat
  | .ubhanLaneFailure die _ => [die]
  | .slaveTimeExchange die _ _ _ _ => [die]
  | .slaveRemeasureDone die => [die]
  | .slaveOffsetError die => [die]
  | .timSnap die => [die]
  | .timTxsPop die _ => [die]
  | .triggerArm die _ _ => [die]
  | .triggerDisarm die _ _ => [die]
  | .triggerFire die _ => [die]
  | .captureEdge die _ _ _ _ => [die]
  | .timCapPop die _ => [die]
  | .timCapCfgWrite die _ _ => [die]
  | .dramTrainingDone die _ => [die]
  | .bwWindow die _ => [die]
  | .entryAdoption die _ _ => [die]
  | .legConfOwnerWrite _ die _ _ => [die]
  | .frameReceive die _ _ _ => [die]
  | .ingStrHeadWrite die _ => [die]
  | .ingStrCfgWrite die _ => [die]
  | .linkChange die _ _ => [die]
  | .tagVerdict die _ _ => [die]
  | .cipLockAcquire die _ => [die]
  | .cipLockRelease die _ => [die]
  | .lockPreempt die => [die]
  | .bulkJobGo die _ _ => [die]
  | .bulkJobDone die => [die]
  | .rngReseedFailure die => [die]
  | .safeLoadApply die _ _ => [die]
  | .tdmPortCfgWrite die _ _ => [die]
  | .tdmStop die _ => [die]
  | .tdmFsyncEdge die _ _ => [die]
  | .tdmClockLoss die _ => [die]
  | .tdmInputFrame die _ _ _ => [die]
  | .iecUnmute die _ _ => [die]
  | .tdmOutputFetch die _ => [die]
  | .flipEvaluate die _ _ => [die]
  | .galFenceWrite die _ _ => [die]
  | .pictureBoundary die _ _ _ => [die]
  | .tilePictureReceive die _ _ => [die]
  | .seamIntraGapEnd die _ => [die]
  | .packetDeparture die _ => [die]
  | .hstEnqWrite _ die _ => [die]
  | .takeDelivery die _ _ => [die]
  | .stallTimeout die _ => [die]
  | .tallySkip die _ => [die]
  | .bundleIssue die _ => [die]
  | .dmaDone die _ _ => [die]
  | .vendorCoreRestart die _ => [die]
  | .run die _ _ => [die]
  | .stop die _ _ => [die]
  | .faceImemWrite _ die _ _ _ => [die]
  | .rowWindowEnd die => [die]
  | .sameBankRefresh die => [die]
  | .dramTemperatureRead die _ => [die]
  | .retrainCheck die _ _ _ => [die]
  | .patrolScrub die _ => [die]
  | .queueWrite die _ _ _ => [die]
  | .drop die _ => [die]
  | .queuePointerCheck die _ _ => [die]
  | .ledgerRecord die _ => [die]
  | .ledgerFetch die _ _ => [die]
  | .digestSend die _ _ => [die]
  | .digestCompare die _ _ _ _ _ => [die]
  | .assaySelfTest die _ _ => [die]
  | .heartbeatMiss die => [die]
  | .canaryMeasure die _ _ => [die]
  | .replan die _ => [die]
  | .marginReplanDone die _ => [die]
  | .railWarning die _ _ => [die]
  | .braceEntry die _ => [die]
  | .braceExit die => [die]
  | .braceSustained die => [die]
  | .junctionHot die => [die]
  | .lockstepStop die => [die]
  | .supplyReset die _ => [die]
  | .dieResetRejoin die => [die]
  | .errHeadWrite die _ => [die]
  | .errClear die _ => [die]
  | .errOvfCfgWrite die _ => [die]
  | .rngOkReturn die => [die]
  | .braceAlarmClear die => [die]
  | .junctionEpisodeEnd die => [die]
  | _ => []

/-- The functions that a command's operands name. -/
def funcs : Instr → List Nat
  | .bar2TableWrite func _ _ => [func]
  | .bar2StagingWrite func _ _ => [func]
  | .tableDoorbell func _ => [func]
  | .sqTailWrite func _ _ => [func]
  | .cqHeadWrite func _ => [func]
  | .allocLeg c => [c.func]
  | .freeLeg c => [c.func]
  | .migrateLeg c => [c.func]
  | .rehomeConf c => [c.func]
  | .releaseHeld c => [c.func]
  | .nop c => [c.func]
  | .unknownOpcode c => [c.func]
  | .legConfOwnerWrite func _ _ _ => [func]
  | .queueCfgWrite func _ _ => [func]
  | .keyAlloc c => [c.func]
  | .keyFree c => [c.func]
  | .keyUnwrap c => [c.func]
  | .keyGen c => [c.func]
  | .keyAgree c => [c.func]
  | .keyDerive c => [c.func]
  | .keyFinished c => [c.func]
  | .keyExportSrtp c => [c.func]
  | .keyCopy c => [c.func]
  | .keyRewrap c => [c.func]
  | .ownerEnroll c => [c.func]
  | .safeLoad c => [c.func]
  | .decOpen c => [c.func]
  | .decClose c => [c.func]
  | .decKeyreq c => [c.func]
  | .layoutAlloc c => [c.func]
  | .layoutFree c => [c.func]
  | .flip c => [c.func]
  | .fenceBind c => [c.func]
  | .encOpen c => [c.func]
  | .encClose c => [c.func]
  | .encRate c => [c.func]
  | .encKey c => [c.func]
  | .egrSend c => [c.func]
  | .hstEnqWrite func _ _ => [func]
  | .faceImemWrite func _ _ _ _ => [func]
  | .soft func _ => [func]
  | .dieGo func _ => [func]
  | .flr func => [func]
  | _ => []

/-- The legs that a command's operands name. -/
def legs : Instr → List (BitVec 16)
  | .migrationStateSend leg => [leg]
  | .migrationSwitch leg => [leg]
  | .tagVerdict _ leg _ => [leg]
  | .nackTimer leg _ => [leg]
  | .videoFrameTimeout leg _ _ => [leg]
  | .rxGraceExpiry leg => [leg]
  | .keyframeGapEnd leg _ => [leg]
  | .seamStartWaitExpiry leg => [leg]
  | .feedbackTimeout leg => [leg]
  | .rtcpReportTimer leg _ => [leg]
  | .waitDrop leg => [leg]
  | .rtxHoldExpiry leg => [leg]
  | .reseedInstall leg _ => [leg]
  | _ => []

/-- A well-formed command names dies 0 to 7, functions 0 to 63, and legs of those dies only (00 Table 0.1, 04 R77, 19
R403). -/
def Statement (i : Instr) : Prop :=
  i.wf = true → (∀ d ∈ dies i, d < 8) ∧ (∀ f ∈ funcs i, f < 64) ∧ ∀ l ∈ legs i, l.toNat < 8 * 1024

theorem leg_lt {l : BitVec 16} (h : okLeg l = true) : l.toNat < 8 * 1024 := by
  have h : l.extractLsb' 13 3 = 0 := by simpa [okLeg] using h
  have := congrArg BitVec.toNat h
  simp [BitVec.extractLsb'_toNat, Nat.shiftRight_eq_div_pow] at this
  omega

theorem none_named : (∀ d ∈ ([] : List Nat), d < 8) ∧ (∀ f ∈ ([] : List Nat), f < 64) ∧
    ∀ l ∈ ([] : List (BitVec 16)), l.toNat < 8 * 1024 := by simp

theorem one_die {die : Nat} (h : okDie die = true) : (∀ d ∈ [die], d < 8) ∧ (∀ f ∈ ([] : List Nat), f < 64) ∧
    ∀ l ∈ ([] : List (BitVec 16)), l.toNat < 8 * 1024 := by simpa [okDie] using h

theorem one_func {func : Nat} (h : okFunc func = true) : (∀ d ∈ ([] : List Nat), d < 8) ∧ (∀ f ∈ [func], f < 64) ∧
    ∀ l ∈ ([] : List (BitVec 16)), l.toNat < 8 * 1024 := by simpa [okFunc] using h

theorem one_leg {leg : BitVec 16} (h : okLeg leg = true) : (∀ d ∈ ([] : List Nat), d < 8) ∧ (∀ f ∈ ([] : List Nat), f < 64) ∧
    ∀ l ∈ [leg], l.toNat < 8 * 1024 := by simpa using leg_lt h

theorem left1 {a b : Bool} (h : (a && b) = true) : a = true := by cases a <;> simp_all
theorem left2 {a b c : Bool} (h : (a && b && c) = true) : a = true := left1 (left1 h)

theorem mpBoundary (x0) : Statement (.mpBoundary x0) := fun _ => none_named
theorem ubhanLaneFailure (die) (port) : Statement (.ubhanLaneFailure die port) := fun h => one_die (die := die) (left1 h)
theorem slaveTimeExchange (die) (x1) (x2) (x3) (x4) : Statement (.slaveTimeExchange die x1 x2 x3 x4) := fun h => one_die (die := die) (h)
theorem slaveRemeasureDone (die) : Statement (.slaveRemeasureDone die) := fun h => one_die (die := die) (h)
theorem slaveOffsetError (die) : Statement (.slaveOffsetError die) := fun h => one_die (die := die) (h)
theorem referenceEdge (src) (x1) : Statement (.referenceEdge src x1) := fun _ => none_named
theorem frequencyWindowEnd (src) (x1) : Statement (.frequencyWindowEnd src x1) := fun _ => none_named
theorem referenceStop (src) : Statement (.referenceStop src) := fun _ => none_named
theorem referenceQualified (src) : Statement (.referenceQualified src) := fun _ => none_named
theorem timRefRearm (x0) : Statement (.timRefRearm x0) := fun _ => none_named
theorem ptpMessage (m) : Statement (.ptpMessage m) := fun _ => none_named
theorem announceReceiptTimeout : Statement (.announceReceiptTimeout) := fun _ => none_named
theorem ptpRequalify : Statement (.ptpRequalify) := fun _ => none_named
theorem esmcMessage (x0) : Statement (.esmcMessage x0) := fun _ => none_named
theorem esmcTimeout : Statement (.esmcTimeout) := fun _ => none_named
theorem synceRequalify : Statement (.synceRequalify) := fun _ => none_named
theorem servoLock : Statement (.servoLock) := fun _ => none_named
theorem stepGoInitial : Statement (.stepGoInitial) := fun _ => none_named
theorem stepGo : Statement (.stepGo) := fun _ => none_named
theorem stepApply : Statement (.stepApply) := fun _ => none_named
theorem timSnap (die) : Statement (.timSnap die) := fun h => one_die (die := die) (h)
theorem timTxsPop (die) (q) : Statement (.timTxsPop die q) := fun h => one_die (die := die) (left1 h)
theorem triggerArm (die) (n) (x2) : Statement (.triggerArm die n x2) := fun h => one_die (die := die) (left1 h)
theorem triggerDisarm (die) (n) (x2) : Statement (.triggerDisarm die n x2) := fun h => one_die (die := die) (left1 h)
theorem triggerFire (die) (n) : Statement (.triggerFire die n) := fun h => one_die (die := die) (left1 h)
theorem captureEdge (die) (unit) (x2) (x3) (x4) : Statement (.captureEdge die unit x2 x3 x4) := fun h => one_die (die := die) (left1 h)
theorem timCapPop (die) (c) : Statement (.timCapPop die c) := fun h => one_die (die := die) (left1 h)
theorem timCapCfgWrite (die) (c) (x2) : Statement (.timCapCfgWrite die c x2) := fun h => one_die (die := die) (left1 h)
theorem timPtpCfgWrite (x0) : Statement (.timPtpCfgWrite x0) := fun _ => none_named
theorem ppsOutPulse : Statement (.ppsOutPulse) := fun _ => none_named
theorem bootLoad : Statement (.bootLoad) := fun _ => none_named
theorem dramTrainingDone (die) (x1) : Statement (.dramTrainingDone die x1) := fun h => one_die (die := die) (h)
theorem bwWindow (die) (demand) : Statement (.bwWindow die demand) := fun h => one_die (die := die) (left1 h)
theorem restructureGo (x0) : Statement (.restructureGo x0) := fun _ => none_named
theorem restructureCheckDone : Statement (.restructureCheckDone) := fun _ => none_named
theorem restructureDrainStart : Statement (.restructureDrainStart) := fun _ => none_named
theorem restructureLateCheck : Statement (.restructureLateCheck) := fun _ => none_named
theorem restructureResume : Statement (.restructureResume) := fun _ => none_named
theorem bar2TableWrite (func) (off) (bytes) : Statement (.bar2TableWrite func off bytes) := fun h => one_func (left2 h)
theorem bar2StagingWrite (func) (off) (x2) : Statement (.bar2StagingWrite func off x2) := fun h => one_func (left1 h)
theorem tableDoorbell (func) (x1) : Statement (.tableDoorbell func x1) := fun h => one_func (h)
theorem entryAdoption (die) (isConf) (idx) : Statement (.entryAdoption die isConf idx) := fun h => one_die (die := die) (left1 h)
theorem sqTailWrite (func) (x1) (x2) : Statement (.sqTailWrite func x1 x2) := fun h => one_func (h)
theorem cqHeadWrite (func) (x1) : Statement (.cqHeadWrite func x1) := fun h => one_func (h)
theorem allocLeg (c) : Statement (.allocLeg c) := fun h => one_func (func := c.func) h
theorem freeLeg (c) : Statement (.freeLeg c) := fun h => one_func (func := c.func) h
theorem migrateLeg (c) : Statement (.migrateLeg c) := fun h => one_func (func := c.func) h
theorem migrationStateSend (leg) : Statement (.migrationStateSend leg) := fun h => one_leg h
theorem migrationSwitch (leg) : Statement (.migrationSwitch leg) := fun h => one_leg h
theorem rehomeConf (c) : Statement (.rehomeConf c) := fun h => one_func (func := c.func) h
theorem confRehomeSwitch (conf) : Statement (.confRehomeSwitch conf) := fun _ => none_named
theorem releaseHeld (c) : Statement (.releaseHeld c) := fun h => one_func (func := c.func) h
theorem nop (c) : Statement (.nop c) := fun h => one_func (func := c.func) h
theorem unknownOpcode (c) : Statement (.unknownOpcode c) := fun h => one_func (func := c.func) h
theorem legConfOwnerWrite (func) (die) (conf) (x3) : Statement (.legConfOwnerWrite func die conf x3) := by
  intro h; change (okFunc func && okDie die && okEntry true conf) = true at h; simp only [Bool.and_eq_true] at h
  change (∀ d ∈ [die], d < 8) ∧ (∀ f ∈ [func], f < 64) ∧ ∀ l ∈ ([] : List (BitVec 16)), l.toNat < 8 * 1024
  simp_all [okDie, okFunc]
theorem queueCfgWrite (func) (x1) (x2) : Statement (.queueCfgWrite func x1 x2) := fun h => one_func (h)
theorem frameReceive (die) (sub) (x2) (x3) : Statement (.frameReceive die sub x2 x3) := fun h => one_die (die := die) (left1 h)
theorem ingStrHeadWrite (die) (x1) : Statement (.ingStrHeadWrite die x1) := fun h => one_die (die := die) (h)
theorem ingStrCfgWrite (die) (x1) : Statement (.ingStrCfgWrite die x1) := fun h => one_die (die := die) (h)
theorem linkChange (die) (sub) (x2) : Statement (.linkChange die sub x2) := fun h => one_die (die := die) (left1 h)
theorem tagVerdict (die) (leg) (x2) : Statement (.tagVerdict die leg x2) := by
  intro h; change (okDie die && okLeg leg) = true at h; simp only [Bool.and_eq_true] at h
  change (∀ d ∈ [die], d < 8) ∧ (∀ f ∈ [], f < 64) ∧ ∀ l ∈ ([leg] : List (BitVec 16)), l.toNat < 8 * 1024
  have := leg_lt h.2
  simp_all [okDie]
theorem nackTimer (leg) (x1) : Statement (.nackTimer leg x1) := fun h => one_leg h
theorem videoFrameTimeout (leg) (x1) (x2) : Statement (.videoFrameTimeout leg x1 x2) := fun h => one_leg h
theorem keyAlloc (c) : Statement (.keyAlloc c) := fun h => one_func (func := c.func) h
theorem keyFree (c) : Statement (.keyFree c) := fun h => one_func (func := c.func) h
theorem keyUnwrap (c) : Statement (.keyUnwrap c) := fun h => one_func (func := c.func) h
theorem keyGen (c) : Statement (.keyGen c) := fun h => one_func (func := c.func) h
theorem keyAgree (c) : Statement (.keyAgree c) := fun h => one_func (func := c.func) h
theorem keyDerive (c) : Statement (.keyDerive c) := fun h => one_func (func := c.func) h
theorem keyFinished (c) : Statement (.keyFinished c) := fun h => one_func (func := c.func) h
theorem keyExportSrtp (c) : Statement (.keyExportSrtp c) := fun h => one_func (func := c.func) h
theorem keyCopy (c) : Statement (.keyCopy c) := fun h => one_func (func := c.func) h
theorem keyRewrap (c) : Statement (.keyRewrap c) := fun h => one_func (func := c.func) h
theorem ownerEnroll (c) : Statement (.ownerEnroll c) := fun h => one_func (func := c.func) h
theorem rxGraceExpiry (leg) : Statement (.rxGraceExpiry leg) := fun h => one_leg h
theorem cipLockAcquire (die) (x1) : Statement (.cipLockAcquire die x1) := fun h => one_die (die := die) (h)
theorem cipLockRelease (die) (x1) : Statement (.cipLockRelease die x1) := fun h => one_die (die := die) (h)
theorem lockPreempt (die) : Statement (.lockPreempt die) := fun h => one_die (die := die) (h)
theorem bulkJobGo (die) (x1) (x2) : Statement (.bulkJobGo die x1 x2) := fun h => one_die (die := die) (h)
theorem bulkJobDone (die) : Statement (.bulkJobDone die) := fun h => one_die (die := die) (h)
theorem rngReseedFailure (die) : Statement (.rngReseedFailure die) := fun h => one_die (die := die) (h)
theorem safeLoad (c) : Statement (.safeLoad c) := fun h => one_func (func := c.func) h
theorem safeLoadApply (die) (isConf) (idx) : Statement (.safeLoadApply die isConf idx) := fun h => one_die (die := die) (left1 h)
theorem tdmPortCfgWrite (die) (p) (x2) : Statement (.tdmPortCfgWrite die p x2) := fun h => one_die (die := die) (left1 h)
theorem tdmStop (die) (p) : Statement (.tdmStop die p) := fun h => one_die (die := die) (left1 h)
theorem tdmFsyncEdge (die) (p) (x2) : Statement (.tdmFsyncEdge die p x2) := fun h => one_die (die := die) (left1 h)
theorem tdmClockLoss (die) (p) : Statement (.tdmClockLoss die p) := fun h => one_die (die := die) (left1 h)
theorem tdmInputFrame (die) (p) (x2) (x3) : Statement (.tdmInputFrame die p x2 x3) := fun h => one_die (die := die) (left1 h)
theorem iecUnmute (die) (p) (k) : Statement (.iecUnmute die p k) := fun h => one_die (die := die) (left2 h)
theorem tdmOutputFetch (die) (g) : Statement (.tdmOutputFetch die g) := fun h => one_die (die := die) (left1 h)
theorem decOpen (c) : Statement (.decOpen c) := fun h => one_func (func := c.func) h
theorem decClose (c) : Statement (.decClose c) := fun h => one_func (func := c.func) h
theorem decKeyreq (c) : Statement (.decKeyreq c) := fun h => one_func (func := c.func) h
theorem videoFrameRelease (x0) (x1) : Statement (.videoFrameRelease x0 x1) := fun _ => none_named
theorem pictureDecodeDone (x0) (x1) : Statement (.pictureDecodeDone x0 x1) := fun _ => none_named
theorem pictureLate (x0) (x1) : Statement (.pictureLate x0 x1) := fun _ => none_named
theorem keyframeGapEnd (leg) (x1) : Statement (.keyframeGapEnd leg x1) := fun h => one_leg h
theorem layoutAlloc (c) : Statement (.layoutAlloc c) := fun h => one_func (func := c.func) h
theorem layoutFree (c) : Statement (.layoutFree c) := fun h => one_func (func := c.func) h
theorem flip (c) : Statement (.flip c) := fun h => one_func (func := c.func) h
theorem fenceBind (c) : Statement (.fenceBind c) := fun h => one_func (func := c.func) h
theorem flipEvaluate (die) (x1) (x2) : Statement (.flipEvaluate die x1 x2) := fun h => one_die (die := die) (h)
theorem galFenceWrite (die) (i) (x2) : Statement (.galFenceWrite die i x2) := fun h => one_die (die := die) (left1 h)
theorem pictureBoundary (die) (idx) (x2) (x3) : Statement (.pictureBoundary die idx x2 x3) := fun h => one_die (die := die) (left1 h)
theorem tilePictureReceive (die) (x1) (x2) : Statement (.tilePictureReceive die x1 x2) := fun h => one_die (die := die) (h)
theorem seamStartWaitExpiry (leg) : Statement (.seamStartWaitExpiry leg) := fun h => one_leg h
theorem seamIntraGapEnd (die) (x1) : Statement (.seamIntraGapEnd die x1) := fun h => one_die (die := die) (h)
theorem encOpen (c) : Statement (.encOpen c) := fun h => one_func (func := c.func) h
theorem encClose (c) : Statement (.encClose c) := fun h => one_func (func := c.func) h
theorem encRate (c) : Statement (.encRate c) := fun h => one_func (func := c.func) h
theorem encKey (c) : Statement (.encKey c) := fun h => one_func (func := c.func) h
theorem lateDryGuard (x0) (rung) (x2) : Statement (.lateDryGuard x0 rung x2) := fun _ => none_named
theorem intraGapEnd (x0) (rung) : Statement (.intraGapEnd x0 rung) := fun _ => none_named
theorem feedbackTimeout (leg) : Statement (.feedbackTimeout leg) := fun h => one_leg h
theorem rtcpReportTimer (leg) (x1) : Statement (.rtcpReportTimer leg x1) := fun h => one_leg h
theorem egressEnqueue (x0) : Statement (.egressEnqueue x0) := fun _ => none_named
theorem packetDeparture (die) (sub) : Statement (.packetDeparture die sub) := fun h => one_die (die := die) (left1 h)
theorem waitDrop (leg) : Statement (.waitDrop leg) := fun h => one_leg h
theorem rtxHoldExpiry (leg) : Statement (.rtxHoldExpiry leg) := fun h => one_leg h
theorem egrSend (c) : Statement (.egrSend c) := fun h => one_func (func := c.func) h
theorem hstEnqWrite (func) (die) (x2) : Statement (.hstEnqWrite func die x2) := by
  intro h; change (okFunc func && okDie die) = true at h; simp only [Bool.and_eq_true] at h
  change (∀ d ∈ [die], d < 8) ∧ (∀ f ∈ [func], f < 64) ∧ ∀ l ∈ ([] : List (BitVec 16)), l.toNat < 8 * 1024
  simp_all [okDie, okFunc]
theorem takeDelivery (die) (cls) (core) : Statement (.takeDelivery die cls core) := fun h => one_die (die := die) (left2 h)
theorem stallTimeout (die) (x1) : Statement (.stallTimeout die x1) := fun h => one_die (die := die) (h)
theorem tallySkip (die) (flow) : Statement (.tallySkip die flow) := fun h => one_die (die := die) (left1 h)
theorem bundleIssue (die) (core) : Statement (.bundleIssue die core) := fun h => one_die (die := die) (left1 h)
theorem dmaDone (die) (core) (ch) : Statement (.dmaDone die core ch) := fun h => one_die (die := die) (left2 h)
theorem vendorCoreRestart (die) (core) : Statement (.vendorCoreRestart die core) := fun h => one_die (die := die) (left1 h)
theorem run (die) (core) (x2) : Statement (.run die core x2) := fun h => one_die (die := die) (left1 h)
theorem stop (die) (core) (x2) : Statement (.stop die core x2) := fun h => one_die (die := die) (left1 h)
theorem faceImemWrite (func) (die) (core) (off) (x4) : Statement (.faceImemWrite func die core off x4) := by
  intro h; change (okFunc func && okDie die && okCore core && decide (off < 0x10000)) = true at h; simp only [Bool.and_eq_true] at h
  change (∀ d ∈ [die], d < 8) ∧ (∀ f ∈ [func], f < 64) ∧ ∀ l ∈ ([] : List (BitVec 16)), l.toNat < 8 * 1024
  simp_all [okDie, okFunc]
theorem dramAccess (x0) : Statement (.dramAccess x0) := fun _ => none_named
theorem rowWindowEnd (die) : Statement (.rowWindowEnd die) := fun h => one_die (die := die) (h)
theorem sameBankRefresh (die) : Statement (.sameBankRefresh die) := fun h => one_die (die := die) (h)
theorem dramTemperatureRead (die) (x1) : Statement (.dramTemperatureRead die x1) := fun h => one_die (die := die) (h)
theorem retrainCheck (die) (sub) (x2) (x3) : Statement (.retrainCheck die sub x2 x3) := fun h => one_die (die := die) (left1 h)
theorem patrolScrub (die) (x1) : Statement (.patrolScrub die x1) := fun h => one_die (die := die) (h)
theorem queueWrite (die) (q) (x2) (x3) : Statement (.queueWrite die q x2 x3) := fun h => one_die (die := die) (left1 h)
theorem drop (die) (q) : Statement (.drop die q) := fun h => one_die (die := die) (left1 h)
theorem queuePointerCheck (die) (q) (x2) : Statement (.queuePointerCheck die q x2) := fun h => one_die (die := die) (left1 h)
theorem pairRoleSettle (x0) : Statement (.pairRoleSettle x0) := fun _ => none_named
theorem peerSearchTimeout : Statement (.peerSearchTimeout) := fun _ => none_named
theorem ledgerRecord (die) (x1) : Statement (.ledgerRecord die x1) := fun h => one_die (die := die) (h)
theorem ledgerFetch (die) (x1) (x2) : Statement (.ledgerFetch die x1 x2) := fun h => one_die (die := die) (h)
theorem reseedInstall (leg) (x1) : Statement (.reseedInstall leg x1) := fun h => one_leg h
theorem digestSend (die) (x1) (x2) : Statement (.digestSend die x1 x2) := fun h => one_die (die := die) (h)
theorem digestCompare (die) (x1) (x2) (x3) (x4) (x5) : Statement (.digestCompare die x1 x2 x3 x4 x5) := fun h => one_die (die := die) (h)
theorem assaySelfTest (die) (unit) (x2) : Statement (.assaySelfTest die unit x2) := fun h => one_die (die := die) (left1 h)
theorem heartbeatSend : Statement (.heartbeatSend) := fun _ => none_named
theorem heartbeatMiss (die) : Statement (.heartbeatMiss die) := fun h => one_die (die := die) (h)
theorem takeoverBoundary : Statement (.takeoverBoundary) := fun _ => none_named
theorem addressAnnouncement : Statement (.addressAnnouncement) := fun _ => none_named
theorem takeoverCheck (x0) : Statement (.takeoverCheck x0) := fun _ => none_named
theorem pairAliveInChange (x0) : Statement (.pairAliveInChange x0) := fun _ => none_named
theorem switch (x0) : Statement (.switch x0) := fun _ => none_named
theorem plannedSwitch (x0) : Statement (.plannedSwitch x0) := fun _ => none_named
theorem peerFallbackNotice (x0) : Statement (.peerFallbackNotice x0) := fun _ => none_named
theorem canaryMeasure (die) (k) (x2) : Statement (.canaryMeasure die k x2) := fun h => one_die (die := die) (left1 h)
theorem replan (die) (x1) : Statement (.replan die x1) := fun h => one_die (die := die) (h)
theorem marginReplanDone (die) (x1) : Statement (.marginReplanDone die x1) := fun h => one_die (die := die) (h)
theorem railWarning (die) (rail) (x2) : Statement (.railWarning die rail x2) := fun h => one_die (die := die) (left1 h)
theorem braceEntry (die) (x1) : Statement (.braceEntry die x1) := fun h => one_die (die := die) (h)
theorem braceExit (die) : Statement (.braceExit die) := fun h => one_die (die := die) (h)
theorem braceSustained (die) : Statement (.braceSustained die) := fun h => one_die (die := die) (h)
theorem junctionHot (die) : Statement (.junctionHot die) := fun h => one_die (die := die) (h)
theorem por : Statement (.por) := fun _ => none_named
theorem pinReset (x0) (x1) : Statement (.pinReset x0 x1) := fun _ => none_named
theorem soft (func) (x1) : Statement (.soft func x1) := fun h => one_func (h)
theorem dieGo (func) (x1) : Statement (.dieGo func x1) := fun h => one_func (h)
theorem lockstepStop (die) : Statement (.lockstepStop die) := fun h => one_die (die := die) (h)
theorem supplyReset (die) (x1) : Statement (.supplyReset die x1) := fun h => one_die (die := die) (h)
theorem flr (func) : Statement (.flr func) := fun h => one_func (h)
theorem perstN : Statement (.perstN) := fun _ => none_named
theorem dieResetRejoin (die) : Statement (.dieResetRejoin die) := fun h => one_die (die := die) (h)
theorem errHeadWrite (die) (x1) : Statement (.errHeadWrite die x1) := fun h => one_die (die := die) (h)
theorem errClear (die) (x1) : Statement (.errClear die x1) := fun h => one_die (die := die) (h)
theorem errOvfCfgWrite (die) (x1) : Statement (.errOvfCfgWrite die x1) := fun h => one_die (die := die) (h)
theorem apply : Statement (.apply) := fun _ => none_named
theorem applyBlockDone (readback) : Statement (.applyBlockDone readback) := fun _ => none_named
theorem activate : Statement (.activate) := fun _ => none_named
theorem cancel : Statement (.cancel) := fun _ => none_named
theorem confirm : Statement (.confirm) := fun _ => none_named
theorem activationReadinessCheck (x0) : Statement (.activationReadinessCheck x0) := fun _ => none_named
theorem trialConfirmation : Statement (.trialConfirmation) := fun _ => none_named
theorem trialWindowExpiry : Statement (.trialWindowExpiry) := fun _ => none_named
theorem registerWrite (func) (off) (x2) : Statement (.registerWrite func off x2) := fun _ => none_named
theorem ptpSyncInterval (x0) : Statement (.ptpSyncInterval x0) := fun _ => none_named
theorem esmcTransmit : Statement (.esmcTransmit) := fun _ => none_named
theorem aditTimeExchange (x0) (x1) (x2) (x3) : Statement (.aditTimeExchange x0 x1 x2 x3) := fun _ => none_named
theorem rngOkReturn (die) : Statement (.rngOkReturn die) := fun h => one_die (die := die) (h)
theorem braceAlarmClear (die) : Statement (.braceAlarmClear die) := fun h => one_die (die := die) (h)
theorem junctionEpisodeEnd (die) : Statement (.junctionEpisodeEnd die) := fun h => one_die (die := die) (h)
theorem perstNRelease : Statement (.perstNRelease) := fun _ => none_named

end Sys2Proof.Laws.Wf
end

