-- ==== Sys2Proof/Laws/Reset.lean ====
section
/-! SUPPORT. What a package reset can do: which state it starts from, what the reports add to it, and when it is absorbed. -/

namespace Sys2Proof.Laws

open Sys2Proof.Machine Sys2Proof.Safety

/-- `t` is `s` but for the error logs of the dies and what goes out. -/
def onlyLogs (s t : State) : Prop :=
  t = { s with dies := t.dies, out := t.out } ∧ t.dies.length = s.dies.length ∧
  ∀ e, t.die e = { s.die e with err := (t.die e).err }

theorem onlyLogs_refl (s : State) : onlyLogs s s := ⟨rfl, rfl, fun _ => rfl⟩

theorem onlyLogs_trans {s t u : State} (h : onlyLogs s t) (k : onlyLogs t u) : onlyLogs s u := by
  obtain ⟨h1, h2, h3⟩ := h
  obtain ⟨k1, k2, k3⟩ := k
  exact ⟨by rw [k1, h1], k2.trans h2, fun e => by rw [k3 e, h3 e]⟩

theorem onlyLogs_of_onlyLog {d : Nat} {s t : State} (h : onlyLog d s t) : onlyLogs s t := by
  obtain ⟨h1, h2, h3⟩ := h
  refine ⟨h1, h2, fun e => ?_⟩
  rw [h3 e]
  split <;> rfl

/-- A report on each of some dies touches error logs and the outputs only. -/
theorem onlyLogs_raiseAll (ds : List Nat) (code : BitVec 16) (detail : BitVec 64) (s : State) :
    onlyLogs s (forAll ds (fun d => raise d code detail) s) := by
  induction ds generalizing s with
  | nil => exact onlyLogs_refl s
  | cons d ds ih => exact onlyLogs_trans (onlyLogs_of_onlyLog (onlyLog_raise d code detail s)) (ih _)

/-- The state in which the bridge restarts after a package reset, before the dies report it (17 Table 17.3). -/
def restarted (kind : BitVec 3) (s : State) : State :=
  { pending := s.pending, fuses := s.fuses, flash := s.flash, dies := s.dies.mapIdx (resetDie kind s.fuses),
    pair := { strap := s.pair.strap, lastT := if kind = 0 || kind = 1 then 0 else s.pair.lastT, alive := s.pair.alive },
    upd := resetUpd kind s.upd, inReset := some (packageRank kind), linkUp := s.linkUp,
    readData := s.readData, out := s.out, free := s.free }

/-- With no reset in progress a package reset leaves the restarted state, error logs and outputs apart. -/
theorem packageReset_spec (kind : BitVec 3) (s : State) (h : s.inReset = none) :
    onlyLogs (restarted kind s) (packageReset kind s) := by
  unfold packageReset
  simp only [h, Bool.false_eq_true, if_false]
  exact onlyLogs_raiseAll _ _ _ (restarted kind s)

/-- A package reset is absorbed by one of higher or equal order in progress (20 R418). -/
theorem packageReset_absorbed (kind : BitVec 3) (s : State) (r : Nat) (h : s.inReset = some r) (hr : r ≤ packageRank kind) :
    packageReset kind s = s := by
  unfold packageReset
  simp [h, hr]

end Sys2Proof.Laws
end

