-- ==== Sys2Proof/Laws/Time.lean ====
section
/-! SUPPORT. What the servo's operations can do once device time is set: they touch the servo, the TIM blocks, the error
logs and the outputs, and move a source only where they say so. -/

namespace Sys2Proof.Laws

open Sys2Proof.Machine Sys2Proof.Safety

theorem onlyTime_refl (s : State) : onlyTime s s := ⟨rfl, rfl, fun _ => rfl⟩

theorem onlyTime_trans {s t u : State} (h : onlyTime s t) (k : onlyTime t u) : onlyTime s u := by
  obtain ⟨h1, h2, h3⟩ := h
  obtain ⟨k1, k2, k3⟩ := k
  refine ⟨by rw [k1, h1], k2.trans h2, fun e => ?_⟩
  rw [k3 e, h3 e]

/-- A report is such a change. -/
theorem onlyTime_of_onlyLog {d : Nat} {s t : State} (h : onlyLog d s t) : onlyTime s t := by
  obtain ⟨h1, h2, h3⟩ := h
  refine ⟨by rw [h1], h2, fun e => ?_⟩
  rw [h3 e]
  split <;> rfl

theorem onlyLog_servo {d : Nat} {s t : State} (h : onlyLog d s t) : t.servo = s.servo := by rw [h.1]

theorem onlyTime_raise (d : Nat) (code : BitVec 16) (detail : BitVec 64) (s : State) : onlyTime s (raise d code detail s) :=
  onlyTime_of_onlyLog (onlyLog_raise d code detail s)

@[simp] theorem raise_servo (d : Nat) (code : BitVec 16) (detail : BitVec 64) (s : State) :
    (raise d code detail s).servo = s.servo := onlyLog_servo (onlyLog_raise d code detail s)

theorem onlyTime_modTim (d : Nat) (f : Die → Die) (s : State) (h : ∀ x, f x = { x with tim := (f x).tim }) :
    onlyTime s (s.modDie d f) := by
  refine ⟨rfl, by simp [State.modDie], fun e => ?_⟩
  rw [die_modDie]
  by_cases he : e = d
  · subst he
    split
    · have hx := h (s.die e)
      simp only
      rw [hx]
    · simp
  · simp [he]

theorem onlyTime_timEv (d i : Nat) (s : State) : onlyTime s (timEv d i s) := onlyTime_modTim d _ s fun _ => rfl

theorem onlyTime_servo (s : State) (v : Servo) : onlyTime s { s with servo := v } := ⟨rfl, rfl, fun _ => rfl⟩

/-- `u` is `s` but for what `onlyTime` allows, with the same sources, and device time is set in it. -/
def sourcesKept (s u : State) : Prop := onlyTime s u ∧ u.servo.refs = s.servo.refs ∧ u.servo.timeSet = true

theorem sourcesKept_servo {s u : State} (v : Servo) (h : sourcesKept s u) (hr : v.refs = u.servo.refs)
    (ht : v.timeSet = u.servo.timeSet) : sourcesKept s { u with servo := v } :=
  ⟨onlyTime_trans h.1 (onlyTime_servo u v), hr.trans h.2.1, ht.trans h.2.2⟩

theorem sourcesKept_timEv {s u : State} (d i : Nat) (h : sourcesKept s u) : sourcesKept s (timEv d i u) :=
  ⟨onlyTime_trans h.1 (onlyTime_timEv d i u), h.2.1, h.2.2⟩

theorem sourcesKept_raise {s u : State} (d : Nat) (code : BitVec 16) (detail : BitVec 64) (h : sourcesKept s u) :
    sourcesKept s (raise d code detail u) :=
  ⟨onlyTime_trans h.1 (onlyTime_raise d code detail u), by rw [raise_servo]; exact h.2.1, by rw [raise_servo]; exact h.2.2⟩

theorem sourcesKept_servoTo {s u : State} (st : ServoState) (h : sourcesKept s u) : sourcesKept s (servoTo st u) := by
  unfold servoTo
  dsimp only
  split
  · exact h
  · exact sourcesKept_timEv 0 0 (sourcesKept_servo _ h rfl rfl)

/-- Once time is set, the choice of sources keeps every source. -/
theorem sourcesKept_servoEval {s u : State} (c : Nat) (h : sourcesKept s u) : sourcesKept s (servoEval c u) := by
  unfold servoEval
  dsimp only
  split
  · exact h
  · have ht : u.servo.timeSet = true := h.2.2
    have base (v : Servo) (hr : v.refs = u.servo.refs) (hv : v.timeSet = true) : sourcesKept s { u with servo := v } :=
      sourcesKept_servo v h hr (hv.trans ht.symm)
    generalize (if (bestSource u givesPhase ≠ 0 && givesFreq (bestSource u givesPhase)) = true then bestSource u givesPhase
      else bestSource u givesFreq) = f1
    simp only [ht, if_true]
    split
    · split
      · exact sourcesKept_servo _ (sourcesKept_servoTo _ (base _ rfl rfl)) rfl rfl
      · exact base _ rfl rfl
    · split
      · exact sourcesKept_servoTo _ (base _ rfl rfl)
      · split
        · exact sourcesKept_raise _ _ _ (sourcesKept_servoTo _ (base _ rfl rfl))
        · exact sourcesKept_raise _ _ _ (sourcesKept_servoTo _ (base _ rfl rfl))
        · exact sourcesKept_raise _ _ _ (sourcesKept_servoTo _ (base _ rfl rfl))
        · exact base _ rfl rfl
        · exact base _ rfl rfl

/-- Once time is set, moving a source changes that source's state and no other source. -/
theorem refTo_spec (c : Nat) (st : RefSt) (s : State) (h : s.servo.timeSet = true) :
    onlyTime s (refTo c st s) ∧ (refTo c st s).servo.timeSet = true ∧
      (refTo c st s).servo.refs =
        if (s.ref c).state = st then s.servo.refs else tmod {} s.servo.refs c fun r => { r with state := st } := by
  unfold refTo
  split
  · exact ⟨onlyTime_refl s, h, rfl⟩
  · obtain ⟨a, b, e⟩ := sourcesKept_servoEval (s := timEv 0 1 (s.modRef c fun r => { r with state := st })) c
      ⟨onlyTime_refl _, rfl, h⟩
    exact ⟨onlyTime_trans (onlyTime_trans (onlyTime_servo s _) (onlyTime_timEv 0 1 _)) a, e, b⟩

end Sys2Proof.Laws
end

