-- ==== Sys2Proof/Tests/Slice0.lean ====
section
/-! SUPPORT. Tests: ill-formed commands refused by WellFormed, witnesses of the statements' hypotheses, and small
runs of one step whose results come from the manual. -/

namespace Sys2Proof.Tests

open Sys2Proof Sys2Proof.Machine Sys2Proof.Safety

/-! ## Small states -/

/-- Dies with a structure, subport 0 and room for legs and conferences. -/
def liveDie (x : Die) : Die :=
  { x with str := { x.str with state := .running }, ing := { x.ing with present := 1 },
           cap := { x.cap with legs := 1024, confs := 128 }, mix := { x.mix with faceCap := 100000 } }
def liveState (tables : Mem) (a b : Die) : State := { State.reset with tables := tables, dies := [liveDie a, liveDie b] }

/-- Dies with a structure and closed legs. -/
def loadedState : State := liveState [] {} {}

/-- That state with die `d` changed. -/
def withDie (d : Nat) (f : Die → Die) : State := loadedState.modDie d f

/-- An unread unpinned record of code 7. -/
def errOpen : ErrRec := { code := 7, src := 0, die := 0, pinned := false, count := 1, first := 0, last := 0, detail := 0,
                          read := false, order := 0 }

/-- Die 0 whose log has seen code 7 and holds that record in slot 0. -/
def errState : State := withDie 0 fun x => { x with err := { x.err with seen := [7], ring := [(0, some errOpen)] } }

/-- The state after reset with the PF's queues enabled. -/
def hostState : State := { State.reset with queues := [(0, { sqEn := true, cqEn := true })] }

/-- Input 3, with edges, in a state, device time set. -/
def refState (st : RefSt) : State :=
  { State.reset with servo := { State.reset.servo with timeSet := true, refs := [(3, { state := st, stopped := false })] } }

/-- The inputs 2 and 5 with edges, the latter after two bad windows. -/
def badState : State :=
  { State.reset with servo := { State.reset.servo with timeSet := true, refs := [(2, { stopped := false }), (5, { badWindows := 2 })] } }

/-- The PTP source of profile 1 on port 0 in slave state with no path delay, in a state, with some outliers behind it, device
time set. -/
def ptpState (st : RefSt) (outliers : Nat) : State :=
  { loadedState with servo := { State.reset.servo with
      timeSet := true, ptpCfg := 0x0064000000000001, ptpPorts := 0x80, refs := [(1, { state := st, present := true, outliers := outliers })],
      ptp := [(0, { state := .slave, best := some (0, {}), delay := some 0 })] } }

/-- Port 0 of profile 1 in master state on subport 0 of die 0. -/
def ptpMaster : State :=
  { loadedState with servo := { State.reset.servo with ptpCfg := 0x41, ptpPorts := 0x80, ptp := [(0, { state := .master })] } }

/-- SyncE enabled on die 0 port 0 with link, MIN_QL 8, in a state, device time set. -/
def synceState (st : RefSt) : State :=
  { withDie 0 (fun x => { x with ing := { x.ing with up := 1 } }) with servo := { State.reset.servo with
      timeSet := true, synceCfg := 0x8000000000000800, refs := [(6, { state := st, ql := some 8 })] } }

/-- Loaded dies with device time set. -/
def setState : State := { loadedState with servo := { State.reset.servo with timeSet := true } }

/-- The two dies of the smallest part with the link at their port 0 up. -/
def linkState : State :=
  let up (x : Die) : Die := { x with ubh := [(0, { up := true, routed := true, lanes := 8 })] }
  let s := loadedState
  { s with dies := s.dies.map up }

/-- Capture unit 0 of die 0 on rising edges of EVT_IN0, filter 30 ns, with so many entries and such a divider. -/
def capState (entries : Nat) (div : BitVec 16) : State :=
  withDie 0 fun x => { x with tim := { x.tim with
    cap := [(0, { src := 1, edge := 1, div := div, filter := 15, fifo := List.replicate entries (0, 1) })] } }

/-- Trigger 3 of die 0 with a time, an armed stamp and a target. -/
def trigState (time : BitVec 64) (armed : Option (BitVec 64)) (target : BitVec 3) : State :=
  withDie 0 fun x => { x with tim := { x.tim with trig := [(3, { time := time, armed := armed, target := target })] } }

/-- Words stored in a memory at their offsets from an address. -/
def withWords (m : Mem) (a : Nat) (ws : List (Nat × Word)) : Mem := ws.foldl (fun m e => wr64 m (a + e.1) e.2) m

/-- An enabled leg half: a version, the subport 0 of a die, no conference, a jitter buffer of 2 to 10 ms that starts at 5. -/
def openHalf (m : Mem) (a : Nat) (version ethDie : Word) : Mem :=
  withWords m a [(0, 0xFFFF00010000 ||| version), (0x20, ethDie <<< 35), (0x60, 0x050A02)]

/-- An enabled conference half: a version, one talker, no layouts, a ceiling of -1 dB, nobody pinned. -/
def openConfHalf (m : Mem) (a : Nat) (version : Word) : Mem :=
  withWords m a [(0, 0xFFFFFFFF00030000 ||| version), (8, 0xFF00), (0x10, 0xFFFFFFFFFFFFFFFF), (0x18, 0xFFFFFFFFFFFFFFFF)]

/-- Leg 0 closed and allocated to the PF, version 1 enabled in its shadow half, a doorbell for a version at boundary 1. -/
def adoptState (version : BitVec 16) : State :=
  liveState (openHalf [] 256 1 0) { legs := [(0, { alloc := some 0, db := some { version := version, atMp := some 1 } })] } {}

/-- Leg 0 open on die 0, leg 1024 of die 1 closed with version 1 enabled in its shadow half. -/
def moveState : State :=
  liveState (openHalf (openHalf [] 0 1 0) (0x80000 + 256) 1 1) { legs := [(0, { alloc := some 0 })] } { legs := [(0, { alloc := some 0 })] }

/-- That state where leg 1024 holds the class 3 load that its shadow half asks for. -/
def moveBw : State :=
  moveState.modLeg 1024 fun x => { x with loadBw := Config.legBandwidth (rdBytes moveState.tables (legHalfAt 1024 true) 256) }

/-- The same while a move of leg 0 to leg 1024 at boundary 10 is tried. -/
def moveCmd : Cmd := { w1 := 0x04000000, w2 := 10 }
def moveTried : State := { moveBw with moves := [cmdMove false moveCmd] }

/-- That load fits the budget of die 1. -/
theorem moveTried_budget : legBudget (cmdMove false moveCmd).dst moveTried = true := by
  have e : legBw moveTried 1024 true = (moveTried.leg 1024).loadBw := by
    unfold legBw; rw [if_pos (by decide)]; rfl
  exact Bool.or_eq_true_iff.mpr (.inl (decide_eq_true (Nat.le_of_eq e)))

/-- The move passes its checks. -/
theorem moveBw_status : moveStatus (cmdMove false moveCmd) moveBw = 0 := by
  have ht : targetStatus (cmdMove false moveCmd) 1 moveTried = 0 := by
    unfold targetStatus loadStatus
    rw [moveTried_budget]
    decide
  unfold moveStatus
  rw [if_neg (by decide), if_neg (by decide), if_neg (by decide), if_neg (by decide), if_neg (by decide)]
  change (if _ then _ else _) = 0#8
  rw [if_neg (by decide), if_neg (by decide)]
  exact ht

/-- Conference 0 open on die 0, conference 128 of die 1 closed with version 1 enabled in its shadow half. -/
def rehomeState : State :=
  liveState (openConfHalf (openConfHalf [] 0x400000 1) (0x408000 + 128) 1) { confs := [(0, {})] } { confs := [(0, {})] }

/-- Leg 0 open on die 0 subport 0 without SRTP, receiving audio of SSRC 5 from address 1, local address entry 0 valid. -/
def rxTables (w58 w60 : Word) : Mem :=
  withWords [] 0 [(0, 0xFFFF000B0001), (0x18, 0x0100000000000000), (0x28, 5), (0x58, w58), (0x60, w60)]
def rxDie (x : Die) : Die :=
  { x with ing := { x.ing with laddr := [(0, { valid := true, ports := 1 })], up := 1, strEn := true,
                               known := { tok := strNeed }, unknown := { tok := strNeed } }
           str := { x.str with jbPool := 100000, pktPool := 100000 } }
def rxState : State := liveState (rxTables 0 0x050A02) (rxDie { legs := [(0, { classified := true })] }) {}

/-- The same with the stranger ring at its smallest size and a tail. -/
def ringState (tail : BitVec 12) : State :=
  rxState.modDie 0 fun x => { x with ing := { x.ing with strLog2 := 4, strTail := tail, strHead := 5 } }

/-- Leg 0 open with a missing packet 3 and so many requests allowed. -/
def nackState (most : Word) : State :=
  liveState (rxTables 0 (most <<< 32)) { legs := [(0, { rx := { nacks := [{ seq := 3, due := 0 }] } })] } {}

/-- Leg 0 open with SRTP, a packet of it in the engine of die 0. -/
def flightState : State :=
  let d : Die := { legs := [(0, { jb := { target := 240 } })] }
  liveState (rxTables 0x100000000 0x050A02) { d with ing := { d.ing with inFlight := [{ leg := 0 }] } } {}

/-- Key slot 1 of dies 0 and 1 and slot 2 of die 1 allocated to the PF, that of die 0 holding a secret or private key of a
type for derivation. -/
def secretState (ktype : BitVec 4) : State :=
  let d : Die := {}
  let on (x : Die) (l : Tab Slot) : Die :=
    { x with cip := { x.cip with slots := l }, capr := { x.capr with stageMib := 1 } }
  liveState [] (on d [(1, { alloc := true, ktype := ktype, usage := 0x10 })]) (on d [(1, { alloc := true }), (2, { alloc := true })])
def keyState : State := secretState 1

/-- The bulk engine of die 0 held by the Duken core. -/
def lockState (waiting : Bool) : State :=
  withDie 0 fun x => { x with cip := { x.cip with owner := 0x60, waiting := waiting } }

/-- TDM port 7 of die 0, alone in its group, in a state, with a configuration and a frame. -/
def tdmState (st : TdmState) (cfg : BitVec 36) (frame : Nat) : State :=
  withDie 0 fun x => { x with tdm := { x.tdm with
    clkPort := [(7, 7)], ports := [(7, { state := st, cfg := cfg, frame := frame })] } }

/-- Port 7 a running slave whose frame 1 began at an edge at instant 0. -/
def edgeState : State := (tdmState .running 0 1).modPort 0 7 fun x => { x with edge := some 1, lastFsync := some 0 }

/-- Ports 6 and 7 of die 0 in one group, the latter running as a slave with two slots. -/
def pairPorts : State :=
  withDie 0 fun x => { x with tdm := { x.tdm with
    clkPort := [(6, 7), (7, 7)], ports := [(7, { state := .running, cfg := 0x9 })] } }

/-- The same running with output channels, block 0 of the group complete or not. -/
def fetchState (complete : Bool) : State :=
  withDie 0 fun x => { x with tdm := { x.tdm with
    clkPort := [(7, 7)], outRing := [(56, { complete := complete })]
    ports := [(7, { state := .running, cfg := 0x001000008, sdo := .driven })] } }

/-- Leg 0 open with received video of SSRC 7, a whole frame of timestamp 9 and a keyframe request sent, and decode context
0 of die 0. -/
def videoState (x : DecCtx) : State :=
  let tables := withWords [] 0 [(0, 0xFFFF00130001), (0x30, 7), (0x50, 1)]
  let d : Die := { legs := [(0, { vframes := [{ ts := 9, complete := true }], kf := [{ ssrc := 7, lastSent := some 3 }] })] }
  liveState tables { d with vdc := { d.vdc with ctx := [(0, x)] } } {}

/-- A 64 by 64 picture of AVC Main at level 3.0 that refers to picture 4. -/
def cleanPic : PicInfo := { width := 64, height := 64, profile := 0x1E4D, refs := [4] }

/-- The same with a frame of timestamp 0 that is not whole, decoded by context 0. -/
def decodedState : State :=
  (videoState { state := .opened, leg := 0 }).modLeg 0 fun x => { x with vframes := [{ spatial := 0 }] }

/-- Layout 0 of die 0 allocated, its shadow half at 1 picture/s, the boundaries before one processed, groups waiting. -/
def flipState (mp : Nat) (flips : List FlipGroup) : State :=
  let d : Die := {}
  let tables := withWords [] 0xC01000 [(0, 0x01010001)]
  { liveState tables { d with gal := { d.gal with layouts := [(0, { alloc := some 0 })], flips := flips } } {} with
    lastMp := if mp = 0 then none else some (mp - 1) }

/-- The same layout enabled. -/
def onState : State :=
  let d : Die := { counting := true }
  liveState (withWords [] 0xC00000 [(0, 0x01010001)]) { d with gal := { d.gal with layouts := [(0, { alloc := some 0 })] } } {}

/-- A decode context and an encode context 0 of die 0. -/
def encState (x : DecCtx) (y : EncCtx) : State :=
  let d : Die := {}
  liveState [] { d with vdc := { d.vdc with ctx := [(0, x)] }, ven := { d.ven with ctx := [(0, y)] } } {}

/-- A control frame on subport 0 of die 0, whose host bucket holds a token and whose staging slice 1 MiB. -/
def egrState : State :=
  let d : Die := {}
  liveState [] { d with egr := { d.egr with hostTok := hostNeed, sub := [(0, { control := [{ kind := .control }] })] }
                        capr := { d.capr with stageMib := 1 } } {}

/-- Leg 0 open with a packet at the head of its queue, ready. -/
def readyState : State :=
  liveState (rxTables 0 0x050A02) { legs := [(0, { tx := { queue := [{ leg := 0 }], ready := true } })] } {}

/-- Leg 0 open and sending video under the controller. -/
def sendState : State := liveState (withWords [] 0 [(0, 0xFFFF00150001)]) { legs := [(0, {})] } {}

/-- Customer core 16 of die 0 in a state, with a bundle at address 0. -/
def faceState (st : FaceState) (b : BitVec 128) : State :=
  withDie 0 fun x => { x with face := [(16, { state := st, role := 1, imem := if b = 0 then [] else [(0, b)] })] }

/-- The same with a tub of level 7 ready and the words of another written. -/
def tubState : State :=
  (faceState .running 0).modDie 0 fun x => { x with hst := { x.hst with enq := [(0, 0x7A000)], ready := [{ w := [0x7A000] }] } }

/-- Queue 0x31 of die 0 holding two units, a line each. -/
def queueState : State :=
  withDie 0 fun x => { x with drc := { x.drc with queues := [(0x31, { ring := [([], 64, true), ([], 1, true)], wr := 2, wrN := ~~~2 })] } }

/-- Two dies with 1 GiB of device memory trained. -/
def gibState : State :=
  let d : Die := {}
  liveState [] { d with drc := { d.drc with gib := 1, chOk := 3 } } { d with drc := { d.drc with gib := 1, chOk := 3 } }


/-- A unit of a pair in a role, every die running. -/
def pairState (role : Role) : State :=
  { liveState [] {} {} with pair := { State.reset.pair with cfg := true, role := role } }

/-- The same at heartbeat instant 0, with so many heartbeats missed in a row on each die. -/
def beatState (role : Role) (n : Nat) : State :=
  let d : Die := {}
  let x : Die := { d with par := { d.par with hbRun := n } }
  { liveState [] x x with pair := { State.reset.pair with cfg := true, role := role, hbAt := some 0 } }

/-- A standby that awaits a frame that a record admits, and a re-seed of leg 1 at MP 7. -/
def admitState : State :=
  { pairState .standby with pair := { (pairState .standby).pair with
      ledger := [.admission 1 3 2 4 5 0], reseed := [(1, 7)] } }

/-- Die 0 in the sweep of a re-plan. -/
def planState : State := withDie 0 fun x => { x with can := { x.can with replanning := true } }

/-- Die 0 in brace or not, with so many entries at this instant behind it. -/
def braceState (brace : Bool) (n : Nat) : State :=
  withDie 0 fun x => { x with pwr := { x.pwr with brace := brace, recent := List.replicate n 0 } }

/-- An update in a state, a full delta of one erased block and APPLY_ID 7 staged on die 0; every die runs. -/
def deltaState (st : UpdState) : State :=
  let d : Die := { dram := withWords [] 0 [(0, 0x00010001544C4454), (8, 1), (16, 7), (0x60, 128), (0x68, 9)] }
  { liveState [] { d with capr := { d.capr with stageMib := 1 } } {} with
    upd := { State.reset.upd with state := st, deltaAddr := 0x2000000, deltaLen := 112, confirmed := true } }

/-- The state after reset is at rest. -/
theorem quiet_reset : quiet State.reset := by
  refine ⟨fun d hd => ?_, rfl, rfl, rfl, rfl, rfl, rfl⟩
  match d, hd with
  | 0, _ | 1, _ => exact ⟨rfl, rfl, rfl, rfl, rfl, rfl, rfl⟩
  | _ + 2, h => cases h
/-- Operands and a state that meet the hypotheses of each clause of `StepRunsFrontCommand`. -/
theorem test_witness_stepRunsFrontCommand :
    (∃ (c : Instr) (rest : List Instr) (s : State), s.pending = c :: rest) :=
  ⟨.bootLoad, [], { State.reset with pending := [.bootLoad] }, by decide⟩

/-- Operands and a state that meet the hypotheses of each clause of `EmptyQueueStepIsOneTick`. -/
theorem test_witness_emptyQueueStepIsOneTick :
    (∃ (s : State), s.pending = []) :=
  ⟨State.reset, by decide⟩

/-- Operands and a state that meet the hypotheses of each clause of `StepTakesOneCommand`. -/
theorem test_witness_stepTakesOneCommand :
    (∃ (s t : State), step s = .next t) :=
  ⟨{ State.reset with pending := [.timSnap 0] }, _, rfl⟩

/-- Operands and a state that meet the hypotheses of each clause of `StepKeepsLegalState`. -/
theorem test_witness_stepKeepsLegalState :
    (∃ (s t : State), Inv s ∧ step s = .next t) :=
  ⟨State.reset, _, ⟨by decide, by decide, by decide⟩, rfl⟩

/-- Operands and a state that meet the hypotheses of each clause of `RevokedKeysStayRevoked`. -/
theorem test_witness_revokedKeysStayRevoked :
    (∃ (s t : State) (k : Nat), step s = .next t ∧ s.fuses.revoked.getLsbD k = true) :=
  ⟨{ State.reset with fuses := { State.reset.fuses with revoked := 1 }, pending := [.timSnap 0] }, _, 0, rfl, by decide⟩

/-- Operands and a state that meet the hypotheses of each clause of `WordIsLittleEndian`. -/
theorem test_witness_wordIsLittleEndian :
    (∃ (m : Mem) (_a : Nat) (_v : Word), tabWf 0 m = true) :=
  ⟨[], 0, 0, by decide⟩

/-- Operands and a state that meet the hypotheses of each clause of `FirstReportIsPinned`. -/
theorem test_witness_firstReportIsPinned :
    (∃ (d : Nat) (_src : Byte) (code : BitVec 16) (_detail : BitVec 64) (s : State), s.hasDie d = true ∧ (s.die d).err.seen.contains code = false ∧ slotFree (tget none (s.die d).err.ring (s.die d).err.tail.toNat) = true) :=
  ⟨0, 0, 0, 0, State.reset, by decide⟩

/-- Operands and a state that meet the hypotheses of each clause of `RepeatedReportCoalesces`. -/
theorem test_witness_repeatedReportCoalesces :
    (∃ (d i : Nat) (r : ErrRec) (src : Byte) (code : BitVec 16) (_detail : BitVec 64) (s : State), s.hasDie d = true ∧ (s.die d).err.seen.contains code = true ∧ (pickSlot true (fun r => r.code == code && r.src == src) (s.die d).err.ring = some (i, r))) :=
  ⟨0, 0, errOpen, 0, 7, 0, errState, by decide⟩

/-- Operands and a state that meet the hypotheses of each clause of `CommandEndsWithOneCompletion`. -/
theorem test_witness_commandEndsWithOneCompletion :
    (∃ (op : BitVec 8) (c : Cmd) (_st : BitVec 8) (_r _o _v : BitVec 16) (s : State), ((s.fq c.func).fetched.head? = some c) ∧ opOf c = op ∧ standsBy s = false ∧ ((s.fq c.func).cqEn = true) ∧ (cqFull (s.fq c.func) = false) ∧ ((s.fq c.func).waiting = []) ∧ ((s.fq c.func).running = []) ∧ ((s.fq c.func).cqIrq = false) ∧ tabWf {} s.queues = true) ∧
    (∃ (op : BitVec 8) (c : Cmd) (_body : State → Reply × State) (s : State), ((s.fq c.func).fetched.head? ≠ some c ∨ opOf c ≠ op)) :=
  ⟨⟨0, {}, 0, 0, 0, 0, { State.reset with queues := [(0, { sqEn := true, cqEn := true, fetched := [{}] })] }, by decide⟩,
   ⟨1, {}, (fun s => (.later, s)), hostState, by decide⟩⟩

/-- Operands and a state that meet the hypotheses of each clause of `StandbyRefusesCommands`. -/
theorem test_witness_standbyRefusesCommands :
    (∃ (_op : BitVec 8) (_c : Cmd) (_body : State → Reply × State) (s : State), standsBy s = true) :=
  ⟨0, {}, (fun s => (.later, s)), { State.reset with pair := { State.reset.pair with role := .standby } }, by decide⟩

/-- Operands and a state that meet the hypotheses of each clause of `SlaveDiesFollowDieZero`. -/
theorem test_witness_slaveDiesFollowDieZero :
    (∃ (die p1 p2 p3 p4 : Nat) (_t1 _t2 _t3 _t4 : BitVec 64) (s : State), die ≠ 0 ∧ s.hasDie die = true ∧ (s.die die).tim.slaveEn = true ∧ leavingPort s die 0 = some p1 ∧ arrivingPort s die 0 = some p2 ∧ leavingPort s 0 die = some p3 ∧ arrivingPort s 0 die = some p4) ∧
    (∃ (die : Nat) (_t1 _t2 _t3 _t4 : BitVec 64) (s : State), (die = 0 ∨ (s.die die).tim.slaveEn = false)) ∧
    (∃ (die : Nat) (since : BitVec 64) (s : State), die ≠ 0 ∧ (s.die die).tim.slaveErr = false ∧ (s.die die).tim.beyondSince = some since) ∧
    (∃ (die : Nat) (s : State), (s.die die).tim.beyondSince = none) :=
  ⟨⟨1, 0, 0, 0, 0, 0, 0, 0, 0, linkState, by decide⟩,
   ⟨0, 0, 0, 0, 0, State.reset, by decide⟩,
   ⟨1, 0, withDie 1 fun x => { x with tim := { x.tim with offset := 70000, beyondSince := some 0 } }, by decide⟩,
   ⟨1, State.reset, by decide⟩⟩

/-- Operands and a state that meet the hypotheses of each clause of `InputsAreJudgedStopQualifyAndRearm`. -/
theorem test_witness_inputsAreJudgedStopQualifyAndRearm :
    (∃ (src : Nat) (raw : BitVec 64) (s : State), 2 ≤ src ∧ src ≤ 5 ∧ ((s.ref src).stopped = true ∨ ((rxStamp (s.dlyOf 0 (inputDly src)) raw - (s.ref src).predicted).toInt.natAbs ≤ 131072 ∧
      (rxStamp (s.dlyOf 0 (inputDly src)) raw - (s.ref src).lastEdge).toInt ≤ 3 * refPeriod src)) ∧ s.servo.phaseSrc.toNat ≠ src) ∧
    (∃ (src : Nat) (raw : BitVec 64) (s : State), 2 ≤ src ∧ src ≤ 5 ∧ ((s.ref src).stopped = true ∨ ((rxStamp (s.dlyOf 0 (inputDly src)) raw - (s.ref src).predicted).toInt.natAbs ≤ 131072 ∧
      (rxStamp (s.dlyOf 0 (inputDly src)) raw - (s.ref src).lastEdge).toInt ≤ 3 * refPeriod src)) ∧ s.servo.phaseSrc.toNat ≠ src) ∧
    (∃ (src : Nat) (raw : BitVec 64) (s : State), 2 ≤ src ∧ src ≤ 5 ∧ (s.ref src).stopped = false ∧ ((s.ref src).state = .qualified ∨ (s.ref src).state = .qualifying) ∧ 131072 < (rxStamp (s.dlyOf 0 (inputDly src)) raw - (s.ref src).predicted).toInt.natAbs ∧ (rxStamp (s.dlyOf 0 (inputDly src)) raw - (s.ref src).lastEdge).toInt ≤ 3 * refPeriod src ∧ s.servo.phaseSrc.toNat ≠ src ∧ s.servo.timeSet = true) ∧
    (∃ (src : Nat) (ppt : Int) (s : State), 2 ≤ src ∧ src ≤ 5 ∧ (s.ref src).stopped = false ∧ ppt.natAbs ≤ 2000000) ∧
    (∃ (src : Nat) (ppt : Int) (s : State), 2 ≤ src ∧ src ≤ 5 ∧ 2000000 < ppt.natAbs ∧ (s.ref src).badWindows = 2 ∧ s.servo.timeSet = true) ∧
    (∃ (src : Nat) (s : State), 2 ≤ src ∧ src ≤ 5 ∧ (s.ref src).stopped = false ∧ s.servo.timeSet = true) ∧
    (∃ (src : Nat) (s : State), 2 ≤ src ∧ src ≤ 5 ∧ (s.ref src).stopped = false ∧ ((s.ref src).state = .disqPhase ∨ (s.ref src).state = .disqStop ∨ (s.ref src).state = .qualifying) ∧ ((s.ref src).cleanSince + BitVec.ofNat 64 (10 * unitsSec) - (s.ref src).lastEdge).toInt ≤ 3 * refPeriod src ∧ s.servo.timeSet = true) ∧
    (∃ (mask : BitVec 64) (s : State), (∀ c, c < 16 → mask.getLsbD c = true → (s.ref c).state ≠ .disqFreq)) ∧
    (∃ (src : Nat) (s : State), 2 ≤ src ∧ src ≤ 5 ∧ s.off 0 = false ∧ (s.ref src).state = .disqFreq ∧ s.servo.timeSet = true) :=
  ⟨⟨2, 0, State.reset, by decide⟩,
   ⟨2, 131072, badState, by decide⟩,
   ⟨3, 131073, refState .qualified, by decide⟩,
   ⟨2, 2000000, badState, by decide⟩,
   ⟨5, 2000001, badState, by decide⟩,
   ⟨2, badState, by decide⟩,
   ⟨3, { State.reset with servo := { State.reset.servo with timeSet := true, refs := [(3, { state := .disqPhase, stopped := false, lastEdge := BitVec.ofNat 64 (8 * unitsSec) })] } }, by decide⟩,
   ⟨1, State.reset, by decide⟩,
   ⟨3, { loadedState with servo := (refState .disqFreq).servo }, by decide⟩⟩

/-- Operands and a state that meet the hypotheses of each clause of `PtpSourceAndItsMessages`. -/
theorem test_witness_ptpSourceAndItsMessages :
    (∃ (m : PtpMsg) (origin : BitVec 64) (c : PtpClock) (d : Int) (s : State), ptpOn s m.port = true ∧ m.domain = ptpDomain s ∧ m.transport = ptpTransport s ∧ m.body = .sync false origin ∧ (s.ptp m.port).state = .slave ∧ (s.ptp m.port).best = some (m.sender, c) ∧ (s.ptp m.port).delay = some d ∧ (s.ref 1).present = true ∧ (s.ref 1).state = .qualified ∧ ((rxStamp (ptpDly s m.port) m.arrival - BitVec.ofInt 64 m.corr - origin).toInt - d - (s.ref 1).predicted.toInt).natAbs ≤
      unitsNs * fldN s.servo.ptpCfg 48 12 ∧ s.servo.phaseSrc ≠ 1) ∧
    (∃ (m : PtpMsg) (origin : BitVec 64) (c : PtpClock) (d : Int) (s : State), ptpOn s m.port = true ∧ m.domain = ptpDomain s ∧ m.transport = ptpTransport s ∧ m.body = .sync false origin ∧ (s.ptp m.port).state = .slave ∧ (s.ptp m.port).best = some (m.sender, c) ∧ (s.ptp m.port).delay = some d ∧ (s.ref 1).present = true ∧ (s.ref 1).state = .qualified ∧ unitsNs * fldN s.servo.ptpCfg 48 12 <
      ((rxStamp (ptpDly s m.port) m.arrival - BitVec.ofInt 64 m.corr - origin).toInt - d - (s.ref 1).predicted.toInt).natAbs ∧ (s.ref 1).outliers ≠ 7) ∧
    (∃ (m : PtpMsg) (s : State), ptpOn s m.port = true ∧ m.domain = ptpDomain s ∧ m.transport = ptpTransport s ∧ m.body = .delayReq ∧ (s.ptp m.port).state = .master ∧ ptpProfile s ≠ 2 ∧ mediaSubport s (fldN (ptpByte s m.port) 3 3) (fldN (ptpByte s m.port) 0 3) = true) ∧
    (∃ (m : PtpMsg) (s : State), (m.domain ≠ ptpDomain s ∨ m.transport ≠ ptpTransport s)) ∧
    (∃ (s : State), slavePort s = none ∧ bit s.servo.ptpCfg 6 = true) ∧
    (∃ (p : Nat) (s : State), (s.ref 1).present = true ∧ (s.ref 1).state = .qualifying ∧ slavePort s = some p ∧ (s.clk - (s.ptp p).bestAt).toInt + ((s.ref 1).cleanSince + BitVec.ofNat 64 (10 * unitsSec) - s.now 0).toInt < annTimeout s ∧ s.servo.timeSet = true) ∧
    (∃ (v : BitVec 64) (s : State), v &&& 0x0FFFFFFF0FFFFFF7 = s.servo.ptpCfg) ∧
    (∃ (v : BitVec 64) (s : State), s.off 0 = false ∧ v &&& 0x0FFFFFFF0FFFFFF7 ≠ s.servo.ptpCfg ∧ (s.ref 1).present = false) ∧
    (∃ (p : Nat) (s : State), ptpPortList s = [p] ∧ (s.ptp p).state = .master ∧ mediaSubport s (fldN (ptpByte s p) 3 3) (fldN (ptpByte s p) 0 3) = true) ∧
    (∃ (_k : PtpKind) (s : State), ptpPortList s = []) :=
  ⟨⟨{ port := 0, body := .sync false 0, arrival := 6553600 }, 0, {}, 0, ptpState .qualified 0, by decide⟩,
   ⟨{ port := 0, body := .sync false 0, arrival := 6553601 }, 0, {}, 0, ptpState .qualified 6, by decide⟩,
   ⟨{ port := 0, body := .delayReq }, ptpMaster, by decide⟩,
   ⟨{ port := 0, domain := 1, body := .delayReq }, ptpMaster, by decide⟩,
   ⟨ptpMaster, by decide⟩,
   ⟨0, { ptpState .qualifying 0 with uptime := 9 * unitsSec, servo := { (ptpState .qualifying 0).servo with ptpCfg := 0x006400000A100001 } }, by decide⟩,
   ⟨0x0064808003000000, State.reset, by decide⟩,
   ⟨2, loadedState, by decide⟩,
   ⟨0, ptpMaster, by decide⟩,
   ⟨.announce, State.reset, by decide⟩⟩

/-- Operands and a state that meet the hypotheses of each clause of `SyncEQualityLevels`. -/
theorem test_witness_syncEQualityLevels :
    (∃ (code : BitVec 4) (s : State), synceOn s = true ∧ synceLink s = true ∧ (s.ref 6).state = .qualified ∧ qlRank (bit s.servo.synceCfg 6) code ≤ qlRank (bit s.servo.synceCfg 6) (synceMin s)) ∧
    (∃ (code : BitVec 4) (s : State), synceOn s = true ∧ synceLink s = true ∧ ((s.ref 6).state = .qualified ∨ (s.ref 6).state = .qualifying) ∧ qlRank (bit s.servo.synceCfg 6) (synceMin s) < qlRank (bit s.servo.synceCfg 6) code ∧ s.servo.timeSet = true) ∧
    (∃ (s : State), synceOn s = true ∧ synceLink s = true ∧ ((s.ref 6).state = .qualified ∨ (s.ref 6).state = .qualifying) ∧ (s.ref 6).silent = false ∧ s.servo.timeSet = true) ∧
    (∃ (s : State), synceOn s = true ∧ (s.ref 6).state = .qualifying ∧ ((s.ref 6).cleanSince + BitVec.ofNat 64 (10 * unitsSec) - (s.ref 6).lastEdge).toInt < 5 * unitsSec ∧ s.servo.timeSet = true) ∧
    (∃ (s : State), synceOn s = true ∧ mediaSubport s (fldN s.servo.synceCfg 3 3) (fldN s.servo.synceCfg 0 3) = true) :=
  ⟨⟨8, synceState .qualified, by decide⟩,
   ⟨11, synceState .qualifying, by decide⟩,
   ⟨synceState .qualified, by decide⟩,
   ⟨{ synceState .qualifying with servo := { (synceState .qualifying).servo with refs := [(6, { state := .qualifying, ql := some 8, lastEdge := BitVec.ofNat 64 (6 * unitsSec) })] } }, by decide⟩,
   ⟨synceState .qualified, by decide⟩⟩

/-- Operands and a state that meet the hypotheses of each clause of `TimeIsSetSteppedAndSteered`. -/
theorem test_witness_timeIsSetSteppedAndSteered :
    (∃ (s : State), s.off 0 = false ∧ s.servo.timeSet = true) ∧
    (∃ (s : State), s.off 0 = false ∧ s.servo.timeSet = false ∧ (s.dies.all (fun x => x.tim.trig.isEmpty) = true)) ∧
    (∃ (s : State), s.off 0 = false ∧ (s.servo.timeSet = false ∨ s.servo.stepMp.toNat < s.mpNo 0 + 2 ∨
      (s.servo.stepPending.any fun p => decide (p.2.toNat < s.mpNo 0 + 2)) = true)) ∧
    (∃ (s : State), s.off 0 = false ∧ (s.servo.timeSet = false ∨ s.servo.stepMp.toNat < s.mpNo 0 + 2 ∨
      (s.servo.stepPending.any fun p => decide (p.2.toNat < s.mpNo 0 + 2)) = true)) ∧
    (∃ (s : State), s.off 0 = false ∧ s.servo.timeSet = true ∧ s.mpNo 0 + 2 ≤ s.servo.stepMp.toNat ∧ ((s.servo.stepPending.any fun p => decide (p.2.toNat < s.mpNo 0 + 2)) = false) ∧ s.pair.role ≠ .active) ∧
    (∃ (amt mp : BitVec 64) (s : State), s.servo.stepPending = some (amt, mp) ∧ amt.toInt ≤ 0 ∧ (s.endedMp = some mp.toNat ∨ s.lastMp = none)) ∧
    (∃ (s : State), s.servo.state = .acquiring ∧ s.servo.phaseSrc ≠ 0 ∧ (s.die 0).tim.offset.toInt.natAbs ≤ 32) ∧
    (∃ (t1 t2 t3 t4 : BitVec 64) (s : State), standsBy s = true ∧ s.servo.timeSet = true ∧ (s.servo.state = .acquiring ∨ s.servo.state = .locked) ∧ ((twoWay (s.dlyOf 0 (((List.range 8).find? fun i => (s.die 0).ing.adit.getLsbD i).getD 0)) {} {}
      (s.dlyOf 0 (((List.range 8).find? fun i => (s.die 0).ing.adit.getLsbD i).getD 0)) t1 t2 t3 t4).natAbs ≤ 32)) :=
  ⟨⟨setState, by decide⟩,
   ⟨loadedState, by decide⟩,
   ⟨setState, by decide⟩,
   ⟨{ setState with servo := { setState.servo with stepMp := 9, stepPending := some (1, 1) } }, by decide⟩,
   ⟨{ setState with servo := { setState.servo with stepMp := 2 } }, by decide⟩,
   ⟨0xFFFFFFFFFFFFFFFF, 1, { setState with servo := { setState.servo with stepPending := some (0xFFFFFFFFFFFFFFFF, 1) } }, by decide⟩,
   ⟨{ State.reset with servo := { State.reset.servo with state := .acquiring, phaseSrc := 2 } }, by decide⟩,
   ⟨0, 0, 0, 0, { setState with servo := { setState.servo with state := .locked }, pair := { State.reset.pair with role := .standby } }, by decide⟩⟩

/-- Operands and a state that meet the hypotheses of each clause of `LatchesAndStampQueues`. -/
theorem test_witness_latchesAndStampQueues :
    (∃ (die : Nat) (s : State), s.off die = false) ∧
    (∃ (die _q : Nat) (s : State), s.off die = false) ∧
    (∃ (die _c : Nat) (s : State), s.off die = false) ∧
    (∃ (die c : Nat) (v : BitVec 64) (s : State), s.off die = false ∧ ((s.capUnit die c).src, (s.capUnit die c).edge, (s.capUnit die c).div, (s.capUnit die c).filter) ≠
      (v.extractLsb' 0 4, v.extractLsb' 4 2, v.extractLsb' 6 16, v.extractLsb' 22 5)) ∧
    (∃ (die unit : Nat) (_raw : BitVec 64) (rising : Bool) (widthNs : Nat) (s : State), captureSrcOk die (s.capUnit die unit).src.toNat = true ∧ 2 * min (s.capUnit die unit).filter.toNat 15 ≤ widthNs ∧ (s.capUnit die unit).edge.getLsbD (if rising then 0 else 1) = true) ∧
    (∃ (die unit : Nat) (_raw : BitVec 64) (rising : Bool) (widthNs : Nat) (s : State), captureSrcOk die (s.capUnit die unit).src.toNat = true ∧ 2 * min (s.capUnit die unit).filter.toNat 15 ≤ widthNs ∧ (s.capUnit die unit).edge.getLsbD (if rising then 0 else 1) = true) ∧
    (∃ (die unit : Nat) (_raw : BitVec 64) (rising : Bool) (widthNs : Nat) (s : State), captureSrcOk die (s.capUnit die unit).src.toNat = true ∧ 2 * min (s.capUnit die unit).filter.toNat 15 ≤ widthNs ∧ (s.capUnit die unit).edge.getLsbD (if rising then 0 else 1) = true) ∧
    (∃ (die unit : Nat) (_raw : BitVec 64) (rising : Bool) (widthNs : Nat) (s : State), (captureSrcOk die (s.capUnit die unit).src.toNat = false ∨ widthNs < 2 * min (s.capUnit die unit).filter.toNat 15 ∨
      (s.capUnit die unit).edge.getLsbD (if rising then 0 else 1) = false)) ∧
    (∃ (s : State), bit s.servo.ppsCfg 63 = true) ∧
    (∃ (s : State), bit s.servo.ppsCfg 63 = false) :=
  ⟨⟨0, loadedState, by decide⟩,
   ⟨0, 0, loadedState, by decide⟩,
   ⟨0, 0, loadedState, by decide⟩,
   ⟨0, 0, 0x51, loadedState, by decide⟩,
   ⟨0, 0, 0, true, 30, capState 15 1, by decide⟩,
   ⟨0, 0, 0, true, 30, capState 16 1, by decide⟩,
   ⟨0, 0, 0, true, 30, capState 16 2, by decide⟩,
   ⟨0, 0, 0, true, 29, capState 15 1, by decide⟩,
   ⟨{ State.reset with servo := { State.reset.servo with ppsCfg := 0x8000000000000064 } }, by decide⟩,
   ⟨State.reset, by decide⟩⟩

/-- Operands and a state that meet the hypotheses of each clause of `TriggersArmFireAndDisarm`. -/
theorem test_witness_triggersArmFireAndDisarm :
    (∃ (die n : Nat) (v : BitVec 64) (s : State), s.off die = false ∧ fld v 2 3 ≠ (6 : BitVec 3) ∧ fld v 2 3 ≠ (7 : BitVec 3) ∧ (mpTarget (fld v 2 3) && !onBoundary (instantOf s die (s.trig die n).time)) = false ∧ (unitsUs : Int) ≤ stampDiff (s.trig die n).time (s.now die)) ∧
    (∃ (die n : Nat) (v : BitVec 64) (s : State), s.off die = false ∧ (fld v 2 3 = (6 : BitVec 3) ∨ fld v 2 3 = (7 : BitVec 3) ∨
      (mpTarget (fld v 2 3) && !onBoundary (instantOf s die (s.trig die n).time)) = true)) ∧
    (∃ (die n : Nat) (v : BitVec 64) (s : State), s.off die = false ∧ (fld v 2 3 = (6 : BitVec 3) ∨ fld v 2 3 = (7 : BitVec 3) ∨
      (mpTarget (fld v 2 3) && !onBoundary (instantOf s die (s.trig die n).time)) = true)) ∧
    (∃ (die n : Nat) (v : BitVec 64) (s : State), s.off die = false ∧ fld v 2 3 = (0 : BitVec 3) ∧ (s.trig die n).time ≠ 0 ∧ stampDiff (s.trig die n).time (s.now die) < (unitsUs : Int)) ∧
    (∃ (die n : Nat) (v : BitVec 64) (s : State), s.off die = false ∧ fld v 2 3 = (0 : BitVec 3) ∧ (s.trig die n).time ≠ 0 ∧ stampDiff (s.trig die n).time (s.now die) < (unitsUs : Int)) ∧
    (∃ (die n : Nat) (_v : BitVec 64) (s : State), s.off die = false ∧ (((s.trig die n).armed.any fun t => decide (stampDiff t (s.now die) ≤ 0)) = false)) ∧
    (∃ (die n : Nat) (at_ : BitVec 64) (s : State), (s.trig die n).armed = some at_ ∧ (s.trig die n).target = 0 ∧ s.hasDie die = true) :=
  ⟨⟨0, 3, 1, trigState 65536000 none 0, by decide⟩,
   ⟨0, 3, 0x19, trigState 0 none 0, by decide⟩,
   ⟨0, 3, 0x05, trigState 65536000 none 0, by decide⟩,
   ⟨0, 3, 3, trigState 65535999 none 0, by decide⟩,
   ⟨0, 3, 1, trigState 65535999 none 0, by decide⟩,
   ⟨0, 3, 0, trigState 0 (some 1) 0, by decide⟩,
   ⟨0, 3, 1, trigState 0 (some 1) 0, by decide⟩⟩

/-- Operands and a state that meet the hypotheses of each clause of `BootLoadsAStructureAfterTraining`. -/
theorem test_witness_bootLoadsAStructureAfterTraining :
    (∃ (s : State), s.bootStep = 0 ∧ (s.die 0).str.state = .none ∧ (s.dies.all (fun x => decide (x.str.state = .none)) = true) ∧ (bankPtr s).trial = false ∧ (s.dies.all (fun x => x.tim.trig.isEmpty) = true)) ∧
    (∃ (s : State), s.bootStep ≠ 0) ∧
    (∃ (_die : Nat) (r : Training) (s : State), s.bootImage = none ∧ r.ch0 = some 0 ∧ r.ch1 = some 0) ∧
    (∃ (_die : Nat) (r : Training) (v : BitVec 2) (s : State), s.bootImage = none ∧ r.ch0 = some v ∧ v ≠ 0 ∧ r.ch1 = some 0) ∧
    (∃ (die : Nat) (r : Training) (img : ImageDef) (s : State), s.bootImage = some img ∧ r.ch0 = some 0 ∧ r.ch1 = some 0 ∧ ((s.dieList.all fun d => d = die || (s.die d).drc.trained) = true) ∧ (s.dies.all (fun x => x.tim.trig.isEmpty) = true)) :=
  ⟨⟨State.reset, by decide⟩,
   ⟨{ State.reset with bootStep := 5 }, by decide⟩,
   ⟨1, {}, State.reset, by decide⟩,
   ⟨1, { ch0 := some 2 }, 2, State.reset, by decide⟩,
   ⟨1, {}, {}, { withDie 0 (fun x => { x with drc := { x.drc with trained := true } }) with bootImage := some {} }, by decide⟩⟩

/-- Operands and a state that meet the hypotheses of each clause of `BandwidthWindowGrants`. -/
theorem test_witness_bandwidthWindowGrants :
    (∃ (die c n : Nat) (wait demand : List (Nat × Nat)) (s : State), c < 6 ∧ (s.die die).drc.bwWait = wait ∧ wait ++ demand = [(c, n)]) ∧
    (∃ (die c n : Nat) (wait demand : List (Nat × Nat)) (s : State), c < 6 ∧ (s.die die).drc.bwWait = wait ∧ wait ++ demand = [(c, n)]) :=
  ⟨⟨0, 5, 7, [], [(5, 7)], State.reset, by decide⟩,
   ⟨0, 5, 7, [(5, 7)], [], withDie 0 fun x => { x with drc := { x.drc with bwWait := [(5, 7)] } }, by decide⟩⟩

/-- Operands and a state that meet the hypotheses of each clause of `LaneFailureTakesASpare`. -/
theorem test_witness_laneFailureTakesASpare :
    (∃ (die port : Nat) (s : State), s.hasDie die = true ∧ port < 3 ∧ (tget ({} : Ubh) (s.die die).ubh port).routed = true ∧ (tget ({} : Ubh) (s.die die).ubh port).spares.toNat < 2) ∧
    (∃ (die port : Nat) (s : State), s.hasDie die = true ∧ s.hasDie (ubhPeer s die port) = true ∧ port < 3 ∧ (tget ({} : Ubh) (s.die die).ubh port).routed = true ∧ 2 ≤ (tget ({} : Ubh) (s.die die).ubh port).spares.toNat) ∧
    (∃ (die port : Nat) (s : State), (tget ({} : Ubh) (s.die die).ubh port).routed = false) :=
  ⟨⟨0, 2, State.reset, by decide⟩,
   ⟨1, 0, withDie 1 fun x => { x with ubh := [(0, { spares := 2, lanes := 16 })] }, by decide⟩,
   ⟨1, 0, withDie 1 fun x => { x with ubh := [(0, { routed := false })] }, by decide⟩⟩

/-- Operands and a state that meet the hypotheses of each clause of `RestructureRunsItsSteps`. -/
theorem test_witness_restructureRunsItsSteps :
    (∃ (_v : BitVec 64) (s : State), (s.restr.busy = true ∨ s.upd.state = .armed)) ∧
    (∃ (_v : BitVec 64) (s : State), (s.restr.busy = true ∨ s.upd.state = .armed)) ∧
    (∃ (_v : BitVec 64) (s : State), s.restr.busy = false ∧ s.upd.state ≠ .armed) ∧
    (∃ (_v : BitVec 64) (s : State), s.restr.busy = false ∧ s.upd.state ≠ .armed) ∧
    (∃ (s : State), s.restr.busy = true ∧ s.restr.step = 1 ∧ s.hasDie s.restr.die.toNat = true) ∧
    (∃ (s : State), s.restr.busy = true ∧ s.restr.step = 2) ∧
    (∃ (s : State), s.restr.busy = true ∧ s.restr.step = 3) ∧
    (∃ (at_ : BitVec 64) (s : State), s.restr.busy = true ∧ s.restr.step = 7 ∧ s.hasDie s.restr.die.toNat = true ∧ (s.die s.restr.die.toNat).str.state = .loaded ∧ s.servo.timeSet = true ∧ (s.trig s.restr.die.toNat leadTrigger).armed = some at_ ∧ (s.trig s.restr.die.toNat leadTrigger).target = 2) :=
  ⟨⟨1, { State.reset with restr := { State.reset.restr with busy := true } }, by decide⟩,
   ⟨1, { State.reset with upd := { State.reset.upd with state := .armed } }, by decide⟩,
   ⟨1, State.reset, by decide⟩,
   ⟨1, { State.reset with restr := { State.reset.restr with mp := 1000 } }, by decide⟩,
   ⟨{ State.reset with restr := { State.reset.restr with busy := true, step := 1 } }, by decide⟩,
   ⟨{ State.reset with restr := { State.reset.restr with busy := true, step := 2 } }, by decide⟩,
   ⟨{ State.reset with restr := { State.reset.restr with busy := true, step := 3 } }, by decide⟩,
   ⟨0, { withDie 0 (fun x => { x with str := { x.str with state := .loaded }, tim := { x.tim with trig := [(leadTrigger, { armed := some 0, target := 2 })] } }) with restr := { State.reset.restr with busy := true, step := 7 }, servo := setState.servo }, by decide⟩⟩

/-- Operands and a state that meet the hypotheses of each clause of `HostWritesReachTheTables`. -/
theorem test_witness_hostWritesReachTheTables :
    (∃ (func off : Nat) (bytes : List Byte) (s : State), standsBy s = false ∧ (s.die 0).str.state ≠ .none ∧ off < 0x400000 ∧ bytes ≠ [] ∧ bytes.length ≤ 256 - off % 256 ∧ legIdOk s (BitVec.ofNat 16 (off / 512)) = true ∧ (func = 0 ∨ (s.leg (BitVec.ofNat 16 (off / 512))).alloc = some func) ∧ (s.leg (BitVec.ofNat 16 (off / 512))).live ≠ decide (off / 256 % 2 = 1) ∧ bellPending s false (BitVec.ofNat 16 (off / 512)) = false ∧ moveLocks s false (BitVec.ofNat 16 (off / 512)) (s.mpNo 0) = false) ∧
    (∃ (func off : Nat) (bytes : List Byte) (s : State), standsBy s = false ∧ (s.die 0).str.state ≠ .none ∧ off < 0x400000 ∧ bytes ≠ [] ∧ bytes.length ≤ 256 - off % 256 ∧ legIdOk s (BitVec.ofNat 16 (off / 512)) = true ∧ (func = 0 ∨ (s.leg (BitVec.ofNat 16 (off / 512))).alloc = some func) ∧ (s.leg (BitVec.ofNat 16 (off / 512))).live ≠ decide (off / 256 % 2 = 1) ∧ bellPending s false (BitVec.ofNat 16 (off / 512)) = false ∧ moveLocks s false (BitVec.ofNat 16 (off / 512)) (s.mpNo 0) = false) ∧
    (∃ (func off : Nat) (bytes : List Byte) (s : State), standsBy s = false ∧ (s.die 0).str.state ≠ .none ∧ off < 0x400000 ∧ bytes ≠ [] ∧ bytes.length ≤ 256 - off % 256 ∧ legIdOk s (BitVec.ofNat 16 (off / 512)) = true ∧ (func = 0 ∨ (s.leg (BitVec.ofNat 16 (off / 512))).alloc = some func) ∧ ((s.leg (BitVec.ofNat 16 (off / 512))).live = decide (off / 256 % 2 = 1) ∨
      bellPending s false (BitVec.ofNat 16 (off / 512)) = true ∨ moveLocks s false (BitVec.ofNat 16 (off / 512)) (s.mpNo 0) = true)) ∧
    (∃ (func off : Nat) (bytes : List Byte) (s : State), standsBy s = false ∧ (s.die 0).str.state ≠ .none ∧ off < 0x400000 ∧ bytes ≠ [] ∧ bytes.length ≤ 256 - off % 256 ∧ legIdOk s (BitVec.ofNat 16 (off / 512)) = true ∧ (func = 0 ∨ (s.leg (BitVec.ofNat 16 (off / 512))).alloc = some func) ∧ ((s.leg (BitVec.ofNat 16 (off / 512))).live = decide (off / 256 % 2 = 1) ∨
      bellPending s false (BitVec.ofNat 16 (off / 512)) = true ∨ moveLocks s false (BitVec.ofNat 16 (off / 512)) (s.mpNo 0) = true)) ∧
    (∃ (func off : Nat) (bytes : List Byte) (s : State), standsBy s = false ∧ (s.die 0).str.state ≠ .none ∧ off < 0x400000 ∧ bytes ≠ [] ∧ bytes.length ≤ 256 - off % 256 ∧ legIdOk s (BitVec.ofNat 16 (off / 512)) = true ∧ (func ≠ 0 ∧ (s.leg (BitVec.ofNat 16 (off / 512))).alloc ≠ some func)) ∧
    (∃ (_func d o : Nat) (bytes : List Byte) (s : State), d < 8 ∧ o + bytes.length ≤ 0x1FC00000 ∧ bytes ≠ [] ∧ stageIn s d (o + bytes.length - 1) = true) ∧
    (∃ (func d o n : Nat) (s : State), d < 8 ∧ 0 < n ∧ o + n ≤ 0x1FC00000 ∧ stageIn s d (o + n - 1) = true ∧ (stageMay s func o = true) ∧ (stageMay s func (o + n - 1) = true)) ∧
    (∃ (die _i : Nat) (_v : BitVec 64) (s : State), s.hasDie die = true ∧ s.off die = false) ∧
    (∃ (func die _i : Nat) (_v : BitVec 64) (s : State), s.off die = false ∧ (func ≠ 0 ∨ s.hasDie die = false)) :=
  ⟨⟨0, 511, [1], loadedState, by decide⟩,
   ⟨0, 256, [1, 2], loadedState, by decide⟩,
   ⟨0, 255, [1], loadedState, by decide⟩,
   ⟨0, 256, [1], adoptState 1, by decide⟩,
   ⟨1, 0, [1], loadedState, by decide⟩,
   ⟨0, 0, 0x7FFFFFF, [1], State.reset, by decide⟩,
   ⟨0, 0, 0, 64, State.reset, by decide⟩,
   ⟨1, 127, 5, loadedState, by decide⟩,
   ⟨1, 0, 127, 5, loadedState, by decide⟩⟩

/-- Operands and a state that meet the hypotheses of each clause of `DoorbellsPendAndAreAdopted`. -/
theorem test_witness_doorbellsPendAndAreAdopted :
    (∃ (_func : Nat) (v : BitVec 64) (s : State), standsBy s = false ∧ v.getLsbD 16 = false ∧ legIdOk s (v.extractLsb' 0 16) = true ∧ (s.leg (v.extractLsb' 0 16)).db = none ∧ (s.leg (v.extractLsb' 0 16)).busyDbs = []) ∧
    (∃ (_func : Nat) (v : BitVec 64) (s : State), standsBy s = false ∧ v.getLsbD 16 = false ∧ legIdOk s (v.extractLsb' 0 16) = true ∧ ((s.leg (v.extractLsb' 0 16)).db.isSome = true ∨ (s.leg (v.extractLsb' 0 16)).busyDbs ≠ [])) ∧
    (∃ (die idx b : Nat) (db : Doorbell) (m : BitVec 64) (s u : State), dueBells false (legId die idx) s = [db] ∧ db.atMp = some m ∧ db.busy = false ∧ db.late = false ∧ db.sample = none ∧ b = max s.nextMp m.toNat ∧ u = endMp b (s.advanceTo 0 (unitsMp * b)) ∧ allDue b u = [((false, legId die idx), db)]) ∧
    (∃ (die idx b : Nat) (db : Doorbell) (m : BitVec 64) (s u : State), dueBells false (legId die idx) s = [db] ∧ db.atMp = some m ∧ db.busy = false ∧ db.late = false ∧ db.sample = none ∧ b = max s.nextMp m.toNat ∧ u = endMp b (s.advanceTo 0 (unitsMp * b)) ∧ allDue b u = [((false, legId die idx), db)]) :=
  ⟨⟨0, 0x0001000100000400, State.reset, by decide⟩,
   ⟨0, 0x0001000100000000, adoptState 1, by decide⟩,
   ⟨0, 0, 1, { version := 1, atMp := some 1 }, 1, adoptState 1, endMp 1 ((adoptState 1).advanceTo 0 unitsMp), ⟨by decide, by decide, by decide, rfl, by decide⟩⟩,
   ⟨0, 0, 1, { version := 2, atMp := some 1 }, 1, adoptState 2, endMp 1 ((adoptState 2).advanceTo 0 unitsMp), ⟨by decide, by decide, by decide, rfl, by decide⟩⟩⟩

/-- Operands and a state that meet the hypotheses of each clause of `AdoptedHalfBecomesLive`. -/
theorem test_witness_adoptedHalfBecomesLive :
    (∃ (l : BitVec 16) (_b : Nat) (s : State), legIdOk s l = true ∧ (s.leg l).alloc.isSome = true ∧ (s.legLive l).enable = false ∧ (s.legHalf l (!(s.leg l).live)).enable = true ∧ ((s.openDecs (legDie l)).all (fun k => (s.dec k).leg != l) = true) ∧ s.pair.role ≠ .active) :=
  ⟨0, 5, adoptState 1, by decide⟩

/-- Operands and a state that meet the hypotheses of each clause of `QueuesFetchAndReturnSlots`. -/
theorem test_witness_queuesFetchAndReturnSlots :
    (∃ (func : Nat) (tail : BitVec 64) (cmds : List Cmd) (s : State), tabWf {} s.queues = true ∧ ((s.fq func).sqEn = true) ∧ (cqFull (s.fq func) = false ∧ (s.fq func).waiting = []) ∧ cmds ≠ [] ∧ ((tail.extractLsb' 0 12).toNat = ((s.fq func).sqHead.toNat + cmds.length) % qSize (s.fq func).sqLog2) ∧ ((s.fq func).sqHead.toNat < qSize (s.fq func).sqLog2) ∧ (cmds.length < qSize (s.fq func).sqLog2) ∧ (cmds.all (fun c => c.func = func) = true)) ∧
    (∃ (func : Nat) (head : BitVec 64) (s : State), tabWf {} s.queues = true ∧ ((s.fq func).waiting = []) ∧ ((s.fq func).inHost = []) ∧ (((s.fq func).cqTail.toNat + 1) % qSize (s.fq func).cqLog2 ≠ (head.extractLsb' 0 12).toNat % qSize (s.fq func).cqLog2)) ∧
    (∃ (func : Nat) (_v : BitVec 64) (s : State), tabWf {} s.queues = true ∧ ((s.fq func).inHost = []) ∧ s.off 0 = false) ∧
    (∃ (c : Cmd) (s : State), tabWf {} s.queues = true ∧ ((s.fq c.func).fetched.head? = some c) ∧ opOf c = 6 ∧ ((s.fq c.func).running = [])) ∧
    (∃ (c : Cmd) (_s : State), knownOpcode (opOf c) = false) :=
  ⟨⟨0, 2, [{ w0 := 1 }, {}], hostState, by decide⟩,
   ⟨0, 0, hostState, by decide⟩,
   ⟨0, 0x8000000000000004, { loadedState with queues := hostState.queues }, by decide⟩,
   ⟨{ w0 := 6 }, { State.reset with queues := [(0, { sqEn := true, cqEn := true, fetched := [{ w0 := 6 }] })] }, by decide⟩,
   ⟨{ w0 := 7 }, hostState, by decide⟩⟩

/-- Operands and a state that meet the hypotheses of each clause of `MovesStartAndSwitch`. -/
theorem test_witness_movesStartAndSwitch :
    (∃ (c : Cmd) (s : State), c.w2.toNat < s.mpNo 0 + 10) ∧
    (∃ (c : Cmd) (s : State), s.mpNo 0 + 10 ≤ c.w2.toNat) ∧
    (∃ (c : Cmd) (s : State), s.mpNo 0 + 10 ≤ c.w2.toNat ∧ moveStatus (cmdMove false c) s = 0 ∧ ((s.openDecs (legDie (c.w1.extractLsb' 0 16))).all (fun k => (s.dec k).leg != c.w1.extractLsb' 0 16) = true)) ∧
    (∃ (c : Cmd) (s : State), s.mpNo 0 + 10 ≤ c.w2.toNat ∧ moveStatus (cmdMove true c) s = 0) ∧
    (∃ (leg : BitVec 16) (m : Migration) (s : State), moveOf s false leg = some m) ∧
    (∃ (m : Migration) (s : State), s.moves = [m] ∧ m.isConf = false ∧ m.sent = true ∧ m.ctxs = [] ∧ legIdOk s m.src = true ∧ s.endedMp = some (max s.nextMp m.switchMp.toNat)) ∧
    (∃ (m : Migration) (s : State), s.moves = [m] ∧ m.isConf = false ∧ m.sent = false) ∧
    (∃ (m : Migration) (s : State), s.moves = [m] ∧ m.isConf = true ∧ confIdOk s m.src = true ∧ s.endedMp = some (max s.nextMp m.switchMp.toNat)) :=
  ⟨⟨{ w2 := 9 }, State.reset, by decide⟩,
   ⟨{ w2 := 10 }, State.reset, by decide⟩,
   ⟨moveCmd, moveBw, ⟨by decide, moveBw_status, by decide⟩⟩,
   ⟨{ w1 := 0x00800000, w2 := 10 }, rehomeState, by decide⟩,
   ⟨0, { src := 0, dst := 1024, switchMp := 10 }, { moveState with moves := [{ src := 0, dst := 1024, switchMp := 10 }] }, by decide⟩,
   ⟨{ src := 0, dst := 1024, switchMp := 10, sent := true }, { moveState with moves := [{ src := 0, dst := 1024, switchMp := 10, sent := true }], endedMp := some 10 }, by decide⟩,
   ⟨{ src := 0, dst := 1024, switchMp := 10 }, { moveState with moves := [{ src := 0, dst := 1024, switchMp := 10 }] }, by decide⟩,
   ⟨{ isConf := true, src := 0, dst := 128, switchMp := 10 }, { rehomeState with moves := [{ isConf := true, src := 0, dst := 128, switchMp := 10 }], endedMp := some 10 }, by decide⟩⟩

/-- Operands and a state that meet the hypotheses of each clause of `FramesAreDisposedOfByTheirFirstRow`. -/
theorem test_witness_framesAreDisposedOfByTheirFirstRow :
    (∃ (die sub : Nat) (_raw : BitVec 64) (_f : Frame) (s : State), (s.hasDie die = false ∨ (s.die die).ing.present.getLsbD sub = false ∨ (s.ethPort die sub).enable = false ∨
      (s.die die).ing.adit.getLsbD sub = true)) ∧
    (∃ (die sub : Nat) (_raw : BitVec 64) (_f : Frame) (s : State), (s.hasDie die = false ∨ (s.die die).ing.present.getLsbD sub = false ∨ (s.ethPort die sub).enable = false ∨
      (s.die die).ing.adit.getLsbD sub = true)) ∧
    (∃ (die sub : Nat) (_raw : BitVec 64) (f : Frame) (s : State), s.hasDie die = true ∧ (s.die die).ing.present.getLsbD sub = true ∧ (s.ethPort die sub).enable = true ∧ (s.die die).ing.adit.getLsbD sub = false ∧ (f.fcsOk = false ∨ f.len < 64 ∨ (s.ethPort die sub).maxFrame.toNat < f.len ∨ f.etherType = 0x8808 ∨
      (isPtp s die sub f = false ∧ macOk s die sub f.dstMac = false))) ∧
    (∃ (die sub : Nat) (_raw : BitVec 64) (f : Frame) (s : State), s.hasDie die = true ∧ (s.die die).ing.present.getLsbD sub = true ∧ (s.ethPort die sub).enable = true ∧ (s.die die).ing.adit.getLsbD sub = false ∧ (f.fcsOk = false ∨ f.len < 64 ∨ (s.ethPort die sub).maxFrame.toNat < f.len ∨ f.etherType = 0x8808 ∨
      (isPtp s die sub f = false ∧ macOk s die sub f.dstMac = false))) ∧
    (∃ (die sub : Nat) (_raw : BitVec 64) (f : Frame) (s : State), s.hasDie die = true ∧ (s.die die).ing.present.getLsbD sub = true ∧ (s.ethPort die sub).enable = true ∧ (s.die die).ing.adit.getLsbD sub = false ∧ (f.fcsOk = false ∨ f.len < 64 ∨ (s.ethPort die sub).maxFrame.toNat < f.len ∨ f.etherType = 0x8808 ∨
      (isPtp s die sub f = false ∧ macOk s die sub f.dstMac = false))) ∧
    (∃ (die sub : Nat) (_raw : BitVec 64) (f : Frame) (s : State), s.hasDie die = true ∧ (s.die die).ing.present.getLsbD sub = true ∧ (s.ethPort die sub).enable = true ∧ (s.die die).ing.adit.getLsbD sub = false ∧ (f.fcsOk = false ∨ f.len < 64 ∨ (s.ethPort die sub).maxFrame.toNat < f.len ∨ f.etherType = 0x8808 ∨
      (isPtp s die sub f = false ∧ macOk s die sub f.dstMac = false))) ∧
    (∃ (die sub : Nat) (_raw : BitVec 64) (f : Frame) (s : State), s.hasDie die = true ∧ (s.die die).ing.present.getLsbD sub = true ∧ (s.ethPort die sub).enable = true ∧ (s.die die).ing.adit.getLsbD sub = false ∧ (f.fcsOk = false ∨ f.len < 64 ∨ (s.ethPort die sub).maxFrame.toNat < f.len ∨ f.etherType = 0x8808 ∨
      (isPtp s die sub f = false ∧ macOk s die sub f.dstMac = false))) ∧
    (∃ (die sub : Nat) (_raw : BitVec 64) (f : Frame) (s : State), s.hasDie die = true ∧ (s.die die).ing.present.getLsbD sub = true ∧ (s.ethPort die sub).enable = true ∧ (s.die die).ing.adit.getLsbD sub = false ∧ (f.fcsOk = false ∨ f.len < 64 ∨ (s.ethPort die sub).maxFrame.toNat < f.len ∨ f.etherType = 0x8808 ∨
      (isPtp s die sub f = false ∧ macOk s die sub f.dstMac = false))) ∧
    (∃ (die sub : Nat) (_raw : BitVec 64) (f : Frame) (s : State), s.hasDie die = true ∧ (s.die die).ing.present.getLsbD sub = true ∧ (s.ethPort die sub).enable = true ∧ (s.die die).ing.adit.getLsbD sub = false ∧ f.fcsOk = true ∧ 64 ≤ f.len ∧ f.len ≤ (s.ethPort die sub).maxFrame.toNat ∧ f.etherType ≠ 0x8808 ∧ isPtp s die sub f = false ∧ macOk s die sub f.dstMac = true ∧ (f.ip = 4 ∧ f.udp = true ∧ f.frag = false ∧ f.hdrOk = true ∧ (f.udpSumZero = true ∨ f.udpSumOk = true)) ∧ isLoop s die f = none ∧ (matchLeg s die sub f = none) ∧ (addrsOn s die sub).contains f.dst = false) ∧
    (∃ (die sub : Nat) (_raw : BitVec 64) (f : Frame) (l : BitVec 16) (s : State), s.hasDie die = true ∧ (s.die die).ing.present.getLsbD sub = true ∧ (s.ethPort die sub).enable = true ∧ (s.die die).ing.adit.getLsbD sub = false ∧ f.fcsOk = true ∧ 64 ≤ f.len ∧ f.len ≤ (s.ethPort die sub).maxFrame.toNat ∧ f.etherType ≠ 0x8808 ∧ isPtp s die sub f = false ∧ macOk s die sub f.dstMac = true ∧ (f.ip = 4 ∧ f.udp = true ∧ f.frag = false ∧ f.hdrOk = true ∧ (f.udpSumZero = true ∨ f.udpSumOk = true)) ∧ isLoop s die f = none ∧ (matchLeg s die sub f = some l) ∧ (s.legLive l).inRate = 0 ∧ (s.legLive l).xform = 0 ∧ (s.legLive l).cutThrough = false ∧ 128 ≤ f.b0.toNat ∧ f.b0.toNat ≤ 191 ∧ f.b1.toNat < 192 ∧ ownSsrc (s.legLive l) f.pkt.ssrc = false ∧ (rxSsrcs (s.legLive l)).contains f.pkt.ssrc = true ∧ let x := s.die (legDie l)
    let a := toJb (s.legLive l) { f.pkt with rtcp := false }
    (if a then x.ing.jbUsed else x.ing.pktUsed) + f.ipLen ≤ (if a then x.str.jbPool else x.str.pktPool)) ∧
    (∃ (d : Nat) (r : BitVec 4) (_sub : Nat) (_arrival : BitVec 64) (_l : BitVec 16) (_ssrc : BitVec 32) (_raw : List Byte) (s : State), s.hasDie d = true ∧ (s.die d).ing.strEn = true ∧ let g := (s.die d).ing
    let unk := r == 0 || r == 6
    (strTake (if unk then g.limUnknown else g.limKnown) s.clk (if unk then g.unknown else g.known)).1 = true ∧ let g := (s.die d).ing
    (g.strTail.toNat + 1) % 2 ^ g.strLog2.toNat ≠ g.strHead.toNat % 2 ^ g.strLog2.toNat) ∧
    (∃ (d : Nat) (r : BitVec 4) (_sub : Nat) (_arrival : BitVec 64) (_l : BitVec 16) (_ssrc : BitVec 32) (_raw : List Byte) (s : State), s.hasDie d = true ∧ (s.die d).ing.strEn = true ∧ let g := (s.die d).ing
    let unk := r == 0 || r == 6
    (strTake (if unk then g.limUnknown else g.limKnown) s.clk (if unk then g.unknown else g.known)).1 = true ∧ let g := (s.die d).ing
    (g.strTail.toNat + 1) % 2 ^ g.strLog2.toNat ≠ g.strHead.toNat % 2 ^ g.strLog2.toNat) :=
  ⟨⟨0, 0, 0, {}, State.reset, by decide⟩,
   ⟨2, 0, 0, {}, rxState, by decide⟩,
   ⟨0, 0, 0, { fcsOk := false }, rxState, by decide⟩,
   ⟨0, 0, 0, { fcsOk := false, fecFixed := 2, fecBad := 1 }, rxState, by decide⟩,
   ⟨0, 0, 0, { len := 63 }, rxState, by decide⟩,
   ⟨0, 0, 0, { len := 1523 }, rxState, by decide⟩,
   ⟨0, 0, 0, { etherType := 0x8808 }, rxState, by decide⟩,
   ⟨0, 0, 0, { dstMac := 1 }, rxState, by decide⟩,
   ⟨0, 0, 0, { dst := 9, src := 1 }, rxState, by decide⟩,
   ⟨0, 0, 0, { src := 1, b0 := 128, pkt := { ssrc := 5 } }, 0, rxState, by decide⟩,
   ⟨0, 0, 0, 0, 0xFFFF, 0, [], ringState 14, by decide⟩,
   ⟨0, 6, 0, 0, 0xFFFF, 0, [], ringState 15, by decide⟩⟩

/-- Operands and a state that meet the hypotheses of each clause of `LinksRingsAndRepairTimers`. -/
theorem test_witness_linksRingsAndRepairTimers :
    (∃ (die sub : Nat) (up : Bool) (s : State), s.hasDie die = true ∧ sub < 8 ∧ (s.die die).ing.up.getLsbD sub ≠ up ∧ (s.die die).ing.adit.getLsbD sub = false ∧ s.servo.synceCfg.getLsbD 63 = false) ∧
    (∃ (die sub : Nat) (up : Bool) (s : State), s.hasDie die = true ∧ sub < 8 ∧ (s.die die).ing.up.getLsbD sub ≠ up ∧ (s.die die).ing.adit.getLsbD sub = false ∧ s.servo.synceCfg.getLsbD 63 = false) ∧
    (∃ (die : Nat) (_v : BitVec 64) (s : State), s.off die = false) ∧
    (∃ (die : Nat) (_v : BitVec 64) (s : State), s.off die = false) ∧
    (∃ (die : Nat) (_v : BitVec 64) (s : State), s.off die = false) ∧
    (∃ (leg seq : BitVec 16) (n : Nack) (s : State), ((s.leg leg).rx.nacks.find? (fun k => k.seq == seq) = some n) ∧ s.legOpen leg = true ∧ n.count < (s.legLive leg).nackMax ∧ decsOf s leg (s.legLive leg).rxSsrcV0 = []) ∧
    (∃ (leg seq : BitVec 16) (s : State), ((s.leg leg).rx.nacks.find? (fun k => k.seq == seq) = none)) ∧
    (∃ (leg seq : BitVec 16) (n : Nack) (s : State), ((s.leg leg).rx.nacks.find? (fun k => k.seq == seq) = some n) ∧ (s.legLive leg).nackMax ≤ n.count) ∧
    (∃ (leg : BitVec 16) (spatial : BitVec 2) (ts : BitVec 32) (s : State), (∀ f ∈ (s.leg leg).vframes, f.ts = ts → f.spatial = spatial → f.complete = true)) ∧
    (∃ (leg : BitVec 16) (spatial : BitVec 2) (ts : BitVec 32) (f : VFrame) (s : State), ((s.leg leg).vframes.find? (fun f => f.ts == ts && f.spatial == spatial && !f.complete) = some f) ∧ f.broke = false ∧ let h := s.legLive leg
    decsOf s leg (rxVideoSsrc h (if scalable h then 0 else spatial.toNat)) = []) ∧
    (∃ (leg : BitVec 16) (spatial : BitVec 2) (ts : BitVec 32) (f : VFrame) (s : State), ((s.leg leg).vframes.find? (fun f => f.ts == ts && f.spatial == spatial && !f.complete) = some f) ∧ f.broke = false ∧ let h := s.legLive leg
    decsOf s leg (rxVideoSsrc h (if scalable h then 0 else spatial.toNat)) ≠ []) :=
  ⟨⟨0, 0, false, rxState, by decide⟩,
   ⟨1, 7, true, State.reset, by decide⟩,
   ⟨0, 5, rxState, by decide⟩,
   ⟨0, 5, rxState, by decide⟩,
   ⟨0, 0x800000000000000F, rxState, by decide⟩,
   ⟨0, 3, { seq := 3, due := 0 }, nackState 2, by decide⟩,
   ⟨0, 4, nackState 2, by decide⟩,
   ⟨0, 3, { seq := 3, due := 0 }, nackState 0, by decide⟩,
   ⟨0, 0, 0, State.reset, by decide⟩,
   ⟨0, 0, 0, { spatial := 0 }, withDie 0 fun x => { x with legs := [(0, { vframes := [{ spatial := 0 }] })] }, by decide⟩,
   ⟨0, 0, 0, { spatial := 0 }, decodedState, by decide⟩⟩

/-- Operands and a state that meet the hypotheses of each clause of `PacketsAreJudgedAndAudioPlaced`. -/
theorem test_witness_packetsAreJudgedAndAudioPlaced :
    (∃ (die : Nat) (leg : BitVec 16) (_v : Verdict) (s : State), ((s.die die).ing.inFlight.find? (fun r => r.leg == leg) = none)) ∧
    (∃ (die : Nat) (leg : BitVec 16) (v : Verdict) (r : RxPacket) (s : State), ((s.die die).ing.inFlight.find? (fun r => r.leg == leg) = some r) ∧ v.c1Ok = false ∧ leg ≠ 0xFFFF) ∧
    (∃ (die : Nat) (leg : BitVec 16) (v : Verdict) (r : RxPacket) (s : State), ((s.die die).ing.inFlight.find? (fun r => r.leg == leg) = some r) ∧ v.c1Ok = true ∧ v.tagOk = false ∧ (s.legLive leg).xform ≠ 0 ∧ (v.graceOk = false ∨ (s.leg leg).cry.grace = none)) ∧
    (∃ (die : Nat) (leg : BitVec 16) (v : Verdict) (r : RxPacket) (s : State), ((s.die die).ing.inFlight.find? (fun r => r.leg == leg) = some r) ∧ v.c1Ok = true ∧ v.tagOk = true ∧ (s.legLive leg).xform ≠ 0 ∧ replayed (rxWin (s.leg leg).cry r.pkt.rtcp r.pkt.ssrc) r.pkt.index = false ∧ r.pkt.rtcp = false ∧ standsBy s = false) ∧
    (∃ (l : BitVec 16) (_p : Packet) (arrival placed : BitVec 64) (_size : Nat) (s : State), legIdOk s l = true ∧ (s.leg l).jb = { target := (s.leg l).jb.target } ∧ let pos := sampleOf (instantOf s (legDie l) arrival) + 48 * (s.legLive l).jbInit
    instantOf s (legDie l) placed ≤ (unitsMp : Int) * (pos / 48) ∧
      pos - sampleOf (s.time (legDie l)) ≤ 48 * ((s.legLive l).jbMax + 60 : Int) ∧ (s.pair.role == .active) = false) :=
  ⟨⟨0, 0, {}, State.reset, by decide⟩,
   ⟨0, 0, { c1Ok := false }, { leg := 0 }, flightState, by decide⟩,
   ⟨0, 0, { tagOk := false }, { leg := 0 }, flightState, by decide⟩,
   ⟨0, 0, {}, { leg := 0 }, flightState, by decide⟩,
   ⟨0, {}, 0, 0, 0, flightState, by decide⟩⟩

/-- Operands and a state that meet the hypotheses of each clause of `KeySlotsAreAllocatedCopiedAndFreed`. -/
theorem test_witness_keySlotsAreAllocatedCopiedAndFreed :
    (∃ (c : Cmd) (i : Nat) (s : State), bare c 2 = true ∧ c.w1 &&& ~~~0xF = 0 ∧ s.hasDie (c.w1.extractLsb' 0 3).toNat = true ∧ (let d := (c.w1.extractLsb' 0 3).toNat
    0 < i ∧ i < 4096 ∧ (s.slot d i).alloc = false ∧
      (c.w1.getLsbD 3 = true → i % 2 = 0 ∧ (s.slot d (i + 1)).alloc = false) ∧
      ∀ j < i, 0 < j → (s.slot d j).alloc = true ∨ (c.w1.getLsbD 3 = true ∧ (j % 2 = 1 ∨ (s.slot d (j + 1)).alloc = true)))) ∧
    (∃ (c : Cmd) (i : Nat) (s : State), bare c 2 = true ∧ c.w1 &&& ~~~0xF = 0 ∧ s.hasDie (c.w1.extractLsb' 0 3).toNat = true ∧ (let d := (c.w1.extractLsb' 0 3).toNat
    0 < i ∧ i < 4096 ∧ (s.slot d i).alloc = false ∧
      (c.w1.getLsbD 3 = true → i % 2 = 0 ∧ (s.slot d (i + 1)).alloc = false) ∧
      ∀ j < i, 0 < j → (s.slot d j).alloc = true ∨ (c.w1.getLsbD 3 = true ∧ (j % 2 = 1 ∨ (s.slot d (j + 1)).alloc = true)))) ∧
    (∃ (c : Cmd) (i : Nat) (s : State), bare c 2 = true ∧ c.w1 &&& ~~~0xF = 0 ∧ s.hasDie (c.w1.extractLsb' 0 3).toNat = true ∧ (let d := (c.w1.extractLsb' 0 3).toNat
    0 < i ∧ i < 4096 ∧ (s.slot d i).alloc = false ∧
      (c.w1.getLsbD 3 = true → i % 2 = 0 ∧ (s.slot d (i + 1)).alloc = false) ∧
      ∀ j < i, 0 < j → (s.slot d j).alloc = true ∨ (c.w1.getLsbD 3 = true ∧ (j % 2 = 1 ∨ (s.slot d (j + 1)).alloc = true)))) ∧
    (∃ (c : Cmd) (s : State), (handleOk s (c.w1.extractLsb' 0 16) = true ∧ ownsSlot s c.func (c.w1.extractLsb' 0 16) = true) ∧ slotInUse s (c.w1.extractLsb' 0 16) = false ∧ bare c 2 = true ∧ c.w1 &&& ~~~0xFFFF = 0) ∧
    (∃ (c : Cmd) (s : State), (handleOk s (c.w1.extractLsb' 0 16) = true ∧ ownsSlot s c.func (c.w1.extractLsb' 0 16) = true) ∧ slotInUse s (c.w1.extractLsb' 0 16) = false ∧ bare c 2 = true ∧ c.w1 &&& ~~~0xFFFF = 0) ∧
    (∃ (c : Cmd) (s : State), (let k : BitVec 16 := c.w1.extractLsb' 0 16
    let o : BitVec 16 := c.w1.extractLsb' 16 16
    [k, o].all (fun h => handleOk s h && ownsSlot s c.func h) = true ∧ slotInUse s o = false ∧ (slotOf s k).ktype ≠ 0 ∧
      (needsTwo (slotOf s k).ktype.toNat = true → (slotOf s o).two = true) ∧
      ((slotOf s k).persist = true → keyDie o = 0 ∧ keySlot o ≤ 63)) ∧ bare c 2 = true ∧ c.w1 &&& ~~~0xFFFFFFFF = 0) ∧
    (∃ (c : Cmd) (s : State), handleOk s (c.w1.extractLsb' 0 16) = false) ∧
    (∃ (c : Cmd) (s : State), handleOk s (c.w1.extractLsb' 0 16) = false) ∧
    (∃ (c : Cmd) (s : State), (handleOk s (c.w1.extractLsb' 0 16) = true ∧ ownsSlot s c.func (c.w1.extractLsb' 0 16) = false) ∧ bare c 2 = true ∧ c.w1 &&& ~~~0xFFFF = 0) ∧
    (∃ (c : Cmd) (_s : State), bare c 1 = true) :=
  ⟨⟨{ w1 := 0 }, 1, State.reset, by decide⟩,
   ⟨{ w1 := 8 }, 2, State.reset, by decide⟩,
   ⟨{ w1 := 0 }, 2, keyState, by decide⟩,
   ⟨{ w1 := 0x1001 }, keyState, by decide⟩,
   ⟨{ w1 := 1 }, keyState, by decide⟩,
   ⟨{ w1 := 0x10010001 }, keyState, by decide⟩,
   ⟨{ w1 := 0 }, keyState, by decide⟩,
   ⟨{ w1 := 3 }, keyState, by decide⟩,
   ⟨{ w0 := 0, func := 5, w1 := 1 }, keyState, by decide⟩,
   ⟨{}, State.reset, by decide⟩⟩

/-- Operands and a state that meet the hypotheses of each clause of `KeyUnitMakesKeys`. -/
theorem test_witness_keyUnitMakesKeys :
    (∃ (c : Cmd) (s : State), (let k : BitVec 16 := c.w1.extractLsb' 0 16
    keyChecks s c.func (bare c 3 && only c.w1 0x1FFFF && only c.w2 0xFFFFFFFF && (s.die (keyDie k)).cip.rngOk) [] [k]
      [((c.w2.extractLsb' 0 32).toNat, if c.w1.getLsbD 16 then 32 else 64)] true = none)) ∧
    (∃ (c : Cmd) (s : State), handleOk s (c.w1.extractLsb' 0 16) = true ∧ (s.die (keyDie (c.w1.extractLsb' 0 16))).cip.rngOk = false) ∧
    (∃ (c : Cmd) (s : State), (let k : BitVec 16 := c.w1.extractLsb' 0 16
    keyChecks s c.func (bare c 3 && only c.w1 0xFFFFFFFF && only c.w2 0xFFFFFFFF) [k] [c.w1.extractLsb' 16 16]
      [((c.w2.extractLsb' 0 32).toNat, if (slotOf s k).ktype = 6 then 32 else 64)]
      (((slotOf s k).ktype == 5 || (slotOf s k).ktype == 6) && (slotOf s k).usage.getLsbD 4) = none)) ∧
    (∃ (c : Cmd) (s : State), (let k : BitVec 16 := c.w1.extractLsb' 0 16
    let o : BitVec 16 := c.w1.extractLsb' 16 16
    handleOk s k = true ∧ handleOk s o = true ∧ ownsSlot s c.func k = true ∧ ownsSlot s c.func o = true ∧
      isSecret (slotOf s k) = true ∧ slotInUse s o = false ∧ c.w1.extractLsb' 32 4 = 7 ∧ c.w1.extractLsb' 36 2 = 2 ∧
      bare c 4 = true ∧ c.w1 &&& ~~~0x7FFFFFFFFF = 0 ∧ c.w2 = 0 ∧ c.w3 = 0)) ∧
    (∃ (c : Cmd) (s : State), (let k : BitVec 16 := c.w1.extractLsb' 0 16
    let hash := if c.w1.getLsbD 17 then 48 else 32
    let n := if c.w1.getLsbD 16 then hash else 12
    keyChecks s c.func (bare c 4 && only c.w1 0x7FFFF && only c.w2 0xFFFFFFFF && only c.w3 0xFFFFFFFF) [k] []
      [((c.w2.extractLsb' 0 32).toNat, hash), ((c.w3.extractLsb' 0 32).toNat, n)]
      (isSecret (slotOf s k) && (slotOf s k).ktype == (if c.w1.getLsbD 16 && !c.w1.getLsbD 17 then 7 else 8)) = none)) ∧
    (∃ (c : Cmd) (s : State), (let k : BitVec 16 := c.w1.extractLsb' 0 16
    let tx : BitVec 16 := c.w2.extractLsb' 0 16
    let rx : BitVec 16 := c.w2.extractLsb' 16 16
    c.w1.getLsbD 16 = true ∧ c.w1.getLsbD 17 = false ∧ (c.w1.extractLsb' 32 16 = 1 ∨ c.w1.extractLsb' 32 16 = 7) ∧
      keyChecks s c.func (bare c 4 && only c.w1 0xFFFF0007FFFF && only c.w2 0xFFFFFFFF && only c.w3 0xFFFFFFFF) [k] [tx, rx] []
        (isSecret (slotOf s k) && (slotOf s k).ktype == 7) = none)) ∧
    (∃ (c : Cmd) (s : State), (let k : BitVec 16 := c.w1.extractLsb' 0 16
    keyChecks s c.func (bare c 3 && only c.w1 0xFFFF && only c.w2 0xFFFFFFFF) [] [k] [((c.w2.extractLsb' 0 32).toNat, 224)] true = none)) ∧
    (∃ (c : Cmd) (s : State), bare c 2 = true ∧ c.w1 &&& ~~~0xFFFFFFFF = 0 ∧ bufferOk s 0 (c.w1.extractLsb' 0 32).toNat 512 = true) :=
  ⟨⟨{ w1 := 1, w2 := 0x2000000 }, keyState, by decide⟩,
   ⟨{ w1 := 1 }, keyState.modDie 0 fun x => { x with cip := { x.cip with rngOk := false } }, by decide⟩,
   ⟨{ w1 := 0x10010001, w2 := 0x2000000 }, secretState 5, by decide⟩,
   ⟨{ w1 := 0x2710010001 }, secretState 7, by decide⟩,
   ⟨{ w1 := 0x10001, w2 := 0x2000000, w3 := 0x2000040 }, secretState 7, by decide⟩,
   ⟨{ w1 := 0x100010001, w2 := 0x10021001 }, secretState 7, by decide⟩,
   ⟨{ w1 := 1, w2 := 0x2000000 }, keyState, by decide⟩,
   ⟨{ w1 := 0x2000000 }, keyState, by decide⟩⟩

/-- Operands and a state that meet the hypotheses of each clause of `TheBulkEngineIsHeldByOne`. -/
theorem test_witness_theBulkEngineIsHeldByOne :
    (∃ (die : Nat) (a b : Byte) (s : State), s.off die = false ∧ (s.die die).cip.owner = 0xFF ∧ bulkReq a = true ∧ bulkReq b = true) ∧
    (∃ (die : Nat) (a : Byte) (s : State), s.off die = false ∧ (s.die die).cip.owner ≠ 0xFF ∧ bulkReq a = true) ∧
    (∃ (die : Nat) (req : Byte) (s : State), s.off die = false ∧ req ≠ 0xFF) ∧
    (∃ (die : Nat) (s : State), s.hasDie die = true ∧ (s.die die).cip.owner ≠ 0xFF ∧ (s.die die).cip.waiting = true ∧ (s.die die).cip.busy = false ∧ (s.die die).cip.saveAddr = 0) ∧
    (∃ (die : Nat) (s : State), ((s.die die).cip.owner = 0xFF ∨ (s.die die).cip.waiting = false)) ∧
    (∃ (die : Nat) (s : State), (s.die die).cip.rngOk = true) ∧
    (∃ (die : Nat) (s : State), (s.die die).cip.rngOk = false) ∧
    (∃ (leg k : BitVec 16) (t : BitVec 64) (s : State), (s.leg leg).cry.grace = some (k, t)) :=
  ⟨⟨0, 3, 0x60, loadedState, by decide⟩,
   ⟨0, 3, lockState false, by decide⟩,
   ⟨0, 0x60, loadedState, by decide⟩,
   ⟨0, lockState true, by decide⟩,
   ⟨0, lockState false, by decide⟩,
   ⟨0, State.reset, by decide⟩,
   ⟨0, withDie 0 fun x => { x with cip := { x.cip with rngOk := false } }, by decide⟩,
   ⟨0, 5, 7, withDie 0 fun x => { x with legs := [(0, { cry := { grace := some (5, 7) } })] }, by decide⟩⟩

/-- Operands and a state that meet the hypotheses of each clause of `BulkJobsAreCheckedRunAndEnd`. -/
theorem test_witness_bulkJobsAreCheckedRunAndEnd :
    (∃ (die : Nat) (req : Byte) (_v : BitVec 64) (s : State), s.off die = false ∧ ((s.die die).cip.owner ≠ req ∨ req = 0xFF)) ∧
    (∃ (die : Nat) (req : Byte) (_v : BitVec 64) (s : State), s.off die = false ∧ ((s.die die).cip.owner ≠ req ∨ req = 0xFF)) ∧
    (∃ (die : Nat) (req : Byte) (v : BitVec 64) (s : State), s.off die = false ∧ (s.die die).cip.owner = req ∧ req ≠ 0xFF ∧ (s.die die).cip.busy = false ∧ v.getLsbD 63 = true) ∧
    (∃ (die : Nat) (s : State), (s.die die).cip.busy = true ∧ blkMode (s.die die).cip.ctrl ≠ 4 ∧ blkSave (s.die die).cip.ctrl = false) ∧
    (∃ (die : Nat) (s : State), (s.die die).cip.busy = false) :=
  ⟨⟨0, 0xFF, 0, loadedState, by decide⟩,
   ⟨0, 0x61, 0, lockState false, by decide⟩,
   ⟨0, 0x60, 0x8000000000010030, lockState false, by decide⟩,
   ⟨0, withDie 0 fun x => { x with cip := { x.cip with busy := true } }, by decide⟩,
   ⟨0, State.reset, by decide⟩⟩

/-- Operands and a state that meet the hypotheses of each clause of `LimitedSamplesStayUnderTheCeiling`. -/
theorem test_witness_limitedSamplesStayUnderTheCeiling :
    (∃ (c _relShift : Nat) (st : LimState) (_x : Sample), (∀ e ∈ st.ring, e.2.2 = if max e.1.natAbs e.2.1.natAbs ≤ c then 2 ^ 30 else 2 ^ 30 * c / max e.1.natAbs e.2.1.natAbs)) :=
  ⟨100, 11, { ring := List.replicate 16 (200, -300, 2 ^ 30 * 100 / 300) }, (0, 0), by decide⟩

/-- Operands and a state that meet the hypotheses of each clause of `SafeLoadsPendForTheirSample`. -/
theorem test_witness_safeLoadsPendForTheirSample :
    (∃ (c : Cmd) (s : State), (let id : BitVec 16 := c.w1.extractLsb' 0 16
    (if c.w1.getLsbD 16 then confIdOk s id else legIdOk s id) = false ∨ 47 < (c.w3.extractLsb' 16 6).toNat ∨
      c.w3 &&& ~~~0x3FFFFF ≠ 0 ∨ c.w1 &&& ~~~0x1FFFF ≠ 0)) ∧
    (∃ (c : Cmd) (s : State), (let id : BitVec 16 := c.w1.extractLsb' 0 16
    (if c.w1.getLsbD 16 then confIdOk s id else legIdOk s id) = false ∨ 47 < (c.w3.extractLsb' 16 6).toNat ∨
      c.w3 &&& ~~~0x3FFFFF ≠ 0 ∨ c.w1 &&& ~~~0x1FFFF ≠ 0)) ∧
    (∃ (c : Cmd) (s : State), (let id : BitVec 16 := c.w1.extractLsb' 0 16
    (if c.w1.getLsbD 16 then confIdOk s id else legIdOk s id) = false ∨ 47 < (c.w3.extractLsb' 16 6).toNat ∨
      c.w3 &&& ~~~0x3FFFFF ≠ 0 ∨ c.w1 &&& ~~~0x1FFFF ≠ 0)) ∧
    (∃ (c : Cmd) (s : State), (let id : BitVec 16 := c.w1.extractLsb' 0 16
    (if c.w1.getLsbD 16 then confIdOk s id else legIdOk s id) = false ∨ 47 < (c.w3.extractLsb' 16 6).toNat ∨
      c.w3 &&& ~~~0x3FFFFF ≠ 0 ∨ c.w1 &&& ~~~0x1FFFF ≠ 0)) ∧
    (∃ (c : Cmd) (s : State), let id : BitVec 16 := c.w1.extractLsb' 0 16
    (if c.w1.getLsbD 16 then confIdOk s id else legIdOk s id) = true ∧ c.w1 &&& ~~~0x1FFFF = 0 ∧ c.w3 &&& ~~~0x3FFFFF = 0 ∧ (c.w3.extractLsb' 16 6).toNat ≤ 47) ∧
    (∃ (c : Cmd) (s : State), let id : BitVec 16 := c.w1.extractLsb' 0 16
    (if c.w1.getLsbD 16 then confIdOk s id else legIdOk s id) = true ∧ c.w1 &&& ~~~0x1FFFF = 0 ∧ c.w3 &&& ~~~0x3FFFFF = 0 ∧ (c.w3.extractLsb' 16 6).toNat ≤ 47) ∧
    (∃ (die idx : Nat) (conf : Bool) (db : Doorbell) (s : State), let id := if conf then confId die idx else legId die idx
    (if conf then (s.conf id).db else (s.leg id).db) = some db ∧ db.adopted = true) ∧
    (∃ (die idx : Nat) (conf : Bool) (db : Doorbell) (s : State), let id := if conf then confId die idx else legId die idx
    (if conf then (s.conf id).db else (s.leg id).db) = some db ∧ db.adopted = true) ∧
    (∃ (die idx : Nat) (conf : Bool) (s : State), (let id := if conf then confId die idx else legId die idx
    ∀ db, (if conf then (s.conf id).db else (s.leg id).db) = some db → db.adopted = false)) :=
  ⟨⟨{ w1 := 0, w3 := 0x300000 }, loadedState, by decide⟩,
   ⟨{ w1 := 0x2000 }, loadedState, by decide⟩,
   ⟨{ w3 := 0x400000 }, loadedState, by decide⟩,
   ⟨{ w1 := 0x20000 }, loadedState, by decide⟩,
   ⟨{ w2 := 2, w3 := 0x2F0001 }, loadedState, by decide⟩,
   ⟨{ w1 := 0x10000, w2 := 1, w3 := 0x2F0001 }, loadedState, by decide⟩,
   ⟨0, 0, false, { adopted := true, atMp := some 2, sample := some 47 }, withDie 0 fun x => { x with legs := [(0, { db := some { adopted := true, atMp := some 2, sample := some 47 } })] }, by decide⟩,
   ⟨0, 0, true, { adopted := true, atMp := some 2, sample := some 0 }, withDie 0 fun x => { x with confs := [(0, { db := some { adopted := true, atMp := some 2, sample := some 0 } })] }, by decide⟩,
   ⟨0, 0, false, State.reset, by decide⟩⟩

/-- Operands and a state that meet the hypotheses of each clause of `TdmPortsAreConfiguredAndFramed`. -/
theorem test_witness_tdmPortsAreConfiguredAndFramed :
    (∃ (die p : Nat) (_v : BitVec 64) (s : State), s.off die = false ∧ (s.tdmPort die p).state ≠ .stopped) ∧
    (∃ (die p : Nat) (v : BitVec 64) (s : State), s.off die = false ∧ (s.tdmPort die p).state = .stopped ∧ (cfgOk (v.setWidth 36 &&& 0xF3F3FFFFF) = false ∨
    ∃ q ∈ groupPorts s die (groupOf s die p), q ≠ p ∧ (s.tdmPort die q).state ≠ .stopped ∧
      (s.tdmPort die q).cfg &&& 0x3FF ≠ v.setWidth 36 &&& 0x3FF)) ∧
    (∃ (die p : Nat) (v : BitVec 64) (s : State), s.off die = false ∧ (s.tdmPort die p).state = .stopped ∧ (cfgOk (v.setWidth 36 &&& 0xF3F3FFFFF) = false ∨
    ∃ q ∈ groupPorts s die (groupOf s die p), q ≠ p ∧ (s.tdmPort die q).state ≠ .stopped ∧
      (s.tdmPort die q).cfg &&& 0x3FF ≠ v.setWidth 36 &&& 0x3FF)) ∧
    (∃ (die p : Nat) (v : BitVec 64) (s : State), s.off die = false ∧ (s.tdmPort die p).state = .stopped ∧ cfgOk (v.setWidth 36 &&& 0xF3F3FFFFF) = true ∧ (∀ q ∈ groupPorts s die (groupOf s die p), q ≠ p → (s.tdmPort die q).state ≠ .stopped →
      (s.tdmPort die q).cfg &&& 0x3FF = v.setWidth 36 &&& 0x3FF)) ∧
    (∃ (die p : Nat) (v : BitVec 64) (s : State), s.off die = false ∧ (s.tdmPort die p).state = .stopped ∧ cfgOk (v.setWidth 36 &&& 0xF3F3FFFFF) = true ∧ (∀ q ∈ groupPorts s die (groupOf s die p), q ≠ p → (s.tdmPort die q).state ≠ .stopped →
      (s.tdmPort die q).cfg &&& 0x3FF = v.setWidth 36 &&& 0x3FF)) ∧
    (∃ (die _p : Nat) (s : State), s.off die = false) ∧
    (∃ (die p : Nat) (_raw : BitVec 64) (s : State), cfgMaster (s.tdmPort die p).cfg = true) ∧
    (∃ (die p : Nat) (_raw : BitVec 64) (s : State), cfgMaster (s.tdmPort die p).cfg = false ∧ (s.tdmPort die p).state = .stopped) ∧
    (∃ (die p : Nat) (_raw : BitVec 64) (s : State), s.hasDie die = true ∧ cfgMaster (s.tdmPort die p).cfg = false ∧ (s.tdmPort die p).state = .waitClk) ∧
    (∃ (die p k : Nat) (raw l : BitVec 64) (s : State), s.hasDie die = true ∧ cfgMaster (s.tdmPort die p).cfg = false ∧ (s.tdmPort die p).state = .running ∧ (s.tdmPort die p).edge = some k ∧ (s.tdmPort die p).lastFsync = some l ∧ stampDiff raw l ≤ 3 * (unitsMp / 48)) ∧
    (∃ (die p k : Nat) (raw l : BitVec 64) (s : State), s.hasDie die = true ∧ cfgMaster (s.tdmPort die p).cfg = false ∧ (s.tdmPort die p).state = .running ∧ (s.tdmPort die p).edge = some k ∧ (s.tdmPort die p).lastFsync = some l ∧ stampDiff raw l ≤ 3 * (unitsMp / 48)) ∧
    (∃ (die p : Nat) (raw l : BitVec 64) (s : State), s.hasDie die = true ∧ cfgMaster (s.tdmPort die p).cfg = false ∧ (s.tdmPort die p).state = .running ∧ (s.tdmPort die p).lastFsync = some l ∧ 3 * (unitsMp / 48 : Nat) < stampDiff raw l) ∧
    (∃ (die p : Nat) (l : BitVec 64) (s : State), cfgMaster (s.tdmPort die p).cfg = false ∧ (s.tdmPort die p).state = .running ∧ (s.tdmPort die p).lastFsync = some l) :=
  ⟨⟨0, 7, 0, tdmState .waitClk 0 0, by decide⟩,
   ⟨0, 0, 0x3, loadedState, by decide⟩,
   ⟨0, 6, 0x202000D, pairPorts, by decide⟩,
   ⟨0, 0, 0x2020009, loadedState, by decide⟩,
   ⟨0, 6, 0x2020009, pairPorts, by decide⟩,
   ⟨0, 7, loadedState, by decide⟩,
   ⟨0, 7, 0, tdmState .running 0xC 0, by decide⟩,
   ⟨0, 7, 5, tdmState .stopped 0 0, by decide⟩,
   ⟨0, 7, 65536, tdmState .waitClk 0 0, by decide⟩,
   ⟨0, 7, 1, 65536, 0, edgeState, by decide⟩,
   ⟨0, 7, 1, 2200000000, 0, edgeState, by decide⟩,
   ⟨0, 7, 5000000000, 0, edgeState, by decide⟩,
   ⟨0, 7, 0, edgeState, by decide⟩⟩

/-- Operands and a state that meet the hypotheses of each clause of `TdmFramesAreStoredAndPlayed`. -/
theorem test_witness_tdmFramesAreStoredAndPlayed :
    (∃ (die p : Nat) (_slots : List (BitVec 32)) (fits : Bool) (s : State), (s.tdmPort die p).state = .running ∧ (fits = true → (tget ({} : QPrim) (s.die die).drc.queues (0x10 + groupOf s die p)).ring.length <
      (tget ({} : QPrim) (s.die die).drc.queues (0x10 + groupOf s die p)).lines)) ∧
    (∃ (die p : Nat) (_slots : List (BitVec 32)) (fits : Bool) (s : State), (s.tdmPort die p).state = .running ∧ (fits = true → (tget ({} : QPrim) (s.die die).drc.queues (0x10 + groupOf s die p)).ring.length <
      (tget ({} : QPrim) (s.die die).drc.queues (0x10 + groupOf s die p)).lines)) ∧
    (∃ (die p : Nat) (_slots : List (BitVec 32)) (_fits : Bool) (s : State), (s.tdmPort die p).state ≠ .running) ∧
    (∃ (die p k : Nat) (s : State), (s.tdmPort die p).iecMuted.getLsbD k = true ∧ (s.tdmPort die p).state ≠ .stopped) ∧
    (∃ (die p k : Nat) (s : State), (s.tdmPort die p).iecMuted.getLsbD k = true ∧ (s.tdmPort die p).state ≠ .stopped) ∧
    (∃ (die p k : Nat) (s : State), ((s.tdmPort die p).iecMuted.getLsbD k = false ∨ (s.tdmPort die p).state = .stopped)) :=
  ⟨⟨0, 7, [], false, tdmState .running 0 47, by decide⟩,
   ⟨0, 7, [], true, (tdmState .running 0 47).modDie 0 fun x => { x with drc := { x.drc with queues := [(0x17, { lines := 1 })] } }, by decide⟩,
   ⟨0, 0, [], true, State.reset, by decide⟩,
   ⟨0, 7, 15, (tdmState .running 0 0).modPort 0 7 fun x => { x with iecMuted := 0x8000 }, by decide⟩,
   ⟨0, 7, 0, (tdmState .waitClk 0 0).modPort 0 7 fun x => { x with iecMuted := 1 }, by decide⟩,
   ⟨0, 7, 15, tdmState .running 0 0, by decide⟩⟩

/-- Operands and a state that meet the hypotheses of each clause of `DecodeContextsOpenDecodeAndClose`. -/
theorem test_witness_decodeContextsOpenDecodeAndClose :
    (∃ (c : Cmd) (s : State), (ownsLeg s c.func (c.w1.extractLsb' 0 16) = false)) ∧
    (∃ (c : Cmd) (i : Nat) (s : State), (let h := s.legLive (c.w1.extractLsb' 0 16)
    ownsLeg s c.func (c.w1.extractLsb' 0 16) = true ∧ s.legOpen (c.w1.extractLsb' 0 16) = true ∧ h.rxVc ≠ 0 ∧
      rxVideoSsrc h (decArgs c).stream.toNat ≠ 0 ∧ decRanges h (decArgs c) = true ∧
      c.w1 &&& ~~~0x7FFFFF = 0 ∧ c.w2 &&& ~~~0x3FFFFFFFFFFFF = 0) ∧ ((s.openDecs (legDie (c.w1.extractLsb' 0 16))).all (fun k => !((s.dec k).leg == c.w1.extractLsb' 0 16 &&
      (s.dec k).stream == (decArgs c).stream && (s.dec k).op == (decArgs c).op)) = true) ∧ freeDec s (legDie (c.w1.extractLsb' 0 16)) = some i) ∧
    (∃ (c : Cmd) (s : State), (let x := s.dec (c.w1.extractLsb' 0 16)
    ownsLeg s c.func x.leg = true ∧ decOk s (c.w1.extractLsb' 0 16) = true ∧ x.state = .opened) ∧ c.w1 &&& ~~~0xFFFF = 0) ∧
    (∃ (ctx : BitVec 16) (ts : BitVec 32) (s : State), (s.dec ctx).state = .opened ∧ (ctxFrames s ctx ts ≠ [] ∧ (ctxFrames s ctx ts).all (fun f => f.complete && !f.taken.contains ctx) = true) ∧ standsBy s = false) ∧
    (∃ (ctx : BitVec 16) (ts : BitVec 32) (s : State), ((s.dec ctx).state ≠ .opened ∨ ctxFrames s ctx ts = [] ∨
      (ctxFrames s ctx ts).any (fun f => !f.complete || f.taken.contains ctx) = true)) ∧
    (∃ (ctx : BitVec 16) (ts : BitVec 32) (s : State), ((s.dec ctx).state ≠ .opened ∨ ctxFrames s ctx ts = [] ∨
      (ctxFrames s ctx ts).any (fun f => !f.complete || f.taken.contains ctx) = true)) ∧
    (∃ (ctx : BitVec 16) (p : PicInfo) (q : Pic) (s : State), (s.dec ctx).state = .opened ∧ ((s.dec ctx).pics.find? (fun y => !y.done) = some q) ∧ standsBy s = false ∧ p.bsError = false ∧ p.c2Ok = true ∧ p.missingRefs = false ∧ (s.dec ctx).badRef = false ∧ picUnsupported (s.legLive (s.dec ctx).leg).rxVc (s.dec ctx) p = false ∧ (p.refs.all (fun r => (s.dec ctx).pics.any fun y => y.pid == r && y.done) = true) ∧ ((s.dec ctx).pics.all (fun y => !(p.refs.contains y.pid && y.taint)) = true)) ∧
    (∃ (ctx : BitVec 16) (p : PicInfo) (q : Pic) (s : State), (s.dec ctx).state = .opened ∧ ((s.dec ctx).pics.find? (fun y => !y.done) = some q) ∧ (standsBy s = false ∧ (q.late = true ∨ stampDiff s.clk q.released ≤ ctxInterval (s.dec ctx))) ∧ p.bsError = true ∧ p.c2Ok = true ∧ p.refs = [] ∧ p.missingRefs = false ∧ picUnsupported (s.legLive (s.dec ctx).leg).rxVc (s.dec ctx) p = false) ∧
    (∃ (ctx : BitVec 16) (_p : PicInfo) (s : State), ((s.dec ctx).state ≠ .opened ∨ (s.dec ctx).pics.all (fun q => q.done) = true)) ∧
    (∃ (ctx : BitVec 16) (pid : Nat) (p : Pic) (s : State), ((s.dec ctx).pics.find? (fun q => q.pid == pid && !q.done && !q.late) = some p) ∧ standsBy s = false) ∧
    (∃ (leg : BitVec 16) (ssrc : BitVec 32) (t : BitVec 64) (s : State), (kfOf (s.leg leg) ssrc).lastSent = some t ∧ standsBy s = false ∧ s.legOpen leg = true) ∧
    (∃ (leg : BitVec 16) (ssrc : BitVec 32) (s : State), (kfOf (s.leg leg) ssrc).lastSent = none) :=
  ⟨⟨{ func := 1 }, loadedState, by decide⟩,
   ⟨{ w1 := 0, w2 := 0x0000010100400040 }, 0, videoState {}, by decide⟩,
   ⟨{ w1 := 0 }, videoState { state := .opened, leg := 0 }, by decide⟩,
   ⟨0, 9, videoState { state := .opened, leg := 0 }, by decide⟩,
   ⟨0, 0, decodedState, by decide⟩,
   ⟨0, 9, videoState {}, by decide⟩,
   ⟨0, cleanPic, { pid := 5 }, videoState { state := .opened, leg := 0, maxW := 64, maxH := 64, pics := [{ pid := 4, done := true }, { pid := 5 }] }, by decide⟩,
   ⟨0, { cleanPic with bsError := true, refs := [] }, { pid := 5 }, videoState { state := .opened, leg := 0, maxW := 64, maxH := 64, pics := [{ pid := 5 }] }, by decide⟩,
   ⟨0, {}, State.reset, by decide⟩,
   ⟨0, 5, { pid := 5 }, videoState { state := .opened, leg := 0, maxFps := 30, pics := [{ pid := 5 }] }, by decide⟩,
   ⟨0, 7, 3, videoState { state := .opened, leg := 0, tainted := true }, by decide⟩,
   ⟨0, 0, State.reset, by decide⟩⟩

/-- Operands and a state that meet the hypotheses of each clause of `FencesAdvanceAndSignal`. -/
theorem test_witness_fencesAdvanceAndSignal :
    (∃ (die _n : Nat) (_v : BitVec 64) (s : State), s.off die = false) ∧
    (∃ (_die n : Nat) (_s : State), n < 256) ∧
    (∃ (c : Cmd) (s : State), (let k : BitVec 16 := c.w1.extractLsb' 0 16
    ownsLeg s c.func (s.dec k).leg = true ∧ decOk s k = true ∧ (s.dec k).state = .opened ∧ c.w1 &&& ~~~0x1FFFFFF = 0)) ∧
    (∃ (ctx : BitVec 16) (_p : PicInfo) (q : Pic) (i : Nat) (s : State), s.hasDie (decDie ctx) = true ∧ (s.dec ctx).state = .opened ∧ ((s.dec ctx).pics.find? (fun y => !y.done) = some q) ∧ (s.dec ctx).fence = some i ∧ tget 0 (s.die (decDie ctx)).gal.fence i ≠ 0xFFFFFFFF) ∧
    (∃ (_die : Nat) (i : BitVec 8) (w : BitVec 32) (g : FlipGroup) (_s : State), g.fences = [(i, w)]) :=
  ⟨⟨0, 255, 1, loadedState, by decide⟩,
   ⟨0, 255, State.reset, by decide⟩,
   ⟨{ w1 := 0xFF0000 }, videoState { state := .opened, leg := 0 }, by decide⟩,
   ⟨0, {}, {}, 255, videoState { state := .opened, leg := 0, fence := some 255, pics := [{}] }, by decide⟩,
   ⟨0, 255, 0, { fences := [(255, 0)] }, State.reset, by decide⟩⟩

/-- Operands and a state that meet the hypotheses of each clause of `LayoutsAreAllocatedAndFlipped`. -/
theorem test_witness_layoutsAreAllocatedAndFlipped :
    (∃ (c : Cmd) (i : Nat) (s : State), s.hasDie (c.w1.extractLsb' 0 3).toNat = true ∧ c.w1 &&& ~~~0x1F = 0 ∧ (let t := (s.die (c.w1.extractLsb' 0 3).toNat).gal.layouts
    i < 64 ∧ (tget {} t i).alloc = none ∧ ∀ j < i, (tget {} t j).alloc ≠ none)) ∧
    (∃ (c : Cmd) (s : State), (let l : BitVec 16 := c.w1.extractLsb' 0 16
    ownsLay s c.func l = true ∧ layOk s l = true ∧ (s.lay l).alloc ≠ none) ∧ c.w1 &&& ~~~0xFFFF = 0) ∧
    (∃ (die n : Nat) (late : Bool) (g : FlipGroup) (s : State), (s.die die).gal.flips[n]? = some g ∧ (late = true ∨ pictureAt (flipFps s (g.items.headD (0, 0)).1) s.nextMp = none) ∧ (g.deadline = 0 ∨ s.nextMp < g.deadline.toNat)) ∧
    (∃ (die n : Nat) (late : Bool) (g : FlipGroup) (s : State), (s.die die).gal.flips[n]? = some g ∧ (late = true ∨ pictureAt (flipFps s (g.items.headD (0, 0)).1) s.nextMp = none) ∧ g.deadline ≠ 0 ∧ g.deadline.toNat ≤ s.nextMp ∧ standsBy s = false) ∧
    (∃ (die n : Nat) (g : FlipGroup) (s : State), (s.die die).gal.flips[n]? = some g ∧ pictureAt (flipFps s (g.items.headD (0, 0)).1) s.nextMp ≠ none ∧ standsBy s = false) ∧
    (∃ (die n : Nat) (g : FlipGroup) (s : State), (s.die die).gal.flips[n]? = some g ∧ pictureAt (flipFps s (g.items.headD (0, 0)).1) s.nextMp ≠ none ∧ standsBy s = false) :=
  ⟨⟨{ w1 := 0x19 }, 0, State.reset, by decide⟩,
   ⟨{ w1 := 0 }, flipState 0 [], by decide⟩,
   ⟨0, 0, true, { items := [(0, 1)] }, flipState 0 [{ items := [(0, 1)] }], by decide⟩,
   ⟨0, 0, true, { items := [(0, 1)], deadline := 1000 }, flipState 1000 [{ items := [(0, 1)], deadline := 1000 }], by decide⟩,
   ⟨0, 0, { items := [(0, 1)] }, flipState 0 [{ items := [(0, 1)] }], by decide⟩,
   ⟨0, 0, { items := [(0, 1)], deadline := 1000, fences := [(3, 1)] }, flipState 1000 [{ items := [(0, 1)], deadline := 1000, fences := [(3, 1)] }], by decide⟩⟩

/-- Operands and a state that meet the hypotheses of each clause of `PicturesAreComposedAndMosaicsSpliced`. -/
theorem test_witness_picturesAreComposedAndMosaicsSpliced :
    (∃ (y : GalLayer) (_plane : Nat) (pa c d : Int), 0 ≤ c ∧ c ≤ 1023 ∧ 0 ≤ d ∧ d ≤ 1023 ∧ 0 ≤ pa ∧ pa ≤ 255 ∧ y.galpha ≤ 255) ∧
    (∃ (die idx : Nat) (_late : Bool) (_failed : List (BitVec 16)) (s : State), (s.layOn (layHandle die idx) = false ∨ pictureAt (s.layLive (layHandle die idx)).fps s.nextMp = none)) ∧
    (∃ (l : BitVec 16) (s : State), (s.lay l).composing = true) ∧
    (∃ (die idx : Nat) (_failed : List (BitVec 16)) (_late : Bool) (s : State), let l := layHandle die idx
    s.layOn l = true ∧ pictureAt (s.layLive l).fps s.nextMp ≠ none ∧ (s.die die).counting = true) ∧
    (∃ (die n : Nat) (_t : TilePic) (x : TileStream) (s : State), (s.die die).gal.tiles[n]? = some x) ∧
    (∃ (leg : BitVec 16) (v : Viewer) (t : BitVec 64) (s : State), (s.leg leg).viewer = some v ∧ v.started = false ∧ v.startAt = some t) ∧
    (∃ (leg : BitVec 16) (v : Viewer) (s : State), (s.leg leg).viewer = some v ∧ v.started = true) ∧
    (∃ (die n : Nat) (t : TileStream) (at_ : BitVec 64) (s : State), (s.die die).gal.tiles[n]? = some t ∧ t.lastIntraReq = some at_) :=
  ⟨⟨rdLayer [] 0, 2, 255, 1023, 0, by decide⟩,
   ⟨0, 0, true, [], flipState 0 [], by decide⟩,
   ⟨0, withDie 0 fun x => { x with gal := { x.gal with layouts := [(0, { composing := true })] } }, by decide⟩,
   ⟨0, 0, [], false, onState, by decide⟩,
   ⟨0, 0, {}, {}, withDie 0 fun x => { x with gal := { x.gal with tiles := [{}] } }, by decide⟩,
   ⟨0, { startAt := some 0 }, 0, withDie 0 fun x => { x with legs := [(0, { viewer := some { startAt := some 0 } })] }, by decide⟩,
   ⟨0, { started := true }, withDie 0 fun x => { x with legs := [(0, { viewer := some { started := true } })] }, by decide⟩,
   ⟨0, 0, { merged := true, lastIntraReq := some 0 }, 0, withDie 0 fun x => { x with gal := { x.gal with tiles := [{ merged := true, lastIntraReq := some 0 }] } }, by decide⟩⟩

/-- Operands and a state that meet the hypotheses of each clause of `EncodersOpenCodeWithinTheirBufferAndRestart`. -/
theorem test_witness_encodersOpenCodeWithinTheirBufferAndRestart :
    (∃ (c : Cmd) (s : State), (ownsSource s c.func ((encArgs s c).kind == 1) (encArgs s c).source = true) ∧ encArgsOk s c (encArgs s c) = true) ∧
    (∃ (c : Cmd) (s : State), (s.enc (c.w1.extractLsb' 0 16)).state ≠ .opened ∧ (c.func = 0)) ∧
    (∃ (c : Cmd) (k : BitVec 16) (s : State), c.w1 = k.setWidth 64 ∧ (ownsEnc s c.func k = true ∧ encOk s k = true ∧ (s.enc k).state = .opened ∧ (s.enc k).kind ≠ 2)) ∧
    (∃ (c : Cmd) (k : BitVec 16) (s : State), c.w1 = k.setWidth 64 ∧ (ownsEnc s c.func k = true ∧ encOk s k = true ∧ (s.enc k).state = .opened ∧ (s.enc k).kind ≠ 2) ∧ (∀ i < 4, [c.w2, c.w3, c.w4, c.w5].getD i 0 = 0 ∨ (i < (s.enc k).rungs.length ∧ 32 ≤ ([c.w2, c.w3, c.w4, c.w5].getD i 0).toNat ∧
      ([c.w2, c.w3, c.w4, c.w5].getD i 0).toNat ≤ 65535))) ∧
    (∃ (c : Cmd) (k : BitVec 16) (s : State), c.w1 = k.setWidth 64 ∧ (ownsEnc s c.func k = true ∧ encOk s k = true ∧ (s.enc k).state = .opened ∧ (s.enc k).kind ≠ 2) ∧ (∀ i < 4, [c.w2, c.w3, c.w4, c.w5].getD i 0 = 0 ∨ (i < (s.enc k).rungs.length ∧ 32 ≤ ([c.w2, c.w3, c.w4, c.w5].getD i 0).toNat ∧
      ([c.w2, c.w3, c.w4, c.w5].getD i 0).toNat ≤ 65535))) ∧
    (∃ (c : Cmd) (k : BitVec 16) (m : Nat) (s : State), c.w1 = k.setWidth 64 ||| BitVec.ofNat 64 (0x10000 * m) ∧ (ownsEnc s c.func k = true ∧ encOk s k = true ∧ (s.enc k).state = .opened ∧ (s.enc k).kind ≠ 2) ∧ m < 16 ∧ m < 2 ^ (s.enc k).rungs.length) ∧
    (∃ (k : BitVec 16) (i : Nat) (r : Rung) (s : State), (s.enc k).rungs[i]? = some r ∧ (∀ t, r.lastIntra = some t → intraGapUnits s k ≤ stampDiff s.clk t)) ∧
    (∃ (_e : CodeEnv) (p : CodePart) (_late : Option Nat) (a : RowAcc) (_i : Nat), (a.used : Int) ≤ p.cap) ∧
    (∃ (x : EncCtx) (_capX _w _bits : Nat) (r : Rung), 0 ≤ r.full ∧ r.full ≤ rungBuf x r) ∧
    (∃ (ctx : BitVec 16) (rung : Nat) (r : Rung) (t : BitVec 64) (s : State), (s.enc ctx).rungs[rung]? = some r ∧ r.lastIntra = some t) ∧
    (∃ (ctx : BitVec 16) (rung _row : Nat) (r : Rung) (s : State), (s.enc ctx).rungs[rung]? = some r ∧ (s.enc ctx).state = .opened ∧ (s.enc ctx).running = true ∧ r.lateFirst = none ∧ standsBy s = false) :=
  ⟨⟨{ w1 := 0x0001001E00030000, w2 := 0x0000FFFF00000020 }, encState { state := .opened, maxW := 64, maxH := 64, maxFps := 30 } {}, by decide⟩,
   ⟨{}, State.reset, by decide⟩,
   ⟨{}, 0, encState {} { state := .opened, rungs := [{}] }, by decide⟩,
   ⟨{ w2 := 32 }, 0, encState {} { state := .opened, rungs := [{}] }, by decide⟩,
   ⟨{ w2 := 65535 }, 0, encState {} { state := .opened, rungs := [{}] }, by decide⟩,
   ⟨{ w1 := 0x10000 }, 0, 1, encState {} { state := .opened, rungs := [{}] }, by decide⟩,
   ⟨0, 0, {}, encState {} { state := .opened, rungs := [{}] }, ⟨by decide, fun _ h => by cases h⟩⟩,
   ⟨codeEnv {} {} [], { index := 0, first := 0, col := 0, rows := 1, units := 1, budget := 0, cap := 0 }, none, {}, 0, by decide⟩,
   ⟨{}, 3, 4, 0, {}, by decide⟩,
   ⟨0, 0, { lastIntra := some 0, merged := true }, 0, encState {} { rungs := [{ lastIntra := some 0, merged := true }] }, by decide⟩,
   ⟨0, 0, 7, {}, encState {} { state := .opened, running := true, rungs := [{}] }, by decide⟩⟩

/-- Operands and a state that meet the hypotheses of each clause of `EgressQueuesShapesAndSends`. -/
theorem test_witness_egressQueuesShapesAndSends :
    (∃ (p : TxPacket) (s : State), s.legOpen p.leg = true) ∧
    (∃ (p : TxPacket) (s : State), s.legOpen p.leg = true ∧ (s.legLive p.leg).xform = 0 ∧ p.kind = .audio ∧ mediaSubport s (s.legLive p.leg).ethDie (s.legLive p.leg).ethIdx = true ∧ queueBytes (s.leg p.leg).tx.queue + p.ipLen ≤ max 65536 (2 * (s.legLive p.leg).outBurst)) ∧
    (∃ (p : TxPacket) (s : State), s.legOpen p.leg = false) ∧
    (∃ (die sub : Nat) (p : TxPacket) (rest : List TxPacket) (s : State), mediaSubport s die sub = true ∧ (s.sub8 die sub).control = p :: rest ∧ (s.die die).egr.hostWait = [] ∧ p.kind = .control ∧ p.owner = none ∧ p.stampTag = none ∧ p.duken = none ∧ s.pair.transmit = true ∧ (s.ethPort die sub).enable = true ∧ (s.sub8 die sub).failed = false) ∧
    (∃ (die sub : Nat) (s : State), mediaSubport s die sub = true) ∧
    (∃ (die sub : Nat) (s : State), mediaSubport s die sub = false) ∧
    (∃ (s : State) (d i c : Nat), chooseClass s d i = some c) ∧
    (∃ (leg : BitVec 16) (p : TxPacket) (s : State), queueHead (s.leg leg).tx.queue = some p) ∧
    (∃ (leg : BitVec 16) (h : Held) (rest : List Held) (s : State), (s.leg leg).tx.held = h :: rest) ∧
    (∃ (leg : BitVec 16) (s : State), s.legOpen leg = true ∧ (s.legLive leg).rxEn = true) ∧
    (∃ (leg : BitVec 16) (_ssrc : BitVec 32) (s : State), s.legOpen leg = true) ∧
    (∃ (leg : BitVec 16) (_ssrc : Option (BitVec 32)) (s : State), s.legOpen leg = false) ∧
    (∃ (c : Cmd) (s : State), (let d := (c.w1.extractLsb' 49 3).toNat
    let i := (c.w1.extractLsb' 46 3).toNat
    (c.w1.extractLsb' 32 14).toNat < 60 ∨ (s.ethPort d i).maxFrame.toNat < (c.w1.extractLsb' 32 14).toNat + 4 ∨
      mediaSubport s d i = false)) ∧
    (∃ (c : Cmd) (s : State), (let d := (c.w1.extractLsb' 49 3).toNat
    let i := (c.w1.extractLsb' 46 3).toNat
    (c.w1.extractLsb' 32 14).toNat < 60 ∨ (s.ethPort d i).maxFrame.toNat < (c.w1.extractLsb' 32 14).toNat + 4 ∨
      mediaSubport s d i = false)) ∧
    (∃ (c : Cmd) (s : State), (let d := (c.w1.extractLsb' 49 3).toNat
    let i := (c.w1.extractLsb' 46 3).toNat
    (c.w1.extractLsb' 32 14).toNat < 60 ∨ (s.ethPort d i).maxFrame.toNat < (c.w1.extractLsb' 32 14).toNat + 4 ∨
      mediaSubport s d i = false)) ∧
    (∃ (c : Cmd) (s : State), (let d := (c.w1.extractLsb' 49 3).toNat
    let i := (c.w1.extractLsb' 46 3).toNat
    let len := (c.w1.extractLsb' 32 14).toNat
    c.w1.extractLsb' 53 11 = 0 ∧ 60 ≤ len ∧ len + 4 ≤ (s.ethPort d i).maxFrame.toNat ∧ mediaSubport s d i = true ∧
      bufferOk s c.func (c.w1.extractLsb' 0 32).toNat len = true)) ∧
    (∃ (d i : Nat) (p : TxPacket) (s : State), (s.die d).egr.hostWait = [(i, p)]) ∧
    (∃ (leg : BitVec 16) (s : State), s.legOpen leg = true ∧ (s.legLive leg).rateHost = false ∧ (s.legLive leg).txEn = true ∧ (s.legLive leg).video = true) :=
  ⟨⟨{ leg := 0, kind := .video, ipLen := 65537 }, rxState, by decide⟩,
   ⟨{ leg := 0, kind := .audio, ipLen := 65536 }, rxState, by decide⟩,
   ⟨{}, State.reset, by decide⟩,
   ⟨0, 0, { kind := .control }, [], egrState, by decide⟩,
   ⟨0, 0, readyState, by decide⟩,
   ⟨0, 7, readyState, by decide⟩,
   ⟨readyState, 0, 0, 0, by decide⟩,
   ⟨0, { leg := 0 }, readyState, by decide⟩,
   ⟨0, {}, [], withDie 0 fun x => { x with legs := [(0, { tx := { held := [{}] } })] }, by decide⟩,
   ⟨0, rxState, by decide⟩,
   ⟨0, 5, rxState, by decide⟩,
   ⟨0, some 1, State.reset, by decide⟩,
   ⟨{ w1 := 0x3B00000000 }, egrState, by decide⟩,
   ⟨{ w1 := 0x5EF00000000 }, egrState, by decide⟩,
   ⟨{ w1 := 0x0000403C00000000 }, egrState, by decide⟩,
   ⟨{ w1 := 0x3C02000000 }, egrState, by decide⟩,
   ⟨0, 0, {}, withDie 0 fun x => { x with egr := { x.egr with hostWait := [(0, {})] } }, by decide⟩,
   ⟨0, sendState, by decide⟩⟩

/-- Operands and a state that meet the hypotheses of each clause of `TheReadyPoolTakesTubsByLevel`. -/
theorem test_witness_theReadyPoolTakesTubsByLevel :
    (∃ (die : Nat) (v : BitVec 64) (t : Tub) (s : State), s.off die = false ∧ s.hasDie die = true ∧ (t = { w := (List.range 8).map fun i => tget 0 (tset 0 (s.die die).hst.enq 7 v) i }) ∧ tubOk s die (hostReq 0) t = true) :=
  ⟨0, 0, { w := [0x7A000, 0, 0, 0, 0, 0, 0, 0] }, tubState, by decide⟩

/-- Operands and a state that meet the hypotheses of each clause of `TubsAreGivenHighestFirst`. -/
theorem test_witness_tubsAreGivenHighestFirst :
    (∃ (s : State) (d cls core : Nat) (levels : Byte) (t : Tub), bestTub s d cls core levels = some t) ∧
    (∃ (die cls core : Nat) (s : State), 1 ≤ cls ∧ tget none (s.die die).hst.held (loadIndex cls core) = none ∧ (s.die die).hst.stalls = []) ∧
    (∃ (die core : Nat) (me : Nat × Nat × BitVec 8 × BitVec 64) (t : Tub) (s : State), (s.faceCore die core).role = 1 ∧ ((s.die die).hst.waits.find? (fun w => w.1 == 0 && w.2.1 == core) = some me) ∧ bestTub s die 0 core me.2.2.1 = some t ∧ (∀ w ∈ (s.die die).hst.waits, eligible s die w.1 w.2.1 w.2.2.1 t = true → waitsBefore w me = false) ∧ (s.die die).hst.stalls = []) ∧
    (∃ (func _die : Nat) (_v : BitVec 64) (_s : State), (func ≠ 0)) ∧
    (∃ (die : Nat) (v : BitVec 64) (t : Tub) (s : State), s.off die = false ∧ s.hasDie die = true ∧ (t = { w := (List.range 8).map fun i => tget 0 (tset 0 (s.die die).hst.enq 7 v) i }) ∧ tubOk s die (hostReq 0) t = false) ∧
    (∃ (die : Nat) (src : BitVec 8) (x : Stall) (s : State), ((s.die die).hst.stalls.find? (fun y => y.src == src) = some x) ∧ 0x50 < src.toNat) ∧
    (∃ (die : Nat) (src : BitVec 8) (s : State), (∀ y ∈ (s.die die).hst.stalls, y.src ≠ src)) ∧
    (∃ (die flow n : Nat) (t : Tub) (at_ at2 : BitVec 64) (s : State), (s.die die).hst.held = [(n, some (t, at2))] ∧ tubOrdered t = true ∧ tubFlow t = flow ∧ t.seq = (s.flow die flow).oldest ∧ (s.flow die flow).taken = [((s.flow die flow).oldest, at_)]) ∧
    (∃ (die flow : Nat) (s : State), (s.flow die flow).taken = []) :=
  ⟨⟨tubState, 0, 0, 16, 0xFF, { w := [0x7A000] }, by decide⟩,
   ⟨0, 1, 0, tubState, by decide⟩,
   ⟨0, 16, (0, 16, 0xFF, 0), { w := [0x7A000] }, tubState.modDie 0 fun x => { x with hst := { x.hst with waits := [(0, 16, 0xFF, 0)] } }, by decide⟩,
   ⟨1, 0, 0, State.reset, by decide⟩,
   ⟨0, 1, { w := [0, 0, 0, 0, 0, 0, 0, 1] }, loadedState, by decide⟩,
   ⟨0, 0x60, { src := 0x60 }, withDie 0 fun x => { x with hst := { x.hst with stalls := [{ src := 0x60 }] } }, by decide⟩,
   ⟨0, 0, State.reset, by decide⟩,
   ⟨0, 1, 3, { w := [0x600000] }, 0, 0, withDie 0 fun x => { x with hst := { x.hst with held := [(3, some ({ w := [0x600000] }, 0))], flows := [(1, { taken := [(0, 0)] })] } }, by decide⟩,
   ⟨0, 1023, State.reset, by decide⟩⟩

/-- Operands and a state that meet the hypotheses of each clause of `FaceCoresRunStopAndFault`. -/
theorem test_witness_faceCoresRunStopAndFault :
    (∃ (die core : Nat) (_v : BitVec 64) (s : State), (s.faceCore die core).role ≠ 1) ∧
    (∃ (die core : Nat) (v : BitVec 64) (s : State), (s.faceCore die core).role = 1 ∧ ((s.faceCore die core).state = .stopped ∨ (s.faceCore die core).state = .fault) ∧ v.getLsbD 0 = true) ∧
    (∃ (die core : Nat) (v : BitVec 64) (s : State), (s.faceCore die core).role = 1 ∧ ((s.faceCore die core).state = .stopped ∨ (s.faceCore die core).state = .fault) ∧ v.getLsbD 0 = true) ∧
    (∃ (die core : Nat) (v : BitVec 64) (s : State), (s.faceCore die core).role = 1 ∧ ((s.faceCore die core).state = .waiting ∨ ((s.faceCore die core).state = .running ∧ (s.faceCore die core).stalled = [])) ∧ v.getLsbD 1 = true ∧ v.getLsbD 0 = false) ∧
    (∃ (die core : Nat) (s : State), (s.faceCore die core).state ≠ .running) ∧
    (∃ (die core : Nat) (s : State), (s.faceCore die core).state = .running ∧ (s.faceCore die core).stalled = [] ∧ (s.faceCore die core).role = 0) ∧
    (∃ (die core : Nat) (s : State), let x := s.faceCore die core
    x.state = .running ∧ x.stalled = [] ∧ x.role = 1 ∧ x.flights = [] ∧ x.loop = none ∧ x.take = none ∧ x.branch = none ∧
      x.stop = false ∧ x.pc.toNat < 4095 ∧ tget 0 x.imem x.pc.toNat = 0) ∧
    (∃ (die core : Nat) (s : State), let x := s.faceCore die core
    x.state = .running ∧ x.stalled = [] ∧ x.role = 1 ∧ x.flights = [] ∧ x.loop = none ∧ x.take = none ∧ x.branch = none ∧
      x.stop = false ∧ x.pc.toNat < 4095 ∧ tget 0 x.imem x.pc.toNat = 0) ∧
    (∃ (die core : Nat) (s : State), let x := s.faceCore die core
    x.state = .running ∧ x.stalled = [] ∧ x.role = 1 ∧ x.flights = [] ∧ bundleLegal (tget 0 x.imem x.pc.toNat) = false) ∧
    (∃ (die core ch : Nat) (s : State), (tget {} (s.faceCore die core).dma ch).busy = false) ∧
    (∃ (die core ch : Nat) (s : State), (tget {} (s.faceCore die core).dma ch).busy = true ∧ (s.faceCore die core).stalled = [] ∧ (s.die die).drc.poison = [] ∧ dmaRows (tget {} (s.faceCore die core).dma ch).desc < 4096) ∧
    (∃ (func die _core _off : Nat) (_v : BitVec 64) (s : State), (s.off die = false ∧ func ≠ 0)) ∧
    (∃ (die core off : Nat) (_v : BitVec 64) (s : State), s.off die = false ∧ (s.faceCore die core).role = 1 ∧ (s.faceCore die core).state ≠ .retired ∧ off < 0x10000) ∧
    (∃ (die core off : Nat) (_v : BitVec 64) (s : State), s.off die = false ∧ (s.faceCore die core).role = 1 ∧ (s.faceCore die core).state ≠ .retired ∧ off < 0x10000) ∧
    (∃ (die core : Nat) (s : State), (s.faceCore die core).state = .running ∧ (s.faceCore die core).role = 0 ∧ tget none (s.die die).hst.held core = none ∧ ((s.openLegs die).all (fun l => !(s.legLive l).audio) = true)) :=
  ⟨⟨0, 16, 1, State.reset, by decide⟩,
   ⟨0, 16, 1, faceState .stopped 0, by decide⟩,
   ⟨0, 16, 0x0FFF0003, faceState .fault 0, by decide⟩,
   ⟨0, 16, 2, faceState .running 0, by decide⟩,
   ⟨0, 16, faceState .fault 0, by decide⟩,
   ⟨0, 16, (faceState .running 0).modFace 0 16 fun x => { x with role := 0 }, by decide⟩,
   ⟨0, 16, faceState .running 0, by decide⟩,
   ⟨0, 16, (faceState .running 0).modFace 0 16 fun x => { x with pc := 4094 }, by decide⟩,
   ⟨0, 16, faceState .running 0xFC00000, by decide⟩,
   ⟨0, 16, 3, State.reset, by decide⟩,
   ⟨0, 16, 3, (faceState .running 0).modFace 0 16 fun x => { x with dma := [(3, { busy := true })] }, by decide⟩,
   ⟨1, 0, 16, 0, 5, faceState .stopped 0, by decide⟩,
   ⟨0, 16, 0xFFF8, 5, faceState .fault 0, by decide⟩,
   ⟨0, 16, 0, 5, faceState .running 0, by decide⟩,
   ⟨0, 16, (faceState .running 0).modFace 0 16 fun x => { x with role := 0 }, by decide⟩⟩

/-- Operands and a state that meet the hypotheses of each clause of `DropDiscardsExactlyOneUnit`. -/
theorem test_witness_dropDiscardsExactlyOneUnit :
    (∃ (die q : Nat) (a b : List (List Byte × BitVec 7 × Bool)) (bs : List Byte) (n : BitVec 7) (s : State), queueExists q = true ∧ (s.queue die q).ring = a ++ (bs, n, true) :: b ∧ (a.all (fun l => !l.2.2) = true)) ∧
    (∃ (die q : Nat) (s : State), queueExists q = true ∧ ((s.queue die q).ring.all (fun l => !l.2.2) = true) ∧ s.hasDie die = true) ∧
    (∃ (die q : Nat) (bytes : List (BitVec 8)) (_ended : Bool) (s : State), queueExists q = true ∧ bytes ≠ [] ∧ (s.queue die q).dropping = true) :=
  ⟨⟨0, 0x31, [], [([], 1, true)], [], 64, queueState, by decide⟩,
   ⟨0, 0x25, State.reset, by decide⟩,
   ⟨0, 0x30, [1], true, queueState.modQueue 0 0x30 fun x => { x with dropping := true }, by decide⟩⟩

/-- Operands and a state that meet the hypotheses of each clause of `DramAccessesAreCheckedAndCounted`. -/
theorem test_witness_dramAccessesAreCheckedAndCounted :
    (∃ (a : DramReq) (bs : List (BitVec 8)) (s : State), s.hasDie a.die = true ∧ trainedBytes (s.die a.die).drc ≤ a.addr ∧ a.data = some bs) ∧
    (∃ (a : DramReq) (s : State), s.hasDie a.die = true ∧ trainedBytes (s.die a.die).drc ≤ a.addr ∧ a.data = none) ∧
    (∃ (a : DramReq) (s : State), s.hasDie a.die = true ∧ a.addr < trainedBytes (s.die a.die).drc ∧ a.data = none) ∧
    (∃ (a : DramReq) (bs : List (BitVec 8)) (s : State), s.hasDie a.die = true ∧ a.die < 8 ∧ a.addr < 2 ^ 37 ∧ a.data = some bs ∧ a.addr + bs.length ≤ trainedBytes (s.die a.die).drc ∧ bs ≠ [] ∧ bs.length ≤ 64 - a.addr % 64) ∧
    (∃ (die sub _driftPs : Nat) (_dT : Int) (s : State), sub < 4 ∧ (s.die die).drc.chOk.getLsbD (sub / 2) = true ∧ (s.die die).drc.lastRetrain = none) ∧
    (∃ (die : Nat) (s : State), let c := (s.die die).drc
    64 ≤ trainedBytes c ∧ c.poison.contains (c.scrubNext % trainedBytes c) = false) ∧
    (∃ (die q : Nat) (bytes : List (BitVec 8)) (s : State), queueExists q = true ∧ bytes ≠ [] ∧ bytes.length ≤ 16 ∧ (s.queue die q).skip = false ∧ (s.queue die q).dropping = false ∧ (s.queue die q).part.length + bytes.length < 64 ∧ (s.queue die q).ring.length < (s.queue die q).lines) ∧
    (∃ (die q : Nat) (bytes : List (BitVec 8)) (s : State), queueExists q = true ∧ bytes ≠ [] ∧ bytes.length ≤ 16 ∧ (s.queue die q).skip = false ∧ (s.queue die q).dropping = false ∧ (s.queue die q).lines ≤ (s.queue die q).ring.length ∧ (s.queue die q).part.length < 64) ∧
    (∃ (die q : Nat) (s : State), queueOk (s.queue die q) = true ∧ (s.queue die q ≠ {} ∨ (s.die die).drc.queues = [])) ∧
    (∃ (die q : Nat) (s : State), queueOk (s.queue die q) = true ∧ (s.queue die q ≠ {} ∨ (s.die die).drc.queues = [])) :=
  ⟨⟨{ die := 0, addr := 0, data := some [1] }, [1], State.reset, by decide⟩,
   ⟨{ die := 0, addr := 0 }, State.reset, by decide⟩,
   ⟨{ die := 0, addr := 0x3FFFFFFF }, gibState, by decide⟩,
   ⟨{ die := 1, addr := 0x3FFFFFFF, data := some [7] }, [7], gibState, by decide⟩,
   ⟨0, 3, 1000, 0, gibState, by decide⟩,
   ⟨0, gibState, by decide⟩,
   ⟨0, 0, [1], queueState, by decide⟩,
   ⟨0, 0x31, [1], queueState.modQueue 0 0x31 fun x => { x with lines := 2 }, by decide⟩,
   ⟨0, 0x31, queueState, by decide⟩,
   ⟨1, 0x25, State.reset, by decide⟩⟩

/-- Operands and a state that meet the hypotheses of each clause of `PairsFormAndFollowTheLedger`. -/
theorem test_witness_pairsFormAndFollowTheLedger :
    (∃ (p : PeerSeen) (s : State), s.pair.cfg = true ∧ allRunning s = true ∧ p.present = true ∧ p.sameVariant = true ∧ p.sameStructure = true ∧ p.manSeq.toNat = manSeq s (runBank s)) ∧
    (∃ (p : PeerSeen) (s : State), s.pair.cfg = true ∧ allRunning s = true ∧ p.present = true ∧ p.sameVariant = true ∧ p.sameStructure = true ∧ p.manSeq.toNat = manSeq s (runBank s)) ∧
    (∃ (p : PeerSeen) (s : State), s.pair.cfg = true ∧ allRunning s = true ∧ p.present = true ∧ p.sameVariant = true ∧ p.sameStructure = true ∧ p.manSeq.toNat = manSeq s (runBank s)) ∧
    (∃ (p : PeerSeen) (s : State), s.pair.cfg = true ∧ allRunning s = true ∧ p.present = true ∧ p.sameVariant = true ∧ p.sameStructure = true ∧ p.manSeq.toNat = manSeq s (runBank s)) ∧
    (∃ (p : PeerSeen) (s : State), s.pair.cfg = true ∧ allRunning s = true ∧ p.present = true ∧ p.sameVariant = true ∧ p.sameStructure = true ∧ p.manSeq.toNat = manSeq s (runBank s)) ∧
    (∃ (p : PeerSeen) (s : State), s.pair.cfg = true ∧ allRunning s = true ∧ p.present = true ∧ p.sameVariant = true ∧ p.manSeq.toNat ≠ manSeq s (runBank s)) ∧
    (∃ (s : State), s.pair.cfg = true ∧ allRunning s = true ∧ s.pair.role = .unpaired) ∧
    (∃ (die _rate : Nat) (_l _st : BitVec 16) (_v _m _pic : BitVec 64) (s : State), standsBy s = true ∧ s.hasDie die = true) ∧
    (∃ (_die : Nat) (_r : LedgerRec) (s : State), (s.pair.role = .active ∨ s.pair.role = .unpaired)) ∧
    (∃ (_die : Nat) (l seq : BitVec 16) (ssrc c1 : BitVec 32) (at_ : BitVec 64) (k : BitVec 3) (_got : RxPacket) (s : State), standsBy s = true ∧ s.pair.ledger.contains (.admission l ssrc seq c1 at_ k) = true) ∧
    (∃ (leg : BitVec 16) (m : BitVec 64) (_r : Reseed) (s : State), standsBy s = true ∧ (s.pair.reseed.find? (fun e => e.1 == leg) = some (leg, m))) ∧
    (∃ (die _second : Nat) (_inStep : Bool) (s : State), s.pair.role = .active ∧ s.pair.peerLost = false ∧ s.hasDie die = true) ∧
    (∃ (die _second : Nat) (_failed : List Nat) (s : State), standsBy s = true ∧ s.hasDie die = true ∧ (s.die die).par.excludedLast = []) ∧
    (∃ (die second : Nat) (u : BitVec 16) (_c : BitVec 32) (s : State), standsBy s = true ∧ s.hasDie die = true ∧ digestsOf s die second = [] ∧ (s.die die).par.excludedLast.contains u = false) ∧
    (∃ (die _second : Nat) (image : BitVec 64) (version : BitVec 32) (_theirs : List (BitVec 16 × BitVec 32)) (_failed : List Nat) (s : State), ((s.die die).str.id ≠ image ∨ (s.die die).str.ver.setWidth 32 ≠ version)) :=
  ⟨⟨{ present := true, role := .active }, pairState .unpaired, by decide⟩,
   ⟨{ present := true, mac := 1 }, pairState .unpaired, by decide⟩,
   ⟨{ present := true, strap := true }, pairState .active, by decide⟩,
   ⟨{ present := true, role := .active }, pairState .standby, by decide⟩,
   ⟨{ present := true, role := .active }, pairState .joining, by decide⟩,
   ⟨{ present := true, manSeq := 5 }, pairState .unpaired, by decide⟩,
   ⟨pairState .unpaired, by decide⟩,
   ⟨1, 0, 0, 0, 0, 0, 0, pairState .joining, by decide⟩,
   ⟨0, .random 0, pairState .active, by decide⟩,
   ⟨0, 1, 2, 3, 4, 5, 0, {}, admitState, by decide⟩,
   ⟨1, 7, {}, admitState, by decide⟩,
   ⟨1, 0, true, pairState .active, by decide⟩,
   ⟨1, 0, [], pairState .standby, by decide⟩,
   ⟨0, 0, 0x8000, 1, pairState .standby, by decide⟩,
   ⟨0, 0, 5, 0, [], [], pairState .standby, by decide⟩⟩

/-- Operands and a state that meet the hypotheses of each clause of `PairsBeatTakeOverAndSwitch`. -/
theorem test_witness_pairsBeatTakeOverAndSwitch :
    (∃ (s : State), s.pair.role ≠ .unpaired) ∧
    (∃ (die : Nat) (t : BitVec 64) (s : State), s.pair.hbAt = some t ∧ s.pair.role ≠ .unpaired ∧ s.hasDie die = true ∧ (s.die die).par.missed = false) ∧
    (∃ (die : Nat) (t : BitVec 64) (s : State), s.pair.hbAt = some t ∧ s.pair.role ≠ .unpaired ∧ s.hasDie die = true ∧ (s.die die).par.missed = false) ∧
    (∃ (t : BitVec 64) (s : State), s.pair.takeoverT = some t) ∧
    (∃ (m : BitVec 64) (rest : List (BitVec 64)) (s : State), s.pair.announceDue = m :: rest) ∧
    (∃ (t : BitVec 64) (_bad : List (Nat × Nat)) (s : State), s.pair.checkAt = some t) ∧
    (∃ (_v : BitVec 64) (s : State), s.off 0 = false) ∧
    (∃ (_v : BitVec 64) (s : State), s.off 0 = false) ∧
    (∃ (t _peer : BitVec 64) (s : State), s.pair.role = .active ∧ s.pair.switchAt = some t) ∧
    (∃ (_peer : BitVec 64) (s : State), s.pair.role = .standby) :=
  ⟨⟨pairState .standby, by decide⟩,
   ⟨0, 0, beatState .active 0, by decide⟩,
   ⟨1, 0, beatState .standby 3, by decide⟩,
   ⟨5, { pairState .active with pair := { (pairState .active).pair with takeoverT := some 5 } }, by decide⟩,
   ⟨5, [15], { pairState .active with pair := { (pairState .active).pair with announceDue := [5, 15] } }, by decide⟩,
   ⟨15, [(0, 7)], { pairState .active with pair := { (pairState .active).pair with checkAt := some 15 } }, by decide⟩,
   ⟨1, { pairState .active with pair := { (pairState .active).pair with switchMp := 100 } }, by decide⟩,
   ⟨3, { pairState .active with pair := { (pairState .active).pair with switchMp := 99 } }, by decide⟩,
   ⟨500, 0, { pairState .active with pair := { (pairState .active).pair with switchAt := some 500 } }, by decide⟩,
   ⟨500, pairState .standby, by decide⟩⟩

/-- Operands and a state that meet the hypotheses of each clause of `MonitorsRetireUnitsAndWatchPower`. -/
theorem test_witness_monitorsRetireUnitsAndWatchPower :
    (∃ (die k : Nat) (s : State), s.hasDie die = true ∧ k < 48) ∧
    (∃ (die k : Nat) (slack : BitVec 8) (s : State), s.hasDie die = true ∧ k < 48 ∧ slack ≠ 0) ∧
    (∃ (die k : Nat) (slack : BitVec 8) (s : State), s.hasDie die = true ∧ k < 48 ∧ slack ≠ 0) ∧
    (∃ (die : Nat) (auto : Bool) (s : State), (auto = false → s.off die = false) ∧ (s.die die).can.replanDue = false) ∧
    (∃ (die : Nat) (auto : Bool) (s : State), (auto = false → s.off die = false) ∧ (s.die die).can.replanDue = false) ∧
    (∃ (die : Nat) (s : State), (s.die die).can.replanDue = true ∧ (s.die die).can.replanning = false ∧ (s.die die).can.auto = true ∧ (s.die die).str.state = .running) ∧
    (∃ (die k : Nat) (_l : List (BitVec 8)) (s : State), (s.die die).can.replanning = true ∧ k < 48) ∧
    (∃ (die rail : Nat) (s : State), s.hasDie die = true ∧ 2 ≤ rail ∧ rail < 6 ∧ (rail = 5 → die = 0)) ∧
    (∃ (die rail : Nat) (s : State), s.hasDie die = true ∧ 2 ≤ rail ∧ rail < 6 ∧ (rail = 5 → die = 0)) ∧
    (∃ (die : Nat) (_sram : Bool) (s : State), (s.die die).pwr.brace = false ∧ ((recentBraces s die).length < 8 ∨ (s.die die).pwr.alarm = true)) ∧
    (∃ (die : Nat) (_sram : Bool) (s : State), (s.die die).pwr.brace = false ∧ 8 ≤ (recentBraces s die).length ∧ (s.die die).pwr.alarm = false) ∧
    (∃ (die : Nat) (s : State), (s.die die).pwr.brace = true) ∧
    (∃ (die : Nat) (s : State), (s.die die).pwr.alarm = true ∧ (recentBraces s die).length ≤ 8) :=
  ⟨⟨0, 47, State.reset, by decide⟩,
   ⟨0, 47, 24, State.reset, by decide⟩,
   ⟨1, 0, 25, State.reset, by decide⟩,
   ⟨0, false, loadedState, by decide⟩,
   ⟨1, true, State.reset, by decide⟩,
   ⟨1, withDie 1 fun x => { x with can := { x.can with replanDue := true, auto := true } }, by decide⟩,
   ⟨0, 47, [1, 30], planState, by decide⟩,
   ⟨0, 5, State.reset, by decide⟩,
   ⟨1, 2, State.reset, by decide⟩,
   ⟨0, true, braceState false 7, by decide⟩,
   ⟨0, true, braceState false 8, by decide⟩,
   ⟨0, braceState true 1, by decide⟩,
   ⟨0, (braceState true 8).modDie 0 fun x => { x with pwr := { x.pwr with alarm := true } }, by decide⟩⟩

/-- Operands and a state that meet the hypotheses of each clause of `ResetsKeepWhatTheirKindKeeps`. -/
theorem test_witness_resetsKeepWhatTheirKindKeeps :
    (∃ (s : State), s.inReset = none) ∧
    (∃ (kind : BitVec 3) (d : Nat) (s : State), s.inReset = none ∧ (kind = 2 ∨ kind = 3) ∧ s.hasDie d = true) ∧
    (∃ (_func : Nat) (v : BitVec 64) (_s : State), v.getLsbD 0 = true ∧ v.extractLsb' 16 16 = 0x5AFE#16) ∧
    (∃ (v : BitVec 64) (_s : State), v.getLsbD 0 = true ∧ v.extractLsb' 16 16 ≠ 0x5AFE#16) ∧
    (∃ (v : BitVec 64) (s : State), v.getLsbD 0 = false ∧ v.getLsbD 1 = true ∧ let d := (v.extractLsb' 2 3).toNat
    0 < d ∧ s.hasDie d = true ∧ (s.die d).pwr.rejoining = false ∧ s.inReset = none ∧ s.restr.busy = false ∧ s.moves = [] ∧ s.pair.cfg = false) ∧
    (∃ (die : Nat) (_rail : Option Nat) (s : State), (s.die die).pwr.brace = false) ∧
    (∃ (die : Nat) (s : State), die ≠ 0 ∧ (s.die die).pwr.brace = true) ∧
    (∃ (_f : Nat) (s : State), s.inReset = none) ∧
    (∃ (die : Nat) (s : State), (s.die die).pwr.rejoining = true ∧ (s.die die).drc.trained = true ∧ s.upd.waitRejoin = false) :=
  ⟨⟨State.reset, by decide⟩,
   ⟨3, 1, State.reset, by decide⟩,
   ⟨0, 0x5AFE0001, State.reset, by decide⟩,
   ⟨1, State.reset, by decide⟩,
   ⟨6, State.reset, by decide⟩,
   ⟨1, none, State.reset, by decide⟩,
   ⟨1, State.reset.modDie 1 fun x => { x with pwr := { x.pwr with brace := true } }, by decide⟩,
   ⟨63, State.reset, by decide⟩,
   ⟨1, loadedState.modDie 1 fun x => { x with pwr := { x.pwr with rejoining := true }, drc := { x.drc with trained := true } }, by decide⟩⟩

/-- Operands and a state that meet the hypotheses of each clause of `TheErrorLogIsReadAndCleared`. -/
theorem test_witness_theErrorLogIsReadAndCleared :
    (∃ (die : Nat) (_v : BitVec 64) (s : State), s.hasDie die = true) ∧
    (∃ (die : Nat) (_v : BitVec 64) (s : State), s.hasDie die = true) :=
  ⟨⟨0, 1, errState, by decide⟩,
   ⟨0, 1023, errState, by decide⟩⟩

/-- Operands and a state that meet the hypotheses of each clause of `UpdatesApplyActivateAndFallBack`. -/
theorem test_witness_updatesApplyActivateAndFallBack :
    (∃ (ops : List DeltaOp) (id : Nat) (s : State), standsBy s = false ∧ s.upd.state ≠ .applying ∧ s.upd.state ≠ .armed ∧ rdDelta s = some (ops, id)) ∧
    (∃ (s : State), standsBy s = false ∧ (s.upd.state = .applying ∨ s.upd.state = .armed ∨ rdDelta s = none)) ∧
    (∃ (s : State), standsBy s = false ∧ (s.upd.state = .applying ∨ s.upd.state = .armed ∨ rdDelta s = none)) ∧
    (∃ (ops : List DeltaOp) (id : Nat) (op : DeltaOp) (_readback : List Bool) (s : State), s.upd.state = .applying ∧ rdDelta s = some (ops, id) ∧ nextOp s ops id = some op) ∧
    (∃ (s : State), standsBy s = false) ∧
    (∃ (s : State), standsBy s = false) ∧
    (∃ (_peerReady : Bool) (s : State), s.upd.state = .armed) ∧
    (∃ (s : State), s.upd.state = .trial ∧ s.upd.lockstepStop = false ∧ runBank s = (bankPtr s).bank ∧ (s.dies.all (fun x => x.str.state == .running) = true) ∧ (manFlag s (bankPtr s).bank 1 = false ∨ s.upd.confirmed = true)) ∧
    (∃ (_seq' : BitVec 32) (s : State), s.upd.state = .trial) ∧
    (∃ (s : State), s.inReset = none) :=
  ⟨⟨[{ target := 128, kind := 0, source := 0, crc := 9, lit := 112 }], 7, deltaState .idle, by decide⟩,
   ⟨deltaState .armed, by decide⟩,
   ⟨State.reset, by decide⟩,
   ⟨[{ target := 128, kind := 0, source := 0, crc := 9, lit := 112 }], 7, { target := 128, kind := 0, source := 0, crc := 9, lit := 112 }, [false, false, false], deltaState .applying, by decide⟩,
   ⟨deltaState .applied, by decide⟩,
   ⟨deltaState .armed, by decide⟩,
   ⟨true, deltaState .armed, by decide⟩,
   ⟨deltaState .trial, by decide⟩,
   ⟨0, deltaState .trial, by decide⟩,
   ⟨State.reset, by decide⟩⟩

/-- Operands and a state that meet the hypotheses of each clause of `RegisterAccessesReachTheirFields`. -/
theorem test_witness_registerAccessesReachTheirFields :
    (∃ (_func off width : Nat) (_v : BitVec 64) (_s : State), (width ≠ 8 ∨ off % 8 ≠ 0)) ∧
    (∃ (_func off width : Nat) (_v : BitVec 64) (_s : State), (width ≠ 8 ∨ off % 8 ≠ 0)) ∧
    (∃ (off : Nat) (_v : BitVec 64) (_s : State), 0x4000000 ≤ off ∧ off % 8 = 0) ∧
    (∃ (d : Nat) (_v : BitVec 64) (s : State), d < 8 ∧ s.hasDie d = true ∧ (s.die d).cap.retired = false ∧ s.off d = false) ∧
    (∃ (d : Nat) (_v : BitVec 64) (s : State), d < 8 ∧ s.hasDie d = true ∧ (s.die d).cap.retired = false ∧ s.off d = true) ∧
    (∃ (d n : Nat) (s : State), d < 8 ∧ n < 6 ∧ s.hasDie d = true ∧ (s.die d).cap.retired = false ∧ s.off d = false) :=
  ⟨⟨0, 0, 4, 1, State.reset, by decide⟩,
   ⟨63, 4, 8, 1, State.reset, by decide⟩,
   ⟨0x4000000, 1, State.reset, by decide⟩,
   ⟨1, 0xFFFF, loadedState, by decide⟩,
   ⟨1, 0xFFFF, State.reset, by decide⟩,
   ⟨1, 5, loadedState, by decide⟩⟩

/-- Operands and a state that meet the hypotheses of each clause of `BoundariesDoThePerMpWork`. -/
theorem test_witness_boundariesDoThePerMpWork :
    (∃ (_f : MpFaults) (s : State), quiet s) :=
  ⟨{}, State.reset, quiet_reset⟩

/-! ## Ill-formed commands: one for each check -/

theorem test_wf_die : Instr.wf (.timSnap 7) = true ∧ Instr.wf (.timSnap 8) = false := by decide
theorem test_wf_function : Instr.wf (.flr 63) = true ∧ Instr.wf (.flr 64) = false := by decide
theorem test_wf_subport : Instr.wf (.timCapPop 0 7) = true ∧ Instr.wf (.timCapPop 0 8) = false := by decide
theorem test_wf_trigger : Instr.wf (.triggerFire 0 15) = true ∧ Instr.wf (.triggerFire 0 16) = false := by decide
theorem test_wf_core : Instr.wf (.bundleIssue 0 16) = true ∧ Instr.wf (.bundleIssue 0 17) = false := by decide
theorem test_wf_ubhan : Instr.wf (.ubhanLaneFailure 0 2) = true ∧ Instr.wf (.ubhanLaneFailure 0 3) = false := by decide
theorem test_wf_source : Instr.wf (.referenceStop 2) = true ∧ Instr.wf (.referenceStop 1) = false ∧
    Instr.wf (.referenceStop 6) = false := by decide
theorem test_wf_rail : Instr.wf (.railWarning 0 5 true) = true ∧ Instr.wf (.railWarning 0 6 true) = false := by decide
theorem test_wf_leg : Instr.wf (.waitDrop 0x1FFF) = true ∧ Instr.wf (.waitDrop 0x2000) = false := by decide
theorem test_wf_conf : Instr.wf (.confRehomeSwitch 0x3FF) = true ∧ Instr.wf (.confRehomeSwitch 0x400) = false := by decide
theorem test_wf_entry : Instr.wf (.entryAdoption 0 false 1023) = true ∧ Instr.wf (.entryAdoption 0 false 1024) = false ∧
    Instr.wf (.entryAdoption 0 true 128) = false := by decide
theorem test_wf_bar2 : Instr.wf (.bar2TableWrite 0 0x100000000 [0]) = false ∧ Instr.wf (.bar2TableWrite 0 0 []) = false ∧
    Instr.wf (.bar2TableWrite 0 0 (List.replicate 65 0)) = false := by decide
theorem test_wf_queue : Instr.wf (.drop 0 65535) = true ∧ Instr.wf (.drop 0 65536) = false := by decide
theorem test_wf_command : Instr.wf (.nop { func := 63 }) = true ∧ Instr.wf (.nop { func := 64 }) = false := by decide
theorem test_wf_ranges : Instr.wf (.bwWindow 0 []) = false ∧ Instr.wf (.iecUnmute 0 0 16) = false ∧
    Instr.wf (.galFenceWrite 0 256 0) = false ∧ Instr.wf (.lateDryGuard 0 4 0) = false ∧ Instr.wf (.takeDelivery 0 3 0) = false ∧
    Instr.wf (.tallySkip 0 1024) = false ∧ Instr.wf (.dmaDone 0 0 4) = false ∧ Instr.wf (.faceImemWrite 0 0 0 0x10000 0) = false ∧
    Instr.wf (.retrainCheck 0 4 0 0) = false ∧ Instr.wf (.assaySelfTest 0 96 true) = false ∧
    Instr.wf (.canaryMeasure 0 48 0) = false ∧ Instr.wf (.applyBlockDone [true, true, true, true]) = false := by decide

/-! ## Examples of the manual -/

/-- Leg 0x0C05 is local index 5 of die 3 (04 example). -/
theorem test_leg_id : legDie 0x0C05 = 3 ∧ legIdx 0x0C05 = 5 ∧ legId 3 5 = 0x0C05 := by decide
/-- Conference 0x0085 is local index 5 of die 1 (07 example). -/
theorem test_conf_id : confDie 0x0085 = 1 ∧ confIdx 0x0085 = 5 ∧ confId 1 5 = 0x0085 := by decide
/-- Offset 1 MiB of staging slice 3 (19 example). -/
theorem test_staging_address : stageOf 0x61500000 = some (3, 0x100000) := by decide
/-- TIM_TXS_OVF[5] of die 6 (19 example). -/
theorem test_register_address : barRoute 0 0x030106B8 = some (6, 0x10000 + 0x0618 + 32 * 5) := by decide
/-- The pixel rate and the bandwidth of an HEVC stream of 1,920 × 1,080 at 30 fps with HALF (09 example). -/
theorem test_decode_load :
    decPix { maxW := 1920, maxH := 1080, maxFps := 30 } = 62668800 ∧
    decBw { maxW := 1920, maxH := 1080, maxFps := 30, half := true } = 440640000 := by decide
/-- Boundaries of a layout at 30 fps (10 example). -/
theorem test_picture_boundaries : pictureAt 30 1000033 = some 30001 ∧ pictureAt 30 1000034 = none ∧
    pictureAt 30 1000100 = some 30003 := by decide

/-! ## One step -/

/-- The outcome of a step with a command in front, as a property of the next state. -/
def after (c : Instr) (s : State) (p : State → Bool) : Bool :=
  match step { s with pending := [c] } with
  | .next t => p t
  | _ => false

/-- A fence moves on past 0xFFFFFFFF, and not back (10 R227). -/
theorem test_fence_wraps :
    after (.galFenceWrite 0 3 1) (withDie 0 fun x => { x with gal := { x.gal with fence := [(3, 0xFFFFFFFF)] } })
      (fun t => tget 0 (t.die 0).gal.fence 3 == 1) = true ∧
    after (.galFenceWrite 0 3 0xFFFFFFFF) (withDie 0 fun x => { x with gal := { x.gal with fence := [(3, 1)] } })
      (fun t => tget 0 (t.die 0).gal.fence 3 == 1) = true := by decide
/-- An episode of heat sets HOT once (17 R372). -/
theorem test_junction_hot :
    after (.junctionHot 1) State.reset (fun t => (t.die 1).pwr.event == 16 && (t.die 0).pwr.event == 0) = true := by decide
/-- LOG2_SIZE is clamped to 16 (17 R386). -/
theorem test_ovf_clamp : after (.errOvfCfgWrite 0 31) State.reset (fun t => (t.die 0).err.ovfLog2 == 16) = true := by decide
/-- RESET_N for less than 100 ns does nothing; for 10 µs it resets with KIND 1 (20 R416, 17 R377). -/
theorem test_pin_reset :
    after (.pinReset 99 true) { State.reset with uptime := 5 } (fun t => t.uptime == 5 && !t.pair.strap) = true ∧
    after (.pinReset 10000 true) { State.reset with uptime := 5 }
      (fun t => t.uptime == 0 && t.pair.strap && (t.die 1).pwr.causeKind == 1) = true := by decide
/-- A switch less than 100 MP ahead is rejected (16 R364). -/
theorem test_switch_reject :
    after (.switch 3) (pairState .active) (fun t => t.pair.switchReject && t.pair.switchAt.isNone) = true := by decide
/-- A command of a function with queues completes in the first slot with PHASE 1 (04 R92, R94). -/
theorem test_nop_completes :
    after (.nop { w0 := 0x0007000000000006 }) (hostState.modFq 0 fun q => { q with fetched := [{ w0 := 0x0007000000000006 }] })
      (fun t => (t.fq 0).cqTail == 1 && match t.out with
        | .completion 0 0 true c :: _ => c.tag == 7 && c.status == 0 && c.kind == 2
        | _ => false) = true := by decide
/-- A narrow register write is discarded with 0x1302 and its offset (00 R6). -/
theorem test_narrow_write :
    after (.registerWrite 0 0x60004 (.write 4 0)) State.reset (fun t => match tget none (t.die 0).err.ring 0 with
      | some r => r.code == 0x1302 && r.detail == 0x60004 && r.pinned
      | none => false) = true := by decide
/-- The word of POR's row decodes to nothing: the table gives its rows no bits. -/
theorem test_no_words : decodeTableWord 0 0 = none := rfl

end Sys2Proof.Tests
end

section
/-! SUPPORT. Every command answers a next state: one lemma per command that branches on what it looks up, then all commands
together. -/

namespace Sys2Proof.Laws

open Sys2Proof.Machine

/-- An outcome is a next state, neither a fault nor a refusal. -/
def Answers (o : Host.Outcome State Fault Refusal) : Prop := ∃ t, o = .next t

theorem answers_next (t : State) : Answers (.next t) := ⟨t, rfl⟩

section
variable {p : Prop} [Decidable p] {a b : Host.Outcome State Fault Refusal}

theorem answers_ite (ha : Answers a) (hb : Answers b) : Answers (if p then a else b) := by
  split <;> assumption

theorem answers_guard {t : State} (hb : Answers b) : Answers (if p then .next t else b) :=
  answers_ite (answers_next t) hb

theorem answers_branch {t u : State} : Answers (if p then .next t else .next u) :=
  answers_guard (answers_next u)

end

/-! ## The commands that look something up before they answer -/

theorem answers_execSlaveTimeExchange (die : Nat) (t1 t2 t3 t4 : BitVec 64) (s : State) :
    Answers (execSlaveTimeExchange die t1 t2 t3 t4 s) := by
  unfold execSlaveTimeExchange
  split
  · exact answers_branch
  · exact answers_next _

theorem answers_execSlaveOffsetError (die : Nat) (s : State) : Answers (execSlaveOffsetError die s) := by
  unfold execSlaveOffsetError
  dsimp only
  split
  · exact answers_next _
  · exact answers_branch

theorem answers_execPtpMessage (m : PtpMsg) (s : State) : Answers (execPtpMessage m s) := by
  unfold execPtpMessage
  refine answers_guard ?_
  split <;> exact answers_next _

theorem answers_execAnnounceReceiptTimeout (s : State) : Answers (execAnnounceReceiptTimeout s) := by
  unfold execAnnounceReceiptTimeout
  split
  · exact answers_next _
  · exact answers_branch

theorem answers_execPtpRequalify (s : State) : Answers (execPtpRequalify s) := by
  unfold execPtpRequalify
  refine answers_guard ?_
  split
  · exact answers_next _
  · exact answers_branch

theorem answers_execStepApply (s : State) : Answers (execStepApply s) := by
  unfold execStepApply
  split <;> exact answers_next _

theorem answers_execTriggerArm (die n : Nat) (v : Word) (s : State) : Answers (execTriggerArm die n v s) :=
  answers_guard (answers_guard (answers_ite answers_branch (answers_next _)))

theorem answers_execTriggerFire (die n : Nat) (s : State) : Answers (execTriggerFire die n s) := by
  unfold execTriggerFire
  split <;> exact answers_next _

theorem answers_execDramTrainingDone (die : Nat) (r : Training) (s : State) : Answers (execDramTrainingDone die r s) := by
  unfold execDramTrainingDone
  dsimp only
  split
  · refine answers_ite ?_ (answers_next _)
    split <;> exact answers_next _
  · exact answers_next _

theorem answers_execRestructureCheckDone (s : State) : Answers (execRestructureCheckDone s) := by
  unfold execRestructureCheckDone
  refine answers_guard ?_
  dsimp only
  split
  · exact answers_next _
  · exact answers_branch

theorem answers_execBar2StagingWrite (func off : Nat) (acc : StageAccess) (s : State) :
    Answers (execBar2StagingWrite func off acc s) := by
  unfold execBar2StagingWrite
  dsimp only
  split
  · exact answers_guard answers_branch
  · exact answers_branch

theorem answers_execEntryAdoption (die : Nat) (isConf : Bool) (idx : Nat) (s : State) :
    Answers (execEntryAdoption die isConf idx s) := by
  unfold execEntryAdoption
  dsimp only
  split <;> exact answers_next _

theorem answers_execMigrationStateSend (leg : BitVec 16) (s : State) : Answers (execMigrationStateSend leg s) := by
  unfold execMigrationStateSend
  split <;> exact answers_next _

theorem answers_execMigrationSwitch (leg : BitVec 16) (s : State) : Answers (execMigrationSwitch leg s) := by
  unfold execMigrationSwitch
  split
  · exact answers_next _
  · exact answers_branch

theorem answers_execConfRehomeSwitch (conf : BitVec 16) (s : State) : Answers (execConfRehomeSwitch conf s) := by
  unfold execConfRehomeSwitch
  split <;> exact answers_next _

theorem answers_execFrameReceive (die sub : Nat) (raw : BitVec 64) (f : Frame) (s : State) :
    Answers (execFrameReceive die sub raw f s) :=
  answers_guard (answers_guard (answers_guard (answers_guard (answers_guard (answers_guard (answers_guard
    (answers_guard (answers_guard answers_branch))))))))

theorem answers_execTagVerdict (die : Nat) (leg : BitVec 16) (v : Verdict) (s : State) :
    Answers (execTagVerdict die leg v s) := by
  unfold execTagVerdict
  split
  · exact answers_next _
  · exact answers_guard (answers_guard answers_branch)

theorem answers_execNackTimer (leg : BitVec 16) (seq : BitVec 16) (s : State) : Answers (execNackTimer leg seq s) := by
  unfold execNackTimer
  dsimp only
  split
  · exact answers_next _
  · exact answers_branch

theorem answers_execVideoFrameTimeout (leg : BitVec 16) (spatial : BitVec 2) (ts : BitVec 32) (s : State) :
    Answers (execVideoFrameTimeout leg spatial ts s) := by
  unfold execVideoFrameTimeout
  split
  · exact answers_next _
  · exact answers_branch

theorem answers_execRxGraceExpiry (leg : BitVec 16) (s : State) : Answers (execRxGraceExpiry leg s) := by
  unfold execRxGraceExpiry
  split <;> exact answers_next _

theorem answers_execCipLockAcquire (die : Nat) (ids : List Byte) (s : State) : Answers (execCipLockAcquire die ids s) := by
  unfold execCipLockAcquire
  refine answers_guard ?_
  dsimp only
  split
  · exact answers_next _
  · exact answers_branch

theorem answers_execBulkJobGo (die : Nat) (req : Byte) (v : Word) (s : State) : Answers (execBulkJobGo die req v s) := by
  unfold execBulkJobGo
  refine answers_guard (answers_guard (answers_guard (answers_guard (answers_guard (answers_guard (answers_guard
    ?_))))))
  refine answers_ite ?_ answers_branch
  split <;> exact answers_next _

theorem answers_execSafeLoadApply (die : Nat) (isConf : Bool) (idx : Nat) (s : State) :
    Answers (execSafeLoadApply die isConf idx s) := by
  unfold execSafeLoadApply
  dsimp only
  split
  · exact answers_branch
  · exact answers_next _

theorem answers_execTdmFsyncEdge (die p : Nat) (raw : BitVec 64) (s : State) : Answers (execTdmFsyncEdge die p raw s) := by
  unfold execTdmFsyncEdge
  refine answers_guard ?_
  split
  · exact answers_next _
  · exact answers_next _
  · refine answers_guard ?_
    split <;> exact answers_next _

theorem answers_execTdmClockLoss (die p : Nat) (s : State) : Answers (execTdmClockLoss die p s) := by
  unfold execTdmClockLoss
  refine answers_guard ?_
  split <;> exact answers_next _

theorem answers_execVideoFrameRelease (ctx : BitVec 16) (ts : BitVec 32) (s : State) :
    Answers (execVideoFrameRelease ctx ts s) := by
  unfold execVideoFrameRelease
  refine answers_guard (answers_guard (answers_guard ?_))
  split <;> exact answers_next _

theorem answers_execPictureDecodeDone (ctx : BitVec 16) (p : PicInfo) (s : State) :
    Answers (execPictureDecodeDone ctx p s) := by
  unfold execPictureDecodeDone
  dsimp only
  split <;> exact answers_next _

theorem answers_execPictureLate (ctx : BitVec 16) (pid : Nat) (s : State) : Answers (execPictureLate ctx pid s) := by
  unfold execPictureLate
  dsimp only
  split
  · exact answers_next _
  · exact answers_branch

theorem answers_execKeyframeGapEnd (leg : BitVec 16) (ssrc : BitVec 32) (s : State) :
    Answers (execKeyframeGapEnd leg ssrc s) := by
  unfold execKeyframeGapEnd
  split <;> exact answers_next _

theorem answers_execFlipEvaluate (die i : Nat) (atDeadline : Bool) (s : State) :
    Answers (execFlipEvaluate die i atDeadline s) := by
  unfold execFlipEvaluate
  dsimp only
  split
  · exact answers_next _
  · exact answers_branch

theorem answers_execTilePictureReceive (die i : Nat) (t : TilePic) (s : State) :
    Answers (execTilePictureReceive die i t s) := by
  unfold execTilePictureReceive
  split
  · exact answers_next _
  · exact answers_branch

theorem answers_execSeamStartWaitExpiry (leg : BitVec 16) (s : State) : Answers (execSeamStartWaitExpiry leg s) := by
  unfold execSeamStartWaitExpiry
  dsimp only
  split
  · exact answers_next _
  · split
    · exact answers_branch
    · exact answers_next _

theorem answers_execSeamIntraGapEnd (die i : Nat) (s : State) : Answers (execSeamIntraGapEnd die i s) := by
  unfold execSeamIntraGapEnd
  split
  · exact answers_next _
  · split <;> exact answers_next _

theorem answers_execLateDryGuard (ctx : BitVec 16) (rung row : Nat) (s : State) :
    Answers (execLateDryGuard ctx rung row s) := by
  unfold execLateDryGuard
  dsimp only
  split
  · exact answers_next _
  · exact answers_branch

theorem answers_execIntraGapEnd (ctx : BitVec 16) (rung : Nat) (s : State) : Answers (execIntraGapEnd ctx rung s) := by
  unfold execIntraGapEnd
  split
  · exact answers_next _
  · split <;> exact answers_next _

theorem answers_execRtcpReportTimer (leg : BitVec 16) (ssrc : Option (BitVec 32)) (s : State) :
    Answers (execRtcpReportTimer leg ssrc s) := by
  unfold execRtcpReportTimer
  refine answers_guard ?_
  split <;> exact answers_next _

theorem answers_execPacketDeparture (die sub : Nat) (s : State) : Answers (execPacketDeparture die sub s) := by
  unfold execPacketDeparture
  refine answers_guard ?_
  dsimp only
  split
  · exact answers_next _
  · split
    · exact answers_next _
    · split <;> exact answers_next _

theorem answers_execWaitDrop (leg : BitVec 16) (s : State) : Answers (execWaitDrop leg s) := by
  unfold execWaitDrop
  split <;> exact answers_next _

theorem answers_execRtxHoldExpiry (leg : BitVec 16) (s : State) : Answers (execRtxHoldExpiry leg s) := by
  unfold execRtxHoldExpiry
  split <;> exact answers_next _

theorem answers_execTakeDelivery (die cls core : Nat) (s : State) : Answers (execTakeDelivery die cls core s) := by
  unfold execTakeDelivery
  refine answers_ite ?_ ?_
  · split
    · exact answers_next _
    · split
      · exact answers_next _
      · exact answers_branch
  · refine answers_guard ?_
    dsimp only
    split <;> exact answers_next _

theorem answers_execStallTimeout (die : Nat) (src : BitVec 8) (s : State) : Answers (execStallTimeout die src s) := by
  unfold execStallTimeout
  split <;> exact answers_next _

theorem answers_execTallySkip (die flow : Nat) (s : State) : Answers (execTallySkip die flow s) := by
  unfold execTallySkip
  dsimp only
  split <;> exact answers_next _

theorem answers_execBundleIssue (die core : Nat) (s : State) : Answers (execBundleIssue die core s) := by
  unfold execBundleIssue
  refine answers_guard (answers_guard ?_)
  dsimp only
  split
  · exact answers_next _
  · exact answers_guard answers_branch

theorem answers_execDmaDone (die core ch : Nat) (s : State) : Answers (execDmaDone die core ch s) :=
  answers_guard (answers_ite answers_branch answers_branch)

theorem answers_execDramAccess (a : DramReq) (s : State) : Answers (execDramAccess a s) := by
  unfold execDramAccess
  refine answers_guard ?_
  refine answers_ite ?_ ?_
  · dsimp only
    split <;> exact answers_next _
  · dsimp only
    split
    · exact answers_next _
    · exact answers_branch

theorem answers_execPairRoleSettle (p : PeerSeen) (s : State) : Answers (execPairRoleSettle p s) := by
  unfold execPairRoleSettle
  refine answers_guard (answers_guard (answers_guard ?_))
  split
  · exact answers_next _
  · exact answers_next _
  · exact answers_ite answers_branch (answers_guard answers_branch)

theorem answers_execLedgerRecord (die : Nat) (r : LedgerRec) (s : State) : Answers (execLedgerRecord die r s) := by
  unfold execLedgerRecord
  refine answers_guard ?_
  dsimp only
  split <;> exact answers_next _

theorem answers_execLedgerFetch (die : Nat) (r : LedgerRec) (got : Option RxPacket) (s : State) :
    Answers (execLedgerFetch die r got s) := by
  unfold execLedgerFetch
  split
  · refine answers_guard ?_
    dsimp only
    split <;> exact answers_next _
  · exact answers_next _

theorem answers_execReseedInstall (leg : BitVec 16) (r : Option Reseed) (s : State) :
    Answers (execReseedInstall leg r s) := by
  unfold execReseedInstall
  refine answers_guard ?_
  split <;> exact answers_next _

theorem answers_execHeartbeatMiss (die : Nat) (s : State) : Answers (execHeartbeatMiss die s) := by
  unfold execHeartbeatMiss
  split
  · exact answers_next _
  · exact answers_guard answers_branch

theorem answers_execTakeoverBoundary (s : State) : Answers (execTakeoverBoundary s) := by
  unfold execTakeoverBoundary
  split <;> exact answers_next _

theorem answers_execAddressAnnouncement (s : State) : Answers (execAddressAnnouncement s) := by
  unfold execAddressAnnouncement
  split <;> exact answers_next _

theorem answers_execTakeoverCheck (bad : List (Nat × Nat)) (s : State) : Answers (execTakeoverCheck bad s) := by
  unfold execTakeoverCheck
  split <;> exact answers_next _

theorem answers_execPlannedSwitch (peerMp : BitVec 64) (s : State) : Answers (execPlannedSwitch peerMp s) := by
  unfold execPlannedSwitch
  split
  · split <;> exact answers_next _
  · exact answers_next _
  · exact answers_next _

theorem answers_execApply (s : State) : Answers (execApply s) := by
  unfold execApply
  refine answers_guard (answers_guard ?_)
  split <;> exact answers_next _

theorem answers_execApplyBlockDone (readback : List Bool) (s : State) : Answers (execApplyBlockDone readback s) := by
  unfold execApplyBlockDone
  refine answers_guard ?_
  split
  · exact answers_next _
  · dsimp only
    split
    · exact answers_next _
    · refine answers_ite ?_ answers_branch
      split
      · exact answers_next _
      · exact answers_branch

theorem answers_execCancel (s : State) : Answers (execCancel s) := by
  unfold execCancel
  refine answers_guard ?_
  split <;> exact answers_next _

theorem answers_execRegisterWrite (func off : Nat) (acc : RegAccess) (s : State) :
    Answers (execRegisterWrite func off acc s) := by
  unfold execRegisterWrite
  split <;> exact answers_next _

/-! ## Every command -/

/-- Every command answers a next state: at once, after its guards, or by the lemma on what it looks up. -/
theorem answers_exec (i : Instr) (s : State) : Answers (exec i s) := by
  cases i with
  | mpBoundary | slaveRemeasureDone | bwWindow | bar2TableWrite | sqTailWrite | cqHeadWrite | allocLeg | freeLeg |
    migrateLeg | rehomeConf | releaseHeld | keyAlloc | keyFree | keyUnwrap | keyGen | keyAgree | keyDerive |
    keyFinished | keyExportSrtp | keyCopy | keyRewrap | ownerEnroll | bulkJobDone | safeLoad | tdmOutputFetch |
    decOpen | decClose | decKeyreq | layoutAlloc | layoutFree | flip | fenceBind | encOpen | encClose | encRate |
    encKey | egressEnqueue | egrSend | run | stop | rowWindowEnd | sameBankRefresh | pairAliveInChange |
    peerFallbackNotice | por | soft | dieGo | lockstepStop | supplyReset | flr | perstN | errHeadWrite |
    errOvfCfgWrite | confirm | ptpSyncInterval | rngOkReturn | junctionEpisodeEnd | perstNRelease =>
    exact answers_next _
  | referenceEdge | frequencyWindowEnd | referenceStop | timRefRearm | esmcMessage | esmcTimeout | servoLock | timSnap
    | timTxsPop | triggerDisarm | timCapPop | timCapCfgWrite | timPtpCfgWrite | ppsOutPulse | restructureDrainStart |
    restructureResume | tableDoorbell | nop | unknownOpcode | queueCfgWrite | ingStrHeadWrite | ingStrCfgWrite |
    linkChange | lockPreempt | rngReseedFailure | tdmStop | tdmInputFrame | iecUnmute | galFenceWrite |
    feedbackTimeout | vendorCoreRestart | dramTemperatureRead | retrainCheck | patrolScrub | drop | digestSend |
    heartbeatSend | marginReplanDone | railWarning | braceExit | braceSustained | junctionHot | errClear |
    trialConfirmation | trialWindowExpiry | esmcTransmit | aditTimeExchange | braceAlarmClear =>
    exact answers_branch
  | ubhanLaneFailure | stepGoInitial | stepGo | restructureGo | restructureLateCheck | cipLockRelease |
    pictureBoundary | hstEnqWrite | faceImemWrite | queuePointerCheck | peerSearchTimeout | digestCompare |
    assaySelfTest | canaryMeasure | replan | braceEntry | pinReset | dieResetRejoin | activationReadinessCheck =>
    exact answers_guard answers_branch
  | captureEdge | bootLoad | legConfOwnerWrite | tdmPortCfgWrite | queueWrite | switch =>
    exact answers_guard (answers_guard answers_branch)
  | activate =>
    exact answers_guard (answers_guard (answers_guard answers_branch))
  | referenceQualified | synceRequalify =>
    exact answers_guard (answers_ite answers_branch (answers_next _))
  | slaveTimeExchange => exact answers_execSlaveTimeExchange _ _ _ _ _ s
  | slaveOffsetError => exact answers_execSlaveOffsetError _ s
  | ptpMessage => exact answers_execPtpMessage _ s
  | announceReceiptTimeout => exact answers_execAnnounceReceiptTimeout s
  | ptpRequalify => exact answers_execPtpRequalify s
  | stepApply => exact answers_execStepApply s
  | triggerArm => exact answers_execTriggerArm _ _ _ s
  | triggerFire => exact answers_execTriggerFire _ _ s
  | dramTrainingDone => exact answers_execDramTrainingDone _ _ s
  | restructureCheckDone => exact answers_execRestructureCheckDone s
  | bar2StagingWrite => exact answers_execBar2StagingWrite _ _ _ s
  | entryAdoption => exact answers_execEntryAdoption _ _ _ s
  | migrationStateSend => exact answers_execMigrationStateSend _ s
  | migrationSwitch => exact answers_execMigrationSwitch _ s
  | confRehomeSwitch => exact answers_execConfRehomeSwitch _ s
  | frameReceive => exact answers_execFrameReceive _ _ _ _ s
  | tagVerdict => exact answers_execTagVerdict _ _ _ s
  | nackTimer => exact answers_execNackTimer _ _ s
  | videoFrameTimeout => exact answers_execVideoFrameTimeout _ _ _ s
  | rxGraceExpiry => exact answers_execRxGraceExpiry _ s
  | cipLockAcquire => exact answers_execCipLockAcquire _ _ s
  | bulkJobGo => exact answers_execBulkJobGo _ _ _ s
  | safeLoadApply => exact answers_execSafeLoadApply _ _ _ s
  | tdmFsyncEdge => exact answers_execTdmFsyncEdge _ _ _ s
  | tdmClockLoss => exact answers_execTdmClockLoss _ _ s
  | videoFrameRelease => exact answers_execVideoFrameRelease _ _ s
  | pictureDecodeDone => exact answers_execPictureDecodeDone _ _ s
  | pictureLate => exact answers_execPictureLate _ _ s
  | keyframeGapEnd => exact answers_execKeyframeGapEnd _ _ s
  | flipEvaluate => exact answers_execFlipEvaluate _ _ _ s
  | tilePictureReceive => exact answers_execTilePictureReceive _ _ _ s
  | seamStartWaitExpiry => exact answers_execSeamStartWaitExpiry _ s
  | seamIntraGapEnd => exact answers_execSeamIntraGapEnd _ _ s
  | lateDryGuard => exact answers_execLateDryGuard _ _ _ s
  | intraGapEnd => exact answers_execIntraGapEnd _ _ s
  | rtcpReportTimer => exact answers_execRtcpReportTimer _ _ s
  | packetDeparture => exact answers_execPacketDeparture _ _ s
  | waitDrop => exact answers_execWaitDrop _ s
  | rtxHoldExpiry => exact answers_execRtxHoldExpiry _ s
  | takeDelivery => exact answers_execTakeDelivery _ _ _ s
  | stallTimeout => exact answers_execStallTimeout _ _ s
  | tallySkip => exact answers_execTallySkip _ _ s
  | bundleIssue => exact answers_execBundleIssue _ _ s
  | dmaDone => exact answers_execDmaDone _ _ _ s
  | dramAccess => exact answers_execDramAccess _ s
  | pairRoleSettle => exact answers_execPairRoleSettle _ s
  | ledgerRecord => exact answers_execLedgerRecord _ _ s
  | ledgerFetch => exact answers_execLedgerFetch _ _ _ s
  | reseedInstall => exact answers_execReseedInstall _ _ s
  | heartbeatMiss => exact answers_execHeartbeatMiss _ s
  | takeoverBoundary => exact answers_execTakeoverBoundary s
  | addressAnnouncement => exact answers_execAddressAnnouncement s
  | takeoverCheck => exact answers_execTakeoverCheck _ s
  | plannedSwitch => exact answers_execPlannedSwitch _ s
  | apply => exact answers_execApply s
  | applyBlockDone => exact answers_execApplyBlockDone _ s
  | cancel => exact answers_execCancel s
  | registerWrite => exact answers_execRegisterWrite _ _ _ s

end Sys2Proof.Laws
end

section
/-! SUPPORT. One step: which command it runs, that it answers, and what it keeps. -/

namespace Sys2Proof.Laws

open Sys2Proof.Machine

/-- What every command keeps: the commands that still wait, the package, and the canonical form of tables and queues. -/
theorem keeps_exec (i : Instr) (s : State) : ∀ t, exec i s = .next t → Keeps s t := by
  cases i with
  | mpBoundary => exact keeps_execMpBoundary _ s
  | ubhanLaneFailure => exact keeps_execUbhanLaneFailure _ _ s
  | slaveTimeExchange => exact keeps_execSlaveTimeExchange _ _ _ _ _ s
  | slaveRemeasureDone => exact keeps_execSlaveRemeasureDone _ s
  | slaveOffsetError => exact keeps_execSlaveOffsetError _ s
  | referenceEdge => exact keeps_execReferenceEdge _ _ s
  | frequencyWindowEnd => exact keeps_execFrequencyWindowEnd _ _ s
  | referenceStop => exact keeps_execReferenceStop _ s
  | referenceQualified => exact keeps_execReferenceQualified _ s
  | timRefRearm => exact keeps_execTimRefRearm _ s
  | ptpMessage => exact keeps_execPtpMessage _ s
  | announceReceiptTimeout => exact keeps_execAnnounceReceiptTimeout s
  | ptpRequalify => exact keeps_execPtpRequalify s
  | esmcMessage => exact keeps_execEsmcMessage _ s
  | esmcTimeout => exact keeps_execEsmcTimeout s
  | synceRequalify => exact keeps_execSynceRequalify s
  | servoLock => exact keeps_execServoLock s
  | stepGoInitial => exact keeps_execStepGoInitial s
  | stepGo => exact keeps_execStepGo s
  | stepApply => exact keeps_execStepApply s
  | timSnap => exact keeps_execTimSnap _ s
  | timTxsPop => exact keeps_execTimTxsPop _ _ s
  | triggerArm => exact keeps_execTriggerArm _ _ _ s
  | triggerDisarm => exact keeps_execTriggerDisarm _ _ _ s
  | triggerFire => exact keeps_execTriggerFire _ _ s
  | captureEdge => exact keeps_execCaptureEdge _ _ _ _ _ s
  | timCapPop => exact keeps_execTimCapPop _ _ s
  | timCapCfgWrite => exact keeps_execTimCapCfgWrite _ _ _ s
  | timPtpCfgWrite => exact keeps_execTimPtpCfgWrite _ s
  | ppsOutPulse => exact keeps_execPpsOutPulse s
  | bootLoad => exact keeps_execBootLoad s
  | dramTrainingDone => exact keeps_execDramTrainingDone _ _ s
  | bwWindow => exact keeps_execBwWindow _ _ s
  | restructureGo => exact keeps_execRestructureGo _ s
  | restructureCheckDone => exact keeps_execRestructureCheckDone s
  | restructureDrainStart => exact keeps_execRestructureDrainStart s
  | restructureLateCheck => exact keeps_execRestructureLateCheck s
  | restructureResume => exact keeps_execRestructureResume s
  | bar2TableWrite => exact keeps_execBar2TableWrite _ _ _ s
  | bar2StagingWrite => exact keeps_execBar2StagingWrite _ _ _ s
  | tableDoorbell => exact keeps_execTableDoorbell _ _ s
  | entryAdoption => exact keeps_execEntryAdoption _ _ _ s
  | sqTailWrite => exact keeps_execSqTailWrite _ _ _ s
  | cqHeadWrite => exact keeps_execCqHeadWrite _ _ s
  | allocLeg => exact keeps_execAllocLeg _ s
  | freeLeg => exact keeps_execFreeLeg _ s
  | migrateLeg => exact keeps_execMigrateLeg _ s
  | migrationStateSend => exact keeps_execMigrationStateSend _ s
  | migrationSwitch => exact keeps_execMigrationSwitch _ s
  | rehomeConf => exact keeps_execRehomeConf _ s
  | confRehomeSwitch => exact keeps_execConfRehomeSwitch _ s
  | releaseHeld => exact keeps_execReleaseHeld _ s
  | nop => exact keeps_execNop _ s
  | unknownOpcode => exact keeps_execUnknownOpcode _ s
  | legConfOwnerWrite => exact keeps_execLegConfOwnerWrite _ _ _ _ s
  | queueCfgWrite => exact keeps_execQueueCfgWrite _ _ _ s
  | frameReceive => exact keeps_execFrameReceive _ _ _ _ s
  | ingStrHeadWrite => exact keeps_execIngStrHeadWrite _ _ s
  | ingStrCfgWrite => exact keeps_execIngStrCfgWrite _ _ s
  | linkChange => exact keeps_execLinkChange _ _ _ s
  | tagVerdict => exact keeps_execTagVerdict _ _ _ s
  | nackTimer => exact keeps_execNackTimer _ _ s
  | videoFrameTimeout => exact keeps_execVideoFrameTimeout _ _ _ s
  | keyAlloc => exact keeps_execKeyAlloc _ s
  | keyFree => exact keeps_execKeyFree _ s
  | keyUnwrap => exact keeps_execKeyUnwrap _ s
  | keyGen => exact keeps_execKeyGen _ s
  | keyAgree => exact keeps_execKeyAgree _ s
  | keyDerive => exact keeps_execKeyDerive _ s
  | keyFinished => exact keeps_execKeyFinished _ s
  | keyExportSrtp => exact keeps_execKeyExportSrtp _ s
  | keyCopy => exact keeps_execKeyCopy _ s
  | keyRewrap => exact keeps_execKeyRewrap _ s
  | ownerEnroll => exact keeps_execOwnerEnroll _ s
  | rxGraceExpiry => exact keeps_execRxGraceExpiry _ s
  | cipLockAcquire => exact keeps_execCipLockAcquire _ _ s
  | cipLockRelease => exact keeps_execCipLockRelease _ _ s
  | lockPreempt => exact keeps_execLockPreempt _ s
  | bulkJobGo => exact keeps_execBulkJobGo _ _ _ s
  | bulkJobDone => exact keeps_execBulkJobDone _ s
  | rngReseedFailure => exact keeps_execRngReseedFailure _ s
  | safeLoad => exact keeps_execSafeLoad _ s
  | safeLoadApply => exact keeps_execSafeLoadApply _ _ _ s
  | tdmPortCfgWrite => exact keeps_execTdmPortCfgWrite _ _ _ s
  | tdmStop => exact keeps_execTdmStop _ _ s
  | tdmFsyncEdge => exact keeps_execTdmFsyncEdge _ _ _ s
  | tdmClockLoss => exact keeps_execTdmClockLoss _ _ s
  | tdmInputFrame => exact keeps_execTdmInputFrame _ _ _ _ s
  | iecUnmute => exact keeps_execIecUnmute _ _ _ s
  | tdmOutputFetch => exact keeps_execTdmOutputFetch _ _ s
  | decOpen => exact keeps_execDecOpen _ s
  | decClose => exact keeps_execDecClose _ s
  | decKeyreq => exact keeps_execDecKeyreq _ s
  | videoFrameRelease => exact keeps_execVideoFrameRelease _ _ s
  | pictureDecodeDone => exact keeps_execPictureDecodeDone _ _ s
  | pictureLate => exact keeps_execPictureLate _ _ s
  | keyframeGapEnd => exact keeps_execKeyframeGapEnd _ _ s
  | layoutAlloc => exact keeps_execLayoutAlloc _ s
  | layoutFree => exact keeps_execLayoutFree _ s
  | flip => exact keeps_execFlip _ s
  | fenceBind => exact keeps_execFenceBind _ s
  | flipEvaluate => exact keeps_execFlipEvaluate _ _ _ s
  | galFenceWrite => exact keeps_execGalFenceWrite _ _ _ s
  | pictureBoundary => exact keeps_execPictureBoundary _ _ _ _ s
  | tilePictureReceive => exact keeps_execTilePictureReceive _ _ _ s
  | seamStartWaitExpiry => exact keeps_execSeamStartWaitExpiry _ s
  | seamIntraGapEnd => exact keeps_execSeamIntraGapEnd _ _ s
  | encOpen => exact keeps_execEncOpen _ s
  | encClose => exact keeps_execEncClose _ s
  | encRate => exact keeps_execEncRate _ s
  | encKey => exact keeps_execEncKey _ s
  | lateDryGuard => exact keeps_execLateDryGuard _ _ _ s
  | intraGapEnd => exact keeps_execIntraGapEnd _ _ s
  | feedbackTimeout => exact keeps_execFeedbackTimeout _ s
  | rtcpReportTimer => exact keeps_execRtcpReportTimer _ _ s
  | egressEnqueue => exact keeps_execEgressEnqueue _ s
  | packetDeparture => exact keeps_execPacketDeparture _ _ s
  | waitDrop => exact keeps_execWaitDrop _ s
  | rtxHoldExpiry => exact keeps_execRtxHoldExpiry _ s
  | egrSend => exact keeps_execEgrSend _ s
  | hstEnqWrite => exact keeps_execHstEnqWrite _ _ _ s
  | takeDelivery => exact keeps_execTakeDelivery _ _ _ s
  | stallTimeout => exact keeps_execStallTimeout _ _ s
  | tallySkip => exact keeps_execTallySkip _ _ s
  | bundleIssue => exact keeps_execBundleIssue _ _ s
  | dmaDone => exact keeps_execDmaDone _ _ _ s
  | vendorCoreRestart => exact keeps_execVendorCoreRestart _ _ s
  | run => exact keeps_execRun _ _ _ s
  | stop => exact keeps_execStop _ _ _ s
  | faceImemWrite => exact keeps_execFaceImemWrite _ _ _ _ _ s
  | dramAccess => exact keeps_execDramAccess _ s
  | rowWindowEnd => exact keeps_execRowWindowEnd _ s
  | sameBankRefresh => exact keeps_execSameBankRefresh _ s
  | dramTemperatureRead => exact keeps_execDramTemperatureRead _ _ s
  | retrainCheck => exact keeps_execRetrainCheck _ _ _ _ s
  | patrolScrub => exact keeps_execPatrolScrub _ _ s
  | queueWrite => exact keeps_execQueueWrite _ _ _ _ s
  | drop => exact keeps_execDrop _ _ s
  | queuePointerCheck => exact keeps_execQueuePointerCheck _ _ _ s
  | pairRoleSettle => exact keeps_execPairRoleSettle _ s
  | peerSearchTimeout => exact keeps_execPeerSearchTimeout s
  | ledgerRecord => exact keeps_execLedgerRecord _ _ s
  | ledgerFetch => exact keeps_execLedgerFetch _ _ _ s
  | reseedInstall => exact keeps_execReseedInstall _ _ s
  | digestSend => exact keeps_execDigestSend _ _ _ s
  | digestCompare => exact keeps_execDigestCompare _ _ _ _ _ _ s
  | assaySelfTest => exact keeps_execAssaySelfTest _ _ _ s
  | heartbeatSend => exact keeps_execHeartbeatSend s
  | heartbeatMiss => exact keeps_execHeartbeatMiss _ s
  | takeoverBoundary => exact keeps_execTakeoverBoundary s
  | addressAnnouncement => exact keeps_execAddressAnnouncement s
  | takeoverCheck => exact keeps_execTakeoverCheck _ s
  | pairAliveInChange => exact keeps_execPairAliveInChange _ s
  | switch => exact keeps_execSwitch _ s
  | plannedSwitch => exact keeps_execPlannedSwitch _ s
  | peerFallbackNotice => exact keeps_execPeerFallbackNotice _ s
  | canaryMeasure => exact keeps_execCanaryMeasure _ _ _ s
  | replan => exact keeps_execReplan _ _ s
  | marginReplanDone => exact keeps_execMarginReplanDone _ _ s
  | railWarning => exact keeps_execRailWarning _ _ _ s
  | braceEntry => exact keeps_execBraceEntry _ _ s
  | braceExit => exact keeps_execBraceExit _ s
  | braceSustained => exact keeps_execBraceSustained _ s
  | junctionHot => exact keeps_execJunctionHot _ s
  | por => exact keeps_execPor s
  | pinReset => exact keeps_execPinReset _ _ s
  | soft => exact keeps_execSoft _ _ s
  | dieGo => exact keeps_execDieGo _ _ s
  | lockstepStop => exact keeps_execLockstepStop _ s
  | supplyReset => exact keeps_execSupplyReset _ _ s
  | flr => exact keeps_execFlr _ s
  | perstN => exact keeps_execPerstN s
  | dieResetRejoin => exact keeps_execDieResetRejoin _ s
  | errHeadWrite => exact keeps_execErrHeadWrite _ _ s
  | errClear => exact keeps_execErrClear _ _ s
  | errOvfCfgWrite => exact keeps_execErrOvfCfgWrite _ _ s
  | apply => exact keeps_execApply s
  | applyBlockDone => exact keeps_execApplyBlockDone _ s
  | activate => exact keeps_execActivate s
  | cancel => exact keeps_execCancel s
  | confirm => exact keeps_execConfirm s
  | activationReadinessCheck => exact keeps_execActivationReadinessCheck _ s
  | trialConfirmation => exact keeps_execTrialConfirmation s
  | trialWindowExpiry => exact keeps_execTrialWindowExpiry s
  | registerWrite => exact keeps_execRegisterWrite _ _ _ s
  | ptpSyncInterval => exact keeps_execPtpSyncInterval _ s
  | esmcTransmit => exact keeps_execEsmcTransmit s
  | aditTimeExchange => exact keeps_execAditTimeExchange _ _ _ _ s
  | rngOkReturn => exact keeps_execRngOkReturn _ s
  | braceAlarmClear => exact keeps_execBraceAlarmClear _ s
  | junctionEpisodeEnd => exact keeps_execJunctionEpisodeEnd _ s
  | perstNRelease => exact keeps_execPerstNRelease s

/-! ## Steps -/

theorem step_of_idle {s : State} (h : s.pending = []) : step s = .next (tick s) := by
  simp [step, h]

theorem step_of_waiting {c : Instr} {rest : List Instr} {s : State} (h : s.pending = c :: rest) :
    step s = exec c { s with pending := rest } := by
  simp [step, h]

theorem answers_step (s : State) : Answers (step s) := by
  cases h : s.pending with
  | nil => exact step_of_idle h ▸ answers_next _
  | cons c rest => exact step_of_waiting h ▸ answers_exec c _

/-- A step keeps what its command keeps of the state without that command; on an empty queue, what a tick keeps. -/
theorem keeps_step {s t : State} (h : step s = .next t) : Keeps { s with pending := s.pending.tail } t := by
  cases hp : s.pending with
  | nil =>
    have hs : { s with pending := [] } = s := by rw [← hp]
    rw [step_of_idle hp] at h
    obtain rfl := Host.Outcome.next.inj h
    simpa [hs] using keeps_tick s
  | cons c rest => exact keeps_exec c _ t (step_of_waiting hp ▸ h)

end Sys2Proof.Laws
end

section
/-! SUPPORT. A 64-bit word as eight bytes, the lowest first (04 R78): what is stored is what reads back. -/

namespace Sys2Proof.Laws

open Sys2Proof.Machine

@[simp] theorem length_leBytes (v n : Nat) : (leBytes v n).length = n := by
  induction n generalizing v with
  | zero => rfl
  | succ n ih => simp [leBytes, ih]

/-- Byte `i` of a number is its digit of weight 256 ^ i. -/
@[simp] theorem getElem_leBytes (v n i : Nat) (h : i < (leBytes v n).length) :
    (leBytes v n)[i] = BitVec.ofNat 8 (v / 256 ^ i) := by
  induction n generalizing v i with
  | zero => simp at h
  | succ n ih =>
    cases i with
    | zero => simp [leBytes]
    | succ i => simp [leBytes, ih, Nat.div_div_eq_div_mul, Nat.pow_succ']

/-- The bytes of a number spell what of it fits in them. -/
theorem leNat_leBytes (v n : Nat) : leNat (leBytes v n) = v % 256 ^ n := by
  induction n generalizing v with
  | zero => simp [leBytes, leNat, Nat.mod_one]
  | succ n ih => simp [leBytes, leNat, ih, Nat.pow_succ', Nat.mod_mul]

theorem leNat_leBytes_word (v : Word) : leNat (leBytes v.toNat 8) = v.toNat := by
  rw [leNat_leBytes]
  exact Nat.mod_eq_of_lt v.isLt

/-- A byte field of a word is its digit of that weight. -/
theorem extractLsb'_eq_digit (v : Word) (i : Nat) : v.extractLsb' (8 * i) 8 = BitVec.ofNat 8 (v.toNat / 256 ^ i) := by
  apply BitVec.eq_of_toNat_eq
  simp [BitVec.extractLsb'_toNat, Nat.shiftRight_eq_div_pow, Nat.pow_mul]

theorem map_extractLsb'_eq_leBytes (v : Word) :
    ((List.range 8).map fun i => v.extractLsb' (8 * i) 8) = leBytes v.toNat 8 :=
  List.ext_getElem (by simp) fun i _ _ => by simp [extractLsb'_eq_digit]

@[simp] theorem length_rdBytes (m : Mem) (a n : Nat) : (rdBytes m a n).length = n := by
  induction n generalizing a with
  | zero => rfl
  | succ n ih => simp [rdBytes, ih]

@[simp] theorem getElem_rdBytes (m : Mem) (a n i : Nat) (h : i < (rdBytes m a n).length) :
    (rdBytes m a n)[i] = rdByte m (a + i) := by
  induction n generalizing a i with
  | zero => simp at h
  | succ n ih =>
    cases i with
    | zero => simp [rdBytes]
    | succ i => simp [rdBytes, ih, Nat.add_assoc, Nat.add_comm 1]

/-- The eight bytes at the address of a stored word are the word's. -/
theorem rdBytes_wr64 (m : Mem) (a : Nat) (v : Word) (h : tabWf 0 m = true) :
    rdBytes (wr64 m a v) a 8 = leBytes v.toNat 8 := by
  simpa [wr64] using rdBytes_wrBytes m a (leBytes v.toNat 8) h

theorem rd64_wr64 (m : Mem) (a : Nat) (v : Word) (h : tabWf 0 m = true) : rd64 (wr64 m a v) a = v := by
  simp [rd64, rdBytes_wr64 m a v h, leNat_leBytes_word]

theorem rdByte_wr64 (m : Mem) (a : Nat) (v : Word) (i : Nat) (h : tabWf 0 m = true) (hi : i < 8) :
    rdByte (wr64 m a v) (a + i) = v.extractLsb' (8 * i) 8 := by
  have hb : (rdBytes (wr64 m a v) a 8)[i]'(by simpa using hi) = (leBytes v.toNat 8)[i]'(by simpa using hi) := by
    simp only [rdBytes_wr64 m a v h]
  simpa [extractLsb'_eq_digit] using hb

theorem rdByte_wr64_ne (m : Mem) (a : Nat) (v : Word) (x : Nat) (h : tabWf 0 m = true) (hx : x < a ∨ a + 8 ≤ x) :
    rdByte (wr64 m a v) x = rdByte m x :=
  rdByte_wrBytes_ne m a _ x h (by simpa using hx)

end Sys2Proof.Laws
end

section
/-! SUPPORT. Register accesses of BAR0 (00 R6, 19 R404): which register an offset names, and what a read or a write of it does. -/

namespace Sys2Proof.Laws

open Sys2Proof.Machine

theorem exec_registerWrite (func off width : Nat) (v : Word) (s : State) :
    exec (.registerWrite func off (.write width v)) s = .next (barWrite func off width v s) := rfl

theorem exec_registerRead (func off width : Nat) (s : State) :
    exec (.registerWrite func off (.read width)) s = .next (barRead func off width s) := rfl

/-! ## Which register an offset names -/

/-- An offset of the PF's BAR0 below the end of the die windows names that offset of that die's window. -/
theorem barRoute_window {d o : Nat} (hd : d < 8) (ho : o < 0x800000) : barRoute 0 (0x800000 * d + o) = some (d, o) := by
  have hlt : 0x800000 * d + o < 0x4000000 := by omega
  have hdiv : (0x800000 * d + o) / 0x800000 = d := by omega
  have hmod : (0x800000 * d + o) % 0x800000 = o := by omega
  simp [barRoute, isPf, hlt, hdiv, hmod]

theorem barRoute_beyond {off : Nat} (h : 0x4000000 ≤ off) : barRoute 0 off = none := by
  simp [barRoute, isPf, h]

theorem barReads_window {s : State} {d o : Nat} {w : Word} (hd : d < 8) (ho : o < 0x800000)
    (hr : windowReads s d o = some w) : barReads s 0 (0x800000 * d + o) = some (d, o, w) := by
  simp [barReads, barRoute_window hd ho, hr]

/-! ## What a whole access does -/

/-- A whole write by the PF to a register of a die's window is that window's write. -/
theorem barWrite_window {s : State} {d o : Nat} {w : Word} (v : Word) (hd : d < 8) (ho : o < 0x800000) (ha : o % 8 = 0)
    (hr : windowReads s d o = some w) : barWrite 0 (0x800000 * d + o) 8 v s = windowWrites 0 d o v s := by
  have hal : (0x800000 * d + o) % 8 = 0 := by omega
  simp [barWrite, wholeReg, hal, barReads_window hd ho hr]

/-- The bytes that the PF reads at a register's offset are the register's, the lowest first. -/
theorem barByte_window {s : State} {d o i : Nat} {w : Word} (hd : d < 8) (ho : o < 0x800000) (ha : o % 8 = 0)
    (hr : windowReads s d o = some w) (hi : i < 8) :
    barByte s 0 (0x800000 * d + o + i) = w.extractLsb' (8 * i) 8 := by
  have hreg : (0x800000 * d + o + i) / 8 * 8 = 0x800000 * d + o := by omega
  have hbyte : (0x800000 * d + o + i) % 8 = i := by omega
  simp [barByte, hreg, hbyte, barReads_window hd ho hr]

/-- A whole read by the PF of a register of a die's window returns the register's bytes, and clears what a read of it
clears unless structure state NONE silences its block. -/
theorem barRead_window {s : State} {d o : Nat} {w : Word} (hd : d < 8) (ho : o < 0x800000) (ha : o % 8 = 0)
    (hr : windowReads s d o = some w) : barRead 0 (0x800000 * d + o) 8 s =
      { (if blockOff s d o then s else readClears d o s) with readData := leBytes w.toNat 8 } := by
  have hal : (0x800000 * d + o) % 8 = 0 := by omega
  have hbytes : ((List.range 8).map fun i => barByte s 0 (0x800000 * d + o + i)) = leBytes w.toNat 8 := by
    rw [← map_extractLsb'_eq_leBytes]
    exact List.map_congr_left fun i hi => barByte_window hd ho ha hr (List.mem_range.mp hi)
  cases hb : blockOff s d o <;> simp [barRead, wholeReg, hal, barReads_window hd ho hr, hbytes, hb]

/-! ## Accesses that reach no register -/

theorem barWrite_narrow {off width : Nat} (func : Nat) (v : Word) (s : State) (h : width ≠ 8 ∨ off % 8 ≠ 0) :
    barWrite func off width v s = raiseFrom 0 (hostReq func) 0x1302 (BitVec.ofNat 64 off) s := by
  have hw : wholeReg off width = false := by
    simp only [wholeReg, Bool.and_eq_false_iff, beq_eq_false_iff_ne]
    exact h
  simp [barWrite, hw]

/-- A read that is not an aligned 64-bit one clears nothing. -/
theorem barRead_narrow {off width : Nat} (func : Nat) (s : State) (h : width ≠ 8 ∨ off % 8 ≠ 0) :
    barRead func off width s =
      { s with readData := (List.range (min width 8)).map fun (i : Nat) => barByte s func (off + i) } := by
  have hw : wholeReg off width = false := by
    simp only [wholeReg, Bool.and_eq_false_iff, beq_eq_false_iff_ne]
    exact h
  unfold barRead
  split <;> simp [hw]

theorem barWrite_beyond {off : Nat} (v : Word) (s : State) (h : 0x4000000 ≤ off) (ha : off % 8 = 0) :
    barWrite 0 off 8 v s = rangeError 0 0 s := by
  simp [barWrite, wholeReg, ha, barReads, barRoute_beyond h]

/-! ## Blocks that structure state NONE silences -/

theorem blockOff_running {s : State} {d : Nat} (o : Nat) (h : s.off d = false) : blockOff s d o = false := by
  simp [blockOff, h]

/-- A register of a die in the package that is not retired reads as its block's, or 0 while the block is silent. -/
theorem windowReads_of_block {s : State} {d o : Nat} {w : Word} (hd : s.hasDie d = true)
    (hc : (s.die d).cap.retired = false) (hb : blockReads s d o = some w) :
    windowReads s d o = some (if blockOff s d o then 0 else w) := by
  simp [windowReads, hd, hc, hb]

theorem windowWrites_silent {s : State} {d o : Nat} (f : Nat) (v : Word) (h : blockOff s d o = true) :
    windowWrites f d o v s = s := by
  simp [windowWrites, h]

/-! ## MIX_CTRL, MIX_EVENT, VEN_EVENT and MIX_CNT -/

theorem blockReads_mixCtrl (s : State) (d : Nat) :
    blockReads s d 0x60000 = some (put (s.die d).mix.actLevel 0 ||| put (s.die d).mix.relShift 8) := rfl

theorem blockReads_mixEvent (s : State) (d : Nat) : blockReads s d 0x60008 = some (put (s.die d).mix.event 0) := rfl

theorem blockReads_venEvent (s : State) (d : Nat) : blockReads s d 0xA0010 = some (put (s.die d).ven.event 0) := rfl

theorem windowWrites_mixCtrl {s : State} {d : Nat} (v : Word) (h : s.off d = false) :
    windowWrites 0 d 0x60000 v s = s.modDie d fun x => { x with mix := { x.mix with
      actLevel := fld v 0 7, relShift := clampF v 8 4 6 15 } } := by
  simp only [windowWrites, blockOff_running _ h]
  rfl

theorem windowWrites_mixEvent {s : State} {d : Nat} (v : Word) (h : s.off d = false) :
    windowWrites 0 d 0x60008 v s = s.modDie d fun x => { x with mix := { x.mix with
      event := w1c x.mix.event (fld v 0 3) } } := by
  simp only [windowWrites, blockOff_running _ h]
  rfl

theorem windowWrites_venEvent {s : State} {d : Nat} (v : Word) (h : s.off d = false) :
    windowWrites 0 d 0xA0010 v s = s.modDie d fun x => { x with ven := { x.ven with
      event := w1c x.ven.event (fld v 0 4) } } := by
  simp only [windowWrites, blockOff_running _ h]
  rfl

theorem regIdx_counter {base n k : Nat} (h : n < k) : regIdx base 8 k (base + 8 * n) = some n := by
  simp [regIdx, h]

/-- A list of registers that all lie below an offset does not name it. -/
theorem regAt_below {off b : Nat} {l : List (Nat × Word)} (hl : ∀ e ∈ l, e.1 < b) (hb : b ≤ off) : regAt off l = none := by
  induction l with
  | nil => rfl
  | cons e l ih =>
    obtain ⟨he, hrest⟩ := List.forall_mem_cons.mp hl
    have hne : e.1 ≠ off := by omega
    simp [regAt, hne, ih hrest]

theorem mixRd_cnt (s : State) (d : Nat) {n : Nat} (h : n < 6) :
    mixRd s d (0x0100 + 8 * n) = some (put (tget 0 (s.die d).mix.cnt n) 0) := by
  dsimp only [mixRd]
  rw [regAt_below (b := 0x0100) (by simp) (by omega)]
  simp [regArr, regIdx_counter h]

theorem blockReads_mixCnt (s : State) (d : Nat) {n : Nat} (h : n < 6) :
    blockReads s d (0x60100 + 8 * n) = some (put (tget 0 (s.die d).mix.cnt n) 0) := by
  have hblk : (0x60100 + 8 * n) / 0x10000 = 0x06 := by omega
  have hoff : (0x60100 + 8 * n) % 0x10000 = 0x0100 + 8 * n := by omega
  simp only [blockReads, hblk, hoff, mixRd_cnt s d h]

/-- Reading MIX_CNT `n` clears that counter and nothing else. -/
theorem readClears_mixCnt (s : State) {d n : Nat} (h : n < 6) :
    readClears d (0x60100 + 8 * n) s = s.modDie d fun x => { x with mix := { x.mix with cnt := tset 0 x.mix.cnt n 0 } } := by
  have hblk : (0x60100 + 8 * n) / 0x10000 = 0x06 := by omega
  have hoff : (0x60100 + 8 * n) % 0x10000 = 0x0100 + 8 * n := by omega
  have hpeak : 0x0100 + 8 * n ≠ 0x0020 := by omega
  unfold readClears
  simp [hblk, hoff, hpeak, clearAt, regIdx_counter h]

theorem toNat_put_zero {w : Nat} (c : BitVec w) (h : w ≤ 64) : (put c 0).toNat = c.toNat := by
  have : c.toNat < 2 ^ 64 := Nat.lt_of_lt_of_le c.isLt (Nat.pow_le_pow_right (by decide) h)
  simpa [put] using this

end Sys2Proof.Laws
end

section
/-! The obligations on the scope of the bridge: one step, what it keeps, words and register accesses (00 R1, R6, R8). -/

namespace Sys2Proof.Laws

open Sys2Proof.Machine Sys2Proof.Safety

/-- Settles O1: the queue's front decides what a step is. -/
theorem stepRunsFrontCommand : Obligations.StepRunsFrontCommand :=
  fun _ _ _ h => step_of_waiting h

/-- Settles O5: the reset state lists two dies, as a TRV6402 has, and no table byte or queue. -/
theorem resetIsLegal : Obligations.ResetIsLegal :=
  { dies := rfl, tables := rfl, queues := rfl }

/-- Settles O3: a tick is a next state, and so is the answer of every command. -/
theorem everyStepAnswersNext : Obligations.EveryStepAnswersNext :=
  answers_step

/-- Settles O4: a step keeps the rest of the queue, the variant and the number of dies. -/
theorem stepTakesOneCommand : Obligations.StepTakesOneCommand := by
  intro s t h
  obtain ⟨hpending, hdies, hvariant, -⟩ := keeps_step h
  exact ⟨hpending, hvariant, hdies⟩

/-- Settles O6: what a step keeps carries each clause of the invariant over. -/
theorem stepKeepsLegalState : Obligations.StepKeepsLegalState := by
  intro s t hs h
  obtain ⟨-, hdies, hvariant, htables, -, hqueues⟩ := keeps_step h
  exact {
    dies := by rw [hdies, hvariant]; exact hs.dies
    tables := htables hs.tables
    queues := hqueues hs.queues }

/-- Settles O8: a stored word's bytes are its digits of base 256, the lowest at its address. -/
theorem wordIsLittleEndian : Obligations.WordIsLittleEndian :=
  fun m a v h => ⟨rd64_wr64 m a v h, fun i hi => rdByte_wr64 m a v i h hi, fun x hx => rdByte_wr64_ne m a v x h hx⟩

/-- Settles O58: each access is followed to the register that its offset names, and there read or written. -/
theorem registerAccessesReachTheirFields : Obligations.RegisterAccessesReachTheirFields := by
  refine ⟨?narrow, ?outside, ?running, ?silent, ?counter⟩
  case narrow =>
    intro func off width v s h
    rw [exec_registerWrite, exec_registerRead, barWrite_narrow func v s h, barRead_narrow func s h]
    exact ⟨rfl, rfl⟩
  case outside =>
    intro off v s hoff hal
    rw [exec_registerWrite, barWrite_beyond v s hoff hal]
    exact ⟨_, rfl⟩
  case running =>
    intro d v s hd hhas ⟨hcap, hrun⟩
    have hwrite {o : Nat} {w : Word} (ho : o < 0x800000) (hal : o % 8 = 0) (hb : blockReads s d o = some w) :
        exec (.registerWrite 0 (0x800000 * d + o) (.write 8 v)) s = .next (windowWrites 0 d o v s) := by
      rw [exec_registerWrite, barWrite_window v hd ho hal (windowReads_of_block hhas hcap hb)]
    rw [hwrite (by decide) (by decide) (blockReads_mixCtrl s d), hwrite (by decide) (by decide) (blockReads_mixEvent s d),
      hwrite (by decide) (by decide) (blockReads_venEvent s d), windowWrites_mixCtrl v hrun, windowWrites_mixEvent v hrun,
      windowWrites_venEvent v hrun]
    exact ⟨rfl, rfl, rfl⟩
  case silent =>
    intro d v s hd hhas ⟨hcap, hoff⟩
    have hblk : blockOff s d 0x60000 = true := by simp [blockOff, hoff]
    have hr : windowReads s d 0x60000 = some 0 := by
      simp [windowReads_of_block hhas hcap (blockReads_mixCtrl s d), hblk]
    rw [exec_registerWrite, exec_registerRead, barWrite_window v hd (by decide) (by decide) hr,
      windowWrites_silent 0 v hblk, barRead_window hd (by decide) (by decide) hr, if_pos hblk]
    exact ⟨rfl, rfl⟩
  case counter =>
    intro d n s hd hn hhas ⟨hcap, hrun⟩
    have hr := windowReads_of_block hhas hcap (blockReads_mixCnt s d hn)
    simp only [blockOff_running _ hrun, Bool.false_eq_true, if_false] at hr
    rw [exec_registerRead, Nat.add_assoc, barRead_window hd (by omega) (by omega) hr,
      if_neg (by simp [blockOff_running _ hrun]), readClears_mixCnt s hn]
    refine ⟨_, rfl, ?_, ?_, rfl, fun e he => die_modDie_ne s d e _ he⟩
    · exact (leNat_leBytes_word _).trans (toNat_put_zero _ (by decide))
    · exact congrArg (·.mix.cnt) (die_modDie_self s d _ hhas)

end Sys2Proof.Laws
end

section
/-! SUPPORT. The time exchange of a slave die (02 R31, R32): what an exchange over given routes writes, when it writes nothing,
and how the report of an offset beyond 1 ns comes about. -/

namespace Sys2Proof.Laws

open Sys2Proof.Machine

/-- The die after an exchange that measured `ofs` and asked for the rate `rate`, at the instant `now` of the clock. -/
def measuredDie (ofs rate : Int) (now : BitVec 64) (x : Die) : Die :=
  { x with tim := { x.tim with
    offset := BitVec.ofInt 64 ofs, slaveErr := x.tim.slaveErr && decide (65536 < ofs.natAbs),
    beyondSince := if 65536 < ofs.natAbs then some (x.tim.beyondSince.getD now) else none,
    freqAdj := if x.tim.remeasuring then x.tim.freqAdj else BitVec.ofInt 40 rate } }

/-- The rate that an exchange asks for: the free value that it draws, held within the band about die 0's rate. -/
def exchangeRate (s : State) : Int :=
  clampI ((s.die 0).tim.freqAdj.toInt - slaveBand) ((s.die 0).tim.freqAdj.toInt + slaveBand) (Config.freeValue s.free).toInt

/-- A value held within a band about a centre lies no farther from it than the band. -/
theorem natAbs_clampI_sub_le {band : Nat} (c x : Int) : (clampI (c - band) (c + band) x - c).natAbs ≤ band := by
  unfold clampI
  omega

theorem exchangeRate_near (s : State) : (exchangeRate s - (s.die 0).tim.freqAdj.toInt).natAbs ≤ 109951162 :=
  natAbs_clampI_sub_le (band := 109951162) _ _

section
variable {die : Nat} {t1 t2 t3 t4 : BitVec 64} {s : State}

/-- An exchange of a slave die with slaving enabled, over routes both ways. -/
theorem exec_slaveTimeExchange_measures {p1 p2 p3 p4 : Nat} (hne : die ≠ 0) (hhas : s.hasDie die = true)
    (hen : (s.die die).tim.slaveEn = true) (h1 : leavingPort s die 0 = some p1) (h2 : arrivingPort s die 0 = some p2)
    (h3 : leavingPort s 0 die = some p3) (h4 : arrivingPort s 0 die = some p4) :
    exec (.slaveTimeExchange die t1 t2 t3 t4) s =
      .next ({ s with free := s.free + 1 }.modDie die (measuredDie
        (twoWay (s.dlyOf die (18 + p1)) (s.dlyOf 0 (18 + p2)) (s.dlyOf 0 (18 + p3)) (s.dlyOf die (18 + p4)) t1 t2 t3 t4)
        (exchangeRate s) s.clk)) := by
  have hgo : (die = 0 || !s.hasDie die || !(s.die die).tim.slaveEn) = false := by simp [hne, hhas, hen]
  change execSlaveTimeExchange die t1 t2 t3 t4 s = _
  simp only [execSlaveTimeExchange, h1, h2, h3, h4, hgo, Bool.false_eq_true, if_false, decide_eq_true_eq]
  rfl

/-- Die 0, and a die with slaving disabled, exchange nothing. -/
theorem exec_slaveTimeExchange_idle (h : die = 0 ∨ (s.die die).tim.slaveEn = false) :
    exec (.slaveTimeExchange die t1 t2 t3 t4) s = .next s := by
  have hstop : (die = 0 || !s.hasDie die || !(s.die die).tim.slaveEn) = true := by
    rcases h with h | h <;> simp [h]
  change execSlaveTimeExchange die t1 t2 t3 t4 s = _
  unfold execSlaveTimeExchange
  split
  · rw [if_pos hstop]
  · rfl

theorem exec_slaveRemeasureDone : exec (.slaveRemeasureDone die) s =
    .next (s.modDie die fun x => { x with tim := { x.tim with remeasuring := false } }) := rfl

/-- An offset that has been beyond 1 ns since an instant is reported where the rest of the 1 s has passed. -/
theorem exec_slaveOffsetError_reports {since : BitVec 64} (hne : die ≠ 0) (herr : (s.die die).tim.slaveErr = false)
    (hsince : (s.die die).tim.beyondSince = some since) :
    exec (.slaveOffsetError die) s = .next (raise die 0x0209 (s.die die).tim.offset
      ((s.advance ((unitsSec : Int) - stampDiff s.clk since).toNat).modDie die fun x =>
        { x with tim := { x.tim with slaveErr := true } })) := by
  change execSlaveOffsetError die s = _
  simp [execSlaveOffsetError, hsince, hne, herr]

theorem exec_slaveOffsetError_within (h : (s.die die).tim.beyondSince = none) : exec (.slaveOffsetError die) s = .next s := by
  change execSlaveOffsetError die s = _
  simp [execSlaveOffsetError, h]

end

end Sys2Proof.Laws
end

section
/-! The obligation on the slaving of dies to die 0 (02 R31, R32, R37). -/

namespace Sys2Proof.Laws

open Sys2Proof.Machine Sys2Proof.Safety

/-- Settles O13: an exchange writes what it measured, at a rate of the band; an offset that stays beyond 1 ns is reported. -/
theorem slaveDiesFollowDieZero : Obligations.SlaveDiesFollowDieZero := by
  refine ⟨?measures, fun _ _ _ _ _ _ h => exec_slaveTimeExchange_idle h, fun _ _ => exec_slaveRemeasureDone, ?reports,
    fun _ _ h => exec_slaveOffsetError_within h⟩
  case measures =>
    intro die p1 p2 p3 p4 t1 t2 t3 t4 s hne hhas hen h1 h2 h3 h4
    exact ⟨exchangeRate s, exchangeRate_near s, exec_slaveTimeExchange_measures hne hhas hen h1 h2 h3 h4⟩
  case reports =>
    intro die since s hne herr hsince
    exact exec_slaveOffsetError_reports hne herr hsince

end Sys2Proof.Laws
end

section
/-! SUPPORT. The failure of an Ubhan lane (01 R11, R14): what stays of a port that is changed, what the loss of a link changes on
the dies of its two ends, and that it does no more than begin a measurement on any other die. -/

namespace Sys2Proof.Laws

open Sys2Proof.Machine Sys2Proof.Safety

/-! ## Ports -/

/-- Port `p` of die `d`. -/
abbrev portOf (s : State) (d p : Nat) : Ubh := tget {} (s.die d).ubh p

theorem ubh_ne_default_of_unrouted {u : Ubh} (h : u.routed = false) : u ≠ {} := by
  rintro rfl
  cases h

theorem ubh_ne_default_of_spares {u : Ubh} (h : 2 ≤ u.spares.toNat) : u ≠ {} := by
  rintro rfl
  exact absurd h (by decide)

theorem portOf_modUbh_self {s : State} {d p : Nat} {f : Ubh → Ubh} (hd : s.hasDie d = true) (hf : f (portOf s d p) ≠ {}) :
    portOf (s.modUbh d p f) d p = f (portOf s d p) := by
  simp only [portOf, State.modUbh, die_modDie_self _ _ _ hd]
  exact tget_tset_of_ne _ _ _ _ hf

theorem portOf_modUbh_ne {s : State} {d e p : Nat} {f : Ubh → Ubh} (h : e ≠ d) :
    portOf (s.modUbh d p f) e p = portOf s e p := by
  simp only [portOf, State.modUbh, die_modDie_ne _ _ _ _ h]

@[simp] theorem hasDie_modUbh (s : State) (d p e : Nat) (f : Ubh → Ubh) : (s.modUbh d p f).hasDie e = s.hasDie e :=
  hasDie_modDie s d e _

/-- Marks a port as out of routing at both ends of its link. -/
def unlink (d e p : Nat) (s : State) : State :=
  (s.modUbh d p fun u => { u with routed := false }).modUbh e p fun u => { u with routed := false }

/-- Counts routes that moved off a port. -/
def countMoved (n d p : Nat) (s : State) : State := s.modUbh d p fun u => { u with reroute := u.reroute + BitVec.ofNat 32 n }

section
variable {s : State} {d e p : Nat}

theorem portOf_unlink_left (hne : d ≠ e) (hd : s.hasDie d = true) :
    portOf (unlink d e p s) d p = { portOf s d p with routed := false } := by
  rw [unlink, portOf_modUbh_ne hne, portOf_modUbh_self hd (ubh_ne_default_of_unrouted rfl)]

theorem portOf_unlink_right (hne : d ≠ e) (he : s.hasDie e = true) :
    portOf (unlink d e p s) e p = { portOf s e p with routed := false } := by
  rw [unlink, portOf_modUbh_self (by simpa using he) (ubh_ne_default_of_unrouted rfl), portOf_modUbh_ne hne.symm]

theorem portOf_countMoved_self {n : Nat} (hd : s.hasDie d = true) (h : (portOf s d p).routed = false) :
    portOf (countMoved n d p s) d p = { portOf s d p with reroute := (portOf s d p).reroute + BitVec.ofNat 32 n } :=
  portOf_modUbh_self hd (ubh_ne_default_of_unrouted h)

theorem portOf_countMoved_ne {n : Nat} (h : e ≠ d) : portOf (countMoved n d p s) e p = portOf s e p := portOf_modUbh_ne h

end

/-- The two ends of a link lie on different dies (Table 1.1). -/
theorem ne_ubhPeer (s : State) (d p : Nat) : d ≠ ubhPeer s d p := by
  have hxor {k : Nat} (hk : k ≠ 0) : d ≠ d ^^^ k := fun h => hk <|
    calc k = d ^^^ d ^^^ k := by rw [Nat.xor_self, Nat.zero_xor]
      _ = d ^^^ (d ^^^ k) := Nat.xor_assoc d d k
      _ = 0 := by rw [← h, Nat.xor_self]
  unfold ubhPeer ubhFar
  split
  · exact hxor (by decide)
  · exact hxor (by omega)
  · exact hxor (Nat.ne_of_gt (Nat.two_pow_pos p))

/-! ## Measuring anew -/

/-- `t` is `s` but for the dies that measure their offset anew. -/
def onlyRemeasures (s t : State) : Prop :=
  t = { s with dies := t.dies } ∧
  ∀ x, t.die x = { s.die x with tim := { (s.die x).tim with remeasuring := (t.die x).tim.remeasuring } }

theorem onlyRemeasures_modDie (s : State) (d : Nat) :
    onlyRemeasures s (s.modDie d fun x => { x with tim := { x.tim with remeasuring := true } }) := by
  refine ⟨rfl, fun x => ?_⟩
  rw [die_modDie]
  split
  · next h => rw [h.1]
  · rfl

theorem onlyRemeasures_trans {s t u : State} (h : onlyRemeasures s t) (k : onlyRemeasures t u) : onlyRemeasures s u := by
  obtain ⟨hrest, hdie⟩ := h
  obtain ⟨krest, kdie⟩ := k
  exact ⟨by rw [krest, hrest], fun x => by rw [kdie x, hdie x]⟩

/-- Some dies measure their offset anew (02 R32). -/
def measureAnew (l : List Nat) (s : State) : State :=
  forAll l (fun x u => u.modDie x fun y => { y with tim := { y.tim with remeasuring := true } }) s

theorem onlyRemeasures_measureAnew (l : List Nat) (s : State) : onlyRemeasures s (measureAnew l s) := by
  induction l generalizing s with
  | nil => exact ⟨rfl, fun _ => rfl⟩
  | cons x l ih => exact onlyRemeasures_trans (onlyRemeasures_modDie s x) (ih _)

theorem portOf_measureAnew (l : List Nat) (s : State) (d p : Nat) : portOf (measureAnew l s) d p = portOf s d p := by
  rw [portOf, (onlyRemeasures_measureAnew l s).2 d]

/-! ## What a change at the two ends of a link leaves alone -/

/-- No capacity of `y` is above that of `x`. -/
def capWithin (x y : Die) : Prop := y.cap.legs ≤ x.cap.legs ∧ y.cap.confs ≤ x.cap.confs

theorem capWithin_of_eq {x y : Die} (h : y.cap = x.cap) : capWithin x y := by
  rw [capWithin, h]
  exact ⟨BitVec.le_refl _, BitVec.le_refl _⟩

theorem capWithin_trans {x y z : Die} (h : capWithin x y) (k : capWithin y z) : capWithin x z :=
  ⟨BitVec.le_trans k.1 h.1, BitVec.le_trans k.2 h.2⟩

/-- `t` is `s` but for the dies `a` and `b`, other dies that measure anew, what goes out and the free values drawn; no capacity
rises. -/
def endsOnly (a b : Nat) (s t : State) : Prop :=
  t = { s with dies := t.dies, out := t.out, free := t.free } ∧ (∀ x, capWithin (s.die x) (t.die x)) ∧
  ∀ x, x ≠ a → x ≠ b → t.die x = { s.die x with tim := { (s.die x).tim with remeasuring := (t.die x).tim.remeasuring } }

section
variable {a b : Nat} {s t u : State}

theorem ne_end {d x : Nat} (hd : d = a ∨ d = b) (ha : x ≠ a) (hb : x ≠ b) : x ≠ d := by
  rintro rfl
  exact hd.elim ha hb

theorem endsOnly_trans (h : endsOnly a b s t) (k : endsOnly a b t u) : endsOnly a b s u := by
  obtain ⟨hrest, hcap, hdie⟩ := h
  obtain ⟨krest, kcap, kdie⟩ := k
  exact ⟨by rw [krest, hrest], fun x => capWithin_trans (hcap x) (kcap x),
    fun x ha hb => by rw [kdie x ha hb, hdie x ha hb]⟩

/-- A change of one of the two dies that raises no capacity. -/
theorem endsOnly_modDie {d : Nat} {f : Die → Die} (s : State) (hd : d = a ∨ d = b) (hcap : ∀ x, capWithin x (f x)) :
    endsOnly a b s (s.modDie d f) := by
  refine ⟨rfl, fun x => ?_, fun x ha hb => ?_⟩
  · rw [die_modDie]
    split
    · next h => exact h.1 ▸ hcap _
    · exact capWithin_of_eq rfl
  · rw [die_modDie_ne _ _ _ _ (ne_end hd ha hb)]

theorem endsOnly_modUbh {d : Nat} (p : Nat) (f : Ubh → Ubh) (s : State) (hd : d = a ∨ d = b) :
    endsOnly a b s (s.modUbh d p f) :=
  endsOnly_modDie s hd fun _ => capWithin_of_eq rfl

theorem endsOnly_draw (s : State) : endsOnly a b s (draw s).2 := ⟨rfl, fun _ => capWithin_of_eq rfl, fun _ _ _ => rfl⟩

theorem endsOnly_of_onlyRemeasures (h : onlyRemeasures s t) : endsOnly a b s t := by
  obtain ⟨hrest, hdie⟩ := h
  exact ⟨by rw [hrest], fun x => capWithin_of_eq (by rw [hdie x]), fun x _ _ => hdie x⟩

theorem endsOnly_of_onlyLog {d : Nat} (hd : d = a ∨ d = b) (h : onlyLog d s t) : endsOnly a b s t := by
  obtain ⟨hrest, -, hdie⟩ := h
  refine ⟨by rw [hrest], fun x => capWithin_of_eq (by rw [hdie x]; split <;> rfl), fun x ha hb => ?_⟩
  rw [hdie x, if_neg (ne_end hd ha hb)]

theorem endsOnly_ubhPeer (h : endsOnly a b s t) (d p : Nat) : ubhPeer t d p = ubhPeer s d p := by
  rw [h.1]
  rfl

end

/-! ## The report of an end: its capacity falls and error 0x100B is raised -/

/-- A report with a free detail is a report with the next free value as its detail. -/
theorem onlyLog_raiseAny (d : Nat) (src : Byte) (code : BitVec 16) (s : State) :
    onlyLog d (draw s).2 (raiseAny d src code s) :=
  onlyLog_raiseFrom d src code _ _

@[simp] theorem die_raiseAny_ubh (d : Nat) (src : Byte) (code : BitVec 16) (s : State) (x : Nat) :
    ((raiseAny d src code s).die x).ubh = (s.die x).ubh := by
  obtain ⟨-, -, hdie⟩ := onlyLog_raiseAny d src code s
  rw [hdie x]
  split <;> rfl

/-- A remainder by one more than a field is no more than the field. -/
theorem ofNat_mod_succ_le {w : Nat} (v : BitVec w) (n : Nat) : BitVec.ofNat w (n % (v.toNat + 1)) ≤ v := by
  have hle : n % (v.toNat + 1) ≤ v.toNat := Nat.le_of_lt_succ (Nat.mod_lt _ (Nat.succ_pos _))
  rw [BitVec.le_def, BitVec.toNat_ofNat]
  exact Nat.le_trans (Nat.mod_le _ _) hle

theorem endsOnly_lowerCapacity {a b d : Nat} (s : State) (hd : d = a ∨ d = b) : endsOnly a b s (lowerCapacity d s) :=
  endsOnly_trans (endsOnly_draw s) (endsOnly_trans
    (endsOnly_modDie _ hd fun _ => ⟨ofNat_mod_succ_le _ _, ofNat_mod_succ_le _ _⟩)
    (endsOnly_modDie _ hd fun _ => capWithin_of_eq rfl))

theorem die_modDie_ubh {d : Nat} {f : Die → Die} (s : State) (hf : ∀ y, (f y).ubh = y.ubh) (x : Nat) :
    ((s.modDie d f).die x).ubh = (s.die x).ubh := by
  rw [die_modDie]
  split
  · next h => rw [hf, h.1]
  · rfl

@[simp] theorem die_lowerCapacity_ubh (d : Nat) (s : State) (x : Nat) :
    ((lowerCapacity d s).die x).ubh = (s.die x).ubh := by
  refine (die_modDie_ubh _ ?_ x).trans (die_modDie_ubh (draw s).2 ?_ x)
  · exact fun _ => rfl
  · exact fun _ => rfl

/-- What an end of a lost link reports. -/
def reportEnd (d : Nat) (s : State) : State := raiseAny d dukenCheck 0x100B (lowerCapacity d s)

theorem endsOnly_reportEnd {a b d : Nat} (s : State) (hd : d = a ∨ d = b) : endsOnly a b s (reportEnd d s) :=
  endsOnly_trans (endsOnly_lowerCapacity s hd) (endsOnly_trans (endsOnly_draw _)
    (endsOnly_of_onlyLog hd (onlyLog_raiseAny d dukenCheck 0x100B _)))

theorem portOf_reportEnd (d : Nat) (s : State) (x p : Nat) : portOf (reportEnd d s) x p = portOf s x p := by
  simp [portOf, reportEnd]

/-! ## A link leaves routing -/

/-- The counts and the measurements that follow the loss of a link. -/
theorem takeOut_eq (d p : Nat) (s : State) : ∃ n m, ∃ l : List Nat, takeOut d p s =
    measureAnew l (countMoved m (ubhPeer s d p) p (countMoved n d p (unlink d (ubhPeer s d p) p s))) :=
  ⟨_, _, _, rfl⟩

section
variable {s : State} {d p : Nat}

theorem endsOnly_takeOut : endsOnly d (ubhPeer s d p) s (takeOut d p s) := by
  obtain ⟨n, m, l, h⟩ := takeOut_eq d p s
  rw [h]
  have hunlink : endsOnly d (ubhPeer s d p) s (unlink d (ubhPeer s d p) p s) :=
    endsOnly_trans (endsOnly_modUbh p _ s (.inl rfl)) (endsOnly_modUbh p _ _ (.inr rfl))
  have hcount : endsOnly d (ubhPeer s d p) _ (countMoved m (ubhPeer s d p) p (countMoved n d p (unlink d (ubhPeer s d p) p s))) :=
    endsOnly_trans (endsOnly_modUbh p _ _ (.inl rfl)) (endsOnly_modUbh p _ _ (.inr rfl))
  exact endsOnly_trans hunlink (endsOnly_trans hcount (endsOnly_of_onlyRemeasures (onlyRemeasures_measureAnew l _)))

/-- At the end that is named, the port leaves routing and may count routes. -/
theorem portOf_takeOut_near (hd : s.hasDie d = true) :
    ∃ r, portOf (takeOut d p s) d p = { portOf s d p with routed := false, reroute := r } := by
  obtain ⟨n, m, l, h⟩ := takeOut_eq d p s
  have hne : d ≠ ubhPeer s d p := ne_ubhPeer s d p
  have hnear := portOf_unlink_left (p := p) hne hd
  refine ⟨(portOf s d p).reroute + BitVec.ofNat 32 n, ?_⟩
  rw [h, portOf_measureAnew, portOf_countMoved_ne hne, portOf_countMoved_self (by simpa [unlink] using hd) (by rw [hnear]),
    hnear]

/-- So does it at the far end. -/
theorem portOf_takeOut_far (he : s.hasDie (ubhPeer s d p) = true) :
    (portOf (takeOut d p s) (ubhPeer s d p) p).routed = false := by
  obtain ⟨n, m, l, h⟩ := takeOut_eq d p s
  have hne : d ≠ ubhPeer s d p := ne_ubhPeer s d p
  have hfar : portOf (countMoved n d p (unlink d (ubhPeer s d p) p s)) (ubhPeer s d p) p =
      { portOf s (ubhPeer s d p) p with routed := false } :=
    (portOf_countMoved_ne hne.symm).trans (portOf_unlink_right hne he)
  rw [h, portOf_measureAnew, portOf_countMoved_self (by simpa [countMoved, unlink] using he) (by rw [hfar]), hfar]

end

/-! ## UBHAN_LANE_FAILURE -/

/-- A lane of a port fails with no spare left. -/
def loseLane (d p : Nat) (s : State) : State :=
  s.modUbh d p fun u => { u with lanes := if u.up then u.lanes - 1 else u.lanes }

theorem portOf_loseLane {s : State} {d p : Nat} (hd : s.hasDie d = true) (hs : 2 ≤ (portOf s d p).spares.toNat) :
    portOf (loseLane d p s) d p =
      { portOf s d p with lanes := (portOf s d p).lanes - if (portOf s d p).up then 1 else 0 } := by
  rw [loseLane, portOf_modUbh_self hd (ubh_ne_default_of_spares hs)]
  cases h : (portOf s d p).up <;> simp [h]

/-- The bridge after the failure of a lane of a port without spares: the link leaves routing, and each end reports it. -/
def loseLink (d p : Nat) (s : State) : State :=
  reportEnd (ubhPeer s d p) (reportEnd d (takeOut d p (loseLane d p s)))

theorem endsOnly_loseLink (d p : Nat) (s : State) : endsOnly d (ubhPeer s d p) s (loseLink d p s) :=
  endsOnly_trans (endsOnly_modUbh p _ s (.inl rfl)) (endsOnly_trans (endsOnly_takeOut (s := loseLane d p s))
    (endsOnly_trans (endsOnly_reportEnd _ (.inl rfl)) (endsOnly_reportEnd _ (.inr rfl))))

theorem portOf_loseLink (d p : Nat) (s : State) (x : Nat) :
    portOf (loseLink d p s) x p = portOf (takeOut d p (loseLane d p s)) x p := by
  rw [loseLink, portOf_reportEnd, portOf_reportEnd]

section
variable {die port : Nat} {s : State}

/-- A port in routing of a die of the package is one whose lanes can fail. -/
theorem lane_guard {u : Ubh} (hd : s.hasDie die = true) (hp : port < 3) (hr : u.routed = true) :
    ¬ (!s.hasDie die || decide (3 ≤ port) || !u.routed) = true := by
  simp [hd, hp, hr]

/-- While a spare lane is left it takes over, which is reported. -/
theorem exec_ubhanLaneFailure_spare (hd : s.hasDie die = true) (hp : port < 3) (hr : (portOf s die port).routed = true)
    (hs : (portOf s die port).spares.toNat < 2) : exec (.ubhanLaneFailure die port) s =
      .next (raiseAny die dukenCheck 0x100A (s.modUbh die port fun u => { u with spares := u.spares + 1 })) := by
  change execUbhanLaneFailure die port s = _
  unfold execUbhanLaneFailure
  rw [if_neg (lane_guard hd hp hr), if_pos hs]

theorem exec_ubhanLaneFailure_link (hd : s.hasDie die = true) (hp : port < 3) (hr : (portOf s die port).routed = true)
    (hs : 2 ≤ (portOf s die port).spares.toNat) : exec (.ubhanLaneFailure die port) s = .next (loseLink die port s) := by
  have hpeer : ubhPeer (takeOut die port (loseLane die port s)) die port = ubhPeer s die port :=
    endsOnly_ubhPeer endsOnly_takeOut die port
  rw [loseLink, ← hpeer]
  change execUbhanLaneFailure die port s = _
  unfold execUbhanLaneFailure
  rw [if_neg (lane_guard hd hp hr), if_neg (Nat.not_lt.mpr hs)]
  rfl

theorem exec_ubhanLaneFailure_unrouted (h : (portOf s die port).routed = false) :
    exec (.ubhanLaneFailure die port) s = .next s := by
  change execUbhanLaneFailure die port s = _
  unfold execUbhanLaneFailure
  exact if_pos (by rw [h, Bool.not_false, Bool.or_true])

end

end Sys2Proof.Laws
end

section
/-! The obligation on the failure of Ubhan lanes (01 R11, R14, 02 R32). -/

namespace Sys2Proof.Laws

open Sys2Proof.Machine Sys2Proof.Safety

/-- Settles O22: a spare takes over; without one the link leaves routing and both ends report it. -/
theorem laneFailureTakesASpare : Obligations.LaneFailureTakesASpare := by
  refine ⟨?spare, ?link, fun _ _ _ h => exec_ubhanLaneFailure_unrouted h⟩
  case spare =>
    intro die port s hd hp hr hs
    exact ⟨_, exec_ubhanLaneFailure_spare hd hp hr hs⟩
  case link =>
    intro die port s hd he hp hr hs
    obtain ⟨hrest, hcap, hothers⟩ := endsOnly_loseLink die port s
    refine ⟨_, exec_ubhanLaneFailure_link hd hp hr hs, ?near, ?far, fun e _ => hcap e, hrest, hothers⟩
    case near =>
      obtain ⟨r, hnear⟩ := portOf_takeOut_near (p := port) (s := loseLane die port s) (by simpa [loseLane] using hd)
      change portOf (loseLink die port s) die port = { portOf s die port with
        routed := false
        lanes := (portOf s die port).lanes - if (portOf s die port).up then 1 else 0
        reroute := (portOf (loseLink die port s) die port).reroute }
      rw [portOf_loseLink, hnear, portOf_loseLane hd hs]
    case far =>
      change (portOf (loseLink die port s) (ubhPeer s die port) port).routed = false
      rw [portOf_loseLink]
      exact portOf_takeOut_far (s := loseLane die port s) ((hasDie_modUbh s die port _ _).trans he)

end Sys2Proof.Laws
end

section
/-! The obligation on revoked owner keys (03 R60, 06 R144). -/

namespace Sys2Proof.Laws

open Sys2Proof.Machine Sys2Proof.Safety

/-- Settles O7: a blown revocation fuse is among what a step keeps. -/
theorem revokedKeysStayRevoked : Obligations.RevokedKeysStayRevoked := by
  intro s t k h hk
  obtain ⟨-, -, -, -, hrevoked, -⟩ := keeps_step h
  exact hrevoked k hk

end Sys2Proof.Laws
end

section
/-! SUPPORT. A bandwidth window in which one class asks (03 R65, R68): what it finds of its own and of the shared allocations,
what it is granted, and what waits. -/

namespace Sys2Proof.Laws

open Sys2Proof.Machine

/-- Bytes of a 1 µs window that entry `k` of DIE_BW_ALLOC allocates: 100 for each unit of 100 MB/s. -/
def windowBytes (s : State) (d k : Nat) : Nat := 100 * (tget 0 (s.die d).str.bwAlloc k).toNat

/-- What is left of allocations from which one taker takes, together with what it took, is the whole of them. -/
theorem sum_sub_single (a : Nat → Nat) (c n m : Nat) :
    ((List.range m).map fun k => a k - if k = c then n else 0).sum + (if c < m then min n (a c) else 0) =
      ((List.range m).map a).sum := by
  induction m with
  | zero => simp
  | succ m ih =>
    simp only [List.range_succ, List.map_append, List.sum_append, List.map_singleton, List.sum_singleton]
    rcases Nat.lt_trichotomy c m with h | h | h
    · simp only [h, Nat.lt_succ_of_lt h, if_true, Nat.ne_of_gt h, if_false] at ih ⊢
      omega
    · subst h
      simp only [Nat.lt_irrefl, Nat.lt_succ_self, if_true, if_false] at ih ⊢
      omega
    · simp only [Nat.not_lt.mpr (Nat.le_of_lt h), Nat.not_lt.mpr (Nat.succ_le_of_lt h), if_false, Nat.ne_of_lt h] at ih ⊢
      omega

/-- The first grant of a window, to class `c` that asks for `n` bytes and finds `total` of its own and shared ones. -/
theorem grantOne_lone {g : BwGrant} {c n total : Nat} (hw : g.waits = []) (hg : g.granted = List.replicate 7 0)
    (htotal : g.shared + min n (g.own.getD c 0) = total) :
    (grantOne g (c, n)).granted = (List.replicate 7 0).modify c (· + min n total) ∧
      (grantOne g (c, n)).waits = if total < n then [(c, n - total)] else [] := by
  have hsum : min n (g.own.getD c 0) + min (n - min n (g.own.getD c 0)) g.shared = min n total := by omega
  have hwait : (min n total < n) = (total < n) := propext (by omega)
  have hrest : total < n → n - min n total = n - total := by omega
  refine ⟨by simp only [grantOne, hg, hsum], ?_⟩
  simp only [grantOne, hsum, hw, List.nil_append, hwait]
  split
  · next h => rw [hrest h]
  · rfl

theorem getD_modify_replicate {m c x : Nat} (hc : c < m) (k : Nat) :
    ((List.replicate m 0).modify c (· + x)).getD k 0 = if k = c then x else 0 := by
  by_cases h : k = c
  · subst h
    simp [List.getD_eq_getElem?_getD, hc]
  · by_cases hk : k < m <;> simp [List.getD_eq_getElem?_getD, h, Ne.symm h, hk]

/-- What a window has to grant: each class its own allocation; the reserve, and what no class asks of its own, to all. -/
def windowStart (s : State) (d : Nat) (reqs : List (Nat × Nat)) : BwGrant :=
  let own := (List.range 7).map (windowBytes s d)
  let asked (k : Nat) : Nat := ((reqs.filter (·.1 == k)).map (·.2)).foldl (· + ·) 0
  { own := own
    shared := windowBytes s d 7 + ((List.range 7).map fun k => own.getD k 0 - asked k).foldl (· + ·) 0
    granted := List.replicate 7 0
    waits := [] }

/-- A die after a window with the grant `g`. -/
def afterWindow (g : BwGrant) (x : Die) : Die :=
  { x with
    str := { x.str with
      bwMoved := (List.range 7).foldl (fun t k => tmod 0 t k (· + g.granted.getD k 0)) x.str.bwMoved
      bwOver := ((g.waits.map (·.1)).eraseDups).foldl bump x.str.bwOver }
    drc := { x.drc with
      bwWait := g.waits
      bwWindow := (List.range 7).foldl (fun t k => tset 0 t k (g.granted.getD k 0)) [] } }

theorem exec_bwWindow (die : Nat) (demand : List (Nat × Nat)) (s : State) : exec (.bwWindow die demand) s =
    let reqs := ((s.die die).drc.bwWait ++ demand).filter fun r => decide (r.1 < 7)
    let g := reqs.foldl grantOne (windowStart s die reqs)
    .next (drainTrace die (g.granted.getD 6 0 / 32) (s.modDie die (afterWindow g))) := rfl

/-! ## A lone class -/

section
variable {s : State} {d c n : Nat}

/-- What class `c` finds where it alone asks, for `n` bytes: all eight entries of DIE_BW_ALLOC. -/
theorem windowStart_lone (hc : c < 7) :
    (windowStart s d [(c, n)]).shared + min n ((windowStart s d [(c, n)]).own.getD c 0) =
      ((List.range 8).map (windowBytes s d)).sum := by
  have hasked (k : Nat) : (([(c, n)].filter (·.1 == k)).map (·.2)).foldl (· + ·) 0 = if k = c then n else 0 := by
    by_cases h : k = c
    · simp [h]
    · simp [h, Ne.symm h]
  have hunused : ((List.range 7).map fun k => ((List.range 7).map (windowBytes s d)).getD k 0 -
      (([(c, n)].filter (·.1 == k)).map (·.2)).foldl (· + ·) 0) =
      (List.range 7).map fun k => windowBytes s d k - if k = c then n else 0 := by
    refine List.map_congr_left fun k hk => ?_
    rw [hasked, List.getD_eq_getElem?_getD]
    simp [List.mem_range.mp hk]
  have hown : ((List.range 7).map (windowBytes s d)).getD c 0 = windowBytes s d c := by
    simp [List.getD_eq_getElem?_getD, hc]
  have hrest := sum_sub_single (windowBytes s d) c n 7
  rw [if_pos hc] at hrest
  simp only [windowStart, hunused, hown]
  rw [← List.sum_eq_foldl, List.range_succ (n := 7), List.map_append, List.sum_append, List.map_singleton, List.sum_singleton,
    ← hrest]
  omega

/-- The grant of class `c`, and nothing to the trace buffer, which class 6 drains. -/
theorem exec_bwWindow_lone {demand : List (Nat × Nat)} (hc : c < 6) (hreq : (s.die d).drc.bwWait ++ demand = [(c, n)]) :
    exec (.bwWindow d demand) s = .next (s.modDie d (afterWindow (grantOne (windowStart s d [(c, n)]) (c, n)))) := by
  have hlone : ((s.die d).drc.bwWait ++ demand).filter (fun r => decide (r.1 < 7)) = [(c, n)] := by
    rw [hreq]
    simp [Nat.lt_succ_of_lt hc]
  have hsix : (grantOne (windowStart s d [(c, n)]) (c, n)).granted.getD 6 0 = 0 := by
    rw [(grantOne_lone rfl rfl rfl).1, getD_modify_replicate (by omega), if_neg (by omega)]
  simp only [exec_bwWindow, hlone, List.foldl_cons, List.foldl_nil, hsix]
  rfl

end

/-- A class counts in DIE_BW_OVER where something of it waits. -/
theorem bump_waiting (t : Tab (BitVec 32)) (p : Prop) [Decidable p] (c m : Nat) :
    (((if p then [(c, m)] else []).map (·.1)).eraseDups).foldl bump t = if p then bump t c else t := by
  split <;> rfl

end Sys2Proof.Laws
end

section
/-! The obligation on the bandwidth window (03 R65, R68). -/

namespace Sys2Proof.Laws

open Sys2Proof.Machine Sys2Proof.Safety

/-- Settles O21: the lone class's grant is the smaller of what it asks for and the whole allocation. -/
theorem bandwidthWindowGrants : Obligations.BandwidthWindowGrants := by
  intro die c n wait demand s hc hwait hreq alloc total
  subst hwait
  obtain ⟨hgranted, hwaits⟩ := grantOne_lone (g := windowStart s die [(c, n)]) (total := total) rfl rfl
    (windowStart_lone (by omega))
  have hgrant (k : Nat) : (grantOne (windowStart s die [(c, n)]) (c, n)).granted.getD k 0 = if k = c then min n total else 0 := by
    rw [hgranted, getD_modify_replicate (by omega)]
  rw [exec_bwWindow_lone hc hreq]
  unfold afterWindow
  simp only [hgrant, hwaits, bump_waiting]

end Sys2Proof.Laws
end

section
/-! SUPPORT. The passing of time changes only what the time bases read, so what is open stays open. -/

namespace Sys2Proof.Laws

open Sys2Proof.Machine

/-- `y` is `x` but for the reading of its time base. -/
def onlyClock (x y : Die) : Prop := y = { x with tim := { x.tim with time := y.tim.time, acc := y.tim.acc } }

theorem onlyClock_trans {x y z : Die} (h : onlyClock x y) (k : onlyClock y z) : onlyClock x z := by
  rw [onlyClock, k, h]

theorem die_of_absent {s : State} {d : Nat} (h : s.hasDie d = false) : s.die d = {} := by
  have hlen : s.dies.length ≤ d := by simpa [State.hasDie] using h
  simp [State.die, List.getD_eq_getElem?_getD, hlen]

theorem onlyClock_advance (s : State) (n d : Nat) : onlyClock (s.die d) ((s.advance n).die d) := by
  cases h : s.hasDie d with
  | true =>
    rw [die_advance s n d h]
    exact rfl
  | false =>
    rw [die_of_absent h, die_of_absent ((hasDie_advance s n d).trans h)]
    exact rfl

theorem onlyClock_atDue (due : Nat) (x : Die) : onlyClock x { x with tim := atDue due x.tim } := by
  unfold onlyClock atDue
  split <;> rfl

theorem onlyClock_advanceTo (s : State) (d t e : Nat) : onlyClock (s.die e) ((s.advanceTo d t).die e) := by
  unfold State.advanceTo
  split
  · exact rfl
  · refine onlyClock_trans (onlyClock_advance s (unitsTo (s.die d).tim t) e) ?_
    rw [die_modDie]
    split
    · next h => exact h.1 ▸ onlyClock_atDue t _
    · exact rfl

theorem onlyClock_advanceToStamp (s : State) (d : Nat) (t : BitVec 64) (e : Nat) :
    onlyClock (s.die e) ((s.advanceToStamp d t).die e) :=
  onlyClock_advanceTo s d _ e

@[simp] theorem hasDie_advanceTo (s : State) (d t e : Nat) : (s.advanceTo d t).hasDie e = s.hasDie e := by
  unfold State.advanceTo
  split <;> simp

@[simp] theorem hasDie_advanceToStamp (s : State) (d : Nat) (t : BitVec 64) (e : Nat) :
    (s.advanceToStamp d t).hasDie e = s.hasDie e :=
  hasDie_advanceTo s d _ e

section
variable (s : State) (d : Nat) (t : BitVec 64) (e : Nat)

@[simp] theorem die_advanceToStamp_legs : ((s.advanceToStamp d t).die e).legs = (s.die e).legs := by
  rw [onlyClock_advanceToStamp s d t e]

@[simp] theorem die_advanceToStamp_confs : ((s.advanceToStamp d t).die e).confs = (s.die e).confs := by
  rw [onlyClock_advanceToStamp s d t e]

@[simp] theorem die_advanceToStamp_str : ((s.advanceToStamp d t).die e).str = (s.die e).str := by
  rw [onlyClock_advanceToStamp s d t e]

@[simp] theorem trig_advanceToStamp (n : Nat) : (s.advanceToStamp d t).trig e n = s.trig e n := by
  rw [State.trig, onlyClock_advanceToStamp s d t e]
  rfl

@[simp] theorem openLegs_advanceToStamp : (s.advanceToStamp d t).openLegs e = s.openLegs e := by
  have hopen : (s.advanceToStamp d t).legOpen = s.legOpen := by
    funext l
    simp [State.legOpen, legIdOk, State.legLive, State.legHalf, State.leg]
  simp [State.openLegs, State.legsOf, hopen]

@[simp] theorem openConfs_advanceToStamp : (s.advanceToStamp d t).openConfs e = s.openConfs e := by
  have hopen : (s.advanceToStamp d t).confOpen = s.confOpen := by
    funext c
    simp [State.confOpen, confIdOk, State.confLive, State.confHalf, State.conf]
  simp [State.openConfs, hopen]

end

end Sys2Proof.Laws
end

section
/-! SUPPORT. The steps of a restructure of one die (03 R70, R71): what each of them does in the states in which it acts. -/

namespace Sys2Proof.Laws

open Sys2Proof.Machine

/-- Two changes of a die that agree on the die as it is are the same change. -/
theorem modDie_congr {s : State} {d : Nat} {f g : Die → Die} (h : f (s.die d) = g (s.die d)) : s.modDie d f = s.modDie d g := by
  have hdies : s.dies.modify d f = s.dies.modify d g := by
    refine List.ext_getElem (by simp) fun i hi _ => ?_
    simp only [List.length_modify] at hi
    by_cases hne : d = i
    · subst hne
      simpa [State.die, List.getD_eq_getElem?_getD, hi] using h
    · simp [hne]
  rw [State.modDie, State.modDie, hdies]

/-- A trigger that fires target 2 on a loaded die, with time set, starts MP counting there: the structure is RUNNING from this
instant (03 R71 step 8). -/
theorem fireTrigger_startsMp {s : State} {d n : Nat} (htarget : (s.trig d n).target = 2) (htime : s.servo.timeSet = true)
    (hdie : s.hasDie d = true) (hstate : (s.die d).str.state = .loaded) :
    fireTrigger d n s = (timEv d 3 (s.modTrig d n fun t => { t with armed := none, fired := true })).modDie d fun x =>
      { x with counting := true, str := { x.str with state := .running, runAt := s.now d } } := by
  have htwo : ∀ arg m u, targetAction d 2 arg m u = startMp d u := fun _ _ _ => rfl
  unfold fireTrigger
  dsimp only
  rw [htarget, htwo, startMp, if_neg (by simp [timEv, State.modTrig, htime])]
  refine modDie_congr ?_
  simp [timEv, State.modTrig, State.now, State.time, hdie, hstate]

section
variable {s : State}

theorem exec_restructureGo_refused (v : Word) (h : s.restr.busy = true ∨ s.upd.state = .armed) :
    exec (.restructureGo v) s = .next { s with restr := { s.restr with goBusy := true } } := by
  change execRestructureGo v s = _
  exact if_pos (by simpa using h)

theorem exec_restructureGo_taken (v : Word) (hbusy : s.restr.busy = false) (hupd : s.upd.state ≠ .armed) :
    exec (.restructureGo v) s = .next (if s.restr.mp.toNat < s.mpNo 0 + 1000 then
        { s with restr := { s.restr with dieReg := v.extractLsb' 0 3, result := 6 } }
      else { s with restr := { s.restr with
        dieReg := v.extractLsb' 0 3, goBusy := false, die := v.extractLsb' 0 3, t0 := BitVec.ofNat 64 (s.mpNo 0),
        act := s.restr.mp, busy := true, result := 0, step := 1, image := none } }) := by
  change execRestructureGo v s = _
  unfold execRestructureGo
  rw [if_neg (by simp [hbusy, hupd])]
  split <;> rfl

/-- The bytes of the image that a restructure has staged. -/
def stagedBytes (s : State) : List Byte :=
  rdBuffer s s.restr.addr.toNat (min (leNat (rdBuffer s (s.restr.addr.toNat + 0x20) 4)) 0x1000000)

/-- The room of a kind that the dies other than `d` have together. -/
def roomElsewhere (s : State) (d : Nat) (f : State → Nat → Nat) : Nat :=
  ((s.dieList.filter (· ≠ d)).map (f s)).foldl (· + ·) 0

/-- A restructure at a step is not one that the command of that step ignores. -/
theorem restr_guard {k : Nat} (hbusy : s.restr.busy = true) (hstep : s.restr.step = k) :
    ¬ (!s.restr.busy || decide (s.restr.step ≠ k)) = true := by
  simp [hbusy, hstep]

theorem exec_restructureCheckDone_rejects {e : BitVec 16 × Nat} (hbusy : s.restr.busy = true) (hstep : s.restr.step = 1)
    (hdie : s.hasDie s.restr.die.toNat = true) (hcheck : checkImage s (some s.restr.die.toNat) (stagedBytes s) = .error e) :
    exec .restructureCheckDone s = .next (endRestruct 2 (raise 0 e.1 (BitVec.ofNat 64 e.2)
      (s.modDie s.restr.die.toNat fun x => { x with str := { x.str with lastErr := e.1 } }))) := by
  change execRestructureCheckDone s = _
  unfold execRestructureCheckDone
  rw [if_neg (restr_guard hbusy hstep)]
  simp only [stagedBytes] at hcheck
  simp only [hdie, if_true, hcheck]

theorem exec_restructureCheckDone_passes {img : ImageDef} (hbusy : s.restr.busy = true) (hstep : s.restr.step = 1)
    (hdie : s.hasDie s.restr.die.toNat = true) (hcheck : checkImage s (some s.restr.die.toNat) (stagedBytes s) = .ok img)
    (hall : checkAllDies s img [s.restr.die.toNat] = none) (hsame : restructDiffers s s.restr.die.toNat img = none) :
    exec .restructureCheckDone s = .next
      (if roomElsewhere s s.restr.die.toNat freeLegs < (s.openLegs s.restr.die.toNat).length ∨
          roomElsewhere s s.restr.die.toNat freeConfs < (s.openConfs s.restr.die.toNat).length then endRestruct 3 s
       else { s with restr := { s.restr with step := 2, image := some img } }) := by
  change execRestructureCheckDone s = _
  unfold execRestructureCheckDone
  rw [if_neg (restr_guard hbusy hstep)]
  simp only [stagedBytes] at hcheck
  simp only [hdie, if_true, hcheck, hall, hsame]
  exact (ite_congr (by simp [roomElsewhere]) (fun _ => rfl) fun _ => rfl).trans (apply_ite Host.Outcome.next _ _ _).symm

theorem exec_restructureDrainStart (hbusy : s.restr.busy = true) (hstep : s.restr.step = 2) :
    exec .restructureDrainStart s = .next ({ s.advanceToStamp 0 (mpStamp (s.restr.t0.toNat + 500)) with
      restr := { s.restr with step := 3 } }.modDie s.restr.die.toNat fun x =>
        { x with str := { x.str with draining := true } }) := by
  change execRestructureDrainStart s = _
  unfold execRestructureDrainStart
  rw [if_neg (restr_guard hbusy hstep)]

theorem exec_restructureLateCheck (hbusy : s.restr.busy = true) (hstep : s.restr.step = 3) :
    exec .restructureLateCheck s = .next
      (if (s.openLegs s.restr.die.toNat).isEmpty && (s.openConfs s.restr.die.toNat).isEmpty then
        armLead s.restr.die.toNat 5 s.restr.act.toNat
          { s.advanceToStamp 0 (mpStamp (s.restr.act.toNat - 2)) with restr := { s.restr with step := 6 } }
       else endRestruct 4 (s.advanceToStamp 0 (mpStamp (s.restr.act.toNat - 2)))) := by
  change execRestructureLateCheck s = _
  unfold execRestructureLateCheck
  rw [if_neg (restr_guard hbusy hstep)]
  simp only [openLegs_advanceToStamp, openConfs_advanceToStamp, ← Bool.not_and]
  cases (s.openLegs s.restr.die.toNat).isEmpty && (s.openConfs s.restr.die.toNat).isEmpty <;> rfl

/-- The registers of a restructure that has ended with a result. -/
abbrev endedRestr (result : BitVec 3) (r : Restruct) : Restruct :=
  { r with busy := false, result := result, step := 0, image := none }

theorem endRestruct_modDie {r : Restruct} (h : s.restr = r) (result : BitVec 3) (f : Die → Die) :
    endRestruct result (s.modDie r.die.toNat f) = { s with restr := endedRestr result r }.modDie r.die.toNat fun x =>
      { f x with str := { (f x).str with draining := false } } := by
  subst h
  exact modDie_modDie { s with restr := endedRestr result s.restr } s.restr.die.toNat f fun x =>
    { x with str := { x.str with draining := false } }

theorem withRestr_timEv_modTrig (r : Restruct) (d i n : Nat) (f : Trigger → Trigger) :
    { timEv d i (s.modTrig d n f) with restr := r } = timEv d i (State.modTrig { s with restr := r } d n f) := rfl

/-- A restructure of a loaded die that ends as the lead trigger fires target 2 on it, with time set: the die runs from this
instant. -/
theorem endRestruct_fireTrigger (hdie : s.hasDie s.restr.die.toNat = true)
    (hstate : (s.die s.restr.die.toNat).str.state = .loaded) (htime : s.servo.timeSet = true)
    (htarget : (s.trig s.restr.die.toNat leadTrigger).target = 2) :
    endRestruct 1 (fireTrigger s.restr.die.toNat leadTrigger s) =
      (timEv s.restr.die.toNat 3 (State.modTrig { s with restr := endedRestr 1 s.restr } s.restr.die.toNat leadTrigger fun x =>
        { x with armed := none, fired := true })).modDie s.restr.die.toNat fun x => { x with
          counting := true
          str := { x.str with state := .running, draining := false, runAt := s.now s.restr.die.toNat } } := by
  rw [fireTrigger_startsMp htarget htime hdie hstate]
  rw [endRestruct_modDie (r := s.restr) (by simp [timEv, State.modTrig]), withRestr_timEv_modTrig]

/-- The resumption of a die whose lead trigger is armed for target 2, at the instant at which the bridge is `u`. -/
theorem exec_restructureResume {at_ : BitVec 64} {u : State} (hu : s.advanceToStamp 0 (mpStamp (s.restr.act.toNat + 200)) = u)
    (hbusy : s.restr.busy = true) (hstep : s.restr.step = 7) (hdie : s.hasDie s.restr.die.toNat = true)
    (hstate : (s.die s.restr.die.toNat).str.state = .loaded) (htime : s.servo.timeSet = true)
    (harmed : (s.trig s.restr.die.toNat leadTrigger).armed = some at_)
    (htarget : (s.trig s.restr.die.toNat leadTrigger).target = 2) :
    exec .restructureResume s = .next ((timEv s.restr.die.toNat 3 (State.modTrig { u with restr := endedRestr 1 s.restr }
      s.restr.die.toNat leadTrigger fun x => { x with armed := none, fired := true })).modDie s.restr.die.toNat fun x => { x with
        counting := true
        str := { x.str with state := .running, draining := false, runAt := u.now s.restr.die.toNat } }) := by
  have hrestr : u.restr = s.restr := by simp [← hu]
  have htrig : u.trig s.restr.die.toNat leadTrigger = s.trig s.restr.die.toNat leadTrigger := by simp [← hu]
  have hend := endRestruct_fireTrigger (s := u) (by simpa [← hu] using hdie) (by simpa [← hu] using hstate)
    (by simpa [← hu] using htime) (by simpa [← hu] using htarget)
  rw [hrestr] at hend
  change execRestructureResume s = _
  unfold execRestructureResume
  rw [if_neg (restr_guard hbusy hstep)]
  simp only [hu, htrig, harmed, Option.isSome_some, if_true, hend]

end

end Sys2Proof.Laws
end

section
/-! The obligation on the restructure of one die (03 R70, R71). -/

namespace Sys2Proof.Laws

open Sys2Proof.Machine Sys2Proof.Safety

/-- Settles O23: each step of Table 3.7 under the conditions in which it acts. -/
theorem restructureRunsItsSteps : Obligations.RestructureRunsItsSteps := by
  refine ⟨fun v s h => exec_restructureGo_refused v h, fun v s hbusy hupd => exec_restructureGo_taken v hbusy hupd, ?check,
    fun s hbusy hstep => exec_restructureDrainStart hbusy hstep, ?late, ?resume⟩
  case check =>
    intro s hbusy hstep hdie
    obtain ⟨t, ht⟩ := answers_execRestructureCheckDone s
    refine ⟨t, ht, fun e hcheck => ?_, fun img hcheck hall hsame => ?_⟩
    · exact Host.Outcome.next.inj (ht.symm.trans (exec_restructureCheckDone_rejects hbusy hstep hdie hcheck))
    · exact Host.Outcome.next.inj (ht.symm.trans (exec_restructureCheckDone_passes hbusy hstep hdie hcheck hall hsame))
  case late =>
    intro s hbusy hstep u
    rw [exec_restructureLateCheck hbusy hstep]
    simp [endRestruct, armLead, u]
  case resume =>
    intro at_ s hbusy hstep hdie hstate htime harmed htarget
    exact exec_restructureResume rfl hbusy hstep hdie hstate htime harmed htarget

end Sys2Proof.Laws
end

section
/-! SUPPORT. What the load of a structure shows, and that the start of device time and of MP counting behind it leaves that as it
is (03 R62 steps 7 and 8). -/

namespace Sys2Proof.Laws

open Sys2Proof.Machine Sys2Proof.Safety

/-! ## What a change leaves of a die -/

section
variable {α : Type} {p : Die → α}

/-- What a change of a die leaves of it, the package shows of every die as before. -/
theorem view_modDie (s : State) (d e : Nat) {f : Die → Die} (hf : ∀ x, p (f x) = p x) :
    p ((s.modDie d f).die e) = p (s.die e) := by
  rw [die_modDie]
  split
  · next h => rw [hf, h.1]
  · rfl

theorem view_mapDies (s : State) (e : Nat) {f : Nat → Die → Die} (hf : ∀ i x, p (f i x) = p x) :
    p ((s.mapDies f).die e) = p (s.die e) := by
  by_cases h : e < s.dies.length <;> simp [State.die, State.mapDies, List.getD_eq_getElem?_getD, h, hf]

theorem view_raise (s : State) (e : Nat) {d : Nat} {code : BitVec 16} {detail : BitVec 64}
    (hp : ∀ x l, p { x with err := l } = p x) : p ((raise d code detail s).die e) = p (s.die e) := by
  obtain ⟨-, -, hdie⟩ := onlyLog_raise d code detail s
  rw [hdie e]
  split
  · exact hp _ _
  · rfl

end

@[simp] theorem hasDie_mapDies (s : State) (f : Nat → Die → Die) (d : Nat) : (s.mapDies f).hasDie d = s.hasDie d := by
  simp [State.hasDie]

@[simp] theorem hasDie_raise (d : Nat) (code : BitVec 16) (detail : BitVec 64) (s : State) (e : Nat) :
    (raise d code detail s).hasDie e = s.hasDie e := by
  obtain ⟨-, hlen, -⟩ := onlyLog_raise d code detail s
  simp [State.hasDie, hlen]

/-- What a die at reset passes, and every die of the package, each die passes. -/
theorem die_of_all {p : Die → Bool} (hreset : p {} = true) {s : State} (h : s.dies.all p = true) (d : Nat) :
    p (s.die d) = true := by
  cases hd : s.hasDie d with
  | true =>
    have hlt : d < s.dies.length := by simpa [State.hasDie] using hd
    simpa [State.die, List.getD_eq_getElem?_getD, hlt] using List.all_eq_true.mp h _ (List.getElem_mem hlt)
  | false => rwa [die_of_absent hd]

/-! ## What a loaded structure shows -/

/-- A die that shows the structure of an image, loaded. -/
def loadedDie (img : ImageDef) (x : Die) : Prop :=
  x.str.state = .loaded ∧ x.str.id = img.imageId ∧ x.legs = [] ∧ x.confs = []

/-- The parts of a die in which it shows a loaded structure. -/
def loadView (x : Die) : StructReg × Tab Leg × Tab Conf := (x.str, x.legs, x.confs)

/-- `t` shows the same structures as `s`, loaded no less far. -/
def keepsLoad (s t : State) : Prop :=
  (7 ≤ s.bootStep → 7 ≤ t.bootStep) ∧ t.bootImage = s.bootImage ∧
    ∀ d, t.hasDie d = s.hasDie d ∧ loadView (t.die d) = loadView (s.die d)

theorem loadedDie_of_view {img : ImageDef} {x y : Die} (hv : loadView y = loadView x) (h : loadedDie img x) :
    loadedDie img y := by
  simp only [loadView, Prod.mk.injEq] at hv
  obtain ⟨hstr, hlegs, hconfs⟩ := hv
  rw [loadedDie, hstr, hlegs, hconfs]
  exact h

theorem loadedFrom_of_keepsLoad {img : ImageDef} {s t : State} (h : keepsLoad s t) (hs : loadedFrom img s) :
    loadedFrom img t := by
  obtain ⟨hstep, himage, hdie⟩ := h
  obtain ⟨hs7, hsimage, hsdie⟩ := hs
  exact ⟨hstep hs7, himage.trans hsimage, fun d hd =>
    loadedDie_of_view (hdie d).2 (hsdie d ((hdie d).1.symm.trans hd))⟩

theorem keepsLoad_refl (s : State) : keepsLoad s s := ⟨id, rfl, fun _ => ⟨rfl, rfl⟩⟩

theorem keepsLoad_trans {s t u : State} (h : keepsLoad s t) (k : keepsLoad t u) : keepsLoad s u := by
  obtain ⟨hstep, himage, hdie⟩ := h
  obtain ⟨kstep, kimage, kdie⟩ := k
  exact ⟨kstep ∘ hstep, kimage.trans himage, fun d => ⟨(kdie d).1.trans (hdie d).1, (kdie d).2.trans (hdie d).2⟩⟩

theorem keepsLoad_modDie (s : State) (d : Nat) {f : Die → Die} (hf : ∀ x, loadView (f x) = loadView x) :
    keepsLoad s (s.modDie d f) :=
  ⟨id, rfl, fun e => ⟨hasDie_modDie s d e f, view_modDie s d e hf⟩⟩

theorem keepsLoad_mapDies (s : State) {f : Nat → Die → Die} (hf : ∀ i x, loadView (f i x) = loadView x) :
    keepsLoad s (s.mapDies f) :=
  ⟨id, rfl, fun e => ⟨hasDie_mapDies s f e, view_mapDies s e hf⟩⟩

theorem keepsLoad_raise (d : Nat) (code : BitVec 16) (detail : BitVec 64) (s : State) :
    keepsLoad s (raise d code detail s) := by
  obtain ⟨hrest, -, -⟩ := onlyLog_raise d code detail s
  refine ⟨?_, ?_, fun e => ⟨hasDie_raise d code detail s e, view_raise s e fun _ _ => rfl⟩⟩
  · rw [hrest]; exact id
  · rw [hrest]

theorem keepsLoad_forAll {α : Type} (l : List α) {f : α → State → State} (hf : ∀ a u, keepsLoad u (f a u)) (s : State) :
    keepsLoad s (forAll l f s) := by
  induction l generalizing s with
  | nil => exact keepsLoad_refl s
  | cons a l ih => exact keepsLoad_trans (hf a s) (ih (f a s))

theorem keepsLoad_timEv (d i : Nat) (s : State) : keepsLoad s (timEv d i s) := keepsLoad_modDie s d fun _ => rfl

theorem keepsLoad_armLead (d : Nat) (target : BitVec 3) (mp : Nat) (s : State) : keepsLoad s (armLead d target mp s) :=
  keepsLoad_modDie s d fun _ => rfl

/-- Arming target 2 on every die is step 8 of the boot. -/
theorem keepsLoad_armMpStart (s : State) : keepsLoad s (armMpStart s) := by
  unfold armMpStart
  split
  · have hstep : keepsLoad s { s with bootStep := 8 } := ⟨fun _ => Nat.le_succ 7, rfl, fun _ => ⟨rfl, rfl⟩⟩
    exact keepsLoad_trans hstep (keepsLoad_forAll s.dieList (fun d u => keepsLoad_armLead d 2 _ u) _)
  · exact keepsLoad_refl s

/-! ## The servo's first choice -/

/-- No die has a trigger set. -/
def noTriggers (s : State) : Prop := ∀ d, (s.die d).tim.trig = []

theorem noTriggers_of_all {s : State} (h : s.dies.all (fun x => x.tim.trig.isEmpty) = true) : noTriggers s :=
  fun d => List.isEmpty_iff.mp (die_of_all rfl h d)

theorem noTriggers_of_trig {s t : State} (h : ∀ d, (t.die d).tim.trig = (s.die d).tim.trig) (hs : noTriggers s) :
    noTriggers t := fun d => (h d).trans (hs d)

theorem triggersInOrder_none {s : State} (h : noTriggers s) (p : Nat → BitVec 64 → Bool) : triggersInOrder s p = [] := by
  have harmed : ∀ d, armedTriggers s d (p d) = [] := by
    intro d
    have hnone : ∀ n, s.trig d n = {} := fun n => by rw [State.trig, h d, tget_nil]
    simp only [armedTriggers, hnone, List.filterMap_eq_nil_iff.mpr fun _ _ => rfl]
    rfl
  unfold triggersInOrder
  simp only [harmed, List.map_nil, List.flatMap_eq_nil_iff.mpr fun _ _ => rfl]
  rfl

/-- With no trigger to be carried out late, the setting of device time changes no structure. -/
theorem keepsLoad_setTime {s : State} (h : noTriggers s) (t : Nat) : keepsLoad s (setTime t s) := by
  unfold setTime
  rw [triggersInOrder_none h]
  dsimp only [forAll, List.foldl_nil]
  refine keepsLoad_trans ?_ (keepsLoad_armMpStart _)
  refine keepsLoad_trans ?_ (keepsLoad_raise _ _ _ _)
  refine keepsLoad_trans ?_ (keepsLoad_forAll _ (fun d u => keepsLoad_timEv d 2 u) _)
  exact keepsLoad_mapDies s fun _ _ => rfl

theorem keepsLoad_servoTo (st : ServoState) (s : State) : keepsLoad s (servoTo st s) := by
  unfold servoTo
  dsimp only
  split
  · exact keepsLoad_refl s
  · exact keepsLoad_timEv 0 0 { s with servo := _ }

theorem trig_servoTo (st : ServoState) (s : State) (d : Nat) : ((servoTo st s).die d).tim.trig = (s.die d).tim.trig := by
  unfold servoTo
  dsimp only
  split
  · rfl
  · exact view_modDie (p := fun x => x.tim.trig) _ 0 d fun _ => rfl

/-- The servo's choice of its sources sets device time, changes the servo's state or reports HOLDOVER; none of these changes a
structure. -/
theorem keepsLoad_servoEval {s : State} (h : noTriggers s) (lost : Nat) : keepsLoad s (servoEval lost s) := by
  unfold servoEval
  split
  · exact keepsLoad_refl s
  · extract_lets v frozen p1 f1 p0 s1 sAcq vAcq u
    split
    · have hu : keepsLoad s u ∧ noTriggers u := by
        dsimp only [u]
        split
        · exact ⟨keepsLoad_servoTo .acquiring s1, noTriggers_of_trig (trig_servoTo .acquiring s1) h⟩
        · exact ⟨keepsLoad_refl s, h⟩
      split
      · exact hu.1
      · exact keepsLoad_trans hu.1 (keepsLoad_setTime hu.2 _)
    · split
      · exact keepsLoad_servoTo .syntonized s1
      · have hholdover := keepsLoad_trans (keepsLoad_servoTo .holdover { s1 with servo := { s1.servo with slew := frozen } })
          (keepsLoad_raise 0 0x0204 (BitVec.ofNat 64 lost) _)
        split
        · exact hholdover
        · exact hholdover
        · exact hholdover
        · exact keepsLoad_refl s
        · exact keepsLoad_refl s

end Sys2Proof.Laws
end

section
/-! SUPPORT. The boot load of the structure image (03 R62 to R64): its first steps, the load of a checked image, and the failure
of both banks; and the end of DRAM training (15 R332). -/

namespace Sys2Proof.Laws

open Sys2Proof.Machine Sys2Proof.Safety

/-! ## Steps 6 and 7 -/

theorem loadedDie_applySections (img : ImageDef) (d : Nat) (x : Die) : loadedDie img (applySections img d x) :=
  ⟨rfl, rfl, rfl, rfl⟩

@[simp] theorem hasDie_loadDie (img : ImageDef) (d : Nat) (s : State) (e : Nat) : (loadDie img d s).hasDie e = s.hasDie e :=
  hasDie_modDie s d e _

theorem trig_loadDie (img : ImageDef) (d : Nat) (s : State) (e : Nat) :
    ((loadDie img d s).die e).tim.trig = (s.die e).tim.trig :=
  view_modDie (p := fun x => x.tim.trig) s d e (f := applySections img d) fun _ => rfl

theorem loadedDie_loadDie {img : ImageDef} {d e : Nat} {s : State} (he : s.hasDie e = true)
    (h : e = d ∨ loadedDie img (s.die e)) : loadedDie img ((loadDie img d s).die e) := by
  change loadedDie img ((s.modDie d (applySections img d)).die e)
  by_cases hne : e = d
  · subst hne
    rw [die_modDie_self _ _ _ he]
    exact loadedDie_applySections img e _
  · rw [die_modDie_ne _ _ _ _ hne]
    exact h.resolve_left hne

section
variable {img : ImageDef} {s : State}

@[simp] theorem hasDie_forAll_loadDie (l : List Nat) (e : Nat) : (forAll l (loadDie img) s).hasDie e = s.hasDie e := by
  induction l generalizing s with
  | nil => rfl
  | cons d l ih => exact ih.trans (hasDie_loadDie img d s e)

theorem trig_forAll_loadDie (l : List Nat) (e : Nat) :
    ((forAll l (loadDie img) s).die e).tim.trig = (s.die e).tim.trig := by
  induction l generalizing s with
  | nil => rfl
  | cons d l ih => exact ih.trans (trig_loadDie img d s e)

theorem loadedDie_forAll_loadDie {l : List Nat} {e : Nat} (he : s.hasDie e = true)
    (h : e ∈ l ∨ loadedDie img (s.die e)) : loadedDie img ((forAll l (loadDie img) s).die e) := by
  induction l generalizing s with
  | nil => exact h.resolve_left (List.not_mem_nil)
  | cons d l ih =>
    refine ih ((hasDie_loadDie img d s e).trans he) ?_
    rcases h with hmem | hloaded
    · rcases List.mem_cons.mp hmem with heq | htail
      · exact .inr (loadedDie_loadDie he (.inl heq))
      · exact .inl htail
    · exact .inr (loadedDie_loadDie he (.inr hloaded))

end

/-- The bridge with the structure of an image loaded from bank `b`, before the servo chooses its sources (step 7). -/
def loadStructure (b : Nat) (img : ImageDef) (s : State) : State :=
  loadServo img (loadPair img { (forAll s.dieList (loadDie img) s).mapDies
    (fun _ x => { x with str := { x.str with bank := b == 1 } }) with bootStep := 7, bootImage := none })

theorem loadedFrom_loadStructure (b : Nat) (img : ImageDef) (s : State) : loadedFrom img (loadStructure b img s) := by
  refine ⟨Nat.le_refl 7, rfl, fun d hd => ?_⟩
  have hhas : s.hasDie d = true := by simpa using (hasDie_mapDies _ _ d).symm.trans hd
  have hmem : d ∈ s.dieList := by simpa [State.dieList, State.hasDie] using hhas
  have hloaded := loadedDie_forAll_loadDie (img := img) hhas (.inl hmem)
  have hview {α : Type} (p : Die → α) (hp : ∀ x, p { x with str := { x.str with bank := b == 1 } } = p x) :
      p ((loadStructure b img s).die d) = p ((forAll s.dieList (loadDie img) s).die d) :=
    view_mapDies (p := p) _ d fun _ x => hp x
  obtain ⟨hstate, hid, hlegs, hconfs⟩ := hloaded
  exact ⟨(hview (·.str.state) fun _ => rfl).trans hstate, (hview (·.str.id) fun _ => rfl).trans hid,
    (hview (·.legs) fun _ => rfl).trans hlegs, (hview (·.confs) fun _ => rfl).trans hconfs⟩

theorem noTriggers_loadStructure {b : Nat} {img : ImageDef} {s : State} (h : noTriggers s) :
    noTriggers (loadStructure b img s) :=
  noTriggers_of_trig (fun d => (view_mapDies (p := fun x => x.tim.trig) (forAll s.dieList (loadDie img) s) d
    (f := fun _ x => { x with str := { x.str with bank := b == 1 } }) fun _ _ => rfl).trans (trig_forAll_loadDie s.dieList d)) h

/-- An image that passes the semantic checks of every die is loaded on every die. -/
theorem finishLoad_loads {b : Nat} {img : ImageDef} {s : State} (h : noTriggers s)
    (hcheck : checkAllDies s img s.dieList = none) : ∃ t, finishLoad b img s = .ok t ∧ loadedFrom img t := by
  refine ⟨armMpStart (servoEval 0 (loadStructure b img s)), by rw [finishLoad, hcheck]; rfl, ?_⟩
  exact loadedFrom_of_keepsLoad (keepsLoad_trans (keepsLoad_servoEval (noTriggers_loadStructure h) 0) (keepsLoad_armMpStart _))
    (loadedFrom_loadStructure b img s)

/-! ## The bank pointer -/

section
variable {s t : State}

theorem rdFlash_congr (h : t.flash = s.flash) (b a n : Nat) : rdFlash t b a n = rdFlash s b a n := by
  induction n generalizing a with
  | zero => rfl
  | succ n ih => simp only [rdFlash, h, ih]

/-- The bank pointer stands in the boot flash. -/
theorem bankPtr_congr (h : t.flash = s.flash) : bankPtr t = bankPtr s := by
  have hcopy : ∀ b, ptrCopy t b = ptrCopy s b := fun b => by simp only [ptrCopy, rdFlash_congr h]
  simp only [bankPtr, hcopy]

end

/-! ## BOOT_LOAD -/

/-- The bridge at steps 1 to 3 of Table 3.4. -/
def bootStart (s : State) : State :=
  let w : State := { s with inReset := none, bootStep := 1, bootSecond := false, pair := { s.pair with aliveOut := true } }
  (w.mapDies fun _ x => trainLinks x).modDie 0 fun x =>
    { x with cip := { x.cip with slots := (tget ({} : Flash) s.flash 0).sealed } }

section
variable {s : State}

theorem bankPtr_bootStart : bankPtr (bootStart s) = bankPtr s := bankPtr_congr rfl

/-- What the first steps leave of a die. -/
theorem view_bootStart {α : Type} {p : Die → α} (hp : ∀ x l c, p { x with ubh := l, cip := c } = p x) (d : Nat) :
    p ((bootStart s).die d) = p (s.die d) :=
  (view_modDie _ 0 d fun x => hp x x.ubh _).trans (view_mapDies _ d fun _ x => hp x _ x.cip)

theorem allTrained_bootStart : allTrained (bootStart s) = allTrained s := by
  have hlist : (bootStart s).dieList = s.dieList := by simp [State.dieList, bootStart]
  have htrained : ∀ d, ((bootStart s).die d).drc.trained = (s.die d).drc.trained :=
    view_bootStart (p := (·.drc.trained)) fun _ _ _ => rfl
  simp only [allTrained, hlist, htrained]

theorem exec_bootLoad_starts (hstep : s.bootStep = 0) (hstate : (s.die 0).str.state = .none)
    (htrial : (bankPtr s).trial = false) : exec .bootLoad s = .next (bootFirstBank (bootStart s)) := by
  have hptr : (bankPtr (bootStart s)).trial = false := by rw [bankPtr_bootStart, htrial]
  change execBootLoad s = _
  unfold execBootLoad
  rw [if_neg (by simp [hstep, hstate])]
  change (if (bankPtr (bootStart s)).trial && (bankPtr (bootStart s)).tried then _ else
    if (bankPtr (bootStart s)).trial then _ else Host.Outcome.next (bootFirstBank (bootStart s))) = _
  simp [hptr]

theorem exec_bootLoad_done (h : s.bootStep ≠ 0) : exec .bootLoad s = .next s := by
  change execBootLoad s = _
  unfold execBootLoad
  rw [if_pos (by simp [h])]

theorem bootFirstBank_waits {img : ImageDef} (hbank : checkBank s (bankPtr s).bank = .ok img) (h : allTrained s = false) :
    bootFirstBank s = { s with bootStep := 5, bootImage := some img } := by
  unfold bootFirstBank
  dsimp only
  rw [hbank]
  exact if_neg (by simp [h])

theorem bootFirstBank_loads {img : ImageDef} (hnone : noTriggers s) (hbank : checkBank s (bankPtr s).bank = .ok img)
    (h : allTrained s = true) (hcheck : checkAllDies s img s.dieList = none) : loadedFrom img (bootFirstBank s) := by
  obtain ⟨t, hfinish, hloaded⟩ := finishLoad_loads (b := (bankPtr s).bank) hnone hcheck
  have ht : bootFirstBank s = t := by
    unfold bootFirstBank
    dsimp only
    rw [hbank]
    dsimp only
    rw [if_pos h, hfinish]
  exact ht ▸ hloaded

/-! ## Both banks rejected -/

theorem state_rejectBoot (e : BitVec 16 × Nat) (d : Nat) : ((rejectBoot e s).die d).str.state = (s.die d).str.state := by
  unfold rejectBoot
  refine (view_raise (p := (·.str.state)) _ d fun _ _ => rfl).trans ?_
  split
  · rfl
  · exact view_mapDies (p := (·.str.state)) s d fun _ _ => rfl

theorem rejectBoot_frame (e : BitVec 16 × Nat) :
    rejectBoot e s = { s with dies := (rejectBoot e s).dies, out := (rejectBoot e s).out } := by
  unfold rejectBoot
  split
  · exact (onlyLog_raise 0 e.1 (BitVec.ofNat 64 e.2) s).1
  · exact (onlyLog_raise 0 e.1 (BitVec.ofNat 64 e.2) _).1

/-- The bridge as it tries the other bank, the image of the first one being rejected. -/
def tryOther (e : BitVec 16 × Nat) (s : State) : State := { rejectBoot e s with bootSecond := true, bootImage := none }

/-- A first bank that is no trial's is rejected, and so is the other one. -/
theorem bootFirstBank_rejects {e e' : BitVec 16 × Nat} (htrial : (bankPtr s).trial = false) (hsecond : s.bootSecond = false)
    (hbank : checkBank s (bankPtr s).bank = .error e) (hother : checkBank (tryOther e s) (1 - (bankPtr s).bank) = .error e') :
    bootFirstBank s = { rejectBoot e' (tryOther e s) with bootStep := 0 } := by
  have hptr : bankPtr (rejectBoot e s) = bankPtr s := bankPtr_congr (by rw [rejectBoot_frame])
  have hflag : (rejectBoot e s).bootSecond = false := by rw [rejectBoot_frame]; exact hsecond
  have hfirst : bootFirstBank s = bootFailed e s := by
    unfold bootFirstBank
    dsimp only
    rw [hbank]
  have hfailed : bootFailed e s = bootSecondBank (1 - (bankPtr s).bank) (rejectBoot e s) := by
    unfold bootFailed
    dsimp only
    rw [hptr, if_neg (by simp [htrial]), if_neg (by simp [hflag])]
  rw [hfirst, hfailed]
  unfold bootSecondBank
  dsimp only
  rw [tryOther] at hother
  rw [hother]
  rfl

/-- Two rejections leave every die's structure state as it was. -/
theorem state_bothRejected (e e' : BitVec 16 × Nat) (d : Nat) :
    ((rejectBoot e' (tryOther e s)).die d).str.state = (s.die d).str.state :=
  (state_rejectBoot e' d).trans (state_rejectBoot e d)

end

/-! ## DRAM_TRAINING_DONE -/

section
variable {die : Nat} {r : Training} {s : State}

/-- A die takes the result of its training. -/
def trainDie (die : Nat) (r : Training) (s : State) : State := s.modDie die fun x => { x with drc := trainedDrc r x.drc }

/-- No channel is slow or disabled where both run at 6,400 MT/s. -/
theorem slowChannels_none (h0 : r.ch0 = some 0) (h1 : r.ch1 = some 0) :
    [(0, r.ch0), (1, r.ch1)].filter (fun e => e.2 != some 0) = [] := by
  simp [h0, h1]

theorem exec_dramTrainingDone_full (himage : s.bootImage = none) (h0 : r.ch0 = some 0) (h1 : r.ch1 = some 0) :
    exec (.dramTrainingDone die r) s = .next (trainDie die r s) := by
  change execDramTrainingDone die r s = _
  simp only [execDramTrainingDone, slowChannels_none h0 h1, forAll, List.foldl_nil, State.modDie_bootImage, himage]
  rfl

theorem bootImage_drcEv_raiseFrom (d i : Nat) (src : Byte) (code : BitVec 16) (detail : BitVec 64) (u : State) :
    (drcEv d i (raiseFrom d src code detail u)).bootImage = u.bootImage := by
  obtain ⟨hrest, -, -⟩ := onlyLog_raiseFrom d src code detail u
  change (raiseFrom d src code detail u).bootImage = u.bootImage
  rw [hrest]

theorem exec_dramTrainingDone_slow {v : BitVec 2} (himage : s.bootImage = none) (h0 : r.ch0 = some v) (hv : v ≠ 0)
    (h1 : r.ch1 = some 0) : exec (.dramTrainingDone die r) s =
      .next (drcEv die 5 (raiseFrom die dukenCheck 0x0F03 0 (trainDie die r s))) := by
  have hslow : [(0, r.ch0), (1, r.ch1)].filter (fun e => e.2 != some 0) = [(0, some v)] := by
    simpa [h0, h1, List.filter_cons] using hv
  change execDramTrainingDone die r s = _
  simp only [execDramTrainingDone, hslow, forAll, List.foldl_cons, List.foldl_nil, bootImage_drcEv_raiseFrom,
    State.modDie_bootImage, himage]
  rfl

theorem trainedDrc_both {a b : BitVec 2} (c : Drc) (h0 : r.ch0 = some a) (h1 : r.ch1 = some b) :
    trainedDrc r c = { c with
      trained := true, chOk := 3, speed0 := a, speed1 := b, device := r.device, twoRanks := r.twoRanks, twoCh := true,
      gib := BitVec.ofNat 8 (2 * channelGib r) } := by
  simp [trainedDrc, h0, h1]

theorem allTrained_trainDie (hlast : (s.dieList.all fun d => d = die || (s.die d).drc.trained) = true) :
    allTrained (trainDie die r s) = true := by
  have hlist : (trainDie die r s).dieList = s.dieList := by simp [State.dieList, trainDie]
  rw [allTrained, hlist, List.all_eq_true]
  intro d hd
  have hlt : s.hasDie d = true := by simpa [State.dieList, State.hasDie] using hd
  by_cases hne : d = die
  · subst hne
    rw [trainDie, die_modDie_self _ _ _ hlt]
    rfl
  · rw [trainDie, die_modDie_ne _ _ _ _ hne]
    simpa [hne] using List.all_eq_true.mp hlast d hd

/-- The end of the last die's training goes on with the boot that waits for it. -/
theorem exec_dramTrainingDone_loads {img : ImageDef} (himage : s.bootImage = some img) (h0 : r.ch0 = some 0)
    (h1 : r.ch1 = some 0) (hlast : (s.dieList.all fun d => d = die || (s.die d).drc.trained) = true)
    (hnone : noTriggers s) (hcheck : checkAllDies (trainDie die r s) img s.dieList = none) :
    ∃ t, exec (.dramTrainingDone die r) s = .next t ∧ loadedFrom img t := by
  have hlist : (trainDie die r s).dieList = s.dieList := by simp [State.dieList, trainDie]
  have htrig : noTriggers (trainDie die r s) :=
    noTriggers_of_trig (view_modDie (p := fun x => x.tim.trig) s die · fun _ => rfl) hnone
  have htrained := allTrained_trainDie (r := r) hlast
  obtain ⟨t, hfinish, hloaded⟩ := finishLoad_loads (b := if (trainDie die r s).bootSecond then
    1 - (bankPtr (trainDie die r s)).bank else (bankPtr (trainDie die r s)).bank) htrig (hlist.symm ▸ hcheck)
  refine ⟨t, ?_, hloaded⟩
  change execDramTrainingDone die r s = _
  unfold trainDie at htrained hfinish
  simp only [execDramTrainingDone, slowChannels_none h0 h1, forAll, List.foldl_nil, State.modDie_bootImage, himage, htrained,
    if_true, hfinish]

end

end Sys2Proof.Laws
end

section
/-! The obligation on the boot load of the structure image (03 R62 to R64, 15 R332). -/

namespace Sys2Proof.Laws

open Sys2Proof.Machine Sys2Proof.Safety

/-- Settles O20: the boot goes as far as the checks and the training let it. -/
theorem bootLoadsAStructureAfterTraining : Obligations.BootLoadsAStructureAfterTraining := by
  refine ⟨?boot, fun s h => exec_bootLoad_done h, ?full, ?slow, ?last⟩
  case boot =>
    intro s hstep hstate hdies htrial htrig w u
    have hptr : (bankPtr u).bank = (bankPtr s).bank := congrArg BankPtr.bank bankPtr_bootStart
    have hnone : noTriggers u :=
      noTriggers_of_trig (view_bootStart (p := fun x => x.tim.trig) fun _ _ _ => rfl) (noTriggers_of_all htrig)
    refine ⟨bootFirstBank u, exec_bootLoad_starts hstep hstate htrial, ?waits, ?loads, ?rejects⟩
    case waits =>
      intro img hbank huntrained
      exact bootFirstBank_waits (hptr ▸ hbank) (allTrained_bootStart.trans huntrained)
    case loads =>
      intro img hbank htrained hcheck
      exact bootFirstBank_loads hnone (hptr ▸ hbank) (allTrained_bootStart.trans htrained) hcheck
    case rejects =>
      intro e e' hbank hother
      have hnoTrial : (bankPtr u).trial = false := (congrArg BankPtr.trial bankPtr_bootStart).trans htrial
      rw [bootFirstBank_rejects hnoTrial rfl (hptr ▸ hbank) (hptr ▸ hother)]
      refine ⟨rfl, fun d => ?_⟩
      calc ((rejectBoot e' (tryOther e u)).die d).str.state
        _ = (u.die d).str.state := state_bothRejected e e' d
        _ = (s.die d).str.state := view_bootStart (p := (·.str.state)) (fun _ _ _ => rfl) d
        _ = .none := of_decide_eq_true (die_of_all (p := fun x => decide (x.str.state = .none)) rfl hdies d)
  case full =>
    intro die r s himage h0 h1
    rw [exec_dramTrainingDone_full himage h0 h1, trainDie]
    simp only [trainedDrc_both _ h0 h1]
  case slow =>
    intro die r v s himage h0 hv h1
    rw [exec_dramTrainingDone_slow himage h0 hv h1, trainDie]
    simp only [trainedDrc_both _ h0 h1]
  case last =>
    intro die r img s himage h0 h1 hlast htrig u
    obtain ⟨t, ht⟩ := answers_execDramTrainingDone die r s
    refine ⟨t, ht, fun hcheck => ?_⟩
    obtain ⟨t', ht', hloaded⟩ := exec_dramTrainingDone_loads himage h0 h1 hlast (noTriggers_of_all htrig) hcheck
    rwa [Host.Outcome.next.inj (ht.symm.trans ht')]

end Sys2Proof.Laws
end

section
/-! SUPPORT. What the FEC counters of a frame leave as it is, and the rows of Table 5.2: which frames each of them takes and
what becomes of them (05 R105 to R109, R114, R119, R120). -/

namespace Sys2Proof.Laws

open Sys2Proof.Machine

/-! ## What counting leaves alone -/

section
variable (d n k : Nat) (s : State) (e : Nat)

@[simp] theorem hasDie_ingCntN : (ingCntN d n k s).hasDie e = s.hasDie e := hasDie_modDie ..

@[simp] theorem die_ingCntN_eth : ((ingCntN d n k s).die e).ing.eth = (s.die e).ing.eth :=
  view_modDie (p := (·.ing.eth)) s d e fun _ => rfl

@[simp] theorem ethPort_ingCntN (i : Nat) : (ingCntN d n k s).ethPort e i = s.ethPort e i := by
  simp [State.ethPort]

@[simp] theorem die_ingCntN_laddr : ((ingCntN d n k s).die e).ing.laddr = (s.die e).ing.laddr :=
  view_modDie (p := (·.ing.laddr)) s d e fun _ => rfl

@[simp] theorem die_ingCntN_legs : ((ingCntN d n k s).die e).legs = (s.die e).legs :=
  view_modDie (p := (·.legs)) s d e fun _ => rfl

@[simp] theorem now_ingCntN : (ingCntN d n k s).now e = s.now e :=
  view_modDie (p := fun x => stampOf x.tim.time) s d e fun _ => rfl

/-- What a pool holds and what it can hold. -/
def poolView (jb : Bool) (x : Die) : Nat × Nat :=
  (if jb then x.ing.jbUsed else x.ing.pktUsed, if jb then x.str.jbPool else x.str.pktPool)

@[simp] theorem poolView_ingCntN (jb : Bool) : poolView jb ((ingCntN d n k s).die e) = poolView jb (s.die e) :=
  view_modDie s d e fun _ => rfl

@[simp] theorem leg_ingCntN (l : BitVec 16) : (ingCntN d n k s).leg l = s.leg l := by
  simp [State.leg]

@[simp] theorem legLive_ingCntN (l : BitVec 16) : (ingCntN d n k s).legLive l = s.legLive l := by
  rw [State.legLive, leg_ingCntN]
  rfl

@[simp] theorem localAddr_ingCntN (h : LegHalf) : localAddr (ingCntN d n k s) h = localAddr s h := by
  simp [localAddr]

@[simp] theorem addrsOn_ingCntN (sub : Nat) : addrsOn (ingCntN d n k s) e sub = addrsOn s e sub := by
  simp [addrsOn]

@[simp] theorem allOpenLegs_ingCntN : (ingCntN d n k s).allOpenLegs = s.allOpenLegs := by
  have hdies : (ingCntN d n k s).dieList = s.dieList := congrArg List.range (modDie_length ..)
  have hopen : (ingCntN d n k s).legOpen = s.legOpen := by
    funext l
    simp [State.legOpen, legIdOk]
  have hlegs : (ingCntN d n k s).openLegs = s.openLegs := by
    funext e
    simp [State.openLegs, State.legsOf, hopen]
  simp [State.allOpenLegs, hdies, hlegs]

variable (f : Frame)

@[simp] theorem isPtp_ingCntN (sub : Nat) : isPtp (ingCntN d n k s) e sub f = isPtp s e sub f := rfl

@[simp] theorem macOk_ingCntN (sub : Nat) (m : BitVec 48) : macOk (ingCntN d n k s) e sub m = macOk s e sub m := by
  simp [macOk]

@[simp] theorem isLoop_ingCntN : isLoop (ingCntN d n k s) e f = isLoop s e f := by
  simp [isLoop]

@[simp] theorem matchLeg_ingCntN (sub : Nat) : matchLeg (ingCntN d n k s) e sub f = matchLeg s e sub f := by
  simp [matchLeg]

end

/-! ## Rows 1 to 9 of Table 5.2 -/

section
variable {die sub : Nat} {raw : BitVec 64} {f : Frame} {s : State}

/-- A subport that receives for the bridge: present, enabled and not Adit. -/
def liveSubport (s : State) (die sub : Nat) : Prop :=
  s.hasDie die = true ∧ (s.die die).ing.present.getLsbD sub = true ∧ (s.ethPort die sub).enable = true ∧
    (s.die die).ing.adit.getLsbD sub = false

/-- A frame's corrected and uncorrectable FEC codewords, counted. -/
abbrev fecCounted (die : Nat) (f : Frame) (s : State) : State := ingCntN die 16 f.fecFixed (ingCntN die 17 f.fecBad s)

/-- A frame that rows 1 to 3 let pass: whole, of a legal length, no pause frame. -/
def goodFrame (s : State) (die sub : Nat) (f : Frame) : Prop :=
  f.fcsOk = true ∧ 64 ≤ f.len ∧ f.len ≤ (s.ethPort die sub).maxFrame.toNat ∧ f.etherType ≠ 0x8808

/-- A frame that rows 4 and 5 let pass: for a MAC of the subport, and not the Duken core's. -/
def bridgeFrame (s : State) (die sub : Nat) (f : Frame) : Prop :=
  isPtp s die sub f = false ∧ macOk s die sub f.dstMac = true

/-- A frame that rows 6 to 9 let pass: an unfragmented UDP packet of IPv4 whose checksums agree. -/
def validUdp (f : Frame) : Prop :=
  f.ip = 4 ∧ f.udp = true ∧ f.frag = false ∧ f.hdrOk = true ∧ (f.udpSumZero = true ∨ f.udpSumOk = true)

/-- A frame that one of the rows 1 to 3 and 5 discards. -/
def discarded (s : State) (die sub : Nat) (f : Frame) : Prop :=
  f.fcsOk = false ∨ f.len < 64 ∨ (s.ethPort die sub).maxFrame.toNat < f.len ∨ f.etherType = 0x8808 ∨
    (isPtp s die sub f = false ∧ macOk s die sub f.dstMac = false)

/-- The counter of ING_CNT of the row that discards a frame. -/
def discardCounter (s : State) (die sub : Nat) (f : Frame) : Nat :=
  if f.fcsOk = false then 0
  else if f.len < 64 ∨ (s.ethPort die sub).maxFrame.toNat < f.len then 1
  else if f.etherType = 0x8808 then 2 else 3

theorem exec_frameReceive : exec (.frameReceive die sub raw f) s = execFrameReceive die sub raw f s := rfl

theorem exec_frameReceive_deadSubport
    (h : s.hasDie die = false ∨ (s.die die).ing.present.getLsbD sub = false ∨ (s.ethPort die sub).enable = false ∨
      (s.die die).ing.adit.getLsbD sub = true) :
    exec (.frameReceive die sub raw f) s = .next s := by
  rw [exec_frameReceive, execFrameReceive]
  refine if_pos ?_
  simpa [or_assoc] using h

theorem exec_frameReceive_discards (hlive : liveSubport s die sub) (h : discarded s die sub f) :
    exec (.frameReceive die sub raw f) s = .next (ingCnt die (discardCounter s die sub f) (fecCounted die f s)) := by
  obtain ⟨hdie, hpresent, henable, hadit⟩ := hlive
  rw [exec_frameReceive, execFrameReceive, discardCounter]
  simp only [hdie, hpresent, henable, hadit]
  unfold discarded at h
  cases hfcs : f.fcsOk with
  | false => simp [fecCounted]
  | true =>
    by_cases hlen : f.len < 64 ∨ (s.ethPort die sub).maxFrame.toNat < f.len
    · simp [hlen, fecCounted]
    · by_cases hpause : f.etherType = 0x8808#16
      · simp [hlen, hpause, fecCounted]
      · have hmac : isPtp s die sub f = false ∧ macOk s die sub f.dstMac = false := by
          simpa [hfcs, hpause, not_or.mp hlen] using h
        simp [hlen, hpause, hmac, fecCounted]

/-- A valid UDP packet for the bridge is classified. -/
theorem exec_frameReceive_validUdp (hlive : liveSubport s die sub) (hgood : goodFrame s die sub f)
    (hbridge : bridgeFrame s die sub f) (hudp : validUdp f) :
    exec (.frameReceive die sub raw f) s =
      .next (classify die sub (rxStamp (s.dlyOf die sub) raw) f (fecCounted die f s)) := by
  obtain ⟨hdie, hpresent, henable, hadit⟩ := hlive
  obtain ⟨hfcs, hlong, hshort, hpause⟩ := hgood
  obtain ⟨hptp, hmac⟩ := hbridge
  obtain ⟨hip, hproto, hfrag, hhdr, hsum⟩ := hudp
  have hpause : ¬ f.etherType = 0x8808#16 := hpause
  have hsums : ¬ (f.udpSumZero = false ∧ f.udpSumOk = false) := by
    rintro ⟨hzero, hbad⟩
    simp [hzero, hbad] at hsum
  have hlen : ¬ (f.len < 64 ∨ (s.ethPort die sub).maxFrame.toNat < f.len) := by omega
  rw [exec_frameReceive, execFrameReceive]
  simp [hdie, hpresent, henable, hadit, hfcs, hlen, hpause, hptp, hmac, hip, hproto, hfrag, hhdr, hsums, fecCounted]

end

/-! ## Row 10: classification, demultiplexing, the home die -/

section
variable {d sub : Nat} {arrival : BitVec 64} {f : Frame} {l : BitVec 16} {s : State}

theorem classify_unlisted (hloop : isLoop s d f = none) (hmatch : matchLeg s d sub f = none)
    (haddr : (addrsOn s d sub).contains f.dst = false) : classify d sub arrival f s = ingCnt d 3 s := by
  rw [classify, hloop]
  dsimp only
  rw [hmatch]
  dsimp only
  rw [haddr]
  rfl

theorem policeLeg_unlimited {len : Nat} (hrate : (s.legLive l).inRate = 0) :
    policeLeg d l arrival len s = (some false, s) := by
  simp [policeLeg, hrate]

theorem classify_matched (hloop : isLoop s d f = none) (hmatch : matchLeg s d sub f = some l)
    (hrate : (s.legLive l).inRate = 0) : classify d sub arrival f s = demux d sub l arrival false f s := by
  rw [classify, hloop]
  dsimp only
  rw [hmatch]
  dsimp only
  rw [policeLeg_unlimited hrate]

/-- The RTP packet that a frame hands to the home die of its leg. -/
def rtpArrival (sub : Nat) (arrival : BitVec 64) (f : Frame) : RxPacket :=
  { pkt := { f.pkt with rtcp := false }, arrival := arrival, ipLen := f.ipLen, ecn := f.ecn, c1 := crc32c (ipBytes f),
    raw := f.raw, sub := sub, c0Ok := f.c0Ok }

theorem demux_rtp (h0 : 128 ≤ f.b0.toNat ∧ f.b0.toNat ≤ 191) (h1 : f.b1.toNat < 192) :
    demux d sub l arrival false f s = homeArrive l (rtpArrival sub arrival f) s := by
  have hrtcp : decide (192 ≤ f.b1.toNat ∧ f.b1.toNat ≤ 223) = false := decide_eq_false (by omega)
  have hstun : ¬ f.b0.toNat ≤ 3 := by omega
  have hdtls : ¬ (20 ≤ f.b0.toNat ∧ f.b0.toNat ≤ 63) := by omega
  have hturn : ¬ (64 ≤ f.b0.toNat ∧ f.b0.toNat ≤ 79) := by omega
  rw [demux]
  dsimp only
  rw [if_neg hstun, if_neg hdtls, if_neg hturn, if_pos h0, hrtcp]
  rfl

/-- The bytes of a packet taken into one of the two pools. -/
def pooled (jb : Bool) (d n : Nat) (s : State) : State := if jb then jbPoolAdd d n s else pktPoolAdd d n s

theorem poolTakes_room {jb : Bool} {len : Nat}
    (hroom : (poolView jb (s.die d)).1 + len ≤ (poolView jb (s.die d)).2) :
    poolTakes d l jb false len s = (true, pooled jb d len s) := by
  rw [poolTakes]
  dsimp only
  exact (if_neg (Nat.not_lt.mpr hroom)).trans rfl

@[simp] theorem now_pooled (jb : Bool) (n e : Nat) : (pooled jb d n s).now e = s.now e := by
  cases jb <;> exact view_modDie (p := fun x => stampOf x.tim.time) s d e fun _ => rfl

@[simp] theorem toJb_index (h : LegHalf) (p : Packet) (i : Nat) : toJb h { p with index := i } = toJb h p := rfl

/-- The packet with the index that its sequence number stands for, as it lies in the engine of its leg's home die. -/
def inEngine (l : BitVec 16) (r : RxPacket) (s : State) : RxPacket :=
  { r with leg := l, placed := s.now (legDie l)
           pkt := { r.pkt with index := estIndex (rxWin (s.leg l).cry false r.pkt.ssrc) r.pkt.seq } }

theorem homeArrive_enters {r : RxPacket} (hrtp : r.pkt.rtcp = false) (hmark : r.marked = false)
    (hplain : (s.legLive l).xform = 0) (hwhole : (s.legLive l).cutThrough = false)
    (hown : ownSsrc (s.legLive l) r.pkt.ssrc = false) (hknown : (rxSsrcs (s.legLive l)).contains r.pkt.ssrc = true)
    (hroom : let v := poolView (toJb (s.legLive l) r.pkt) (s.die (legDie l)); v.1 + r.ipLen ≤ v.2) :
    homeArrive l r s = (pooled (toJb (s.legLive l) r.pkt) (legDie l) r.ipLen s).modDie (legDie l) fun x =>
      { x with ing := { x.ing with inFlight := x.ing.inFlight ++ [inEngine l r s] } } := by
  have hrtp' : ¬ r.pkt.rtcp = true := by simp [hrtp]
  have hpool := poolTakes_room (l := l) hroom
  rw [homeArrive]
  dsimp only
  rw [if_neg hrtp']
  dsimp only
  simp only [hown, hknown, hplain, hwhole, hmark, toJb_index, hpool, now_pooled, inEngine, ne_eq, not_true, decide_false,
    Bool.false_and, Bool.not_true, Bool.false_eq_true, if_false]

end

end Sys2Proof.Laws
end

section
/-! SUPPORT. The stranger queue (05 R111 to R113): what a class's bucket leaves of its count of skipped records, and what becomes
of a record that its bucket passes into a ring with room. -/

namespace Sys2Proof.Laws

open Sys2Proof.Machine

/-! ## The bucket of a class -/

section
variable {d sub : Nat} {r : BitVec 4} {arrival : BitVec 64} {l : BitVec 16} {ssrc : BitVec 32} {raw : List Byte} {s : State}

/-- A bucket with the tokens of the whole ns since its last update. -/
def refilled (lim : BitVec 48) (now : BitVec 64) (b : StrBucket) : StrBucket :=
  let ns := stampDiff now b.last / 65536
  if 0 < ns then
    { b with tok := min ((lim.extractLsb' 32 16).toNat * strNeed) (b.tok + (lim.extractLsb' 0 32).toNat * ns.toNat)
             last := b.last + BitVec.ofNat 64 (65536 * ns.toNat) }
  else b

theorem strTake_eq (lim : BitVec 48) (now : BitVec 64) (b : StrBucket) :
    strTake lim now b =
      if strNeed ≤ (refilled lim now b).tok then
        (true, { refilled lim now b with tok := (refilled lim now b).tok - strNeed })
      else (false, { refilled lim now b with skipped := (refilled lim now b).skipped + 1 }) := rfl

theorem skipped_refilled (lim : BitVec 48) (now : BitVec 64) (b : StrBucket) : (refilled lim now b).skipped = b.skipped := by
  simp only [refilled]
  split <;> rfl

/-- A record that passes its bucket leaves the count of skipped ones as it is. -/
theorem skipped_strTake {lim : BitVec 48} {now : BitVec 64} {b : StrBucket} (h : (strTake lim now b).1 = true) :
    (strTake lim now b).2.skipped = b.skipped := by
  rw [strTake_eq] at h ⊢
  by_cases hfull : strNeed ≤ (refilled lim now b).tok
  · simp only [if_pos hfull, skipped_refilled]
  · simp only [if_neg hfull, Bool.false_eq_true] at h

/-- What the bucket of a reason's class, Unknown or Known, says of a record. -/
def classTake (r : BitVec 4) (g : Ing) (now : BitVec 64) : Bool × StrBucket :=
  strTake (if r == 0 || r == 6 then g.limUnknown else g.limKnown) now (if r == 0 || r == 6 then g.unknown else g.known)

theorem skipped_classTake {g : Ing} {now : BitVec 64} (h : (classTake r g now).1 = true) :
    (classTake r g now).2.skipped = if r = 0 ∨ r = 6 then g.unknown.skipped else g.known.skipped := by
  rw [classTake, skipped_strTake h]
  by_cases hr : r = 0 ∨ r = 6
  · rw [if_pos (by simpa using hr), if_pos hr]
  · rw [if_neg (by simpa using hr), if_neg hr]

/-! ## The ring -/

/-- Writes the bucket of a reason's class. -/
def setBucket (d : Nat) (r : BitVec 4) (b : StrBucket) (s : State) : State :=
  s.modDie d fun x => { x with ing := if r == 0 || r == 6 then { x.ing with unknown := b } else { x.ing with known := b } }

/-- TAIL moves to the slot `t` of a ring of so many, PHASE turning where it wraps. -/
def ringAdvance (d t size : Nat) (s : State) : State :=
  s.modDie d fun x => { x with ing := { x.ing with
    strTail := BitVec.ofNat 12 (t % size), strPhase := if t = size then !x.ing.strPhase else x.ing.strPhase } }

/-- The interrupt of a ring, where it is enabled. -/
def ringSignal (g : Ing) (s : State) : State := if g.strIrq then emit (Out.msix 0 g.strVector) s else s

@[simp] theorem die_setBucket_strPhase (b : StrBucket) (e : Nat) :
    ((setBucket d r b s).die e).ing.strPhase = (s.die e).ing.strPhase :=
  view_modDie (p := (·.ing.strPhase)) s d e fun x => by dsimp only; split <;> rfl

@[simp] theorem die_ingCnt_strPhase (n e : Nat) : ((ingCnt d n s).die e).ing.strPhase = (s.die e).ing.strPhase :=
  view_modDie (p := (·.ing.strPhase)) s d e fun _ => rfl

@[simp] theorem hasDie_setBucket (b : StrBucket) (e : Nat) : (setBucket d r b s).hasDie e = s.hasDie e := hasDie_modDie ..

@[simp] theorem hasDie_ingCnt (n e : Nat) : (ingCnt d n s).hasDie e = s.hasDie e := hasDie_modDie ..

@[simp] theorem die_ringAdvance (t size : Nat) (h : s.hasDie d = true) :
    (ringAdvance d t size s).die d = { s.die d with ing := { (s.die d).ing with
      strTail := BitVec.ofNat 12 (t % size)
      strPhase := if t = size then !(s.die d).ing.strPhase else (s.die d).ing.strPhase } } :=
  die_modDie_self s d _ h

@[simp] theorem die_ringSignal (g : Ing) (e : Nat) : (ringSignal g s).die e = s.die e := by
  unfold ringSignal
  split <;> rfl

@[simp] theorem out_ringSignal (g : Ing) :
    (ringSignal g s).out = (if g.strIrq then [Out.msix 0 g.strVector] else []) ++ s.out := by
  unfold ringSignal
  split <;> rfl

/-- A record that its bucket passes into an enabled ring with a free slot is written and counted, and TAIL moves on. -/
theorem stranger_sends {b : StrBucket} (hen : (s.die d).ing.strEn = true)
    (htake : classTake r (s.die d).ing s.clk = (true, b))
    (hroom : ((s.die d).ing.strTail.toNat + 1) % 2 ^ (s.die d).ing.strLog2.toNat ≠
      (s.die d).ing.strHead.toNat % 2 ^ (s.die d).ing.strLog2.toNat) :
    stranger d r sub arrival l ssrc raw true s =
      ringSignal (s.die d).ing (ringAdvance d ((s.die d).ing.strTail.toNat + 1) (2 ^ (s.die d).ing.strLog2.toNat)
        (ingCnt d 7 (setBucket d r { b with skipped := 0 } (emit (Out.stranger d (s.die d).ing.strTail (s.die d).ing.strPhase r sub
          arrival l ssrc b.skipped (raw.take 2016) (decide (2016 < raw.length)) raw.length) (setBucket d r b s))))) := by
  rw [classTake] at htake
  rw [stranger]
  dsimp only
  rw [htake]
  dsimp only
  rw [hen, if_neg hroom]
  rfl

end

end Sys2Proof.Laws
end

section
/-! The obligation on the disposal of received frames (05 R105, R106, R109, R113). -/

namespace Sys2Proof.Laws

open Sys2Proof.Machine

/-- Settles O30: the row of Table 5.2 that takes a frame says what becomes of it. -/
theorem framesAreDisposedOfByTheirFirstRow : Obligations.FramesAreDisposedOfByTheirFirstRow := by
  refine ⟨?dead, ?discards, ?unlisted, ?enters, ?stranger⟩
  case dead =>
    intro die sub raw f s h
    exact exec_frameReceive_deadSubport h
  case discards =>
    intro die sub raw f s hdie hport hbad
    exact exec_frameReceive_discards ⟨hdie, hport⟩ hbad
  case unlisted =>
    intro die sub raw f s hdie hport hgood hbridge hudp hloop hmatch haddr
    rw [exec_frameReceive_validUdp ⟨hdie, hport⟩ hgood hbridge hudp,
      classify_unlisted (by simpa using hloop) (by simpa using hmatch) (by simpa using haddr)]
    rfl
  case enters =>
    intro die sub raw f l s hdie hport hgood hbridge hudp hloop hmatch hleg hbytes hssrc x a hroom
    obtain ⟨hrate, hplain, hwhole⟩ := hleg
    obtain ⟨hfirst, hlast, hpt⟩ := hbytes
    obtain ⟨hown, hknown⟩ := hssrc
    have hfits : (poolView a x).1 + f.ipLen ≤ (poolView a x).2 := hroom
    rw [exec_frameReceive_validUdp ⟨hdie, hport⟩ hgood hbridge hudp,
      classify_matched (l := l) (by simpa using hloop) (by simpa using hmatch) (by simpa using hrate),
      demux_rtp ⟨hfirst, hlast⟩ hpt,
      homeArrive_enters rfl rfl (by simpa using hplain) (by simpa using hwhole)
        (by simpa [rtpArrival] using hown) (by simpa [rtpArrival] using hknown)
        (by simpa [rtpArrival] using hfits)]
    simp only [legLive_ingCntN, inEngine, leg_ingCntN, now_ingCntN]
    rfl
  case stranger =>
    intro d r sub arrival l ssrc raw s
    dsimp only
    intro hdie hen htake hroom
    rw [stranger_sends hen (Prod.ext htake rfl : classTake r _ _ = (true, _)) hroom, skipped_classTake htake]
    refine ⟨?tail, ?phase, ?out⟩
    case tail => simp [hdie]
    case phase => simp [hdie]
    case out => exact out_ringSignal _

end Sys2Proof.Laws
end

section
/-! The obligation on the judging of packets and the placement of audio (05 R118, R126, R129, 06 R147, R148). -/

namespace Sys2Proof.Laws

open Sys2Proof.Machine

/-- A package after reset with one move in progress, from leg 0 to leg 0, whose switch is at once. -/
def selfMoveState : State := { State.reset with moves := [{ src := 0, dst := 0 }] }

theorem placeAudio_selfMoveState_stores_twice :
    ((placeAudio 0 {} 0 0 0 false none selfMoveState).2.leg 0).jb.frames.length = 2 := by
  decide

/-- Refutes O32: the last clause leaves open which moves are in progress. From the boundary before its switch on, a move
writes each stored frame to the buffer of its target too (04 Table 4.12 step 3); in a state whose move names one leg as
source and target, the first packet of that leg leaves its buffer with two frames, not one. MIGRATE_LEG starts no such move
(its source is open, its target closed), but the statement asks nothing of the moves of its state. -/
theorem not_packetsAreJudgedAndAudioPlaced : ¬ Obligations.PacketsAreJudgedAndAudioPlaced := by
  rintro ⟨-, -, -, -, hplaced⟩
  obtain ⟨-, -, -, f, hframes, -⟩ := hplaced 0 {} 0 0 0 selfMoveState (by decide) (by decide) (by decide) (by decide)
  have htwo := placeAudio_selfMoveState_stores_twice
  rw [hframes] at htwo
  exact absurd htwo (by simp)

end Sys2Proof.Laws
end

section
/-! SUPPORT. The limiter (07 R171): rounding under a bound, and what a step makes of the ring and of the gain. -/

namespace Sys2Proof.Laws

open Sys2Proof.Machine

/-- A rounded quotient stays within any whole bound that the exact one keeps. -/
theorem natAbs_rneShift_le {v : Int} {k n : Nat} (h : v.natAbs ≤ n * 2 ^ k) : (rneShift v k).natAbs ≤ n := by
  have hpos : (0 : Int) < 2 ^ k := Int.pow_pos (by decide)
  have hhalf : (0 : Int) < 2 ^ (k - 1) := Int.pow_pos (by decide)
  have hbound : (v.natAbs : Int) ≤ n * 2 ^ k := by exact_mod_cast h
  have hfloor : -(n : Int) ≤ v / 2 ^ k := (Int.le_ediv_iff_mul_le hpos).mpr (by rw [Int.neg_mul]; omega)
  have hquot : v / 2 ^ k ≤ n := Int.ediv_le_of_le_mul hpos (by omega)
  -- the quotient is rounded up only where a remainder is left, and then it lies below the bound
  have hup : v % 2 ^ k ≠ 0 → v / 2 ^ k < n := fun hrem =>
    Int.lt_iff_le_and_ne.mpr ⟨hquot, fun heq => hrem <| by
      have hsplit := Int.mul_ediv_add_emod v (2 ^ k)
      have hnonneg := Int.emod_nonneg v (Int.ne_of_gt hpos)
      rw [heq, Int.mul_comm] at hsplit
      omega⟩
  unfold rneShift
  dsimp only
  split
  · rename_i hround
    have hrem : v % 2 ^ k ≠ 0 := by
      intro hzero
      rw [hzero, Bool.or_eq_true, Bool.and_eq_true, decide_eq_true_eq, beq_iff_eq] at hround
      omega
    have := hup hrem
    omega
  · omega

/-- A fold of minima lies at or below its start. -/
theorem foldl_min_le_init (f : Nat → Nat) (l : List Nat) (b : Nat) : l.foldl (fun g k => min g (f k)) b ≤ b := by
  induction l generalizing b with
  | nil => exact Nat.le_refl b
  | cons k l ih => exact Nat.le_trans (ih _) (Nat.min_le_left _ _)

/-- A fold of minima lies at or below each of its terms. -/
theorem foldl_min_le_of_mem (f : Nat → Nat) {l : List Nat} {k : Nat} (hk : k ∈ l) (b : Nat) :
    l.foldl (fun g k => min g (f k)) b ≤ f k := by
  induction l generalizing b with
  | nil => cases hk
  | cons j l ih =>
    obtain rfl | hk := List.mem_cons.mp hk
    · exact Nat.le_trans (foldl_min_le_init f l _) (Nat.min_le_right _ _)
    · exact ih hk _

/-- The need of a sample of magnitude `a` under the ceiling `c`. -/
def limNeed (c a : Nat) : Nat := if a ≤ c then limOne else limOne * c / a

/-- Every sample of a limiter's ring carries its need. -/
def CarriesNeeds (c : Nat) (st : LimState) : Prop :=
  ∀ e ∈ st.ring, e.2.2 = limNeed c (max e.1.natAbs e.2.1.natAbs)

/-- What the need is for: under it the larger magnitude comes to no more than the ceiling. -/
theorem mul_limNeed_le (c a : Nat) : a * limNeed c a ≤ c * limOne := by
  unfold limNeed
  split
  case isTrue hwithin => exact Nat.mul_le_mul_right _ hwithin
  case isFalse => exact Nat.le_trans (Nat.mul_div_le _ a) (Nat.le_of_eq (Nat.mul_comm _ _))

/-- A magnitude that lies within another, under a gain within the other's need, stays within the ceiling. -/
theorem natAbs_rneShift_gain_le {v : Int} {a g c : Nat} (hv : v.natAbs ≤ a) (hg : g ≤ limNeed c a) :
    (rneShift (v * g) 30).natAbs ≤ c := by
  refine natAbs_rneShift_le ?_
  calc (v * g).natAbs = v.natAbs * g := by rw [Int.natAbs_mul, Int.natAbs_natCast]
    _ ≤ a * limNeed c a := Nat.mul_le_mul hv hg
    _ ≤ c * 2 ^ 30 := mul_limNeed_le c a

section
variable {c relShift : Nat} {st : LimState} {x : Sample}

theorem limStep_ring : (limStep c relShift st x).ring =
    ((x.1, x.2, limNeed c (max x.1.natAbs x.2.natAbs)) :: st.ring).take 17 := rfl

theorem limStep_carriesNeeds (h : CarriesNeeds c st) : CarriesNeeds c (limStep c relShift st x) := by
  intro e he
  rw [limStep_ring] at he
  obtain rfl | hold := List.mem_cons.mp (List.mem_of_mem_take he)
  · rfl
  · exact h e hold

theorem limStep_g_le_limOne : (limStep c relShift st x).g ≤ limOne :=
  Nat.le_trans (Nat.min_le_left _ _) (foldl_min_le_init _ _ _)

/-- The look-ahead leaves nothing over at the sample that leaves: its gain is within its need. -/
theorem limStep_g_le_need {e : Int × Int × Nat} (h : (limStep c relShift st x).ring[16]? = some e) :
    (limStep c relShift st x).g ≤ e.2.2 := by
  simp only [limStep] at h ⊢
  refine Nat.le_trans (Nat.min_le_left _ _)
    (Nat.le_trans (foldl_min_le_of_mem _ (List.mem_range.mpr (by decide : 16 < 17)) _) ?_)
  simp only [h, Nat.sub_self, Nat.mul_zero, Nat.zero_div, Nat.add_zero, Nat.le_refl]

end

end Sys2Proof.Laws
end

section
/-! The obligation on the limiter's ceiling (07 R171). -/

namespace Sys2Proof.Laws

open Sys2Proof.Machine

/-- Settles O37: the gain is within the need of the sample that leaves, and a need keeps both its sides within C. -/
theorem limitedSamplesStayUnderTheCeiling : Obligations.LimitedSamplesStayUnderTheCeiling := by
  intro c relShift st x hneeds
  have hkept : CarriesNeeds c (limStep c relShift st x) := limStep_carriesNeeds hneeds
  refine ⟨hkept, limStep_g_le_limOne, fun e he => ?_⟩
  have hgain := limStep_g_le_need he
  rw [hkept e (List.mem_of_getElem? he)] at hgain
  exact ⟨natAbs_rneShift_gain_le (Nat.le_max_left _ _) hgain, natAbs_rneShift_gain_le (Nat.le_max_right _ _) hgain⟩

end Sys2Proof.Laws
end

section
/-! SUPPORT. A report to an error log that has no slot to give: it is only counted as lost (17 R383, R384). -/

namespace Sys2Proof.Laws

open Sys2Proof.Machine

/-- A log has no slot to give: none is free at its tail, and none holds a record that could be displaced. -/
def logFull (e : Err) : Prop :=
  slotFree (tget none e.ring e.tail.toNat) = false ∧ ∀ x ∈ e.ring, slotOpen x.2 = false

theorem pickSlot_none {ring : Tab (Option ErrRec)} (h : ∀ x ∈ ring, slotOpen x.2 = false) (newest : Bool)
    (p : ErrRec → Bool) : pickSlot newest p ring = none := by
  unfold pickSlot
  induction ring with
  | nil => rfl
  | cons x ring ih =>
    obtain ⟨i, e⟩ := x
    have hx : slotOpen e = false := h (i, e) (List.mem_cons_self ..)
    rw [List.foldl_cons]
    cases e with
    | none => exact ih fun y hy => h y (List.mem_cons_of_mem _ hy)
    | some r =>
      simp only [hx, Bool.false_and, Bool.false_eq_true, if_false]
      exact ih fun y hy => h y (List.mem_cons_of_mem _ hy)

section
variable {s : State} {d : Nat}

theorem newRecord_full (h : logFull (s.die d).err) (r : ErrRec) : newRecord d r s =
    s.modDie d fun x => { x with err := { x.err with lost := x.err.lost + 1, lostSeen := true } } := by
  obtain ⟨htail, hopen⟩ := h
  simp only [newRecord, htail, pickSlot_none hopen, Bool.false_eq_true, if_false]

/-- A full log takes note of no code. -/
theorem seen_raiseFrom_full (h : logFull (s.die d).err) (src : Byte) (code : BitVec 16) (detail : BitVec 64) :
    ((raiseFrom d src code detail s).die d).err.seen = (s.die d).err.seen := by
  have hlost (r : ErrRec) : ((newRecord d r s).die d).err.seen = (s.die d).err.seen := by
    rw [newRecord_full h]
    exact view_modDie (p := (·.err.seen)) s d d fun _ => rfl
  simp only [raiseFrom, pickSlot_none h.2]
  split
  · rfl
  · split <;> exact hlost _

theorem seen_raiseAny_full (h : logFull (s.die d).err) (src : Byte) (code : BitVec 16) :
    ((raiseAny d src code s).die d).err.seen = (s.die d).err.seen :=
  seen_raiseFrom_full (s := (draw s).2) h src code _

end

end Sys2Proof.Laws
end

section
/-! SUPPORT. FSYNC edges of a running slave port (08 R184). -/

namespace Sys2Proof.Laws

open Sys2Proof.Machine

section
variable {s : State} {die p : Nat}

theorem exec_tdmFsyncEdge_tracks {k : Nat} {raw l : BitVec 64} (hslave : cfgMaster (s.tdmPort die p).cfg = false)
    (hrun : (s.tdmPort die p).state = .running) (hedge : (s.tdmPort die p).edge = some k)
    (hlast : (s.tdmPort die p).lastFsync = some l) (hgap : stampDiff raw l ≤ 3 * framePeriod) :
    exec (.tdmFsyncEdge die p raw) s = .next
      ((trackPort die p (stampAt s die raw) k ((stampDiff raw l + framePeriod / 2) / framePeriod).toNat s).modPort die p
        fun x => { x with lastFsync := some raw }) := by
  change execTdmFsyncEdge die p raw s = _
  simp only [execTdmFsyncEdge, hslave, hrun, hlast, hedge, Int.not_lt.mpr hgap, Bool.false_eq_true, if_false]

/-- A fast clock, of whose frames one is too many. -/
theorem trackPort_fast {t : Int} {k n : Nat}
    (h : frameOfs (s.tdmPort die p) t (k + max 1 n) - (s.tdmPort die p).phase.toInt < -halfSample) :
    trackPort die p t k n s = slipPort die p t (k + max 1 n - 1) false s := by
  have hslow : ¬ halfSample < frameOfs (s.tdmPort die p) t (k + max 1 n) - (s.tdmPort die p).phase.toInt :=
    Int.not_lt.mpr (Int.le_trans (Int.le_of_lt h) (by decide))
  simp only [trackPort, hslow, h, if_false, if_true]

theorem err_modPort (s : State) (d p e : Nat) (f : TdmPort → TdmPort) : ((s.modPort d p f).die e).err = (s.die e).err :=
  view_modDie (p := (·.err)) s d e fun _ => rfl

theorem err_tdmEv (d i e : Nat) (s : State) : ((tdmEv d i s).die e).err = (s.die e).err :=
  view_modDie (p := (·.err)) s d e fun _ => rfl

/-- A slip of a fast clock goes unseen by a full log. -/
theorem seen_slipPort_full (h : logFull (s.die die).err) (t : Int) (k : Nat) :
    ((slipPort die p t k false s).die die).err.seen = (s.die die).err.seen := by
  simp only [slipPort, Bool.false_eq_true, if_false]
  rw [err_tdmEv, seen_raiseAny_full, err_modPort]
  rwa [err_modPort]

end

end Sys2Proof.Laws
end

section
/-! The obligation on the configuration and the clocks of TDM ports (08 R182 to R186, R189, R194). -/

namespace Sys2Proof.Laws

open Sys2Proof.Machine

/-- Slots 0 to n − 1 of an error log, each with the pinned first record of a code. -/
def pinnedRing (n : Nat) : Tab (Option ErrRec) :=
  (List.range n).map fun i => (i, some { code := BitVec.ofNat 16 i, pinned := true, count := 1, order := i })

/-- An error log whose first n slots hold these records, the codes seen. -/
def pinnedLog (n : Nat) : Err := { ring := pinnedRing n, seen := (List.range n).map (BitVec.ofNat 16), nextOrder := n }

theorem slotFree_pinnedRing (n : Nat) : slotFree (tget none (pinnedRing (n + 1)) 0) = false := by
  rw [pinnedRing, List.range_succ_eq_map]
  rfl

theorem slotOpen_pinnedRing {n : Nat} : ∀ x ∈ pinnedRing n, slotOpen x.2 = false := by
  intro x hx
  obtain ⟨i, -, rfl⟩ := List.mem_map.mp hx
  rfl

theorem logFull_pinnedLog (n : Nat) : logFull (pinnedLog (n + 1)) := ⟨slotFree_pinnedRing n, slotOpen_pinnedRing⟩

theorem not_mem_seen_pinnedLog {n c : Nat} (hn : n ≤ c) (hc : c < 2 ^ 16) : BitVec.ofNat 16 c ∉ (pinnedLog n).seen := by
  intro h
  obtain ⟨i, hi, heq⟩ := List.mem_map.mp h
  have hlt := List.mem_range.mp hi
  have hnat := congrArg BitVec.toNat heq
  simp only [BitVec.toNat_ofNat] at hnat
  omega

/-- Port 7 of die 0 a running slave whose clock is fast: it measured the offset 0, its frame 1 began 600,000,000 units early,
and the edge of frame 2 comes now, 690,000,000 units early, where half a sample has 682,666,666. Each of the 1,024 slots of the die's log holds a pinned record. -/
def fastClockState : State := State.reset.modDie 0 fun x => { x with
  err := pinnedLog 1024, tim := { x.tim with time := 2040666666 }
  tdm := { x.tdm with ports := [(7, { state := .running, cfg := 0, frame := 1, edge := some 1, lastFsync := some 765333333 })] } }

theorem err_fastClockState : (fastClockState.die 0).err = pinnedLog 1024 := by
  rw [fastClockState, die_modDie_self _ _ _ (by decide)]

theorem exec_fastClockState : exec (.tdmFsyncEdge 0 7 2040666666) fastClockState = .next
    ((slipPort 0 7 2040666666 1 false fastClockState).modPort 0 7 fun x => { x with lastFsync := some 2040666666 }) := by
  rw [exec_tdmFsyncEdge_tracks (k := 1) (l := 765333333) (by decide) (by decide) (by decide) (by decide) (by decide),
    trackPort_fast (by decide)]
  rfl

/-- Refutes O39: the clause on slips asks the log of the port's die to have seen 0x0804, and leaves open what stands in that
log. A first report needs a slot (17 R383): where every slot holds a pinned record, which never moves, the report is lost and
its code is not noted as seen. The port slips all the same. -/
theorem not_tdmPortsAreConfiguredAndFramed : ¬ Obligations.TdmPortsAreConfiguredAndFramed := by
  rintro ⟨-, -, -, -, -, -, -, hslips, -, -⟩
  obtain ⟨u, hexec, -, hreport⟩ := hslips 0 7 1 2040666666 765333333 fastClockState (by decide) (by decide) (by decide) (by decide)
  obtain ⟨hseen, -⟩ := hreport (by decide)
  obtain rfl := Host.Outcome.next.inj (exec_fastClockState.symm.trans hexec)
  rw [err_modPort, seen_slipPort_full (by rw [err_fastClockState]; exact logFull_pinnedLog 1023), err_fastClockState] at hseen
  exact not_mem_seen_pinnedLog (n := 1024) (c := 0x0804) (by decide) (by decide) hseen

end Sys2Proof.Laws
end

section
/-! SUPPORT. TDM ports through the changes of a frame (08 R187, R190): what a report, the passing of time and the opening of a block
leave of a die's groups, pins, queues and ports. -/

namespace Sys2Proof.Laws

open Sys2Proof.Machine

/-- What a die's frames pass through: the groups of its ports, their pins and its queues. -/
def wiring (x : Die) : Tab (BitVec 3) × Tab (BitVec 4) × Tab QPrim := (x.tdm.clkPort, x.tdm.pins, x.drc.queues)

section
variable {s t : State} {d : Nat}

theorem groupOf_congr (h : wiring (t.die d) = wiring (s.die d)) : groupOf t d = groupOf s d := by
  funext p
  rw [groupOf, groupOf, show (t.die d).tdm.clkPort = (s.die d).tdm.clkPort from congrArg Prod.fst h]

theorem groupPorts_congr (h : wiring (t.die d) = wiring (s.die d)) : groupPorts t d = groupPorts s d := by
  funext g
  rw [groupPorts, groupPorts, groupOf_congr h]

theorem hasPin_congr (h : wiring (t.die d) = wiring (s.die d)) : hasPin t d = hasPin s d := by
  funext p i
  rw [hasPin, hasPin, show (t.die d).tdm.pins = (s.die d).tdm.pins from congrArg (·.2.1) h]

theorem queues_congr (h : wiring (t.die d) = wiring (s.die d)) : (t.die d).drc.queues = (s.die d).drc.queues :=
  congrArg (·.2.2) h

theorem tdmPort_congr (h : (t.die d).tdm.ports = (s.die d).tdm.ports) : t.tdmPort d = s.tdmPort d := by
  funext p
  rw [State.tdmPort, State.tdmPort, h]

end

/-! ## Ports that are changed -/

theorem port_ne_default {x : TdmPort} (h : x.state ≠ .stopped) : x ≠ {} := by
  rintro rfl
  exact h rfl

theorem hasDie_of_tdmPort {s : State} {d p : Nat} (h : s.tdmPort d p ≠ {}) : s.hasDie d = true := by
  cases hd : s.hasDie d with
  | true => rfl
  | false => exact absurd (by rw [State.tdmPort, die_of_absent hd]; rfl) h

theorem tdmPort_modPort_self {s : State} {d p : Nat} {f : TdmPort → TdmPort} (hd : s.hasDie d = true)
    (hf : f (s.tdmPort d p) ≠ {}) : (s.modPort d p f).tdmPort d p = f (s.tdmPort d p) := by
  simp only [State.tdmPort, State.modPort, die_modDie_self _ _ _ hd]
  exact tget_tset_of_ne _ _ _ _ hf

theorem tdmPort_modPort_ne {s : State} {d p q : Nat} {f : TdmPort → TdmPort} (hd : s.hasDie d = true)
    (hf : f (s.tdmPort d p) ≠ {}) (hq : q ≠ p) : (s.modPort d p f).tdmPort d q = s.tdmPort d q := by
  simp only [State.tdmPort, State.modPort, die_modDie_self _ _ _ hd]
  exact tget_tset_other _ _ _ _ _ hf hq

/-- What a change leaves of each port in a state other than STOPPED, every port of the die shows as before. -/
theorem view_modPort {α : Type} {c : TdmPort → α} {s : State} {d p : Nat} {f : TdmPort → TdmPort}
    (hstate : (s.tdmPort d p).state ≠ .stopped) (hf : ∀ x, (f x).state = x.state) (hc : ∀ x, c (f x) = c x) (q : Nat) :
    c ((s.modPort d p f).tdmPort d q) = c (s.tdmPort d q) := by
  have hd := hasDie_of_tdmPort (port_ne_default hstate)
  have hne : f (s.tdmPort d p) ≠ {} := port_ne_default (by rwa [hf])
  by_cases hq : q = p
  · rw [hq, tdmPort_modPort_self hd hne, hc]
  · rw [tdmPort_modPort_ne hd hne hq]

/-! ## Time, reports and blocks -/

section
variable {α : Type} {c : Die → α}

theorem view_advanceTo (s : State) (d t e : Nat) (hc : ∀ x y, c { x with tim := y } = c x) :
    c ((s.advanceTo d t).die e) = c (s.die e) := by
  rw [onlyClock_advanceTo s d t e, hc]

theorem view_raiseAny (d : Nat) (src : Byte) (code : BitVec 16) (s : State) (e : Nat) (hc : ∀ x l, c { x with err := l } = c x) :
    c ((raiseAny d src code s).die e) = c (s.die e) := by
  obtain ⟨-, -, hdie⟩ := onlyLog_raiseAny d src code s
  rw [hdie e]
  split
  · exact hc _ _
  · rfl

theorem view_openBlock (d g m : Nat) (s : State) (e : Nat)
    (hc : ∀ (x : Die) b r, c { x with dram := b, tdm := { x.tdm with inRing := r } } = c x) :
    c ((openBlock d g m s).die e) = c (s.die e) := by
  unfold openBlock
  dsimp only
  split
  · rfl
  · exact view_modDie s d e fun _ => hc _ _ _

/-- Reports of the events of a port, each with its bit of TDM_EVENT. -/
theorem view_tdmReports {β : Type} (l : List β) (d i : Nat) (src : Byte) (code : BitVec 16) (s : State) (e : Nat)
    (hlog : ∀ x l, c { x with err := l } = c x) (hev : ∀ (x : Die) v, c { x with tdm := { x.tdm with event := v } } = c x) :
    c ((forAll l (fun _ u => tdmEv d i (raiseAny d src code u)) s).die e) = c (s.die e) := by
  induction l generalizing s with
  | nil => rfl
  | cons _ l ih =>
    exact (ih _).trans ((view_modDie _ d e fun _ => hev _ _).trans (view_raiseAny d src code s e hlog))

end

theorem wiring_iecFrame (d p k : Nat) (slots : List (BitVec 32)) (s : State) (e : Nat) :
    wiring ((iecFrame d p k slots s).die e) = wiring (s.die e) := by
  unfold iecFrame
  exact (view_tdmReports _ _ _ _ _ _ e (fun _ _ => rfl) fun _ _ => rfl).trans (view_modDie s d e fun _ => rfl)

/-- The preambles of a frame change nothing of a port but what it keeps of its pairs. -/
theorem view_iecFrame {α : Type} {c : TdmPort → α} {s : State} {d p : Nat} (k : Nat) (slots : List (BitVec 32)) (q : Nat)
    (hstate : (s.tdmPort d p).state ≠ .stopped)
    (hc : ∀ x muted at_ fade cnt, c { x with iecMuted := muted, iecAt := at_, iecFade := fade, iecCnt := cnt } = c x) :
    c ((iecFrame d p k slots s).tdmPort d q) = c (s.tdmPort d q) := by
  unfold iecFrame
  rw [tdmPort_congr (view_tdmReports (c := (·.tdm.ports)) _ _ _ _ _ _ _ (fun _ _ => rfl) fun _ _ => rfl)]
  refine view_modPort hstate ?_ ?_ q
  · exact fun _ => rfl
  · exact fun x => hc x _ _ _ _

end Sys2Proof.Laws
end

section
/-! SUPPORT. The input of a frame of a running port: what it keeps of the die, and where the frame goes (08 R187, R191). -/

namespace Sys2Proof.Laws

open Sys2Proof.Machine

section
variable {s : State} {die p : Nat}

/-- The state in which a running port receives frame k: a master's frame waits for its end on device time. -/
def frameArrives (die p k : Nat) (s : State) : State :=
  if cfgMaster (s.tdmPort die p).cfg then s.advanceTo die (frameInstant (s.tdmPort die p).startMp.toNat (k + 1)) else s

theorem view_frameArrives {α : Type} {c : Die → α} (k e : Nat) (hc : ∀ x y, c { x with tim := y } = c x) :
    c ((frameArrives die p k s).die e) = c (s.die e) := by
  unfold frameArrives
  split
  · exact view_advanceTo s die _ e hc
  · rfl

/-- A running port receives its next frame: the slots of its line are examined for preambles. -/
def frameSeen (die p : Nat) (slots : List (BitVec 32)) (s : State) : State :=
  iecFrame die p (inputFrameNo s die p) (if hasPin s die p 2 then slots.map (lineSlot (s.tdmPort die p).cfg) else [])
    (frameArrives die p (inputFrameNo s die p) s)

theorem wiring_frameSeen (slots : List (BitVec 32)) (e : Nat) : wiring ((frameSeen die p slots s).die e) = wiring (s.die e) :=
  (wiring_iecFrame ..).trans (view_frameArrives _ e fun _ _ => rfl)

theorem view_frameSeen {α : Type} {c : TdmPort → α} (slots : List (BitVec 32)) (q : Nat)
    (hstate : (s.tdmPort die p).state ≠ .stopped)
    (hc : ∀ x muted at_ fade cnt, c { x with iecMuted := muted, iecAt := at_, iecFade := fade, iecCnt := cnt } = c x) :
    c ((frameSeen die p slots s).tdmPort die q) = c (s.tdmPort die q) := by
  have hports : (frameArrives die p (inputFrameNo s die p) s).tdmPort die = s.tdmPort die :=
    tdmPort_congr (view_frameArrives (c := (·.tdm.ports)) _ die fun _ _ => rfl)
  rw [frameSeen, view_iecFrame _ _ _ (by rwa [hports]) hc, hports]

section
variable (slots : List (BitVec 32))

theorem groupOf_frameSeen : groupOf (frameSeen die p slots s) die = groupOf s die := groupOf_congr (wiring_frameSeen ..)

theorem queues_frameSeen : ((frameSeen die p slots s).die die).drc.queues = (s.die die).drc.queues :=
  queues_congr (wiring_frameSeen ..)

theorem startMp_frameSeen (hstate : (s.tdmPort die p).state ≠ .stopped) :
    ((frameSeen die p slots s).tdmPort die p).startMp = (s.tdmPort die p).startMp :=
  view_frameSeen slots p hstate fun _ _ _ _ _ => rfl

theorem cfg_frameSeen (hstate : (s.tdmPort die p).state ≠ .stopped) (q : Nat) :
    ((frameSeen die p slots s).tdmPort die q).cfg = (s.tdmPort die q).cfg :=
  view_frameSeen slots q hstate fun _ _ _ _ _ => rfl

end

/-- The block in which a port's next frame lies is open, the frame's preambles acted upon. -/
def frameOpens (die p : Nat) (slots : List (BitVec 32)) (s : State) : State :=
  openBlock die (groupOf s die p) ((s.tdmPort die p).startMp.toNat + inputFrameNo s die p / 48) (frameSeen die p slots s)

theorem tdmPort_frameOpens (slots : List (BitVec 32)) :
    (frameOpens die p slots s).tdmPort die = (frameSeen die p slots s).tdmPort die :=
  tdmPort_congr (view_openBlock (c := (·.tdm.ports)) _ _ _ _ die fun _ _ _ => rfl)

theorem groupPorts_frameOpens (slots : List (BitVec 32)) : groupPorts (frameOpens die p slots s) die = groupPorts s die :=
  groupPorts_congr ((view_openBlock _ _ _ _ die fun _ _ _ => rfl).trans (wiring_frameSeen slots die))

/-- A running port's frame that its queue takes, or that finds no room. -/
theorem exec_tdmInputFrame_running {slots : List (BitVec 32)} {fits : Bool} (hrun : (s.tdmPort die p).state = .running)
    (hroom : fits = true → (tget ({} : QPrim) (s.die die).drc.queues (0x10 + groupOf s die p)).ring.length <
      (tget ({} : QPrim) (s.die die).drc.queues (0x10 + groupOf s die p)).lines) :
    let x := s.tdmPort die p
    let g := groupOf s die p
    let k := inputFrameNo s die p
    let m := x.startMp.toNat + k / 48
    let line := if hasPin s die p 2 then slots.map (lineSlot x.cfg) else []
    let bytes := ((List.range (cfgIn x.cfg)).map fun c => slotBytes (cfgStore x.cfg) (line.getD c 0)).flatten
    let ended := (groupPorts s die g).all fun q => decide (q ≤ p) || cfgIn (s.tdmPort die q).cfg == 0
    let u := frameOpens die p slots s
    let lost := (tget {} (u.die die).tdm.inRing (8 * g + m % 8)).lost.getLsbD p
    exec (.tdmInputFrame die p slots fits) s = .next
      (if fits then
        (modBlock die g m (fun b => let b := gateFrame (u.tdmPort die p) p (k % 48) b
          { b with frames := if ended then b.frames + 1 else b.frames }) (putFrame die p k bytes u)).modPort die p fun y =>
            { y with frame := k + 1 }
      else tdmEv die 1 (raiseAnyOnce die (engineReq 6) 0x0802 (BitVec.ofNat 64 p)
        ((modBlock die g m (fun b => let b := gateFrame (u.tdmPort die p) p (k % 48) b
          { b with incomplete := true, lost := b.lost ||| (1#8 <<< p) }) u).modPort die p fun y =>
            { y with frame := k + 1, overrun := if lost then y.overrun else y.overrun + 1 }))) := by
  intro x g k m line bytes ended u lost
  have hstate : (s.tdmPort die p).state ≠ .stopped := by simp [hrun]
  have hpin : hasPin (frameArrives die p k s) die p 2 = hasPin s die p 2 := by
    rw [hasPin_congr (view_frameArrives k die fun _ _ => rfl)]
  have hseen : iecFrame die p k line (frameArrives die p k s) = frameSeen die p slots s := rfl
  have hopen : openBlock die g m (frameSeen die p slots s) = u := rfl
  have hports : u.tdmPort die = (frameSeen die p slots s).tdmPort die := tdmPort_frameOpens slots
  have hgroups : groupPorts u die = groupPorts s die := groupPorts_frameOpens slots
  have hfits : (fits && decide ((tget ({} : QPrim) (s.die die).drc.queues (0x10 + g)).ring.length <
      (tget ({} : QPrim) (s.die die).drc.queues (0x10 + g)).lines)) = fits := by
    cases fits with
    | false => rfl
    | true => exact decide_eq_true (hroom rfl)
  refine Eq.trans (show _ = execTdmInputFrame die p slots fits s from rfl) ?_
  rw [frameArrives] at hpin hseen
  unfold execTdmInputFrame
  dsimp only
  rw [if_neg (Decidable.not_not.mpr hrun), hpin, hseen]
  simp only [groupOf_frameSeen, queues_frameSeen, startMp_frameSeen slots hstate, cfg_frameSeen slots hstate]
  rw [hfits, hopen]
  simp only [hports, hgroups, cfg_frameSeen slots hstate]
  cases fits with
  | false =>
    simp only [Bool.false_or, Bool.false_eq_true, if_false]
    rfl
  | true =>
    simp only [Bool.true_or, if_true]
    rfl

end

end Sys2Proof.Laws
end

section
/-! SUPPORT. The end of a pair's mute and the fetch of an output block (08 R190, R192). -/

namespace Sys2Proof.Laws

open Sys2Proof.Machine

theorem exec_iecUnmute {s : State} {die p k : Nat} (hmuted : (s.tdmPort die p).iecMuted.getLsbD k = true)
    (hstate : (s.tdmPort die p).state ≠ .stopped) :
    exec (.iecUnmute die p k) s = .next ((s.advanceTo die ((frameInstant (s.tdmPort die p).startMp.toNat
      (tget 0 (s.tdmPort die p).iecAt k + 8193) : Int) + portOfs (s.tdmPort die p)).toNat).modPort die p fun x => { x with
        iecMuted := x.iecMuted &&& ~~~(1#16 <<< k), iecAt := tset 0 x.iecAt k 0, iecFade := tset 0 x.iecFade k 48 }) := by
  change execIecUnmute die p k s = _
  simp only [execIecUnmute, hmuted, hstate, Bool.not_true, Bool.false_eq_true, if_false, decide_false, Bool.or_self]

theorem exec_iecUnmute_idle {s : State} {die p k : Nat}
    (h : (s.tdmPort die p).iecMuted.getLsbD k = false ∨ (s.tdmPort die p).state = .stopped) :
    exec (.iecUnmute die p k) s = .next s := by
  change execIecUnmute die p k s = _
  obtain h | h := h <;> simp [execIecUnmute, h]

theorem portOfs_eq (x : TdmPort) : portOfs x = if cfgMaster x.cfg ∨ x.edge = none then 0 else x.phase.toInt := by
  simp [portOfs]

/-- At the fetch the group's block b takes the place of the block that it played, and its slot of the ring is free. -/
def playBlock (die g m : Nat) (b : TdmBlock) (s : State) : State :=
  s.modDie die fun y => { y with tdm := { y.tdm with
    playing := tset {} (tset {} y.tdm.playing (8 + g) (tget {} y.tdm.playing g)) g b
    outRing := tset {} y.tdm.outRing (8 * g + m % 8) {} } }

theorem groupPorts_playBlock (die g m : Nat) (b : TdmBlock) (s : State) :
    groupPorts (playBlock die g m b s) die = groupPorts s die :=
  groupPorts_congr (view_modDie s die die fun _ => rfl)

theorem tdmPort_playBlock (die g m : Nat) (b : TdmBlock) (s : State) : (playBlock die g m b s).tdmPort die = s.tdmPort die :=
  tdmPort_congr (view_modDie (p := (·.tdm.ports)) s die die fun _ => rfl)

/-- The ports of a group that have started by MP m and put out channels: those whose block the fetch of m serves. -/
def startedPorts (s : State) (die g m : Nat) : List Nat :=
  (groupPorts s die g).filter fun p => (s.tdmPort die p).state != .stopped &&
    decide ((s.tdmPort die p).startMp.toNat ≤ m) && decide (0 < cfgOut (s.tdmPort die p).cfg)

/-- A port misses the fetch of its block. -/
def countUnderrun (die p : Nat) (s : State) : State :=
  tdmEv die 0 (raiseAnyOnce die (engineReq 6) 0x0801 (BitVec.ofNat 64 p)
    (s.modPort die p fun x => { x with underrun := x.underrun + 1 }))

theorem startedPorts_playBlock (die g m n : Nat) (b : TdmBlock) (s : State) :
    startedPorts (playBlock die g m b s) die g n = startedPorts s die g n := by
  rw [startedPorts, groupPorts_playBlock, tdmPort_playBlock]
  rfl

theorem exec_tdmOutputFetch {s u : State} {die g : Nat} (hu : s.advanceTo die (fetchInstant (s.mpNo die)) = u) :
    let m := u.mpNo die - 2
    let b : TdmBlock := tget {} (u.die die).tdm.outRing (8 * g + m % 8)
    let bytes := rdBytes (u.die die).dram (ringAt u die g true m) (48 * frameBytes u die g true)
    exec (.tdmOutputFetch die g) s = .next
      (if b.complete = true ∧ b.mp = BitVec.ofNat 64 m then playBlock die g m { b with bytes := wrBytes [] 0 bytes } u
      else forAll (startedPorts u die g m) (countUnderrun die) (playBlock die g m { mp := BitVec.ofNat 64 m } u)) := by
  intro m b bytes
  refine Eq.trans (show _ = execTdmOutputFetch die g s from rfl) ?_
  unfold execTdmOutputFetch
  dsimp only
  rw [hu]
  by_cases h : b.complete = true ∧ b.mp = BitVec.ofNat 64 m
  · have hok : (b.complete && b.mp == BitVec.ofNat 64 m) = true := by simpa using h
    rw [if_pos h, hok]
    simp only [if_true]
    rfl
  · have hok : (b.complete && b.mp == BitVec.ofNat 64 m) = false := by simpa using h
    rw [if_neg h, hok, ← startedPorts_playBlock die g m m { mp := BitVec.ofNat 64 m }]
    simp only [Bool.false_eq_true, if_false]
    rfl

end Sys2Proof.Laws
end

section
/-! The obligation on the frames of TDM ports (08 R187, R190 to R192). -/

namespace Sys2Proof.Laws

open Sys2Proof.Machine

/-- Settles O40, by what each command does with the frame, the pair or the block it names. -/
theorem tdmFramesAreStoredAndPlayed : Obligations.TdmFramesAreStoredAndPlayed := by
  refine ⟨?input, ?idle, ?unmute, ?unmuted, ?output⟩
  case input => exact fun die p slots fits s hrun hroom => ⟨frameOpens die p slots s, rfl, exec_tdmInputFrame_running hrun hroom⟩
  case idle => exact fun die p slots fits s hidle => if_pos hidle
  case unmute =>
    intro die p k s hmuted hstate x ofs
    have hofs : portOfs x = ofs := portOfs_eq x
    rw [exec_iecUnmute hmuted hstate, hofs]
  case unmuted => exact fun die p k s h => exec_iecUnmute_idle h
  case output => exact fun die g s => ⟨_, rfl, exec_tdmOutputFetch rfl⟩

end Sys2Proof.Laws
end

section
/-! SUPPORT. The error log of a die (17 R383 to R386): where a report goes, and what the host's writes do to the records. -/

namespace Sys2Proof.Laws

open Sys2Proof.Machine Sys2Proof.Safety

/-! ## The record that a report coalesces into -/

/-- What is best so far is an unread unpinned record that the test admits. -/
def Pickable (p : ErrRec → Bool) (best : Option (Nat × ErrRec)) : Prop :=
  ∀ e ∈ best, slotOpen (some e.2) = true ∧ p e.2 = true

/-- The record that is picked is unread and unpinned, and the test admits it. -/
theorem pickable_pickSlot (newest : Bool) (p : ErrRec → Bool) (ring : Tab (Option ErrRec)) :
    Pickable p (pickSlot newest p ring) := by
  refine List.foldlRecOn ring _ (by simp [Pickable]) fun best hbest x _ => ?_
  obtain ⟨i, _ | r⟩ := x
  · exact hbest
  · dsimp only
    split
    · next hr =>
      have hnew : Pickable p (some (i, r)) := by simpa [Pickable] using hr
      have hboth (c : Prop) [Decidable c] : Pickable p (if c then some (i, r) else best) := by split <;> assumption
      cases best with
      | none => exact hnew
      | some b => exact hboth _
    · exact hbest

/-! ## A first report -/

section
variable {d : Nat} {s : State}

/-- The log with a record placed in the slot at ERR_TAIL. -/
def placedAtTail (r : ErrRec) (e : Err) : Err :=
  let ring := tins e.ring e.tail.toNat (some { r with order := e.nextOrder })
  { e with ring := ring, nextOrder := e.nextOrder + 1, event := true, tail := BitVec.ofNat 10 (skipPinned ring 1024 ((e.tail.toNat + 1) % 1024)),
           seen := if r.pinned then r.code :: e.seen else e.seen }

theorem newRecord_free (r : ErrRec) (h : slotFree (tget none (s.die d).err.ring (s.die d).err.tail.toNat) = true) :
    newRecord d r s = errIrq d (s.modDie d fun x => { x with err := placedAtTail r x.err }) := by
  unfold newRecord
  rw [if_pos h]
  exact congrArg (errIrq d) (modDie_congr (by simp [placedAtTail]))

@[simp] theorem die_errIrq (e : Nat) : (errIrq d s).die e = s.die e := by
  unfold errIrq
  dsimp only
  split <;> rfl

/-- The record of a report, before it has its place in the order of placement. -/
def reportRecord (d : Nat) (src : Byte) (code : BitVec 16) (detail : BitVec 64) (s : State) : ErrRec :=
  { code := code, src := src, die := BitVec.ofNat 3 d, pinned := true, count := 1, first := s.now d, last := s.now d, detail := detail,
    read := false, order := 0 }

theorem err_raiseFrom_first {src : Byte} {code : BitVec 16} {detail : BitVec 64} (hd : s.hasDie d = true)
    (hseen : (s.die d).err.seen.contains code = false)
    (hfree : slotFree (tget none (s.die d).err.ring (s.die d).err.tail.toNat) = true) :
    ((raiseFrom d src code detail s).die d).err = placedAtTail (reportRecord d src code detail s) (s.die d).err := by
  have hnew : raiseFrom d src code detail s = newRecord d (reportRecord d src code detail s) s := by
    unfold raiseFrom
    dsimp only
    rw [hd, hseen]
    rfl
  rw [hnew, newRecord_free _ hfree, die_errIrq, die_modDie_self _ _ _ hd]

/-! ## A repeated report -/

theorem raiseFrom_coalesces {i : Nat} {r : ErrRec} {src : Byte} {code : BitVec 16} (detail : BitVec 64) (hd : s.hasDie d = true)
    (hseen : (s.die d).err.seen.contains code = true)
    (hpick : pickSlot true (fun r => r.code == code && r.src == src) (s.die d).err.ring = some (i, r)) :
    raiseFrom d src code detail s = s.modDie d fun x => { x with err := { x.err with
      ring := tins x.err.ring i (some { r with count := satInc r.count, last := s.now d, detail := detail }) } } := by
  unfold raiseFrom
  simp only [hd, hseen, hpick]
  rfl

end

/-! ## What the host writes -/

/-- An entry of a table whose values are changed, each at its index, reads as changed. -/
theorem tget_map {α : Type} (d : α) (g : Nat → α → α) (hg : ∀ i, g i d = d) (t : Tab α) (i : Nat) :
    tget d (t.map fun e => (e.1, g e.1 e.2)) i = g i (tget d t i) := by
  induction t with
  | nil => exact (hg i).symm
  | cons e t ih =>
    simp only [List.map_cons, tget, ih]
    split
    · next h => rw [h]
    · split
      · exact (hg i).symm
      · rfl

/-- The records that a write of ERR_HEAD passes count as read. -/
def readPassed (old new : BitVec 10) (i : Nat) (r : ErrRec) : ErrRec :=
  if BitVec.ofNat 10 i - old < new - old then { r with read := true } else r

theorem passed_iff (old new : BitVec 10) (i : Nat) :
    (i + 1024 - old.toNat) % 1024 < (new - old).toNat ↔ BitVec.ofNat 10 i - old < new - old := by
  have hi : (BitVec.ofNat 10 i - old).toNat = (i + 1024 - old.toNat) % 1024 := by
    have hold : old.toNat < 1024 := old.isLt
    rw [BitVec.toNat_sub, BitVec.toNat_ofNat]
    omega
  rw [BitVec.lt_def, hi]

theorem exec_errHeadWrite (die : Nat) (v : BitVec 64) (s : State) :
    exec (.errHeadWrite die v) s = .next (s.modDie die fun x => { x with err := { x.err with
      head := v.extractLsb' 0 10,
      ring := x.err.ring.map fun e => (e.1, e.2.map (readPassed x.err.head (v.extractLsb' 0 10) e.1)) } }) := by
  have hring (e : Err) : (e.ring.map fun r =>
      if decide ((r.1 + 1024 - e.head.toNat) % 1024 < (fld v 0 10 - e.head : BitVec 10).toNat) then (r.1, r.2.map fun x => { x with read := true })
      else r) = e.ring.map fun r => (r.1, r.2.map (readPassed e.head (v.extractLsb' 0 10) r.1)) := by
    refine List.map_congr_left fun r _ => ?_
    obtain ⟨i, o⟩ := r
    simp only [passed_iff, decide_eq_true_eq, fld]
    split
    · next h =>
      have hread : readPassed e.head (v.extractLsb' 0 10) i = fun r => { r with read := true } := funext fun _ => if_pos h
      rw [hread]
    · next h =>
      have hid : readPassed e.head (v.extractLsb' 0 10) i = id := funext fun _ => if_neg h
      simp [hid]
  refine congrArg _ (modDie_congr ?_)
  simp only [hring]
  rfl

theorem exec_errClear (die : Nat) (v : BitVec 64) (s : State) : exec (.errClear die v) s =
    bif v.getLsbD 0 then .next (s.modDie die fun x => { x with err := { x.err with
      seen := [], lostSeen := false, ring := x.err.ring.map fun r => (r.1, r.2.map fun y => { y with pinned := false, read := true }) } })
    else .next s := by
  refine Eq.trans (show _ = execErrClear die v s from rfl) ?_
  unfold execErrClear bit
  cases v.getLsbD 0 <;> rfl

theorem exec_errOvfCfgWrite (die : Nat) (v : BitVec 64) (s : State) :
    exec (.errOvfCfgWrite die v) s = .next (s.modDie die fun x => { x with err := { x.err with
      ovfEn := v.getLsbD 63
      ovfLog2 := if x.err.ovfEn = true then x.err.ovfLog2 else BitVec.ofNat 5 (clampN 4 16 (v.extractLsb' 0 5).toNat),
      ovfTail := if v.getLsbD 63 = true then x.err.ovfTail else 0,
      ovfHead := if v.getLsbD 63 = true then x.err.ovfHead else 0,
      ovfPhase := if v.getLsbD 63 = true then x.err.ovfPhase else true } }) := by
  refine congrArg _ (modDie_congr ?_)
  unfold bit fldN
  dsimp only
  cases (s.die die).err.ovfEn <;> cases v.getLsbD 63 <;> simp

theorem clampN_eq (lo hi x : Nat) (h : lo ≤ hi) : clampN lo hi x = if x < lo then lo else if hi < x then hi else x := by
  unfold clampN
  split
  · omega
  · split <;> omega

end Sys2Proof.Laws
end

section
/-! The obligations on reports and on the error log (17 R383, R384, R386). -/

namespace Sys2Proof.Laws

open Sys2Proof.Machine Sys2Proof.Safety

/-- Settles O9: the report's record is placed at the tail, and nothing but the log and the outputs changes. -/
theorem firstReportIsPinned : Obligations.FirstReportIsPinned := by
  intro d src code detail s hd hseen hfree e u
  have hu : u = placedAtTail (reportRecord d src code detail s) e := err_raiseFrom_first hd hseen hfree
  rw [hu]
  exact ⟨tget_tins_self _ _ _ _, fun i hi => tget_tins_ne _ _ _ _ _ hi, rfl, rfl, rfl, rfl, rfl, onlyLog_raiseFrom d src code detail s⟩

/-- Settles O10: the record that is picked is counted up in its slot. -/
theorem repeatedReportCoalesces : Obligations.RepeatedReportCoalesces := by
  intro d i r src code detail s hd hseen hpick
  obtain ⟨hopen, hp⟩ := pickable_pickSlot true _ _ (i, r) hpick
  simp only [slotOpen, Bool.and_eq_true, Bool.not_eq_true', beq_iff_eq] at hopen hp
  exact ⟨raiseFrom_coalesces detail hd hseen hpick, hp.1, hp.2, hopen.2, hopen.1⟩

/-- Settles O56: each write changes the log's registers, and its records one by one. -/
theorem theErrorLogIsReadAndCleared : Obligations.TheErrorLogIsReadAndCleared := by
  refine ⟨?head, ?clear, ?cfg⟩
  case head =>
    intro die v s hd old new
    refine ⟨_, exec_errHeadWrite die v s, ?_⟩
    have hget (i : Nat) := tget_map none (fun i o => o.map (readPassed old new i)) (fun _ => rfl) (s.die die).err.ring i
    rw [die_modDie_self _ _ _ hd]
    refine ⟨rfl, fun i r hr => ?_, fun i hi => ?_, modDie_congr rfl⟩
    · exact (hget i).trans (by rw [hr]; rfl)
    · exact (hget i).trans (by rw [hi]; rfl)
  case clear =>
    intro die v s
    exact ⟨fun h => by rw [exec_errClear, h]; rfl, fun h => by rw [exec_errClear, h]; rfl⟩
  case cfg =>
    intro die v s n
    rw [exec_errOvfCfgWrite, clampN_eq 4 16 n (by decide)]

end Sys2Proof.Laws
end

section
/-! SUPPORT. What operations leave of the dies: a part of every die that an operation does not touch reads as before. -/

namespace Sys2Proof.Laws

open Sys2Proof.Machine Sys2Proof.Safety

/-- `t` has the dies of `s` and shows the part `p` of each as before. -/
def Shows {α : Type} (p : Die → α) (s t : State) : Prop :=
  t.dies.length = s.dies.length ∧ ∀ e, p (t.die e) = p (s.die e)

section
variable {α : Type} {p : Die → α} {s t u : State}

theorem shows_refl (s : State) : Shows p s s := ⟨rfl, fun _ => rfl⟩

theorem shows_trans (h : Shows p s t) (k : Shows p t u) : Shows p s u :=
  ⟨k.1.trans h.1, fun e => (k.2 e).trans (h.2 e)⟩

theorem shows_of_dies (h : t.dies = s.dies) : Shows p s t := ⟨by rw [h], fun e => by rw [State.die, h]; rfl⟩

theorem hasDie_of_shows (h : Shows p s t) (d : Nat) : t.hasDie d = s.hasDie d := by rw [State.hasDie, h.1]; rfl

theorem shows_modDie (s : State) (d : Nat) {f : Die → Die} (hf : ∀ x, p (f x) = p x) : Shows p s (s.modDie d f) :=
  ⟨modDie_length s d f, fun e => view_modDie s d e hf⟩

theorem shows_advance (s : State) (n : Nat) (hp : ∀ x y, p { x with tim := y } = p x) : Shows p s (s.advance n) :=
  ⟨advance_length s n, fun e => by rw [onlyClock_advance s n e, hp]⟩

theorem shows_of_onlyLog {d : Nat} (h : onlyLog d s t) (hp : ∀ x l, p { x with err := l } = p x) : Shows p s t := by
  obtain ⟨-, hlen, hdie⟩ := h
  refine ⟨hlen, fun e => ?_⟩
  rw [hdie e]
  split
  · exact hp _ _
  · rfl

theorem shows_raiseFrom (d : Nat) (src : Byte) (code : BitVec 16) (detail : BitVec 64) (s : State)
    (hp : ∀ x l, p { x with err := l } = p x) : Shows p s (raiseFrom d src code detail s) :=
  shows_of_onlyLog (onlyLog_raiseFrom d src code detail s) hp

theorem shows_raiseAny (d : Nat) (src : Byte) (code : BitVec 16) (s : State) (hp : ∀ x l, p { x with err := l } = p x) :
    Shows p s (raiseAny d src code s) :=
  shows_trans (shows_of_dies (draw_dies s)) (shows_of_onlyLog (onlyLog_raiseAny d src code s) hp)

theorem shows_raiseOnce (d : Nat) (src : Byte) (code : BitVec 16) (obj detail : BitVec 64) (s : State)
    (hp : ∀ x l, p { x with err := l } = p x) : Shows p s (raiseOnce d src code obj detail s) := by
  unfold raiseOnce
  split
  · exact shows_raiseFrom d src code detail s hp
  · exact shows_refl s

theorem shows_forAll {β : Type} (l : List β) {f : β → State → State} (hf : ∀ b u, Shows p u (f b u)) (s : State) :
    Shows p s (forAll l f s) := by
  induction l generalizing s with
  | nil => exact shows_refl s
  | cons b l ih => exact shows_trans (hf b s) (ih (f b s))

end

end Sys2Proof.Laws
end

section
/-! SUPPORT. Internal queues (15 R343 to R345): what DROP, a write of the producer and the pointer check make of a queue. -/

namespace Sys2Proof.Laws

open Sys2Proof.Machine

section
variable {die q : Nat} {s : State}

/-! ## Queues that are changed -/

/-- Two changes of a queue that agree on the queue as it is are the same change. -/
theorem modQueue_congr {f g : QPrim → QPrim} (h : f (s.queue die q) = g (s.queue die q)) : s.modQueue die q f = s.modQueue die q g := by
  unfold State.modQueue
  refine modDie_congr ?_
  have htab : tmod {} (s.die die).drc.queues q f = tmod {} (s.die die).drc.queues q g := by rw [tmod, tmod]; exact congrArg _ h
  rw [htab]

theorem queue_modQueue_self {f : QPrim → QPrim} (hd : s.hasDie die = true) (hf : f (s.queue die q) ≠ {}) :
    (s.modQueue die q f).queue die q = f (s.queue die q) := by
  simp only [State.queue, State.modQueue, die_modDie_self _ _ _ hd]
  exact tget_tset_of_ne _ _ _ _ hf

/-! ## DROP -/

/-- What follows the oldest unit whose end has been written is what stands behind its line with EOU. -/
theorem splitUnit_append (a b : List (List Byte × BitVec 7 × Bool)) (bs : List Byte) (n : BitVec 7) (ha : a.all (fun l => !l.2.2) = true) :
    splitUnit (a ++ (bs, n, true) :: b) = some b := by
  induction a with
  | nil => rfl
  | cons l a ih =>
    obtain ⟨c, m, eou⟩ := l
    simp only [List.all_cons, Bool.and_eq_true, Bool.not_eq_true'] at ha
    simp [splitUnit, ha.1, ih ha.2]

theorem splitUnit_none {l : List (List Byte × BitVec 7 × Bool)} (h : l.all (fun l => !l.2.2) = true) : splitUnit l = none := by
  induction l with
  | nil => rfl
  | cons x l ih =>
    obtain ⟨c, m, eou⟩ := x
    simp only [List.all_cons, Bool.and_eq_true, Bool.not_eq_true'] at h
    simp [splitUnit, h.1, ih h.2]

theorem exec_drop (he : queueExists q = true) : exec (.drop die q) s = .next (s.modQueue die q fun x =>
    match splitUnit x.ring with
    | some rest => setRd (ptrNext x x.rd (x.ring.length - rest.length)) { x with ring := rest }
    | none => setRd (ptrNext x x.rd x.ring.length) { x with ring := [], part := [], dropping := true }) := by
  exact if_neg (by simp [he])

theorem exec_drop_unit {a b : List (List Byte × BitVec 7 × Bool)} {bs : List Byte} {n : BitVec 7} (he : queueExists q = true)
    (hring : (s.queue die q).ring = a ++ (bs, n, true) :: b) (ha : a.all (fun l => !l.2.2) = true) :
    exec (.drop die q) s = .next (s.modQueue die q fun x =>
      let p : BitVec 16 := BitVec.ofNat 16 ((x.rd.toNat + a.length + 1) % (2 * x.lines))
      { x with ring := b, rd := p, rdN := ~~~p }) := by
  have hlen : (s.queue die q).ring.length - b.length = a.length + 1 := by
    rw [hring, List.length_append, List.length_cons]
    omega
  rw [exec_drop he]
  refine congrArg _ (modQueue_congr ?_)
  rw [show splitUnit (s.queue die q).ring = some b by rw [hring, splitUnit_append a b bs n ha]]
  simp only [hlen, setRd, ptrNext, Nat.add_assoc]

theorem exec_drop_open (he : queueExists q = true) (hring : (s.queue die q).ring.all (fun l => !l.2.2) = true) :
    exec (.drop die q) s = .next (s.modQueue die q fun x =>
      setRd (ptrNext x x.rd x.ring.length) { x with ring := [], part := [], dropping := true }) := by
  rw [exec_drop he]
  exact congrArg _ (modQueue_congr (by rw [splitUnit_none hring]))

/-! ## Writes -/

theorem take_isEmpty {bytes : List (BitVec 8)} (hne : bytes ≠ []) : (bytes.take 16).isEmpty = false := by simp [hne]

theorem exec_queueWrite_dropped {bytes : List (BitVec 8)} {ended : Bool} (he : queueExists q = true) (hne : bytes ≠ [])
    (hdrop : (s.queue die q).dropping = true) :
    exec (.queueWrite die q bytes ended) s = .next (s.modQueue die q fun x =>
      { x with skip := x.skip && !ended, dropping := !ended, midUnit := !ended }) := by
  refine Eq.trans (if_neg (by simp [he, take_isEmpty hne])) (Eq.trans (if_pos (by simp [hdrop])) ?_)
  exact congrArg _ (modQueue_congr (by simp [hdrop]))

theorem packLines_open {last : Bool} {bs : List Byte} (n : Nat) (hne : bs ≠ []) (hlen : bs.length < 64) :
    packLines last (n + 1) bs = if last then ([(bs, true)], []) else ([], bs) := by
  have hopen : (bs.length < 64 || (bs.length = 64 && last)) = true := by simp [hlen]
  rw [packLines, if_pos hopen]
  cases last <;> simp [hne]

/-- A write whose lines the ring has room for, of a unit that nothing discards. -/
theorem exec_queueWrite_packs {bytes : List (BitVec 8)} {last : Bool} (he : queueExists q = true) (hne : bytes ≠ [])
    (hlen : bytes.length ≤ 16) (hskip : (s.queue die q).skip = false) (hdrop : (s.queue die q).dropping = false) :
    let x := s.queue die q
    let packed := packLines last 2 (x.part ++ bytes)
    exec (.queueWrite die q bytes last) s = .next (if x.lines < x.ring.length + packed.1.length then s
      else s.modQueue die q fun y => { forAll packed.1 (fun l z => commitLine l.1 l.2 z) y with part := packed.2, midUnit := !last }) := by
  intro x packed
  have htake : bytes.take 16 = bytes := List.take_of_length_le hlen
  refine Eq.trans (if_neg (by simp [he, take_isEmpty hne])) (Eq.trans (if_neg (by simp [hskip, hdrop])) ?_)
  rw [htake]
  exact (apply_ite _ _ _ _).symm

/-- However many bytes a write brings, its END commits a line. -/
theorem packLines_end_pos {bs : List Byte} (n : Nat) (hne : bs ≠ []) : 0 < (packLines true (n + 1) bs).1.length := by
  rw [packLines]
  split
  · simp [hne]
  · exact Nat.succ_pos _

/-! ## The pointer check -/

/-- A check without an upset of copies that agree changes nothing. -/
theorem exec_queuePointerCheck_ok (hok : queueOk (s.queue die q) = true) (hlisted : s.queue die q ≠ {} ∨ (s.die die).drc.queues = []) :
    exec (.queuePointerCheck die q 0) s =
      .next (if queueExists q ∧ s.hasDie die = true then s.modQueue die q (fun x => x) else s) := by
  by_cases h : queueExists q ∧ s.hasDie die = true
  · have hmod : (s.modQueue die q fun x => { x with
        wr := x.wr ^^^ fld 0 0 16, wrN := x.wrN ^^^ fld 0 16 16, rd := x.rd ^^^ fld 0 32 16, rdN := x.rdN ^^^ fld 0 48 16 }) =
        s.modQueue die q fun x => x := modQueue_congr (by simp [fld])
    have hread : (s.modQueue die q fun x => x).queue die q = s.queue die q := by
      rcases hlisted with hne | hnil
      · exact queue_modQueue_self h.2 hne
      · simp [State.queue, State.modQueue, die_modDie_self _ _ _ h.2, hnil, tmod, tset, tdel]
    rw [if_pos h]
    refine Eq.trans (if_neg (by simp [h])) ?_
    rw [hmod, hread]
    exact if_pos hok
  · rw [if_neg h]
    exact if_pos (by simpa [← Bool.not_eq_true, ← not_and_or] using h)

end

end Sys2Proof.Laws
end

section
/-! The obligation on DROP (15 R344). -/

namespace Sys2Proof.Laws

open Sys2Proof.Machine

/-- Settles O50: a DROP ends at the oldest line with EOU; without one the queue drops until END is written. -/
theorem dropDiscardsExactlyOneUnit : Obligations.DropDiscardsExactlyOneUnit := by
  refine ⟨fun die q a b bs n s he hring ha => exec_drop_unit he hring ha, ?opened,
    fun die q bytes ended s he hne hdrop => exec_queueWrite_dropped he hne hdrop⟩
  case opened =>
    intro die q s he hring hd
    refine ⟨_, exec_drop_open he hring, ?_⟩
    rw [queue_modQueue_self hd (by simp [setRd])]
    exact ⟨rfl, rfl, rfl⟩

end Sys2Proof.Laws
end

section
/-! SUPPORT. The DRAM controller of a die (15 R333, R336 to R342): an access, the checks that come with time, the scrub. -/

namespace Sys2Proof.Laws

open Sys2Proof.Machine

/-! ## An access activates its row -/

/-- What of a die an access reads: its memory, the poisoned lines and the trained capacity. -/
def memView (x : Die) : Mem × List Nat × BitVec 8 := (x.dram, x.drc.poison, x.drc.gib)

section
variable (d a : Nat) (req : Byte) (s : State)

theorem memView_waitThrottle (l : DramLoc) : Shows memView s (waitThrottle d l req s) := by
  unfold waitThrottle
  dsimp only
  split
  · exact shows_refl s
  · exact shows_trans (shows_advance s _ fun _ _ => rfl) (shows_modDie _ d fun _ => rfl)

theorem memView_rowEpisode (l : DramLoc) (r : RowCount) : Shows memView s (rowEpisode d l r s) := by
  unfold rowEpisode
  refine shows_trans ?_ (shows_raiseFrom _ _ _ _ _ fun _ _ => rfl)
  refine shows_trans ?_ (shows_modDie _ d fun _ => rfl)
  refine shows_trans ?_ (shows_modDie _ d fun _ => rfl)
  refine shows_trans ?_ (shows_modDie _ d fun _ => rfl)
  exact shows_modDie s d fun _ => rfl

/-- Counting an activation leaves the memory, its poisoned lines and its capacity alone. -/
theorem memView_activate : Shows memView s (activate d a req s) := by
  unfold activate
  dsimp only
  have hcount (l : DramLoc) (b : Bank) (t : State) (h : Shows memView s t) :
      Shows memView s (t.modDrc d fun c => { c with banks := tset {} c.banks (bankIndex l) b }) :=
    shows_trans h (shows_modDie t d fun _ => rfl)
  split
  · exact shows_trans (hcount _ _ _ (memView_waitThrottle d req s _)) (memView_rowEpisode d _ _ _)
  · exact hcount _ _ _ (memView_waitThrottle d req s _)

end

/-! ## What an access does -/

section
variable {a : DramReq} {s : State}

theorem exec_dramAccess : exec (.dramAccess a) s = execDramAccess a s := rfl

/-- An access beyond the trained capacity is counted and reported with its address. -/
def refuseAccess (a : DramReq) (s : State) : State :=
  raiseFrom a.die a.req 0x0F08 (BitVec.ofNat 64 (2 ^ 37 * a.die + a.addr)) (drcCnt a.die 7 s)

theorem exec_dramAccess_beyond (hd : s.hasDie a.die = true) (hcap : trainedBytes (s.die a.die).drc ≤ a.addr) :
    exec (.dramAccess a) s = .next (match a.data with
      | some _ => refuseAccess a s
      | none => takePoison a.die a.addr a.req { refuseAccess a s with readData := [] }) := by
  rw [exec_dramAccess, execDramAccess]
  dsimp only
  rw [hd, if_neg (by simp), if_pos hcap]
  cases a.data <;> rfl

theorem exec_dramAccess_within (hd : s.hasDie a.die = true) (hcap : a.addr < trainedBytes (s.die a.die).drc) :
    let u := activate a.die a.addr a.req s
    let line := a.addr / 64 * 64
    exec (.dramAccess a) s = .next (match a.data with
      | some bs => devWr a.req (devAddr a.die a.addr) (bs.take (line + 64 - a.addr)) u
      | none =>
        if (s.die a.die).drc.poison.contains line ∨ a.ecc = .uncorrectable then
          takePoison a.die a.addr a.req (poisoned a.die a.addr a.req { u with readData := [] })
        else
          let v := { u with readData := rdBytes (s.die a.die).dram line 64 }
          if a.ecc = .corrected then corrected a.die a.addr a.req v else v) := by
  intro u line
  have hview := (memView_activate a.die a.addr a.req s).2 a.die
  simp only [memView, Prod.mk.injEq] at hview
  obtain ⟨hdram, hpoison, -⟩ := hview
  rw [exec_dramAccess, execDramAccess]
  dsimp only
  rw [hd, if_neg (by simp), if_neg (by omega), hdram, hpoison]
  cases a.data with
  | some bs => rfl
  | none =>
    by_cases h : (s.die a.die).drc.poison.contains line ∨ a.ecc = .uncorrectable
    · rw [if_pos h]
      exact if_pos (by simpa using h)
    · rw [if_neg h]
      exact if_neg (by simpa using h)

/-- A write of bytes within a line of the trained capacity stores them. -/
theorem dram_devWr_within {req : Byte} {d addr : Nat} {bs : List Byte} (hd : s.hasDie d = true) (hdie : d < 8) (haddr : addr < 2 ^ 37)
    (hcap : addr + bs.length ≤ trainedBytes (s.die d).drc) :
    ((devWr req (devAddr d addr) bs s).die d).dram = wrBytes (s.die d).dram addr bs := by
  have hoff : devOff (devAddr d addr) = addr := by simp only [devOff, devAddr]; omega
  have hdev : devDie (devAddr d addr) = d := by simp only [devDie, devAddr]; omega
  have hok : devOk s (devAddr d addr) bs.length = true := by
    simp only [devOk, hoff, hdev, hd, hcap, Bool.and_true, decide_true, decide_eq_true_eq]
    simp only [devAddr]
    omega
  unfold devWr
  rw [if_pos hok, hdev, hoff, die_modDie_self _ _ _ hd]

end

/-! ## Windows, refresh, temperature, retraining and scrub -/

section
variable {die : Nat} {s : State}

theorem exec_retrainCheck {sub driftPs : Nat} {dT : Int} (hsub : sub < 4) (hch : (s.die die).drc.chOk.getLsbD (sub / 2) = true)
    (hlast : (s.die die).drc.lastRetrain = none) : exec (.retrainCheck die sub driftPs dT) s = .next
      (if (s.die die).drc.retrainPs.toNat < driftPs ∨ 10000 < dT.natAbs then
        drcEv die 3 (drcCnt die 4 (s.modDie die fun x => { x with drc := { x.drc with lastRetrain := some s.clk } }))
       else s) := by
  refine Eq.trans (show _ = execRetrainCheck die sub driftPs dT s from rfl) ?_
  unfold execRetrainCheck
  have hdue : (decide ((s.die die).drc.retrainPs.toNat < driftPs) || decide (10000 < dT) || decide (dT < -10000)) =
      decide ((s.die die).drc.retrainPs.toNat < driftPs ∨ 10000 < dT.natAbs) := by
    rw [Bool.eq_iff_iff]
    simp only [Bool.or_eq_true, decide_eq_true_eq]
    omega
  dsimp only
  rw [hdue, hlast, hch]
  by_cases h : (s.die die).drc.retrainPs.toNat < driftPs ∨ 10000 < dT.natAbs
  · rw [if_pos h]
    exact if_neg (by simp [h, hsub])
  · rw [if_neg h]
    exact if_pos (by simp [h])

/-- The scrub of a line that is sound, of a die that has trained. -/
theorem exec_patrolScrub_clean (hcap : 64 ≤ trainedBytes (s.die die).drc)
    (hsound : (s.die die).drc.poison.contains ((s.die die).drc.scrubNext % trainedBytes (s.die die).drc) = false) :
    let n := trainedBytes (s.die die).drc
    let a := (s.die die).drc.scrubNext % n
    exec (.patrolScrub die .clean) s = .next (s.modDie die fun x => { x with drc := { x.drc with
      scrubNext := (a + 64) % n, scrubPasses := if n ≤ a + 64 then x.drc.scrubPasses + 1 else x.drc.scrubPasses } }) := by
  intro n a
  have hn : n ≠ 0 := by omega
  refine (if_neg hn).trans ?_
  dsimp only
  rw [if_neg (by simpa using hsound), if_neg (by decide)]
  rfl

end

end Sys2Proof.Laws
end

section
/-! The obligation on DRAM and the internal queues (15 R333, R338 to R346). -/

namespace Sys2Proof.Laws

open Sys2Proof.Machine

/-- Settles O51, clause by clause: accesses, checks in time, and the writes and checks of a queue. -/
theorem dramAccessesAreCheckedAndCounted : Obligations.DramAccessesAreCheckedAndCounted := by
  refine ⟨?writeBeyond, ?readBeyond, ?read, ?write, fun die s => ⟨rfl, rfl⟩, ?temperature, ?retrain, ?scrub, ?packs, ?full, ?pointers⟩
  case writeBeyond =>
    intro a bs s hd hcap hdata
    rw [exec_dramAccess_beyond hd hcap, hdata]
    rfl
  case readBeyond =>
    intro a s hd hcap hdata
    rw [exec_dramAccess_beyond hd hcap, hdata]
    rfl
  case read =>
    intro a s hd hcap hdata line u poisonedLine
    have hexec := exec_dramAccess_within hd hcap
    rw [hdata] at hexec
    refine ⟨fun hsound hecc => hexec.trans ?_, fun hbad => hexec.trans ?_⟩
    · exact congrArg _ ((if_neg hsound).trans (if_neg hecc))
    · exact congrArg _ (if_pos hbad)
  case write =>
    intro a bs s hd ⟨hdie, haddr⟩ hdata ⟨hcap, hne, hline⟩
    have hpos : 0 < bs.length := List.length_pos_iff.mpr hne
    have hexec := exec_dramAccess_within (a := a) hd (by omega)
    have hview := memView_activate a.die a.addr a.req s
    have hmem := hview.2 a.die
    simp only [memView, Prod.mk.injEq] at hmem
    obtain ⟨hdram, -, hgib⟩ := hmem
    have htake : bs.take (a.addr / 64 * 64 + 64 - a.addr) = bs := List.take_of_length_le (by omega)
    rw [hdata] at hexec
    refine ⟨_, hexec, ?_⟩
    dsimp only
    rw [htake, dram_devWr_within ((hasDie_of_shows hview _).trans hd) hdie haddr, hdram]
    rwa [trainedBytes, hgib]
  case temperature =>
    intro die milliC s
    refine ⟨Config.freeValue s.free, ?_⟩
    exact (apply_ite _ _ _ _).symm
  case retrain => exact fun die sub driftPs dT s hsub hch hlast => exec_retrainCheck hsub hch hlast
  case scrub =>
    intro die s c h
    exact exec_patrolScrub_clean h.1 h.2
  case packs =>
    intro die q bytes s he ⟨hne, hlen⟩ ⟨hskip, hdrop⟩ hopen hroom x p
    have hne' : x.part ++ bytes ≠ [] := by simp [hne]
    have hopen' : (x.part ++ bytes).length < 64 := by simpa using hopen
    have hroom' : x.ring.length < x.lines := hroom
    constructor
    · rw [exec_queueWrite_packs he hne hlen hskip hdrop, packLines_open 1 hne' hopen', if_neg (by simp; omega)]
      exact congrArg _ (modQueue_congr rfl)
    · rw [exec_queueWrite_packs he hne hlen hskip hdrop, packLines_open 1 hne' hopen', if_neg (by simp; omega)]
      refine congrArg _ (modQueue_congr ?_)
      simp [forAll, commitLine, setWr, ptrNext, x, p]
  case full =>
    intro die q bytes s he ⟨hne, hlen⟩ ⟨hskip, hdrop⟩ hfull _
    have hline : 0 < (packLines true 2 ((s.queue die q).part ++ bytes)).1.length := packLines_end_pos 1 (by simp [hne])
    rw [exec_queueWrite_packs he hne hlen hskip hdrop, if_pos (by omega)]
  case pointers => exact fun die q s hok hlisted => exec_queuePointerCheck_ok hok hlisted

end Sys2Proof.Laws
end

section
/-! The obligation on egress (12 R273 to R283). -/

namespace Sys2Proof.Laws

open Sys2Proof.Machine

/-- Die 0 has the Ethernet subport 0, whose table lists two states: a control frame waits in the first, which is otherwise
as at reset; the second, which the first hides, failed its takeover check. -/
def hiddenSubportState : State := { State.reset with pair := { State.reset.pair with transmit := true } }.modDie 0 fun x => { x with
  ing := { x.ing with present := 1, adit := 0, eth := [] }
  egr := { x.egr with hostWait := [], sub := [(0, { control := [{ kind := .control }] }), (0, { failed := true })] } }

/-- Once its control frame is taken the first state is as at reset and no longer listed, the failed one shows, and the
frame is dropped at the MAC. -/
theorem exec_packetDeparture_hiddenSubportState :
    ∃ t, exec (.packetDeparture 0 0) hiddenSubportState = .next t ∧ t.out = [] := ⟨_, rfl, by decide⟩

/-- Refutes O46: the clause on a waiting control frame asks that the subport has not failed before the frame is taken from
its queue, and leaves open what else stands in the table of the subports. Where the table lists the subport twice, the
departure of the only frame uncovers the second state; if that one failed its takeover check (16 R365), nothing goes out. -/
theorem not_egressQueuesShapesAndSends : ¬ Obligations.EgressQueuesShapesAndSends := by
  rintro ⟨-, -, -, hdeparts, -⟩
  have hgoes := hdeparts 0 0 { kind := .control } [] hiddenSubportState (by decide) (by decide) (by decide) (by decide) (by decide)
  obtain ⟨t, hexec, hout⟩ := exec_packetDeparture_hiddenSubportState
  obtain rfl := Host.Outcome.next.inj (hexec.symm.trans hgoes)
  exact absurd hout (List.cons_ne_nil _ _)

end Sys2Proof.Laws
end

section
/-! SUPPORT. Canary clusters, the rails' monitors and brace (16 R361 to R368, 17 R371 to R375). -/

namespace Sys2Proof.Laws

open Sys2Proof.Machine

section
variable {die : Nat} {s : State}

/-! ## Canary clusters -/

/-- A die's Canary cluster. -/
def canCluster (s : State) (d k : Nat) : Cluster := tget {} (s.die d).can.clusters k

theorem canCluster_modCluster_self {k : Nat} {f : Cluster → Cluster} (hd : s.hasDie die = true) (hf : f (canCluster s die k) ≠ {}) :
    canCluster (s.modCluster die k f) die k = f (canCluster s die k) := by
  simp only [canCluster, State.modCluster, State.modCan, die_modDie_self _ _ _ hd]
  exact tget_tset_of_ne _ _ _ _ hf

theorem guard_modCluster (k : Nat) (f : Cluster → Cluster) (e : Nat) :
    ((s.modCluster die k f).die e).can.guard = (s.die e).can.guard :=
  view_modDie s die e (p := fun x => x.can.guard) fun _ => rfl

/-- A cluster with a measurement taken in. -/
def measured (slack : BitVec 8) (years : BitVec 16) (c : Cluster) : Cluster := { c with slack := slack, years := years }

theorem exec_canaryMeasure {k : Nat} {slack : BitVec 8} (hd : s.hasDie die = true) (hk : k < 48) (hslack : slack ≠ 0) :
    let c := canCluster s die k
    let v := { s with free := s.free + 1 }.modCluster die k (measured slack ((Config.freeValue s.free).setWidth 16))
    exec (.canaryMeasure die k slack) s = .next
      (if c.bin = 7 ∧ c.worn = false ∧ slack.toInt < ((s.die die).can.guard.toNat : Int) then
        retireUnit die k (v.modCluster die k fun c => { c with worn := true }) else v) := by
  intro c v
  have hc : canCluster v die k = measured slack ((Config.freeValue s.free).setWidth 16) c :=
    canCluster_modCluster_self (s := { s with free := s.free + 1 }) hd fun h => hslack (congrArg Cluster.slack h)
  have hg : (v.die die).can.guard = (s.die die).can.guard := guard_modCluster (s := { s with free := s.free + 1 }) k _ die
  have hexec : exec (.canaryMeasure die k slack) s = if (canCluster v die k).bin = 7 && !(canCluster v die k).worn &&
      decide (slack.toInt < ((v.die die).can.guard.toNat : Int)) then
    .next (retireUnit die k (v.modCluster die k fun c => { c with worn := true })) else .next v := if_neg (by simp [hd]; omega)
  have hbin : (canCluster v die k).bin = c.bin := by rw [hc]; rfl
  have hworn : (canCluster v die k).worn = c.worn := by rw [hc]; rfl
  rw [hexec, apply_ite Host.Outcome.next]
  exact if_congr (by simp [hbin, hworn, hg, and_assoc]) rfl rfl

/-- A re-plan of a die where none is due again. -/
theorem exec_replan_fresh {auto : Bool} (hoff : auto = false → s.off die = false) (hdue : (s.die die).can.replanDue = false) :
    exec (.replan die auto) s = .next (if (s.die die).can.replanning = false ∧
      (auto = true → (s.die die).can.auto = true ∧ 8760 ≤ (s.die die).can.hours.toNat) then
        s.modCan die fun c => { c with replanning := true, replanAt := s.clk, replanDue := false } else s) := by
  refine Eq.trans (show _ = execReplan die auto s from rfl) ?_
  unfold execReplan
  dsimp only
  rw [if_neg (by cases auto <;> simp_all), hdue]
  simp only [Bool.false_and, Bool.and_false, Bool.false_eq_true, if_false, Bool.not_false, Bool.and_true]
  cases auto with
  | false => cases (s.die die).can.replanning <;> simp
  | true => cases (s.die die).can.replanning <;> cases (s.die die).can.auto <;> by_cases h : 8760 ≤ (s.die die).can.hours.toNat <;> simp [h]

/-- A re-plan that a package reset ended restarts 1 h after RUNNING. -/
theorem exec_replan_again (hdue : (s.die die).can.replanDue = true) (hidle : (s.die die).can.replanning = false)
    (hauto : (s.die die).can.auto = true) (hrun : (s.die die).str.state = .running) :
    let u := s.advance ((3600 * unitsSec : Int) - stampDiff s.clk (s.die die).str.runAt).toNat
    exec (.replan die true) s = .next (u.modCan die fun c => { c with replanning := true, replanAt := u.clk, replanDue := false }) := by
  refine Eq.trans (show _ = execReplan die true s from rfl) ?_
  unfold execReplan
  dsimp only
  rw [if_neg (by simp), hdue, hidle, hauto, hrun]
  exact if_neg (by simp)

/-- The lowest bin that keeps the guard, bin 7 where none does. -/
def lowestBin (guard : Int) (l : List (BitVec 8)) : Nat := ((List.range 8).find? fun b => decide (guard ≤ (l.getD b 0).toInt)).getD 7

theorem lowestBin_lt (guard : Int) (l : List (BitVec 8)) : lowestBin guard l < 8 := by
  unfold lowestBin
  cases hfind : (List.range 8).find? fun b => decide (guard ≤ (l.getD b 0).toInt) with
  | none => decide
  | some b => exact List.mem_range.mp (List.mem_of_find?_eq_some hfind)

theorem lt_guard_of_lt_lowestBin {guard : Int} {l : List (BitVec 8)} {i : Nat} (h : i < lowestBin guard l) : (l.getD i 0).toInt < guard := by
  have hlt := lowestBin_lt guard l
  unfold lowestBin at h hlt
  cases hfind : (List.range 8).find? fun b => decide (guard ≤ (l.getD b 0).toInt) with
  | none =>
    rw [hfind] at h hlt
    simpa using List.find?_range_eq_none.mp hfind i (h.trans hlt)
  | some b =>
    rw [hfind] at h
    obtain ⟨-, -, hbelow⟩ := List.find?_range_eq_some.mp hfind
    simpa using hbelow i h

theorem lowestBin_keeps (guard : Int) (l : List (BitVec 8)) : guard ≤ (l.getD (lowestBin guard l) 0).toInt ∨ lowestBin guard l = 7 := by
  unfold lowestBin
  cases hfind : (List.range 8).find? fun b => decide (guard ≤ (l.getD b 0).toInt) with
  | none => exact .inr rfl
  | some b => exact .inl (by simpa using List.find?_some hfind)

/-! ## Rails and brace -/

theorem pwrEv_modPwr (i : Nat) (f : Pwr → Pwr) : pwrEv die i (s.modPwr die f) =
    s.modDie die fun x => { x with pwr := { f x.pwr with event := setEv (f x.pwr).event i } } := modDie_modDie s die _ _

theorem shows_pwrEv (i e : Nat) : Shows (fun x => x.pwr.recent) s (pwrEv e i s) := shows_modDie s e fun _ => rfl

theorem recent_railMonitor (rail : Nat) (below : Bool) : Shows (fun x => x.pwr.recent) s (railMonitor die rail below s) := by
  have hmark : Shows (fun x => x.pwr.recent) s (s.modPwr die (markRail rail below)) := shows_modDie s die fun _ => rfl
  unfold railMonitor
  dsimp only
  split
  · exact shows_trans hmark (shows_pwrEv 3 die)
  · exact hmark

theorem clk_railMonitor (rail : Nat) (below : Bool) : (railMonitor die rail below s).clk = s.clk := by
  unfold railMonitor
  dsimp only
  split <;> rfl

theorem free_railMonitor (rail : Nat) (below : Bool) : (railMonitor die rail below s).free = s.free := by
  unfold railMonitor
  dsimp only
  split <;> rfl

theorem recentBraces_railMonitor (rail : Nat) (below : Bool) (e : Nat) : recentBraces (railMonitor die rail below s) e = recentBraces s e := by
  have hrecent : ((railMonitor die rail below s).die e).pwr.recent = (s.die e).pwr.recent := (recent_railMonitor rail below).2 e
  rw [recentBraces, hrecent, clk_railMonitor]
  rfl

/-- What the entry into brace makes of a die's power registers. -/
def bracing (sram : Bool) (now : BitVec 64) (recent : List (BitVec 64)) (x : Pwr) : Pwr := { x with
  event := x.event ||| 1, brace := true, braceAt := now, braceRail := sram, sustained := false, braceCnt := x.braceCnt + 1
  recent := now :: recent }

theorem pwrEv_entering (w : State) (sram : Bool) (now : BitVec 64) (recent : List (BitVec 64)) :
    pwrEv die 0 (w.modPwr die fun x => { x with
      brace := true, braceAt := now, braceRail := sram, sustained := false, braceCnt := x.braceCnt + 1, recent := now :: recent }) =
    w.modPwr die (bracing sram now recent) := pwrEv_modPwr 0 _

/-- The alarm is set with the entry. -/
theorem raiseAny_alarm (w : State) (sram : Bool) (now : BitVec 64) (recent : List (BitVec 64)) :
    raiseAny die dukenCheck 0x1102 (pwrEv die 1 ((w.modPwr die (bracing sram now recent)).modPwr die fun x => { x with alarm := true })) =
    raiseFrom die dukenCheck 0x1102 (Config.freeValue w.free) { w.modDie die (fun x => { x with pwr := { x.pwr with
      event := x.pwr.event ||| 1 ||| 2, brace := true, braceAt := now, braceRail := sram, sustained := false
      braceCnt := x.pwr.braceCnt + 1, alarm := true, recent := now :: recent } }) with free := w.free + 1 } :=
  congrArg (raiseAny die dukenCheck 0x1102) ((pwrEv_modPwr 1 _).trans (modDie_modDie w die _ _))

theorem exec_braceEntry {sram : Bool} (hno : (s.die die).pwr.brace = false) :
    let u := (railMonitor die (if sram then 1 else 0) true s).modPwr die (bracing sram s.clk (recentBraces s die))
    exec (.braceEntry die sram) s = .next (if 8 < (recentBraces s die).length + 1 && !(s.die die).pwr.alarm then
      raiseAny die dukenCheck 0x1102 (pwrEv die 1 (u.modPwr die fun x => { x with alarm := true })) else u) := by
  intro u
  refine Eq.trans (show _ = execBraceEntry die sram s from rfl) ?_
  unfold execBraceEntry
  dsimp only
  rw [hno, recentBraces_railMonitor, clk_railMonitor, pwrEv_entering, List.length_cons, apply_ite Host.Outcome.next]
  exact if_neg Bool.false_ne_true

theorem exec_braceExit (hin : (s.die die).pwr.brace = true) :
    let p := (s.die die).pwr
    let ns := (stampDiff s.clk p.braceAt).toNat / unitsNs
    exec (.braceExit die) s = .next (raise die 0x1101 ((BitVec.ofNat 64 ns &&& 0xFFFFFFFFFF) ||| putB p.braceRail 40)
      (s.modDie die fun x => { x with pwr := { x.pwr with
        brace := false, belowWarn := x.pwr.belowWarn &&& ~~~2 &&& ~~~1, lastNs := BitVec.ofNat 32 (min ns (2 ^ 32 - 1)) } })) := by
  intro p ns
  refine Eq.trans (show _ = execBraceExit die s from rfl) ?_
  unfold execBraceExit
  dsimp only
  rw [if_neg (by simp [hin])]
  rfl

theorem exec_braceSustained (hin : (s.die die).pwr.brace = true) (hfirst : (s.die die).pwr.sustained = false) :
    let u := s.advance ((unitsSec : Int) - stampDiff s.clk (s.die die).pwr.braceAt).toNat
    exec (.braceSustained die) s = .next (raiseFrom die dukenCheck 0x1103 (Config.freeValue s.free)
      { u.modDie die (fun x => { x with pwr := { x.pwr with event := x.pwr.event ||| 4, sustained := true } }) with free := s.free + 1 }) := by
  intro u
  have hfree : u.free = s.free := State.advance_free ..
  refine Eq.trans (show _ = execBraceSustained die s from rfl) ?_
  unfold execBraceSustained
  dsimp only
  rw [if_neg (by simp [hin, hfirst]), pwrEv_modPwr, ← hfree]
  rfl

theorem exec_braceAlarmClear (hal : (s.die die).pwr.alarm = true) (hfew : (recentBraces s die).length ≤ 8) :
    exec (.braceAlarmClear die) s = .next (s.modPwr die fun x => { x with recent := recentBraces s die, alarm := false }) := by
  have hnone : (recentBraces s die)[8]? = none := List.getElem?_eq_none hfew
  have hcalm : decide (8 < (recentBraces s die).length) = false := by simpa using hfew
  refine Eq.trans (show _ = execBraceAlarmClear die s from rfl) ?_
  unfold execBraceAlarmClear
  dsimp only
  rw [hal, hnone, hcalm]
  exact if_neg (by simp)

end

end Sys2Proof.Laws
end

section
/-! The obligation on self-tests, Canaries, rails and brace (16 R361 to R368, 17 R371 to R375). -/

namespace Sys2Proof.Laws

open Sys2Proof.Machine

/-- Settles O54, clause by clause: each event is one change of its die and at most one report. -/
theorem monitorsRetireUnitsAndWatchPower : Obligations.MonitorsRetireUnitsAndWatchPower := by
  refine ⟨?pass, ?selfTest, ?canary, ?replan, ?again, ?replanned, ?rail, ?brace, ?alarm, ?endBrace, ?clears, ?junction⟩
  case pass => exact fun die unit s => rfl
  case selfTest =>
    intro die k s hd hk
    have harray : exec (.assaySelfTest die (48 + k) false) s = .next (repairRow die k s) := by
      have hrow : exec (.assaySelfTest die (48 + k) false) s = .next (repairRow die (48 + k - 48) s) :=
        (if_neg (by simp [hd]; omega)).trans (if_pos (by omega))
      rwa [Nat.add_sub_cancel_left] at hrow
    refine ⟨fun hspare => ⟨Config.freeValue s.free, harray.trans (congrArg _ (if_neg ?_))⟩, fun hspare => harray.trans (congrArg _ (if_pos hspare)),
      ⟨Config.freeValue s.free, (if_neg (by simp [hd]; omega)).trans (if_neg (by omega))⟩⟩
    intro hzero
    rw [hzero] at hspare
    exact absurd hspare (by decide)
  case canary =>
    intro die k slack s hd hk hslack c wears
    refine ⟨(Config.freeValue s.free).setWidth 16, ?_⟩
    intro l u
    have hu : u = { s with free := s.free + 1 }.modCluster die k (measured slack ((Config.freeValue s.free).setWidth 16)) :=
      modDie_congr (s := { s with free := s.free + 1 }) rfl
    rw [exec_canaryMeasure hd hk hslack, ← hu]
    exact ⟨fun h => congrArg _ (if_neg h), fun h => congrArg _ (if_pos h)⟩
  case replan =>
    intro die auto s hoff hdue
    have hsame : (s.modCan die fun c => { c with replanning := true, replanAt := s.clk, replanDue := false }) =
        s.modDie die fun x => { x with can := { x.can with replanning := true, replanAt := s.clk } } := by
      refine modDie_congr ?_
      rw [← hdue]
    rw [← hsame]
    exact exec_replan_fresh hoff hdue
  case again => exact fun die s ⟨hdue, hidle, hauto⟩ hrun => exec_replan_again hdue hidle hauto hrun
  case replanned =>
    intro die k l s hplan hk guard u
    refine ⟨BitVec.ofNat 3 (lowestBin guard l), Config.freeValue s.free, ?_⟩
    have hbin : (BitVec.ofNat 3 (lowestBin guard l)).toNat = lowestBin guard l := by
      rw [BitVec.toNat_ofNat, Nat.mod_eq_of_lt (lowestBin_lt guard l)]
    refine ⟨fun i hi => lt_guard_of_lt_lowestBin (hbin ▸ hi), ?_, ?_⟩
    · rw [hbin]
      exact (lowestBin_keeps guard l).imp_right fun h => by rw [h]; rfl
    · refine (if_neg (by simp [hplan])).trans ?_
      have hone (w : State) : (w.modCluster die k fun c => { c with target := BitVec.ofNat 3 (lowestBin guard l) }).modCan die (fun c =>
          { c with replanning := false, hours := 0 }) = w.modDie die fun x => { x with can := { x.can with
            replanning := false, hours := 0, clusters := tmod {} x.can.clusters k fun c => { c with target := BitVec.ofNat 3 (lowestBin guard l) } } } :=
        modDie_modDie w die _ _
      simp only [List.filter_cons, hk, decide_true, if_true, List.filter_nil]
      exact congrArg (fun w => Host.Outcome.next (raiseAny die dukenCheck 0x100D w)) (hone u)
  case rail =>
    intro die rail s hd ⟨h2, h6⟩ h5 m
    have hexec (below : Bool) : exec (.railWarning die rail below) s = .next (if below && !(s.die die).pwr.belowWarn.getLsbD rail then
        raiseAny die dukenCheck 0x1105 (railMonitor die rail below s) else railMonitor die rail below s) := by
      refine Eq.trans (show _ = execRailWarning die rail below s from rfl) ?_
      unfold execRailWarning
      dsimp only
      rw [if_neg (by simp [hd]; omega), decide_eq_true h2, Bool.and_true]
    refine ⟨(hexec false).trans rfl, fun hnot => ⟨Config.freeValue s.free, (hexec true).trans ?_⟩⟩
    rw [hnot, railMonitor, hnot]
    exact congrArg (fun w => Host.Outcome.next (raiseAny die dukenCheck 0x1105 w)) (pwrEv_modPwr 3 (markRail rail true))
  case brace =>
    intro die sram s hno hfew u
    rw [exec_braceEntry hno, if_neg (by rcases hfew with h | h <;> simp [h])]
    rfl
  case alarm =>
    intro die sram s hno ⟨hmany, hcalm⟩ u
    refine ⟨Config.freeValue s.free, ?_⟩
    rw [exec_braceEntry hno, if_pos (by simp [hcalm]; omega), raiseAny_alarm, free_railMonitor]
  case endBrace =>
    intro die s hin p ns
    exact ⟨exec_braceExit hin, fun hfirst => ⟨_, exec_braceSustained hin hfirst⟩⟩
  case clears => exact fun die s hal hfew => exec_braceAlarmClear hal hfew
  case junction =>
    refine fun die s => ⟨rfl, fun h => if_pos h, fun h => ⟨Config.freeValue s.free, (if_neg (by simp [h])).trans ?_⟩⟩
    exact congrArg (fun w => Host.Outcome.next (raiseAny die dukenCheck 0x1106 w)) (pwrEv_modPwr 4 _)

end Sys2Proof.Laws
end

section
/-! SUPPORT. Heartbeats and the pair's registers (16 R350, R362 to R365). -/

namespace Sys2Proof.Laws

open Sys2Proof.Machine

section
variable {s : State}

/-- Something holds of every die that a list of dies names where it holds of each die that the package has. -/
theorem all_dieList {p : Nat → Bool} : s.dieList.all p = true ↔ ∀ d, s.hasDie d = true → p d = true := by
  simp [State.dieList, State.hasDie, List.all_eq_true]

theorem exec_heartbeatMiss {die : Nat} {t : BitVec 64} (hat : s.pair.hbAt = some t) (hrole : s.pair.role ≠ .unpaired)
    (hd : s.hasDie die = true) (hfirst : (s.die die).par.missed = false) :
    let u := (s.advance ((10 * unitsUs : Int) - stampDiff s.clk t).toNat).modDie die fun x =>
      { x with par := { x.par with hbMiss := x.par.hbMiss + 1, hbRun := x.par.hbRun + 1, missed := true } }
    let lost := s.pair.peerLost = false ∧ ∀ d, s.hasDie d = true → 4 ≤ (u.die d).par.hbRun
    (¬lost → exec (.heartbeatMiss die) s = .next u) ∧ (lost → exec (.heartbeatMiss die) s = .next (losePeer u)) := by
  intro u lost
  have hpair : u.pair = s.pair := (State.modDie_pair ..).trans (State.advance_pair ..)
  have hhas (d : Nat) : u.hasDie d = s.hasDie d := by rw [hasDie_modDie, State.hasDie, advance_length, State.hasDie]
  have hlost : (!u.pair.peerLost && u.dieList.all fun d => decide (4 ≤ (u.die d).par.hbRun)) = true ↔ lost := by
    simp only [Bool.and_eq_true, Bool.not_eq_true', all_dieList, hpair, hhas, decide_eq_true_eq, lost]
  have hexec : exec (.heartbeatMiss die) s =
      if !u.pair.peerLost && u.dieList.all (fun d => decide (4 ≤ (u.die d).par.hbRun)) then .next (losePeer u) else .next u := by
    refine Eq.trans (show _ = execHeartbeatMiss die s from rfl) ?_
    unfold execHeartbeatMiss
    rw [hat]
    exact if_neg (by simp [hrole, hd, hfirst])
  rw [hexec]
  exact ⟨fun h => if_neg (mt hlost.mp h), fun h => if_pos (hlost.mpr h)⟩

/-- The loss of the peer is noted: PEER_LOST is set, PROTECTED cleared. -/
def peerGone (s : State) : State := parEv 1 (s.modPair fun p => { p with peerLost := true, prot := false })

theorem losePeer_active (hrole : s.pair.role = .active) : losePeer s = raise 0 0x1002 0 (peerGone s) := by
  have hrole' : (peerGone s).pair.role = .active := hrole
  unfold losePeer
  change (match (peerGone s).pair.role with | .active => _ | .standby => _ | _ => _) = _
  rw [hrole']
  rfl

theorem losePeer_standby (hrole : s.pair.role = .standby) : losePeer s =
    if s.pair.aliveWired && s.pair.alive then raise 0 0x1004 0 (parEv 4 (peerGone s))
    else if !s.pair.takeoverEn then peerGone s
    else raise 0 0x1003 0 (ownArrivals (parEv 0 ((peerGone s).modPair fun p =>
      { p with role := .active, takeoverT := some (BitVec.ofNat 64 s.nextMp) }))) := by
  have hrole' : (peerGone s).pair.role = .standby := hrole
  unfold losePeer
  change (match (peerGone s).pair.role with | .active => _ | .standby => _ | _ => _) = _
  rw [hrole']
  rfl

end

end Sys2Proof.Laws
end

section
/-! The obligation on heartbeats, takeover and planned switches (16 R350, R362 to R365). -/

namespace Sys2Proof.Laws

open Sys2Proof.Machine

/-- Settles O53, clause by clause. -/
theorem pairsBeatTakeOverAndSwitch : Obligations.PairsBeatTakeOverAndSwitch := by
  refine ⟨?send, ?miss, ?lose, ?takeover, ?announce, ?checks, fun level s => rfl, ?switch, ?activeSwitches, ?standbySwitches⟩
  case send => exact fun s hrole => if_neg hrole
  case miss =>
    intro die t s hat hrole ⟨hd, hfirst⟩ u lost
    exact exec_heartbeatMiss hat hrole hd hfirst
  case lose =>
    intro s u t
    refine ⟨losePeer_active, fun hrole hwired hhigh => ?_, fun hrole hlow hen => ?_, fun hrole hlow hen => ?_⟩
    · rw [losePeer_standby hrole, if_pos (by simp [hwired, hhigh])]
      rfl
    · rw [losePeer_standby hrole, if_neg (by rcases hlow with h | h <;> simp [h]), if_pos (by simp [hen])]
      rfl
    · rw [losePeer_standby hrole, if_neg (by rcases hlow with h | h <;> simp [h]), if_neg (by simp [hen])]
      rfl
  case takeover =>
    intro t s ht
    refine Eq.trans (show _ = execTakeoverBoundary s from rfl) ?_
    unfold execTakeoverBoundary
    rw [ht]
    dsimp only
    generalize startOutput t.toNat (s.advanceTo 0 (unitsMp * t.toNat)) = u
    rfl
  case announce =>
    intro m rest s hdue u
    refine Eq.trans (show _ = execAddressAnnouncement s from rfl) ?_
    unfold execAddressAnnouncement
    rw [hdue]
    have hu : (s.advanceTo 0 (unitsMp * m.toNat)).modPair (fun p => { p with announceDue := rest }) = u := by
      rw [State.modPair, State.advanceTo_pair]
    rw [← hu]
  case checks =>
    intro t bad s hat u subs pads
    refine Eq.trans (show _ = execTakeoverCheck bad s from rfl) ?_
    unfold execTakeoverCheck
    rw [hat]
    have hu : (s.advanceTo 0 (unitsMp * t.toNat)).modPair (fun p => { p with checkAt := none }) = u := by
      rw [State.modPair, State.advanceTo_pair]
    dsimp only
    rw [hu]
  case switch =>
    intro v s hon p
    have hexec : exec (.switch v) s = if !bit v 0 || s.pair.role ≠ .active then .next { s with pair := p }
        else if s.pair.switchMp.toNat < s.mpNo 0 + 100 then .next { s with pair := { p with switchReject := true } }
        else .next (emit (.peer tellSwitch s.pair.switchMp) { s with pair := { p with switchReject := false, switchAt := some s.pair.switchMp } }) :=
      if_neg (by simp [hon])
    rw [hexec]
    refine ⟨fun hnot => if_pos ?_, fun hbit hrole hnear => (if_neg ?_).trans (if_pos hnear), fun hbit hrole hfar =>
      (if_neg ?_).trans (if_neg (by omega))⟩
    · rcases hnot with h | h
      · rw [show bit v 0 = false from h]
        rfl
      · simp [h]
    · simp [show bit v 0 = true from hbit, hrole]
    · simp [show bit v 0 = true from hbit, hrole]
  case activeSwitches =>
    intro t peer s ⟨hrole, hat⟩ u
    refine Eq.trans (show _ = execPlannedSwitch peer s from rfl) ?_
    unfold execPlannedSwitch
    rw [hrole, hat]
    rfl
  case standbySwitches =>
    intro peer s hrole
    refine Eq.trans (show _ = execPlannedSwitch peer s from rfl) ?_
    unfold execPlannedSwitch
    rw [hrole]
    dsimp only
    rw [State.modPair, State.advanceTo_pair]

end Sys2Proof.Laws
end

section
/-! SUPPORT. Roles, the ledger in the standby and digests (16 R351 to R360). -/

namespace Sys2Proof.Laws

open Sys2Proof.Machine

section
variable {s : State}

/-! ## Roles -/

/-- Whether a unit leads one that comes up together with it: its strap is 0 and the peer's 1, or both are alike and its MAC is lower. -/
def leads (s : State) (p : PeerSeen) : Prop := if s.pair.strap = p.strap then (s.ethPort 0 0).mac < p.mac else s.pair.strap = false

theorem leads_iff (p : PeerSeen) :
    (if s.pair.strap = p.strap then decide ((s.ethPort 0 0).mac < p.mac) else !s.pair.strap) = true ↔ leads s p := by
  unfold leads
  split <;> simp

/-- A running unit of a pair that sees a peer of its own variant and structure that follows the same manifest. -/
def suits (s : State) (p : PeerSeen) : Prop :=
  (s.pair.cfg = true ∧ allRunning s = true ∧ p.present = true ∧ p.sameVariant = true ∧ p.sameStructure = true) ∧
    p.manSeq.toNat = manSeq s (runBank s)

/-- What a unit does that is neither active nor standby. -/
theorem exec_pairRoleSettle_searching {p : PeerSeen} (hsuits : suits s p) (hrole : s.pair.role = .unpaired ∨ s.pair.role = .joining) :
    exec (.pairRoleSettle p) s =
      if p.role = .active then
        if s.pair.role = .joining then .next { s with pair := { s.pair with peerLost := false } } else .next (parEv 0 (goJoining s))
      else if (if s.pair.strap = p.strap then decide ((s.ethPort 0 0).mac < p.mac) else !s.pair.strap) then .next (parEv 0 (goActive s))
      else if s.pair.role = .joining then .next s else .next (parEv 0 (goJoining s)) := by
  obtain ⟨⟨hcfg, hrun, hpresent, hvariant, hstructure⟩, hseq⟩ := hsuits
  refine Eq.trans (show _ = execPairRoleSettle p s from rfl) ?_
  unfold execPairRoleSettle
  rw [if_neg (by simp [hcfg, hrun, hpresent, hvariant]), if_neg (by simp [hseq]), if_neg (by simp [hstructure])]
  rcases hrole with h | h <;> rw [h] <;> rfl

/-- A unit that has settled stays as it is; an active one takes a peer that is not active back. -/
theorem exec_pairRoleSettle_settled {p : PeerSeen} (hsuits : suits s p) :
    (s.pair.role = .active → exec (.pairRoleSettle p) s =
      .next (if p.role = .active then s else { s with pair := { s.pair with peerLost := false } })) ∧
    (s.pair.role = .standby → exec (.pairRoleSettle p) s = .next s) := by
  obtain ⟨⟨hcfg, hrun, hpresent, hvariant, hstructure⟩, hseq⟩ := hsuits
  have hexec : exec (.pairRoleSettle p) s = execPairRoleSettle p s := rfl
  unfold execPairRoleSettle at hexec
  rw [if_neg (by simp [hcfg, hrun, hpresent, hvariant]), if_neg (by simp [hseq]), if_neg (by simp [hstructure])] at hexec
  refine ⟨fun h => hexec.trans ?_, fun h => hexec.trans ?_⟩
  · rw [h]
    rfl
  · rw [h]

/-! ## Digests -/

theorem digestIn_singleton (u : BitVec 16) (c : BitVec 32) : digestIn [(u, c)] u = c := by simp [digestIn]

/-- A lone unit that is not left out is the one compared. -/
theorem units_singleton {u : BitVec 16} {c : BitVec 32} {out : List (BitVec 16)} (hin : out.contains u = false) :
    ((([] ++ [(u, c)] : List (BitVec 16 × BitVec 32)).map (·.1)).eraseDups.filter fun v => !out.contains v) = [u] := by
  simp only [List.nil_append, List.map_cons, List.map_nil, List.eraseDups_cons, List.filter_nil, List.eraseDups_nil, List.filter_cons, hin,
    Bool.not_false, if_true]

/-- Two units whose digests of a second agree. -/
theorem exec_digestCompare_same {die second : Nat} {failed : List Nat} {theirs : List (BitVec 16 × BitVec 32)} (hstands : standsBy s = true) (hd : s.hasDie die = true)
    (hagree : ∀ u ∈ (((digestsOf s die second ++ theirs).map (·.1)).eraseDups.filter fun u => !(s.die die).par.excludedLast.contains u),
      digestIn (digestsOf s die second) u = digestIn theirs u) :
    exec (.digestCompare die second (s.die die).str.id ((s.die die).str.ver.setWidth 32) theirs failed) s = .next
      (if (s.die die).par.excludedLast.isEmpty = true then
        noteInStep second (s.modDie die fun x => { x with par := { x.par with matched := some second } }) else s) := by
  have hnone : ((((digestsOf s die second ++ theirs).map (·.1)).eraseDups.filter fun u => !(s.die die).par.excludedLast.contains u).filter
      fun u => digestIn (digestsOf s die second) u != digestIn theirs u) = [] :=
    List.filter_eq_nil_iff.mpr fun u hu => by simp [hagree u hu]
  refine Eq.trans (show _ = execDigestCompare die second _ _ theirs failed s from rfl) ?_
  unfold execDigestCompare
  dsimp only
  rw [if_neg (by simp [hstands, hd]), hnone]
  rfl

/-- A lone unit whose digest differs, every engine of the die sound. -/
theorem exec_digestCompare_differs {die second : Nat} {u : BitVec 16} {c : BitVec 32} (hstands : standsBy s = true) (hd : s.hasDie die = true)
    (hours : digestsOf s die second = []) (hin : (s.die die).par.excludedLast.contains u = false) (hc : c ≠ digestIn [] u) :
    exec (.digestCompare die second (s.die die).str.id ((s.die die).str.ver.setWidth 32) [(u, c)] []) s =
      .next (soundMismatch die second (mismatch die u s)) := by
  have hbad : ([u].filter fun v => digestIn [] v != digestIn [(u, c)] v) = [u] := by simp [digestIn_singleton, Ne.symm hc]
  refine Eq.trans (show _ = execDigestCompare die second _ _ [(u, c)] [] s from rfl) ?_
  unfold execDigestCompare
  dsimp only
  rw [if_neg (by simp [hstands, hd]), hours, units_singleton hin, hbad]
  rfl

/-- The report of a mismatch: the leg of the unit, where it has one, diverges. -/
theorem mismatch_eq (d : Nat) (u : BitVec 16) : mismatch d u s =
    if u.getLsbD 15 = true then raise d 0x1006 (u.setWidth 64) (parCnt d 3 s)
    else diverge (u &&& 0x3FFF) (raise d 0x1006 (u.setWidth 64) (parCnt d 3 s)) := by
  unfold mismatch unitLeg
  cases u.getLsbD 15 <;> rfl

end

end Sys2Proof.Laws
end

section
/-! The obligation on roles, the ledger and digests (16 R351 to R360). -/

namespace Sys2Proof.Laws

open Sys2Proof.Machine

/-- Settles O52, clause by clause. -/
theorem pairsFormAndFollowTheLedger : Obligations.PairsFormAndFollowTheLedger := by
  refine ⟨?roles, ?foreign, ?search, ?ledger, ?ignored, ?fetch, ?reseed, ?send, ?agree, ?single, ?otherStructure⟩
  case roles =>
    intro p s hpeer hseq mine leads'
    have hsuits : suits s p := ⟨hpeer, hseq⟩
    have hsearch := exec_pairRoleSettle_searching hsuits
    obtain ⟨hactive, hstandby⟩ := exec_pairRoleSettle_settled hsuits
    refine ⟨fun h hp => ?_, fun h hp hl => ?_, fun h hp hl => ?_, fun h hp => ?_, fun h hp => ?_, fun h hp hl => ?_, fun h hp => ?_, hstandby⟩
    · rw [hsearch (.inl h), if_pos hp, if_neg (by simp [h])]
    · rw [hsearch (.inl h), if_neg hp, if_pos ((leads_iff p).mpr hl)]
    · rw [hsearch (.inl h), if_neg hp, if_neg (mt (leads_iff p).mp hl), if_neg (by simp [h])]
    · rw [hactive h, if_neg hp]
    · rw [hsearch (.inr h), if_pos hp, if_pos h]
    · rw [hsearch (.inr h), if_neg hp, if_pos ((leads_iff p).mpr hl)]
    · rw [hactive h, if_pos hp]
  case foreign =>
    intro p s ⟨hcfg, hrun, hpresent, hvariant⟩ hseq
    have hexec : exec (.pairRoleSettle p) s = .next (if s.pair.role = .active ∨ s.pair.role = .standby then s else raiseAny 0 dukenCheck 0x1207 s) := by
      refine (if_neg (by simp [hcfg, hrun, hpresent, hvariant])).trans ((if_pos hseq).trans ?_)
      simp
    rw [hexec]
    refine ⟨fun h => congrArg _ (if_pos h), fun h => ⟨Config.freeValue s.free, congrArg _ (if_neg ?_)⟩⟩
    rcases h with h | h <;> simp [h]
  case search =>
    intro s ⟨hcfg, hrun, hrole⟩
    refine (if_neg (by simp [hcfg, hrun, hrole])).trans ?_
    rw [apply_ite (parEv 0), apply_ite Host.Outcome.next]
    rfl
  case ledger =>
    intro die rate l st v m pic s hstands hd
    have hguard : ¬(!standsBy s || !s.hasDie die) = true := by simp [hstands, hd]
    exact ⟨if_neg hguard, if_neg hguard, if_neg hguard, if_neg hguard⟩
  case ignored =>
    intro die r s hrole
    exact if_pos (by rcases hrole with h | h <;> simp [standsBy, h])
  case fetch =>
    intro die l seq ssrc c1 at_ k got s hstands hrec r asked p
    have hguard : ¬(!standsBy s || !s.pair.ledger.contains r) = true := by
      rw [show s.pair.ledger.contains r = true from hrec, hstands]
      decide
    refine ⟨if_neg hguard, if_neg hguard⟩
  case reseed =>
    intro leg m r s hstands hdue
    have hguard : ¬(!standsBy s || ((s.pair.reseed.find? (·.1 == leg)).isNone && s.pair.role ≠ .joining)) = true := by simp [hstands, hdue]
    constructor
    · refine (if_neg hguard).trans ?_
      rw [hdue]
    · refine (if_neg hguard).trans ?_
      rw [hdue]
      rfl
  case send =>
    intro die second inStep s ⟨hrole, hpeer⟩ hd
    refine (if_neg (by simp [hrole, hpeer, hd])).trans ?_
    cases inStep <;> simp [emit, State.modPair]
  case agree =>
    intro die second failed s hstands hd hnone
    rw [exec_digestCompare_same hstands hd fun u _ => rfl, hnone]
    rfl
  case single =>
    intro die second u c s hstands hd hours hin
    by_cases hc : c = digestIn [] u
    · rw [if_pos hc, exec_digestCompare_same hstands hd]
      intro v hv
      rw [hours, units_singleton hin, List.mem_singleton] at hv
      rw [hours, hv, digestIn_singleton, hc]
    · rw [if_neg hc, exec_digestCompare_differs hstands hd hours hin hc, mismatch_eq]
  case otherStructure =>
    intro die second image version theirs failed s hdiffers
    exact if_pos (by rcases hdiffers with h | h <;> simp [h])

end Sys2Proof.Laws
end

section
/-! SUPPORT. Deltas, activation and fallback (18 R392 to R401). -/

namespace Sys2Proof.Laws

open Sys2Proof.Machine

section
variable {s : State}

/-! ## Apply -/

theorem exec_apply_accepted {ops : List DeltaOp} {id : Nat} (hactive : standsBy s = false)
    (hidle : s.upd.state ≠ .applying ∧ s.upd.state ≠ .armed) (hdelta : rdDelta s = some (ops, id)) :
    let u := if s.upd.applyId.toNat = id then s else eraseProg (inactiveBank s) 0x40000 0x40000 [] s
    exec .apply s = .next { u with upd := { s.upd with
      state := .applying, applyId := BitVec.ofNat 64 id, total := BitVec.ofNat 24 ops.length
      nextBlock := BitVec.ofNat 24 (((nextOp u ops id).map fun o => o.target).getD 16384), cancelReq := false, peerOk := false } } := by
  intro u
  have hupd : u.upd = s.upd := by
    unfold u
    split <;> rfl
  have hnext : (match nextOp u ops id with | some op => op.target | none => 16384) = ((nextOp u ops id).map fun o => o.target).getD 16384 := by
    cases nextOp u ops id <;> rfl
  refine Eq.trans (show _ = execApply s from rfl) ?_
  unfold execApply
  rw [if_neg (by simp [hactive]), if_neg (by simp [hidle]), hdelta]
  change Host.Outcome.next { u with upd := { u.upd with
      state := .applying, applyId := BitVec.ofNat 64 id, total := BitVec.ofNat 24 ops.length
      nextBlock := BitVec.ofNat 24 (match nextOp u ops id with | some op => op.target | none => 16384), cancelReq := false, peerOk := false } } = _
  rw [hnext, hupd]

/-- The bank after the block of an operation, and what lies unnamed before it, is erased and programmed. -/
def blockWritten (ops : List DeltaOp) (op : DeltaOp) (s : State) : State :=
  let b := inactiveBank s
  let prev := (ops.filter fun o => o.target < op.target).foldl (fun m o => max m (o.target + 1)) 128
  modFlash b (fun m => progMem m (4096 * op.target) (opResult s op)) (eraseProg b (4096 * prev) (4096 * (op.target + 1 - prev)) [] s)

/-- The journal entry of a block in a bank. -/
def journalled (b id : Nat) (op : DeltaOp) (s : State) : State :=
  modFlash b (fun m => progMem (wipe m (journalAt op.target) 16) (journalAt op.target) (leBytes id 8 ++ leBytes op.crc 4 ++ [0x00])) s

theorem exec_applyBlockDone {ops : List DeltaOp} {id : Nat} {op : DeltaOp} {readback : List Bool} (hstate : s.upd.state = .applying)
    (hdelta : rdDelta s = some (ops, id)) (hop : nextOp s ops id = some op) :
    let b := inactiveBank s
    let u := blockWritten ops op s
    let j := journalled b id op u
    exec (.applyBlockDone readback) s =
      if (crc32c (opResult s op)).toNat = op.crc ∧ true ∈ readback.take 3 then
        match nextOp j ops id with
        | none => .next (applyEnds (eraseProg b (4096 * (op.target + 1)) (4096 * (16383 - op.target)) [] j))
        | some o => .next (if s.upd.cancelReq = true then updCompletion 0x16 { j with upd := { s.upd with
            nextBlock := BitVec.ofNat 24 o.target, state := .partly, result := 5, cancelReq := false } }
          else { j with upd := { s.upd with nextBlock := BitVec.ofNat 24 o.target } })
      else if 3 ≤ readback.length then .next (updCompletion 0x15 (raise 0 0x1202 (BitVec.ofNat 64 op.target)
        { u with upd := { s.upd with state := .partly } }))
      else .next u := by
  intro b u j
  have hmatched : ((crc32c (opResult s op)).toNat == op.crc && (readback.take 3).contains true) = true ↔
      (crc32c (opResult s op)).toNat = op.crc ∧ true ∈ readback.take 3 := by simp
  refine Eq.trans (show _ = execApplyBlockDone readback s from rfl) ?_
  unfold execApplyBlockDone
  rw [if_neg (by simp [hstate]), hdelta]
  dsimp only
  rw [hop]
  refine if_congr hmatched ?_ rfl
  change (match nextOp j ops id with | none => _ | some o => _) = _
  cases nextOp j ops id with
  | none => rfl
  | some o => exact (apply_ite _ _ _ _).symm

/-! ## Activation -/

/-- Every die of the package passes a test where each die that it has does. -/
theorem all_dies {p : Die → Bool} : s.dies.all p = true ↔ ∀ d, s.hasDie d = true → p (s.die d) = true := by
  simp only [List.all_eq_true, List.mem_iff_getElem, State.hasDie, State.die, decide_eq_true_eq]
  constructor
  · intro h d hd
    rw [List.getD_eq_getElem _ _ hd]
    exact h _ ⟨d, hd, rfl⟩
  · rintro h x ⟨d, hd, rfl⟩
    have hp := h d hd
    rwa [List.getD_eq_getElem _ _ hd] at hp

theorem exec_activationReadinessCheck {peerReady : Bool} (hstate : s.upd.state = .armed) :
    let u := s.advanceToStamp 0 (mpStamp (s.upd.armedMp.toNat - 1000))
    let ready := (∀ d, s.hasDie d = true → (s.die d).str.state = .running) ∧ (peerReady = true ∨ s.pair.role = .unpaired)
    (ready → exec (.activationReadinessCheck peerReady) s = .next (updCompletion 0 u)) ∧
    (¬ready → exec (.activationReadinessCheck peerReady) s = .next (updCompletion 0x16 (updCancelled u))) := by
  intro u ready
  have hready : ((u.dies.all fun x => x.str.state == .running) && (peerReady || decide (u.pair.role = .unpaired))) = true ↔ ready := by
    simp only [Bool.and_eq_true, all_dies, u, hasDie_advanceToStamp, die_advanceToStamp_str, State.advanceToStamp_pair, Bool.or_eq_true, decide_eq_true_eq, beq_iff_eq, ready]
  have hexec : exec (.activationReadinessCheck peerReady) s =
      if (u.dies.all fun x => x.str.state == .running) && (peerReady || decide (u.pair.role = .unpaired)) then .next (updCompletion 0 u)
      else .next (updCompletion 0x16 (updCancelled u)) := by
    refine Eq.trans (show _ = execActivationReadinessCheck peerReady s from rfl) ?_
    unfold execActivationReadinessCheck
    dsimp only
    rw [if_neg (by simp [hstate])]
  rw [hexec]
  exact ⟨fun h => if_pos (hready.mpr h), fun h => if_neg (mt hready.mp h)⟩

/-! ## Trial -/

/-- The registers of an update whose trial is confirmed. -/
def trialOver (v : State) : State := { v with upd := { v.upd with state := .idle, result := 3, window := 0 } }

theorem exec_trialConfirmation (htrial : s.upd.state = .trial) (hsound : s.upd.lockstepStop = false) (hbank : runBank s = (bankPtr s).bank)
    (hrun : s.dies.all (fun x => x.str.state == .running) = true)
    (hconfirmed : manFlag s (bankPtr s).bank 1 = false ∨ s.upd.confirmed = true) :
    let b := (bankPtr s).bank
    let u := writePtr { bank := b } s
    let raises := manFlag u b 0 = true ∧ s.fuses.svnRaises < 63 ∧ s.fuses.minSvn.toNat < manSvn u b
    exec .trialConfirmation s = .next (raiseAny 0 dukenCheck 0x1206 { u with
      fuses := if raises then { s.fuses with minSvn := BitVec.ofNat 32 (manSvn u b), svnRaises := s.fuses.svnRaises + 1 } else s.fuses
      upd := { s.upd with state := .idle, result := 3, window := 0 } }) := by
  intro b u raises
  have hready : ¬(s.upd.state ≠ .trial || !(decide (runBank s = b) && s.dies.all (fun x => x.str.state == .running) && !s.upd.lockstepStop &&
      (!manFlag s b 1 || s.upd.confirmed))) = true := by
    rw [hrun]
    rcases hconfirmed with h | h <;> simp [htrial, hsound, hbank, h, b]
  have hraises : (manFlag u b 0 && decide (s.fuses.svnRaises < 63) && decide (s.fuses.minSvn.toNat < manSvn u b)) = true ↔ raises := by
    simp only [Bool.and_eq_true, decide_eq_true_eq, and_assoc, raises]
  refine Eq.trans (show _ = execTrialConfirmation s from rfl) ?_
  unfold execTrialConfirmation
  refine (if_neg hready).trans ?_
  change Host.Outcome.next (raiseAny 0 dukenCheck 0x1206 (trialOver
    (if manFlag u b 0 && decide (s.fuses.svnRaises < 63) && decide (s.fuses.minSvn.toNat < manSvn u b) then
      { u with fuses := { s.fuses with minSvn := BitVec.ofNat 32 (manSvn u b), svnRaises := s.fuses.svnRaises + 1 } } else u))) = _
  by_cases h : raises
  · rw [if_pos (hraises.mpr h), if_pos h]
    rfl
  · rw [if_neg (mt hraises.mp h), if_neg h]
    rfl

theorem onlyLogs_raiseAny (d : Nat) (src : Byte) (code : BitVec 16) : onlyLogs { s with free := s.free + 1 } (raiseAny d src code s) :=
  onlyLogs_of_onlyLog (onlyLog_raiseAny d src code s)

/-- What a SOFT reset of the package keeps of the update, the fuses and the tables where no reset is in progress. -/
theorem softReset_fields (h : s.inReset = none) :
    (packageReset 2 s).upd = resetUpd 2 s.upd ∧ (packageReset 2 s).uptime = 0 ∧ (packageReset 2 s).fuses = s.fuses ∧
    (packageReset 2 s).tables = [] := by
  obtain ⟨hsame, -, -⟩ := packageReset_spec 2 s h
  rw [hsame]
  exact ⟨rfl, rfl, rfl, rfl⟩

/-- The state that a fallback resets the package from. -/
def fallingBack (s : State) : State :=
  { writePtr { bank := 1 - (bankPtr s).bank } s with upd := { s.upd with state := .applied, window := 0 } }

/-- The state that an activation resets the package from. -/
def activating (s : State) : State :=
  { writePtr { bank := inactiveBank s, trial := true, window := manWindow s (inactiveBank s) } s with
    upd := { s.upd with state := .trial, result := 2, waitRejoin := false } }

theorem inReset_fallingBack : (fallingBack s).inReset = s.inReset := by simp only [fallingBack, writePtr, eraseProg, modFlash]
theorem fuses_fallingBack : (fallingBack s).fuses = s.fuses := by simp only [fallingBack, writePtr, eraseProg, modFlash]
theorem inReset_activating : (activating s).inReset = s.inReset := by simp only [activating, writePtr, eraseProg, modFlash]

/-- A fallback is a SOFT reset but for the result, the report and the word to the peer. -/
theorem fallBack_spec (s : State) : ∃ t, onlyLogs { packageReset 2 (fallingBack s) with
      upd := { (packageReset 2 (fallingBack s)).upd with result := 4 }, free := (packageReset 2 (fallingBack s)).free + 1 } t ∧
    fallBack s = emit (.peer 3 (BitVec.ofNat 64 (manSeq s (bankPtr s).bank))) t :=
  ⟨_, onlyLogs_raiseAny 0 dukenCheck 0x1205, rfl⟩

end

end Sys2Proof.Laws
end

section
/-! The obligation on field update (18 R392 to R401). -/

namespace Sys2Proof.Laws

open Sys2Proof.Machine

/-- Settles O57, clause by clause: apply, activation, cancel, trial and fallback. -/
theorem updatesApplyActivateAndFallBack : Obligations.UpdatesApplyActivateAndFallBack := by
  refine ⟨fun ops id s => exec_apply_accepted, ?refused, ?block, ?activate, ?cancel, fun peerReady s => exec_activationReadinessCheck, ?confirms,
    ?expires, ?fallsBack⟩
  case refused =>
    intro s hactive hwhy
    refine ⟨Config.freeValue s.free, Eq.trans (show _ = execApply s from rfl) ?_⟩
    unfold execApply
    rw [if_neg (by simp [hactive])]
    by_cases hstate : (s.upd.state = .applying || s.upd.state = .armed) = true
    · rw [if_pos hstate]
      rfl
    · have hnone : rdDelta s = none := by
        simp only [Bool.or_eq_true, decide_eq_true_eq, not_or] at hstate
        exact (hwhy.resolve_left hstate.1).resolve_left hstate.2
      rw [if_neg hstate, hnone]
      rfl
  case block =>
    intro ops id op readback s hstate hdelta hop b prev u matched j
    have hexec := exec_applyBlockDone (readback := readback) hstate hdelta hop
    refine ⟨fun hnot hfew => ?_, fun hnot hthree => ?_, fun hmatch hlast => ?_, fun o hmatch hnext => ?_⟩
    · exact hexec.trans ((if_neg hnot).trans (if_neg (by omega)))
    · exact hexec.trans ((if_neg hnot).trans (if_pos hthree))
    · refine hexec.trans ((if_pos hmatch).trans ?_)
      change (match nextOp j ops id with | none => _ | some o => _) = _
      rw [hlast]
      rfl
    · refine hexec.trans ((if_pos hmatch).trans ?_)
      change (match nextOp j ops id with | none => _ | some o => _) = _
      rw [hnext]
      rfl
  case activate =>
    intro s hactive a may
    have hexec : exec .activate s =
        if s.upd.state ≠ .applied || s.restr.busy then .next (updRefused s)
        else if a = 0 && decide ((s.die 0).str.state = .none) then .next (activateNow s)
        else if a < s.mpNo 0 + 1000 then .next (updRefused s)
        else .next (armLead 0 4 a { s with upd := { s.upd with state := .armed, armedMp := s.upd.actMp } }) := if_neg (by simp [hactive])
    have hmay : (s.upd.state ≠ .applied || s.restr.busy) = true ↔ ¬may := by
      simp only [may, Bool.or_eq_true, decide_eq_true_eq, not_and_or, Bool.not_eq_false, ne_eq]
    rw [hexec]
    refine ⟨fun h hfar => ?_, fun h hzero hnone => ?_, fun h => ⟨Config.freeValue s.free, ?_⟩⟩
    · rw [if_neg (mt hmay.mp (not_not_intro h)), if_neg (by simp; omega), if_neg (by omega)]
    · rw [if_neg (mt hmay.mp (not_not_intro h)), if_pos (by simp [hzero, hnone])]
    · by_cases hm : may
      · obtain ⟨hnear, hnow⟩ := h.resolve_left (not_not_intro hm)
        rw [if_neg (mt hmay.mp (not_not_intro hm)), if_neg (by simpa using hnow), if_pos hnear]
        rfl
      · rw [if_pos (hmay.mpr hm)]
        rfl
  case cancel =>
    intro s hactive off
    have hguard : ¬standsBy s = true := by simp [hactive]
    have hexec : exec .cancel s = execCancel s := rfl
    unfold execCancel at hexec
    rw [if_neg hguard] at hexec
    refine ⟨fun h => ?_, fun h hlate => ⟨Config.freeValue s.free, ?_⟩, fun h hlate => ⟨Config.freeValue s.free, ?_⟩, fun h1 h2 => ?_, ?_⟩
    · rw [hexec, h]
    · rw [hexec, h]
      exact congrArg _ (if_pos hlate)
    · rw [hexec, h]
      exact congrArg _ (if_neg (by omega))
    · rw [hexec]
      cases h : s.upd.state <;> simp_all
    · refine congrArg Host.Outcome.next ?_
      by_cases h : s.upd.state = .trial
      · rw [if_pos (by simp [h, hactive]), h, beq_self_eq_true, Bool.or_true]
      · rw [if_neg (by simp [h]), beq_eq_false_iff_ne.mpr h, Bool.or_false]
  case confirms =>
    intro s ⟨htrial, hsound, hbank⟩ hrun hconfirmed b u raises
    exact ⟨Config.freeValue s.free, exec_trialConfirmation htrial hsound hbank hrun hconfirmed⟩
  case expires =>
    intro seq' s htrial
    refine ⟨if_neg (by simp [htrial]), congrArg _ (if_congr ?_ rfl rfl)⟩
    simp [htrial, and_comm]
  case fallsBack =>
    intro s hfree
    obtain ⟨t, hlogs, hfall⟩ := fallBack_spec s
    obtain ⟨hupd, huptime, hfuses, htables⟩ := softReset_fields (inReset_fallingBack.trans hfree)
    obtain ⟨hnowUpd, hnowUptime, -, -⟩ := softReset_fields (inReset_activating.trans hfree)
    obtain ⟨hsame, -, -⟩ := hlogs
    rw [hfall, hsame]
    refine ⟨?_, rfl, huptime, hfuses.trans fuses_fallingBack, htables, ?_, ?_, hnowUptime⟩
    · exact congrArg Upd.state hupd
    · exact congrArg Upd.state hnowUpd
    · exact congrArg Upd.result hnowUpd

end Sys2Proof.Laws
end

section
/-! SUPPORT. What the kinds of reset keep (17 R377 to R380, 20 R416 to R419). -/

namespace Sys2Proof.Laws

open Sys2Proof.Machine Sys2Proof.Safety

section
variable {s : State} {d : Nat}

/-! ## A package reset -/

theorem die_restarted (kind : BitVec 3) (hd : s.hasDie d = true) : (restarted kind s).die d = resetDie kind s.fuses d (s.die d) := by
  have hlen : d < s.dies.length := by simpa [State.hasDie] using hd
  simp [State.die, restarted, List.getD_eq_getElem?_getD, hlen]

theorem hasDie_restarted (kind : BitVec 3) (e : Nat) : (restarted kind s).hasDie e = s.hasDie e := by
  simp [State.hasDie, restarted]

/-- Reports on other dies leave a die as it is. -/
theorem die_raiseAll_of_not_mem {l : List Nat} (h : d ∉ l) (code : BitVec 16) (detail : BitVec 64) :
    (forAll l (fun e => raise e code detail) s).die d = s.die d := by
  induction l generalizing s with
  | nil => rfl
  | cons e l ih =>
    simp only [List.mem_cons, not_or] at h
    obtain ⟨hne, hrest⟩ := h
    obtain ⟨-, -, hdie⟩ := onlyLog_raise e code detail s
    rw [forAll, List.foldl_cons]
    refine (ih hrest).trans ?_
    rw [hdie d, if_neg hne]

theorem hasDie_raiseAll (l : List Nat) (code : BitVec 16) (detail : BitVec 64) (e : Nat) :
    (forAll l (fun d => raise d code detail) s).hasDie e = s.hasDie e := by
  obtain ⟨-, hlen, -⟩ := onlyLogs_raiseAll l code detail s
  rw [State.hasDie, hlen]
  rfl

/-- After one report on each die the log of a die that was empty holds that report alone. -/
theorem ring_raiseAll {code : BitVec 16} {detail : BitVec 64} (hd : s.hasDie d = true) (hempty : (s.die d).err = {}) :
    ∃ r, ((forAll s.dieList (fun d => raise d code detail) s).die d).err.ring = [(0, some r)] ∧ r.code = code ∧ r.detail = detail := by
  have hmem : d ∈ s.dieList := by simpa [State.dieList, State.hasDie] using hd
  obtain ⟨a, b, hsplit⟩ := List.append_of_mem hmem
  have hnodup : (a ++ d :: b).Nodup := hsplit ▸ List.nodup_range
  have ha : d ∉ a := fun h => (List.nodup_append.mp hnodup).2.2 d h d (List.mem_cons_self ..) rfl
  have hb : d ∉ b := (List.nodup_cons.mp (List.nodup_append.mp hnodup).2.1).1
  have hbefore : (forAll a (fun d => raise d code detail) s).die d = s.die d := die_raiseAll_of_not_mem ha code detail
  have herr := err_raiseFrom_first (s := forAll a (fun d => raise d code detail) s) (d := d) (src := dukenCheck) (code := code) (detail := detail)
    ((hasDie_raiseAll a code detail d).trans hd) (by rw [hbefore, hempty]; rfl) (by rw [hbefore, hempty]; rfl)
  rw [hbefore, hempty] at herr
  have hafter : (forAll s.dieList (fun d => raise d code detail) s).die d = (raiseFrom d dukenCheck code detail (forAll a (fun d => raise d code detail) s)).die d := by
    rw [hsplit, forAll, List.foldl_append, List.foldl_cons]
    exact die_raiseAll_of_not_mem hb code detail
  rw [hafter, herr]
  exact ⟨_, rfl, rfl, rfl⟩

/-- What Table 17.3 has a package reset keep, and what it loses, where no reset is in progress. -/
theorem packageReset_kept (kind : BitVec 3) (h : s.inReset = none) :
    let t := packageReset kind s
    t.fuses = s.fuses ∧ t.flash = s.flash ∧ t.uptime = 0 ∧ t.tables = [] ∧ t.queues = [] ∧ t.moves = [] ∧ t.inReset = some (packageRank kind) ∧
    t.pair = { strap := s.pair.strap, lastT := if kind = 0 || kind = 1 then 0 else s.pair.lastT, alive := s.pair.alive } ∧
    t.dies.length = s.dies.length ∧
    ∀ e, s.hasDie e = true → t.die e = { resetDie kind s.fuses e (s.die e) with err := (t.die e).err } := by
  intro t
  obtain ⟨hsame, hlen, hdie⟩ := packageReset_spec kind s h
  refine ⟨(congrArg State.fuses hsame :), (congrArg State.flash hsame :), (congrArg State.uptime hsame :), (congrArg State.tables hsame :),
    (congrArg State.queues hsame :), (congrArg State.moves hsame :), (congrArg State.inReset hsame :), (congrArg State.pair hsame :), hlen.trans ?_, fun e he => ?_⟩
  · simp [restarted]
  · rw [← die_restarted kind he]
    exact hdie e

/-- A package reset that loses the error logs leaves in each of them the report of its kind. -/
theorem ring_packageReset (h : s.inReset = none) (hd : s.hasDie d = true) :
    ∃ r, ((packageReset 1 s).die d).err.ring = [(0, some r)] ∧ r.code = 0x1104 ∧ r.detail = 1 := by
  have hreset : packageReset 1 s = forAll (restarted 1 s).dieList (fun d => raise d 0x1104 1) (restarted 1 s) := by
    unfold packageReset
    rw [h]
    rfl
  rw [hreset]
  exact ring_raiseAll ((hasDie_restarted 1 d).trans hd) (by rw [die_restarted 1 hd]; rfl)

/-! ## Other resets -/

theorem die_mapDies {f : Nat → Die → Die} (e : Nat) (hf : f e {} = {}) : (s.mapDies f).die e = f e (s.die e) := by
  by_cases he : e < s.dies.length
  · simp [State.die, State.mapDies, List.getD_eq_getElem?_getD, he]
  · have hgone : (s.mapDies f).hasDie e = false := by simp [State.hasDie, State.mapDies]; omega
    have habsent : s.hasDie e = false := by simp [State.hasDie]; omega
    rw [die_of_absent hgone, die_of_absent habsent, hf]

/-- The copies that die `d` ran for the conferences of a die start fresh. -/
def freshCopies (d : Nat) (x : Die) : Die := { x with confs := x.confs.map fun e => (e.1, { e.2 with
  lim := tset {} e.2.lim d {}, encs := e.2.encs.filter fun k => k.1.1 != d
  held := e.2.held.map fun h => { h with gains := tset [] h.gains d [] } }) }

/-- A die reset asked for by the host while nothing is under way. -/
theorem dieReset_idle (hreset : s.inReset = none) (hd : s.hasDie d = true) (hzero : 0 < d) (hjoin : (s.die d).pwr.rejoining = false)
    (hbusy : s.restr.busy = false) (hmoves : s.moves = []) (hpair : s.pair.cfg = false) :
    dieReset false d s = raise d 0x1104 4 (resetCopies d (s.modDie d (dieResetDie false s.fuses d))) := by
  have hmoved : resetMoves d s = s := by rw [resetMoves, hmoves]; rfl
  have hstruct : resetRestruct d s = s := by
    unfold resetRestruct
    dsimp only
    rw [hbusy]
    rfl
  unfold dieReset
  dsimp only
  rw [if_neg (by simp [hreset, hd, hjoin]; omega), hmoved, hstruct]
  exact congrArg (raise d 0x1104 4) (if_neg (by simpa [resetCopies] using hpair))

theorem cip_dieResetDie (fuses : Fuses) (x : Die) :
    (dieResetDie false fuses d x).cip = { slots := x.cip.slots, saveCtr := x.cip.saveCtr } := by
  unfold dieResetDie
  dsimp only
  by_cases h : x.str.state = .none
  · rw [if_pos h]
    rfl
  · rw [if_neg h]
    rfl

/-- The end of a rejoin: an activation that waited for the die is armed for the next boundary. -/
def armWaiting (w : State) : Host.Outcome State Fault Refusal :=
  if w.upd.waitRejoin && !anyRejoining w && w.mpNo 0 + 1 ≤ w.upd.armedMp.toNat + 1000 then
    .next (armLead 0 4 (w.mpNo 0 + 1) { w with upd := { w.upd with waitRejoin := false } })
  else .next w

theorem armWaiting_of_not_waiting {w : State} (h : w.upd.waitRejoin = false) : armWaiting w = .next w := if_neg (by simp [h])

end

end Sys2Proof.Laws
end

section
/-! The obligation on the kinds of reset (17 R372 to R380, 20 R416 to R419). -/

namespace Sys2Proof.Laws

open Sys2Proof.Machine

/-- Settles O55, kind by kind. -/
theorem resetsKeepWhatTheirKindKeeps : Obligations.ResetsKeepWhatTheirKindKeeps := by
  refine ⟨fun s _ => ⟨(Config.freeValue s.free).getLsbD 0, rfl⟩, ?pin, ?package, ?soft, ?noKey, ?dieGo, ?lockstep, ?supply, ?brace, ?flr, ?perst, ?rejoin⟩
  case pin =>
    refine fun lowNs role s => ⟨fun h => if_pos h, fun h hfree => ⟨_, (if_neg (by omega)).trans (if_pos h), ?_⟩⟩
    obtain ⟨hfuses, hflash, huptime, htables, hqueues, hmoves, -, hpair, hlen, hdies⟩ := packageReset_kept 1 hfree
    refine ⟨hfuses, hflash, huptime, htables, hqueues, hmoves, ?_, hlen, fun d hd => ?_⟩
    · dsimp only
      rw [hpair]
      rfl
    · have hdie := hdies d hd
      exact ⟨(congrArg Die.cap hdie :), (congrArg Die.tim hdie :), (congrArg Die.legs hdie :), (congrArg Die.confs hdie :), (congrArg Die.dram hdie :),
        (congrArg Die.cip hdie :), ring_packageReset hfree hd⟩
  case package =>
    intro kind d s hfree hkind hd t
    obtain ⟨hfuses, hflash, huptime, htables, hqueues, -, hin, -, -, hdies⟩ := packageReset_kept kind hfree
    have hkeeps : resetDie kind s.fuses d (s.die d) =
        { keepFlash s.fuses d (s.die d) with err := keepLog (s.die d).err, pwr := keepPwr kind (s.die d).pwr } :=
      if_neg (by rcases hkind with h | h <;> simp [h])
    have hdie := hdies d hd
    rw [hkeeps] at hdie
    refine ⟨hfuses, hflash, huptime, htables, hqueues, (congrArg Die.legs hdie :), (congrArg (fun x => x.pwr.braceCnt) hdie :),
      (congrArg (fun x => x.pwr.causeKind) hdie :), (congrArg (fun x => x.pwr.causeCount) hdie :), ?_, ?_⟩
    · exact packageReset_absorbed kind t _ hin (Nat.le_refl _)
    · exact packageReset_absorbed 2 t _ hin (by rcases hkind with rfl | rfl <;> decide)
  case soft =>
    intro func v s hbit hkey
    have hkey' : fldN v 16 16 = 0x5AFE := by rw [fldN, hkey]; rfl
    refine ⟨fun hpf => ?_, fun hvf => ⟨Config.freeValue s.free, ?_⟩⟩
    · refine congrArg Host.Outcome.next ((if_neg (by simp [isPf, hpf])).trans ((if_pos hbit).trans (if_pos hkey')))
    · exact congrArg Host.Outcome.next (if_pos (by simp [isPf, hvf]))
  case noKey =>
    intro v s hbit hkey
    have hkey' : fldN v 16 16 ≠ 0x5AFE := fun h => hkey (BitVec.eq_of_toNat_eq h)
    exact ⟨(Config.freeValue s.free).setWidth 16, congrArg Host.Outcome.next ((if_neg (by decide)).trans ((if_pos hbit).trans (if_neg hkey')))⟩
  case dieGo =>
    intro v s ⟨hsoft, hgo⟩ d' ⟨hzero, hd, hjoin⟩ hfree hbusy hmoves hpair d
    have hdie : (bit v 1 && decide (0 < fldN v 2 3) && s.hasDie (fldN v 2 3)) = true := by
      rw [show bit v 1 = true from hgo, decide_eq_true (show 0 < fldN v 2 3 from hzero), show s.hasDie (fldN v 2 3) = true from hd]
      rfl
    have hgo' : exec (.dieGo 0 v) s = .next (dieReset false d s) :=
      congrArg Host.Outcome.next ((if_neg (by decide)).trans ((if_neg (by simpa [bit] using hsoft)).trans
        (if_pos hdie)))
    refine ⟨_, hgo', ?_⟩
    rw [dieReset_idle hfree hd hzero hjoin hbusy hmoves hpair]
    obtain ⟨hsame, -, hdies⟩ := onlyLog_raise d 0x1104 4 (resetCopies d (s.modDie d (dieResetDie false s.fuses d)))
    have hcopies (e : Nat) : (resetCopies d (s.modDie d (dieResetDie false s.fuses d))).die e =
        freshCopies d ((s.modDie d (dieResetDie false s.fuses d)).die e) := die_mapDies e rfl
    have hself := hdies d
    rw [if_pos rfl, hcopies, die_modDie_self _ _ _ hd] at hself
    refine ⟨fun e he => ?_, (congrArg State.tables hsame :), (congrArg State.queues hsame :), (congrArg State.servo hsame :),
      (congrArg Die.dram hself :), ((congrArg Die.cip hself).trans (cip_dieResetDie _ _) :), (congrArg (fun x => x.pwr.rejoining) hself :),
      (congrArg (fun x => x.pwr.causeKind) hself :), (congrArg (fun x => x.str.state) hself :), (congrArg Die.legs hself :)⟩
    rw [hdies e, if_neg he, hcopies, die_modDie_ne _ _ _ _ he]
    rfl
  case lockstep => exact fun die s => ⟨fun h => congrArg Host.Outcome.next (if_pos h), fun h => congrArg Host.Outcome.next (if_neg h)⟩
  case supply =>
    intro die rail s hno
    have hexec : exec (.supplyReset die rail) s = .next (if die = 0 || rail = some 5 then packageReset 3 s else dieReset true die s) := by
      refine Eq.trans (show _ = execSupplyReset die rail s from rfl) ?_
      unfold execSupplyReset
      dsimp only
      rw [hno]
      rfl
    rw [hexec]
    exact ⟨fun h => congrArg _ (if_pos (by simpa using h)), fun hd hrail => congrArg _ (if_neg (by simp [hd, hrail]))⟩
  case brace =>
    intro die s hzero hin p ns
    refine Eq.trans (show _ = execSupplyReset die none s from rfl) ?_
    unfold execSupplyReset
    dsimp only
    rw [hin]
    exact congrArg Host.Outcome.next (if_neg (by simp [hzero]))
  case flr =>
    intro f s hfree
    refine ⟨flrOne f s, congrArg Host.Outcome.next (if_neg (by simp [hfree])), rfl, rfl, rfl, mapDies_length _ _, fun d => ?_⟩
    exact die_mapDies d rfl
  case perst =>
    refine fun s => ⟨congrArg Host.Outcome.next ?_, rfl⟩
    cases h : s.inReset <;> simp
  case rejoin =>
    intro die s ⟨hjoin, htrained⟩ hwait u t
    refine Eq.trans (show _ = execDieResetRejoin die s from rfl) ?_
    unfold execDieResetRejoin
    dsimp only
    rw [if_neg (by simp [hjoin, htrained])]
    have hbusy : (t.restr.busy && t.restr.step = 7 && t.restr.die.toNat = die) = true ↔
        s.restr.busy = true ∧ s.restr.step = 7 ∧ s.restr.die.toNat = die := by
      simp only [Bool.and_eq_true, decide_eq_true_eq, and_assoc]
      exact Iff.rfl
    change armWaiting (if t.restr.busy && t.restr.step = 7 && t.restr.die.toNat = die then
      { t with restr := { t.restr with act := BitVec.ofNat 64 (t.mpNo 0 + 2) } } else t) = _
    rw [armWaiting_of_not_waiting (by split <;> exact hwait)]
    exact congrArg _ (if_congr hbusy rfl rfl)

end Sys2Proof.Laws
end

section
/-! SUPPORT. The Hoist of a die (chapter 13): what leaves it as it is, and what its ready pool and its stalls become. -/

namespace Sys2Proof.Laws

open Sys2Proof.Machine

/-! ## A packet that is sent leaves every Hoist as it is -/

section
variable {s : State}

theorem hst_modLeg (l : BitVec 16) (f : Leg → Leg) (s : State) : Shows Die.hst s (s.modLeg l f) := shows_modDie s _ fun _ => rfl

theorem hst_modTx (l : BitVec 16) (f : LegTx → LegTx) (s : State) : Shows Die.hst s (s.modTx l f) := hst_modLeg l _ s

theorem hst_egrEv (d i : Nat) (s : State) : Shows Die.hst s (egrEv d i s) := shows_modDie s d fun _ => rfl
theorem hst_egrCnt (d n : Nat) (s : State) : Shows Die.hst s (egrCnt d n s) := shows_modDie s d fun _ => rfl
theorem hst_cipEv (d i : Nat) (s : State) : Shows Die.hst s (cipEv d i s) := shows_modDie s d fun _ => rfl
theorem hst_cipCnt (d n : Nat) (s : State) : Shows Die.hst s (cipCnt d n s) := shows_modDie s d fun _ => rfl
theorem hst_pktPoolAdd (d n : Nat) (s : State) : Shows Die.hst s (pktPoolAdd d n s) := shows_modDie s d fun _ => rfl
theorem hst_pktPoolSub (d n : Nat) (s : State) : Shows Die.hst s (pktPoolSub d n s) := shows_modDie s d fun _ => rfl

theorem hst_queueDrop (l : BitVec 16) (s : State) : Shows Die.hst s (queueDrop l s) := by
  unfold queueDrop
  exact shows_trans (hst_modTx l _ s) (shows_trans (hst_egrCnt _ _ _) (shows_trans (hst_egrEv _ _ _)
    (shows_raiseOnce _ _ _ _ _ _ fun _ _ => rfl)))

theorem hst_enqueueAfter (after : Nat) (p : TxPacket) (s : State) : Shows Die.hst s (enqueueAfter after p s) := by
  have hdrops (k : Nat) : Shows Die.hst s (forAll (List.range k) (fun _ s => queueDrop p.leg s) s) := shows_forAll _ (fun _ u => hst_queueDrop p.leg u) s
  unfold enqueueAfter
  dsimp only
  split
  · exact hst_modTx _ _ s
  split
  · exact hst_modTx _ _ s
  split
  · exact hst_queueDrop _ s
  split
  · exact shows_trans (hdrops _) (hst_modTx _ _ _)
  · exact shows_trans (hdrops _) (shows_trans (hst_modTx _ _ _) (hst_queueDrop _ _))

theorem hst_trimHeld (d n : Nat) (s : State) : Shows Die.hst s (trimHeld d n s) := by
  induction n generalizing s with
  | zero => exact shows_refl s
  | succ n ih =>
    have hdrop (l : BitVec 16) : Shows Die.hst s (dropHeld l s) := by
      unfold dropHeld
      split
      · exact shows_refl s
      · exact shows_trans (hst_modTx _ _ s) (hst_pktPoolSub _ _ _)
    unfold trimHeld
    split
    · split
      · exact shows_trans (hdrop _) (ih _)
      · exact shows_refl s
    · exact shows_refl s

theorem hst_holdPacket (p : TxPacket) (plain : List Byte) (s : State) : Shows Die.hst s (holdPacket p plain s) := by
  unfold holdPacket
  exact shows_trans (hst_modTx _ _ s) (shows_trans (hst_pktPoolAdd _ _ _) (hst_trimHeld _ _ _))

theorem hst_guardWarn (b : Bool) (l : BitVec 16) (s : State) : Shows Die.hst s (guardWarn b l s) := by
  unfold guardWarn
  dsimp only
  split
  · exact shows_trans (hst_cipEv _ _ s) (shows_raiseFrom _ _ _ _ _ fun _ _ => rfl)
  · exact shows_refl s

theorem hst_guardDrop (l : BitVec 16) (s : State) : Shows Die.hst s (guardDrop l s) := by
  unfold guardDrop
  exact shows_trans (hst_cipCnt _ _ s) (shows_trans (hst_cipEv _ _ _) (shows_raiseFrom _ _ _ _ _ fun _ _ => rfl))

theorem hst_protectRtp (l : BitVec 16) (ssrc : BitVec 32) (seq : BitVec 16) (payload : List Byte) (s : State) :
    Shows Die.hst s (protectRtp l ssrc seq payload s).2 := by
  unfold protectRtp
  dsimp only
  split
  · exact shows_refl s
  split
  · exact hst_guardDrop l s
  · exact shows_trans (hst_modLeg l _ s) (shows_trans (hst_guardWarn _ l _) (hst_guardWarn _ l _))

theorem hst_digestBytes (d : Nat) (u : BitVec 16) (bs : List Byte) (s : State) : Shows Die.hst s (digestBytes d u bs s) := by
  unfold digestBytes
  split
  · exact shows_refl s
  · exact shows_modDie s d fun _ => rfl

theorem hst_sendRtp (p : TxPacket) (s : State) : Shows Die.hst s (sendRtp p s) := by
  unfold sendRtp sendRtpAfter
  have hdigest := hst_digestBytes (legDie p.leg) (unitOf s p) (rtpHeader p ++ p.payload) s
  have hprotect := hst_protectRtp p.leg p.ssrc p.seq p.payload (digestBytes (legDie p.leg) (unitOf s p) (rtpHeader p ++ p.payload) s)
  dsimp only
  split
  · next h => rw [h] at hprotect; exact shows_trans hdigest hprotect
  · next h =>
    rw [h] at hprotect
    refine shows_trans (shows_trans hdigest hprotect) (shows_trans ?_ (hst_enqueueAfter _ _ _))
    split
    · exact hst_holdPacket _ _ _
    · exact shows_refl _

end

/-! ## The ready pool and the stalls -/

/-- What the Hoist of a die has ready, what stalls, and how much of the pool is reserved. -/
def pool (x : Die) : List Tub × List Stall × BitVec 12 := (x.hst.ready, x.hst.stalls, x.hst.reserve)

section
variable {s t : State} {d : Nat}

theorem pool_of_hst (h : Shows Die.hst s t) : Shows pool s t :=
  ⟨h.1, fun e => congrArg (fun x : Hst => (x.ready, x.stalls, x.reserve)) (h.2 e)⟩

theorem stalls_of_pool (h : Shows pool s t) : Shows (fun x => x.hst.stalls) s t :=
  ⟨h.1, fun e => congrArg (fun p => p.2.1) (h.2 e)⟩

theorem pool_modHst (s : State) (d : Nat) {f : Hst → Hst} (hf : ∀ h, ((f h).ready, (f h).stalls, (f h).reserve) = (h.ready, h.stalls, h.reserve)) :
    Shows pool s (s.modHst d f) := shows_modDie s d fun x => hf x.hst

theorem pool_hstEv (d i : Nat) (s : State) : Shows pool s (hstEv d i s) := shows_modDie s d fun _ => rfl
theorem pool_hstCnt (d n : Nat) (s : State) : Shows pool s (hstCnt d n s) := shows_modDie s d fun _ => rfl
theorem pool_modFlow (d i : Nat) (f : Flow → Flow) (s : State) : Shows pool s (s.modFlow d i f) := pool_modHst s d fun _ => rfl
theorem pool_modFace (d c : Nat) (f : FaceCore → FaceCore) (s : State) : Shows pool s (s.modFace d c f) := shows_modDie s d fun _ => rfl
theorem pool_notePeak (d level : Nat) (s : State) : Shows pool s (notePeak d level s) := pool_modHst s d fun _ => rfl
theorem pool_raiseFrom (d : Nat) (src : Byte) (code : BitVec 16) (detail : BitVec 64) (s : State) : Shows pool s (raiseFrom d src code detail s) :=
  shows_raiseFrom _ _ _ _ _ fun _ _ => rfl
theorem pool_raiseOnce (d : Nat) (src : Byte) (code : BitVec 16) (obj detail : BitVec 64) (s : State) :
    Shows pool s (raiseOnce d src code obj detail s) := shows_raiseOnce _ _ _ _ _ _ fun _ _ => rfl
theorem pool_raiseAny (d : Nat) (src : Byte) (code : BitVec 16) (s : State) : Shows pool s (raiseAny d src code s) :=
  shows_raiseAny _ _ _ _ fun _ _ => rfl

theorem pool_trace (d event core : Nat) (t : Tub) (src : Byte) (ns : Nat) (s : State) : Shows pool s (trace d event core t src ns s) := by
  unfold trace
  split
  · exact shows_refl s
  split
  · exact pool_modHst s d fun _ => rfl
  · have hlost : Shows pool s (s.modHst d fun h => { h with traceLost := h.traceLost + 1 }) := pool_modHst s d fun _ => rfl
    exact shows_trans hlost (shows_trans (pool_hstEv _ _ _) (pool_raiseOnce _ _ _ _ _ _))

theorem pool_refuseTub (d : Nat) (src : Byte) (t : Tub) (s : State) : Shows pool s (refuseTub d src t s) := by
  unfold refuseTub
  exact shows_trans (pool_hstCnt _ _ s) (shows_trans (pool_hstEv _ _ _) (shows_trans (pool_trace _ _ _ _ _ _ _) (pool_raiseFrom _ _ _ _ _)))

theorem pool_busyTub (d : Nat) (src : Byte) (t : Tub) (s : State) : Shows pool s (busyTub d src t s) := by
  unfold busyTub
  exact shows_trans (pool_hstCnt _ _ s) (shows_trans (pool_hstEv _ _ _) (shows_trans (pool_trace _ _ _ _ _ _ _) (pool_raiseOnce _ _ _ _ _ _)))

theorem listTakes_of_pool (h : Shows pool s t) (level : Nat) : listTakes t d level = listTakes s d level := by
  have hd := h.2 d
  simp only [pool, Prod.mk.injEq] at hd
  obtain ⟨hready, -, hreserve⟩ := hd
  simp only [listTakes, hready, hreserve]

/-- An accepted tub stands at the end of the pool, numbered by the Tally where it is ordered. -/
def accepted (s : State) (d : Nat) (src : Byte) (t : Tub) : Tub :=
  { t with src := src, stamp := s.now d, seq := if tubOrdered t then (s.flow d (tubFlow t)).next else 0 }

theorem pool_acceptTub (src : Byte) (t : Tub) (s : State) :
    Shows pool (s.modHst d fun h => { h with ready := h.ready ++ [accepted s d src t] }) (acceptTub d src t s) := by
  unfold acceptTub
  dsimp only
  refine shows_trans ?_ (shows_trans (pool_hstCnt _ _ _) (shows_trans (pool_notePeak _ _ _) (pool_trace _ _ _ _ _ _ _)))
  refine ⟨by simp [State.modHst], fun e => ?_⟩
  by_cases he : e = d
  · subst he
    by_cases hd : s.hasDie e = true
    · simp only [State.modHst, die_modDie_self _ _ _ hd]
      rfl
    · simp only [State.modHst]
      rw [die_of_absent (by simpa using hd), die_of_absent (by simpa using hd)]
  · simp only [State.modHst, die_modDie_ne _ _ _ _ he]

end

end Sys2Proof.Laws
end

section
/-! The obligation on the ready pool (13 R291). -/

namespace Sys2Proof.Laws

open Sys2Proof.Machine

section
variable {s : State} {die : Nat}

/-- The Hoist takes in the last word of the PF's tub. -/
def enqWords (die : Nat) (v : BitVec 64) (s : State) : State := s.modHst die fun h => { h with enq := tset 0 h.enq 7 v }

theorem exec_hstEnqWrite {v : BitVec 64} {t : Tub} (hon : s.off die = false) (hd : s.hasDie die = true)
    (ht : t = { w := (List.range 8).map fun i => tget 0 (tset 0 (s.die die).hst.enq 7 v) i }) :
    exec (.hstEnqWrite 0 die v) s = .next ((enqueueTub die (hostReq 0) t (enqWords die v s)).2.modHst die fun h => { h with
      result := BitVec.ofNat 2 ((enqueueTub die (hostReq 0) t (enqWords die v s)).1 + 1), resTag := tubTag t }) := by
  have henq : ((enqWords die v s).die die).hst.enq = tset 0 (s.die die).hst.enq 7 v := by
    simp only [enqWords, State.modHst, die_modDie_self _ _ _ hd]
  refine (if_neg (by simp [hon])).trans ((if_neg (by simp [isPf, hd])).trans ?_)
  rw [ht, ← henq]
  rfl

theorem tubOk_enqWords (v : BitVec 64) (src : Byte) (t : Tub) (hd : s.hasDie die = true) :
    tubOk (enqWords die v s) die src t = tubOk s die src t := by
  have hsuits (core : Nat) : coreSuits (enqWords die v s) die t core = coreSuits s die t core := by
    simp only [coreSuits, packetActive, enqWords, State.modHst, die_modDie_self _ _ _ hd]
  have hmay : mayEnqueue (enqWords die v s) die src t = mayEnqueue s die src t := by
    simp only [mayEnqueue, enqWords, State.modHst, die_modDie_self _ _ _ hd]
  have hany : coreSuits (enqWords die v s) die t = coreSuits s die t := funext hsuits
  rw [tubOk, hmay, hany]
  rfl

end

/-- Settles O47: the pool takes the tub where its level's share of the 4,096 slots is not full. -/
theorem theReadyPoolTakesTubsByLevel : Obligations.TheReadyPoolTakesTubsByLevel := by
  intro die v t s ⟨hon, hd⟩ ht hok n taken seq
  have hwords : Shows pool s (enqWords die v s) := pool_modHst s die fun _ => rfl
  have hok' : tubOk (enqWords die v s) die (hostReq 0) t = true := (tubOk_enqWords v _ t hd).trans hok
  have htakes : listTakes (enqWords die v s) die (tubLevel t) = true ↔ taken := by
    rw [listTakes_of_pool hwords]
    simp only [listTakes, taken, n]
    split <;> simp
  have hready : ((enqWords die v s).die die).hst.ready = (s.die die).hst.ready := congrArg (fun p => p.1) (hwords.2 die)
  have haccepted : accepted (enqWords die v s) die (hostReq 0) t = accepted s die (hostReq 0) t := by
    simp only [accepted, State.flow, State.now, State.time, enqWords, State.modHst, die_modDie_self _ _ _ hd]
  refine ⟨_, exec_hstEnqWrite hon hd ht, fun h => ?_, fun h => ?_⟩
  · have henq : enqueueTub die (hostReq 0) t (enqWords die v s) = (0, acceptTub die (hostReq 0) t (enqWords die v s)) := by
      rw [enqueueTub, hok', if_neg (by simp), if_pos (htakes.mpr h)]
    have hpool := pool_acceptTub (d := die) (hostReq 0) t (enqWords die v s)
    have hd' : (acceptTub die (hostReq 0) t (enqWords die v s)).hasDie die = true := by
      rw [hasDie_of_shows hpool]
      simpa [enqWords, State.modHst] using hd
    rw [henq]
    simp only [State.modHst, die_modDie_self _ _ _ hd']
    refine ⟨by decide, (congrArg (fun p => p.1) (hpool.2 die)).trans ?_⟩
    rw [haccepted, State.modHst, die_modDie_self _ _ _ (by simpa [enqWords, State.modHst] using hd)]
    exact congrArg (· ++ [accepted s die (hostReq 0) t]) hready
  · have henq : enqueueTub die (hostReq 0) t (enqWords die v s) = (1, busyTub die (hostReq 0) t (enqWords die v s)) := by
      rw [enqueueTub, hok', if_neg (by simp), if_neg (mt htakes.mp h), if_neg (by simp [hostReq])]
    have hpool := shows_trans hwords (pool_busyTub die (hostReq 0) t (enqWords die v s))
    rw [henq]
    simp only [State.modHst, die_modDie_self _ _ _ ((hasDie_of_shows hpool die).trans hd)]
    exact ⟨by decide, congrArg (fun p => p.1) (hpool.2 die)⟩

end Sys2Proof.Laws
end

section
/-! SUPPORT. Takes and deliveries of the Hoist (13 R292 to R297): the tub a core is given, and stalled enqueues that find no slot. -/

namespace Sys2Proof.Laws

open Sys2Proof.Machine

/-! ## The best tub -/

theorem tubLevel_lt (t : Tub) : tubLevel t < 8 := BitVec.isLt _

theorem bestTub_spec {s : State} {d cls core : Nat} {levels : Byte} {t : Tub} (h : bestTub s d cls core levels = some t) :
    t ∈ (s.die d).hst.ready ∧ eligible s d cls core levels t = true ∧
      ∀ u ∈ (s.die d).hst.ready, eligible s d cls core levels u = true → tubLevel u ≤ tubLevel t := by
  obtain ⟨above, l, below, hrange, hfind, hnone⟩ := List.findSome?_eq_some_iff.mp h
  have ht := List.find?_some hfind
  simp only [Bool.and_eq_true, beq_iff_eq] at ht
  obtain ⟨hlevel, helig⟩ := ht
  refine ⟨List.mem_of_find?_eq_some hfind, helig, fun u hu hue => ?_⟩
  by_contra hhigher
  have hdown : ((List.range 8).reverse).Pairwise (· > ·) := List.pairwise_reverse.mpr List.pairwise_lt_range
  have hmem : tubLevel u ∈ (List.range 8).reverse := by simpa using tubLevel_lt u
  rw [hrange] at hdown hmem
  have hbelow : ∀ k ∈ below, k < l := (List.pairwise_cons.mp (List.pairwise_append.mp hdown).2.1).1
  have habove : tubLevel u ∈ above := by
    rcases List.mem_append.mp hmem with h | h
    · exact h
    · rcases List.mem_cons.mp h with h | h
      · omega
      · have := hbelow _ h; omega
  have hno := List.find?_eq_none.mp (hnone _ habove) u hu
  simp [hue] at hno

/-! ## Stalls that find no slot -/

/-- No stalled enqueue of a die is of a level that the pool takes. -/
def allStuck (d : Nat) (s : State) : Prop := ∀ x ∈ (s.die d).hst.stalls, listTakes s d (tubLevel x.tub) = false

section
variable {s t : State} {d : Nat}

theorem admitAll_of_allStuck (h : allStuck d s) (n : Nat) : admitAll d n s = s := by
  have hnone : ((List.range 8).reverse.findSome? fun l => (s.die d).hst.stalls.find? fun x => tubLevel x.tub == l && listTakes s d l) = none := by
    refine List.findSome?_eq_none_iff.mpr fun l _ => List.find?_eq_none.mpr fun x hx => ?_
    simp only [Bool.and_eq_true, beq_iff_eq, not_and, Bool.not_eq_true]
    rintro rfl
    exact h x hx
  have hadmit : admitStalled d s = (none, s) := by rw [admitStalled, hnone]
  cases n with
  | zero => rfl
  | succ n => rw [admitAll, hadmit]

theorem allStuck_of_no_stalls (h : (s.die d).hst.stalls = []) : allStuck d s := by simp [allStuck, h]

theorem allStuck_of_pool (hs : allStuck d s) (h : Shows pool s t) : allStuck d t := by
  have hd := h.2 d
  simp only [pool, Prod.mk.injEq] at hd
  obtain ⟨-, hstalls, -⟩ := hd
  intro x hx
  rw [hstalls] at hx
  rw [listTakes_of_pool h]
  exact hs x hx

theorem allStuck_acceptTub (hs : allStuck d s) (src : Byte) (u : Tub) : allStuck d (acceptTub d src u s) := by
  refine allStuck_of_pool ?_ (pool_acceptTub src u s)
  by_cases hd : s.hasDie d = true
  · intro x hx
    simp only [State.modHst, die_modDie_self _ _ _ hd] at hx
    have hno := hs x hx
    simp only [listTakes, State.modHst, die_modDie_self _ _ _ hd, List.length_append, List.length_singleton] at hno ⊢
    split at hno <;> simp only [decide_eq_false_iff_not, *] at hno ⊢ <;> simp <;> omega
  · exact allStuck_of_no_stalls (by rw [State.modHst, die_of_absent (by simpa using hd)])

theorem allStuck_stall (hs : allStuck d s) {x : Stall} (hx : listTakes s d (tubLevel x.tub) = false) :
    allStuck d (s.modHst d fun h => { h with stalls := h.stalls ++ [x] }) := by
  by_cases hd : s.hasDie d = true
  · intro y hy
    simp only [State.modHst, die_modDie_self _ _ _ hd, List.mem_append, List.mem_singleton] at hy
    simp only [listTakes, State.modHst, die_modDie_self _ _ _ hd]
    rcases hy with hy | rfl
    · exact hs y hy
    · exact hx
  · exact allStuck_of_no_stalls (by rw [State.modHst, die_of_absent (by simpa using hd)])

theorem allStuck_markReleased (hs : allStuck d s) : allStuck d (s.modHst d markReleased) := by
  by_cases hd : s.hasDie d = true
  · intro y hy
    simp only [State.modHst, die_modDie_self _ _ _ hd, markReleased, List.mem_append, Option.mem_toList, Option.map_eq_some_iff] at hy
    simp only [listTakes, State.modHst, die_modDie_self _ _ _ hd, markReleased]
    rcases hy with hy | ⟨z, hz, rfl⟩
    · exact hs y (List.mem_of_mem_dropLast hy)
    · exact hs z (List.mem_of_getLast? hz)
  · exact allStuck_of_no_stalls (by rw [State.modHst, die_of_absent (by simpa using hd)])

theorem allStuck_enqueueTub (hs : allStuck d s) (src : Byte) (u : Tub) : allStuck d (enqueueTub d src u s).2 := by
  unfold enqueueTub
  split
  · exact allStuck_of_pool hs (pool_refuseTub d src u s)
  split
  · exact allStuck_acceptTub hs src u
  split
  · next hno _ =>
    dsimp only
    exact allStuck_of_pool (allStuck_stall hs (by simpa using hno)) (shows_trans (pool_hstCnt _ _ _) (pool_trace _ _ _ _ _ _ _))
  · exact allStuck_of_pool hs (pool_busyTub d src u s)

theorem allStuck_handOn (hs : allStuck d s) (src : Byte) (o : HandOff) : allStuck d (handOn d src o s) := by
  cases o with
  | enq u =>
    unfold handOn
    dsimp only
    split
    · exact allStuck_markReleased (allStuck_enqueueTub hs src u)
    · exact allStuck_enqueueTub hs src u
  | send p => exact allStuck_of_pool hs (pool_of_hst (hst_sendRtp p s))

theorem allStuck_forAll {α : Type} {f : α → State → State} (hf : ∀ a u, allStuck d u → allStuck d (f a u)) (l : List α) (hs : allStuck d s) :
    allStuck d (forAll l f s) := by
  induction l generalizing s with
  | nil => exact hs
  | cons a l ih => exact ih (hf a s hs)

theorem allStuck_releaseFlow (i n : Nat) (hs : allStuck d s) : allStuck d (releaseFlow d i n s) := by
  induction n generalizing s with
  | zero => exact hs
  | succ n ih =>
    unfold releaseFlow
    dsimp only
    split
    · exact ih (allStuck_forAll (fun o u hu => allStuck_handOn hu _ o) _ (allStuck_of_pool hs (pool_modFlow _ _ _ _)))
    · exact hs

theorem allStuck_tallySkip (u : Tub) (lost : Bool) (hs : allStuck d s) : allStuck d (tallySkip d u lost s) := by
  unfold tallySkip
  exact allStuck_releaseFlow _ _ (allStuck_of_pool hs (shows_trans (pool_modFlow _ _ _ _) (shows_trans (pool_hstCnt _ _ _) (shows_trans
    (pool_hstEv _ _ _) (shows_trans (pool_trace _ _ _ _ _ _ _) (pool_raiseAny _ _ _ _))))))

theorem pool_dropTub (d idx : Nat) (s : State) : Shows pool s (dropTub d idx s) := by
  unfold dropTub
  split
  · exact shows_refl s
  · exact pool_modHst s d fun _ => rfl

theorem allStuck_loseTub (idx : Nat) (hs : allStuck d s) : allStuck d (loseTub d idx s) := by
  have hdrop := allStuck_of_pool hs (pool_dropTub d idx s)
  unfold loseTub
  split
  · exact hs
  · dsimp only
    split
    · exact hdrop
    split
    · exact allStuck_of_pool hdrop (pool_modFlow _ _ _ _)
    · exact allStuck_tallySkip _ _ hdrop

theorem pool_leaveWait (d c : Nat) (s : State) : Shows pool s (leaveWait d c s) := pool_modHst s d fun _ => rfl

theorem allStuck_stopCore (c : Nat) (hs : allStuck d s) : allStuck d (stopCore d c s) := by
  unfold stopCore
  exact allStuck_loseTub _ (allStuck_of_pool hs (shows_trans (pool_modFace _ _ _ _) (pool_leaveWait _ _ _)))

theorem allStuck_faultCore (c : Nat) (cause : BitVec 4) (addr : Nat) (hs : allStuck d s) : allStuck d (faultCore d c cause addr s) := by
  unfold faultCore
  exact allStuck_of_pool (allStuck_loseTub _ (allStuck_of_pool hs (shows_trans (pool_modFace _ _ _ _) (pool_leaveWait _ _ _)))) (pool_raiseAny _ _ _ _)

theorem allStuck_endBundle (k : Nat) (inTake : Bool) (c : Nat) (hs : allStuck d s) : allStuck d (endBundle k inTake d c s) := by
  unfold endBundle
  dsimp only
  have hends (stop : Bool) (n : Nat) (f : FaceCore → FaceCore) : allStuck d (if stop then stopCore d c (s.modFace d c f)
      else if 4096 ≤ n then faultCore d c 5 0 (s.modFace d c f) else s.modFace d c f) := by
    have hface : allStuck d (s.modFace d c f) := allStuck_of_pool hs (pool_modFace _ _ _ _)
    split
    · exact allStuck_stopCore _ hface
    split
    · exact allStuck_faultCore _ _ _ hface
    · exact hface
  split
  · exact hends _ _ _
  · exact hends _ _ _

theorem allStuck_resume (inTake : Bool) (c : Nat) (hs : allStuck d s) : allStuck d (resume inTake d c s) := by
  unfold resume
  dsimp only
  split
  · exact hs
  · exact allStuck_endBundle _ _ _ (allStuck_of_pool hs (shows_of_dies rfl))

theorem allStuck_deliver (c : Nat) (u : Tub) (hs : allStuck d s) : allStuck d (deliver d c u s) := by
  unfold deliver
  dsimp only
  split
  · exact hs
  · have hface (v : State) (hv : allStuck d v) (f : FaceCore → FaceCore) : allStuck d (v.modFace d c f) := allStuck_of_pool hv (pool_modFace _ _ _ _)
    split
    · exact allStuck_resume _ _ (hface _ hs _)
    split
    · exact allStuck_faultCore _ _ _ (hface _ hs _)
    split
    · exact allStuck_faultCore _ _ _ (hface _ hs _)
    · exact allStuck_resume _ _ (hface _ (hface _ hs _) _)

end

end Sys2Proof.Laws
end

section
/-! The obligation on takes, deliveries and the ends of stalls (13 R290 to R297). -/

namespace Sys2Proof.Laws

open Sys2Proof.Machine

section
variable {s : State} {die : Nat}

theorem stalls_takeTub (cls core : Nat) (t : Tub) (h : (s.die die).hst.stalls = []) : ((takeTub die cls core t s).die die).hst.stalls = [] := by
  have hshows : Shows (fun x => x.hst.stalls) s (takeTub die cls core t s) := by
    unfold takeTub
    dsimp only
    refine shows_trans ?_ (stalls_of_pool (shows_trans (pool_hstCnt _ _ _) (pool_trace _ _ _ _ _ _ _)))
    exact shows_modDie s die fun _ => rfl
  exact (hshows.2 die).trans h

/-- A stall of an engine ends without a core to tell. -/
theorem enqEnds_of_engine {src : Byte} (result : Nat) (h : 0x50 < src.toNat) : enqEnds die src result s = s := if_pos (by simp [h])

end

/-- Settles O48, clause by clause. -/
theorem tubsAreGivenHighestFirst : Obligations.TubsAreGivenHighestFirst := by
  refine ⟨fun s d cls core levels t => bestTub_spec, ?takes, ?delivers, ?vf, ?refuses, ?busy, ?noStall, ?skips, ?leaves⟩
  case takes =>
    intro die cls core s hcls hheld hstalls
    have hdone : doneTub die (loadIndex cls core) s = s := by rw [doneTub, hheld]
    refine Eq.trans (show _ = execTakeDelivery die cls core s from rfl) ?_
    unfold execTakeDelivery
    rw [if_neg (by simp; omega), if_neg (by simp; omega)]
    dsimp only
    rw [hdone]
    cases hbest : bestTub s die cls core 0xFF with
    | none => rfl
    | some t => exact congrArg _ (admitAll_of_allStuck (allStuck_of_no_stalls (stalls_takeTub cls core t hstalls)) 128)
  case delivers =>
    intro die core me t s hrole hme hbest hfirst hstalls
    refine Eq.trans (show _ = execTakeDelivery die 0 core s from rfl) ?_
    unfold execTakeDelivery
    rw [if_pos (by simp [hrole]), hme]
    dsimp only
    rw [hbest]
    dsimp only
    have hnone : ((s.die die).hst.waits.any fun w => waitsBefore w me && eligible s die w.1 w.2.1 w.2.2.1 t) = false := by
      refine List.any_eq_false.mpr fun w hw hboth => ?_
      obtain ⟨hbefore, hmay⟩ := (Bool.and_eq_true _ _).mp hboth
      rw [hfirst w hw hmay] at hbefore
      exact absurd hbefore (by decide)
    rw [hnone, if_neg (by decide)]
    exact congrArg _ (admitAll_of_allStuck (allStuck_deliver core t (allStuck_of_no_stalls (stalls_takeTub 0 core t hstalls))) 128)
  case vf =>
    intro func die v s hvf
    have hskip : (!isPf func || !s.hasDie die) = true := by simp [isPf, hvf]
    exact (ite_congr rfl (fun _ => rfl) fun _ => if_pos hskip).trans (ite_self _)
  case refuses =>
    intro die v t s ⟨hon, hd⟩ ht hbad
    have henq : enqueueTub die (hostReq 0) t (enqWords die v s) = (2, refuseTub die (hostReq 0) t (enqWords die v s)) := by
      rw [enqueueTub, tubOk_enqWords v _ t hd, hbad]
      rfl
    rw [exec_hstEnqWrite hon hd ht, henq]
    rfl
  case busy =>
    intro die src x s hstall hsrc u
    refine Eq.trans (show _ = execStallTimeout die src s from rfl) ?_
    unfold execStallTimeout
    rw [hstall]
    dsimp only
    rw [enqEnds_of_engine 1 hsrc, ite_self]
    rfl
  case noStall =>
    intro die src s hnone
    refine Eq.trans (show _ = execStallTimeout die src s from rfl) ?_
    unfold execStallTimeout
    rw [List.find?_eq_none.mpr fun y hy => by simpa using hnone y hy]
  case skips =>
    intro die flow n t at_ at2 s hheld ⟨hordered, hflow, hseq⟩ htaken
    refine Eq.trans (show _ = execTallySkip die flow s from rfl) ?_
    unfold execTallySkip
    dsimp only
    rw [htaken, hheld]
    simp only [List.find?_cons, beq_self_eq_true, List.findSome?_cons, hordered, hflow, hseq, Bool.and_self, if_true]
  case leaves =>
    intro die flow s htaken
    refine Eq.trans (show _ = execTallySkip die flow s from rfl) ?_
    unfold execTallySkip
    dsimp only
    rw [htaken]
    rfl

end Sys2Proof.Laws
end

section
/-! SUPPORT. Encode contexts (11 R241 to R257): the checks of their commands, a row of a part, the rate control of a picture. -/

namespace Sys2Proof.Laws

open Sys2Proof.Machine

/-! ## Arguments -/

theorem only_of_lt {w : BitVec 64} {n : Nat} (hw : w.toNat < 2 ^ n) : only w (BitVec.ofNat 64 (2 ^ n - 1)) = true := by
  rw [only, beq_iff_eq]
  refine BitVec.eq_of_getLsbD_eq fun i hi => ?_
  rw [BitVec.getLsbD_and, BitVec.getLsbD_not, BitVec.getLsbD_ofNat, Nat.testBit_two_pow_sub_one]
  by_cases hin : i < n
  · simp [hin, hi]
  · have hzero : w.getLsbD i = false := Nat.testBit_lt_two_pow (hw.trans_le (Nat.pow_le_pow_right (by decide) (by omega)))
    simp [hzero]

section
variable {c : Cmd} {k : BitVec 16} {m : Nat}

/-- A word that holds a handle and, above it, a mask of four bits. -/
theorem toNat_handle_mask (hm : m < 16) : (k.setWidth 64 ||| BitVec.ofNat 64 (0x10000 * m)).toNat = 2 ^ 16 * m + k.toNat := by
  rw [BitVec.toNat_or, BitVec.toNat_setWidth, BitVec.toNat_ofNat, Nat.two_pow_add_eq_or_of_lt k.isLt, Nat.or_comm,
    Nat.mod_eq_of_lt (by omega), Nat.mod_eq_of_lt (by omega)]

theorem argOf_handle_mask (hw : c.w1.toNat = 2 ^ 16 * m + k.toNat) : argOf c = k := by
  refine BitVec.eq_of_toNat_eq ?_
  simp only [argOf, fld, BitVec.extractLsb'_toNat, hw]
  omega

theorem mask_handle_mask (hm : m < 16) (hw : c.w1.toNat = 2 ^ 16 * m + k.toNat) : fldN c.w1 16 4 = m := by
  simp only [fldN, BitVec.extractLsb'_toNat, hw, Nat.shiftRight_eq_div_pow]
  omega

end

/-! ## Commands on a context -/

section
variable {c : Cmd} {k : BitVec 16} {s : State}

theorem onEnc_closed {ok : EncCtx → Bool} {body : State → State} (hpf : c.func = 0) (hclosed : (s.enc (argOf c)).state ≠ .opened) :
    onEnc c ok body s = (.st 2, s) := by
  rw [onEnc, if_neg (by simp [ownsEnc, isPf, hpf]), if_pos (by simp [hclosed])]

/-- A context that a command of the function may change. -/
def encMine (s : State) (f : Nat) (k : BitVec 16) : Prop :=
  ownsEnc s f k = true ∧ encOk s k = true ∧ (s.enc k).state = .opened ∧ (s.enc k).kind ≠ 2

theorem onEnc_mine {ok : EncCtx → Bool} {body : State → State} (harg : argOf c = k) (hmine : encMine s c.func k) (hok : ok (s.enc k) = true) :
    onEnc c ok body s = (.st 0, body s) := by
  obtain ⟨howns, hform, hopen, hkind⟩ := hmine
  rw [onEnc, harg, if_neg (by simp [howns]), if_neg (by rw [hform, hopen, decide_eq_false hkind, hok]; decide)]

theorem forAll_congr {α : Type} {P : State → Prop} {f g : α → State → State} (l : List α)
    (h : ∀ a u, P u → f a u = g a u ∧ P (g a u)) {u : State} (hu : P u) : forAll l f u = forAll l g u := by
  induction l generalizing u with
  | nil => rfl
  | cons a l ih =>
    obtain ⟨hsame, hnext⟩ := h a u hu
    change forAll l f (f a u) = forAll l g (g a u)
    rw [hsame, ih hnext]

theorem intraRequest_open {mask : Nat} (hopen : (s.enc k).state = .opened) (hmask : mask < 16) :
    intraRequest k mask s = if mask = 0 then s else
      forAll ((List.range (s.enc k).rungs.length).filter fun i => decide ((s.enc k).mode = 3 ∨ (s.enc k).mode = 4) || mask.testBit i) (intraRung k) s := by
  have hmode : ((s.enc k).mode == 3 || (s.enc k).mode == 4) = decide ((s.enc k).mode = 3 ∨ (s.enc k).mode = 4) := by
    rw [Bool.decide_or]
    rfl
  unfold intraRequest
  dsimp only
  rw [hmode]
  exact if_congr (by simp [hopen, Nat.mod_eq_of_lt hmask]) rfl rfl

end

/-! ## Rows and pictures -/

theorem dryBits_le (e : CodeEnv) (p : CodePart) (i : Nat) : dryBits e p i ≤ 32 + 8 * p.units := Nat.min_le_left _ _

theorem codeRow_spec (e : CodeEnv) (p : CodePart) (late : Option Nat) (a : RowAcc) (i : Nat) :
    a.used ≤ (codeRow e p late a i).used ∧ ((codeRow e p late a i).dry = false → ((codeRow e p late a i).used : Int) ≤ p.cap) ∧
      (a.dry = true → (codeRow e p late a i).dry = true ∧ (codeRow e p late a i).used ≤ a.used + 32 + 8 * p.units) := by
  have hdry := dryBits_le e p i
  unfold codeRow
  dsimp only
  split
  · exact ⟨Nat.le_add_right _ _, by simp, fun _ => ⟨rfl, by dsimp only; omega⟩⟩
  · next hwet =>
    have hrow (bits : Nat) (q : Bool) : ((a.used + bits : Nat) : Int) ≤ p.cap ∨ q = true →
        a.used ≤ a.used + bits ∧ (q = false → ((a.used + bits : Nat) : Int) ≤ p.cap) ∧ (a.dry = true → q = true ∧ a.used + bits ≤ a.used + 32 + 8 * p.units) :=
      fun h => ⟨Nat.le_add_right _ _, fun hq => h.resolve_right (by simp [hq]), fun h => absurd h hwet⟩
    cases late with
    | none =>
      dsimp only
      rw [if_neg Bool.false_ne_true]
      split
      · next hfits => exact hrow _ _ (.inl hfits)
      · exact hrow _ _ (.inr rfl)
    | some l =>
      dsimp only
      split
      · exact hrow _ _ (.inr rfl)
      split
      · next hfits => exact hrow _ _ (.inl hfits)
      · exact hrow _ _ (.inr rfl)

/-- A picture that keeps its cap keeps the fullness within the buffer; what exceeds the cap becomes debt. -/
theorem rcEnd_rcBegin (x : EncCtx) (capX w bits : Nat) (r : Rung) (hlow : 0 ≤ r.full) (hhigh : r.full ≤ rungBuf x r) :
    let b := rcBegin x capX w r
    0 ≤ b.cap ∧ ((bits : Int) ≤ b.cap → 0 ≤ (rcEnd bits b).full ∧ (rcEnd bits b).full ≤ rungBuf x r ∧ (rcEnd bits b).debt = 0) ∧
      (b.cap ≤ (bits : Int) → (rcEnd bits b).debt = bits - b.cap) := by
  intro b
  have hroom : b.cap ≤ rungBuf x r - r.full := by
    change max 0 (min (rungBuf x r - r.full) _) ≤ _
    omega
  have hfull : (rcEnd bits b).full = max 0 (r.full + (bits : Int) - (b.drain : Int)) := rfl
  have hdebt : (rcEnd bits b).debt = max 0 ((bits : Int) - b.cap) := rfl
  refine ⟨le_max_left _ _, fun hkeeps => ⟨?_, ?_, ?_⟩, fun hbeyond => ?_⟩ <;> omega

end Sys2Proof.Laws
end

section
/-! The obligation on encode contexts (11 R241 to R257). -/

namespace Sys2Proof.Laws

open Sys2Proof.Machine

/-- Settles O45, clause by clause: the commands, the rows, the rate control, the end of a gap, a late row. -/
theorem encodersOpenCodeWithinTheirBufferAndRestart : Obligations.EncodersOpenCodeWithinTheirBufferAndRestart := by
  refine ⟨?opens, ?closed, ?closes, ?rate, ?key, ?intra, fun e p late a i _ => codeRow_spec e p late a i,
    fun x capX w bits r h => rcEnd_rcBegin x capX w bits r h.1 h.2, ?gap, ?late⟩
  case opens =>
    intro c s howns hok x d
    refine congrArg Host.Outcome.next (runCmd_congr _ _ _ _ _ ?_)
    refine (if_neg (show ¬(!ownsSource s c.func ((encArgs s c).kind == 1) (encArgs s c).source) = true by rw [howns]; decide)).trans
      ((if_neg (show ¬(!encArgsOk s c (encArgs s c)) = true by rw [hok]; decide)).trans (if_congr Iff.rfl rfl (if_congr ?_ rfl ?_)))
    · exact (show (!bwFits s d 1 x.loadBw) = true ↔ bwFits s d 1 x.loadBw = false by simp)
    · change (match encFits s d x.loadEnc x.loadAna, freeEnc s d with | true, some i => _ | _, _ => _) = _
      cases hfits : encFits s d x.loadEnc x.loadAna with
      | false => exact (if_pos (.inl rfl)).symm
      | true => cases hfree : freeEnc s d with
        | none => exact (if_pos (.inr rfl)).symm
        | some i => exact (if_neg (by simp)).symm
  case closed =>
    intro c s hclosed hpf
    exact ⟨congrArg Host.Outcome.next (runCmd_congr _ _ _ _ _ (onEnc_closed (s := startedCmd c s) hpf hclosed)),
      congrArg Host.Outcome.next (runCmd_congr _ _ _ _ _ (onEnc_closed (s := startedCmd c s) hpf hclosed)),
      congrArg Host.Outcome.next (runCmd_congr _ _ _ _ _ (onEnc_closed (s := startedCmd c s) hpf hclosed))⟩
  case closes =>
    intro c k s hw hmine
    have hw' : c.w1.toNat = 2 ^ 16 * 0 + k.toNat := by rw [hw, BitVec.toNat_setWidth]; omega
    have hargs : only c.w1 0xFFFF = true := only_of_lt (n := 16) (by omega)
    refine congrArg Host.Outcome.next (runCmd_congr _ _ _ _ _ ((onEnc_mine (s := startedCmd c s) (argOf_handle_mask hw') hmine hargs).trans ?_))
    rw [argOf_handle_mask hw']
    rfl
  case rate =>
    intro c k s hw hmine hrates ws
    have hw' : c.w1.toNat = 2 ^ 16 * 0 + k.toNat := by rw [hw, BitVec.toNat_setWidth]; omega
    have hargs : only c.w1 0xFFFF = true := only_of_lt (n := 16) (by omega)
    refine congrArg Host.Outcome.next (runCmd_congr _ _ _ _ _ ((onEnc_mine (s := startedCmd c s) (argOf_handle_mask hw') hmine ?_).trans ?_))
    · rw [hargs, Bool.true_and, List.all_eq_true]
      intro i hi
      dsimp only
      rcases hrates i (List.mem_range.mp hi) with hzero | ⟨hrung, hlow, hhigh⟩
      · rw [hzero]
        rfl
      · have hword : only ([c.w2, c.w3, c.w4, c.w5].getD i 0) 0xFFFFFF = true := only_of_lt (n := 24) (by omega)
        rw [decide_eq_true (show i < ((startedCmd c s).enc k).rungs.length from hrung), hword, decide_eq_true hlow, decide_eq_true hhigh]
        exact Bool.or_true _
    · rw [argOf_handle_mask hw']
      refine congrArg (Prod.mk _) (forAll_congr (P := fun u => u.clk = s.clk) _ (fun i u hu => ?_) rfl)
      refine ⟨?_, hu⟩
      rw [hu]
      rfl
  case key =>
    intro c k m s hw hmine ⟨hm, hrungs⟩ all
    have hw' : c.w1.toNat = 2 ^ 16 * m + k.toNat := by rw [hw, toNat_handle_mask hm]
    have hargs : only c.w1 0xFFFFF = true := only_of_lt (n := 20) (by omega)
    have hmask := mask_handle_mask hm hw'
    refine congrArg Host.Outcome.next (runCmd_congr _ _ _ _ _ ((onEnc_mine (s := startedCmd c s) (argOf_handle_mask hw') hmine ?_).trans ?_))
    · rw [hargs, hmask]
      exact decide_eq_true hrungs
    · rw [argOf_handle_mask hw', hmask]
      exact congrArg _ (intraRequest_open hmine.2.2.1 hm)
  case intra =>
    intro k i r s hrung hgap
    unfold intraRung
    rw [hrung]
    cases hlast : r.lastIntra with
    | none =>
      dsimp only
      rw [hlast]
      exact if_neg Bool.false_ne_true
    | some t =>
      dsimp only
      rw [hlast]
      exact if_neg (by simpa using hgap t hlast)
  case gap =>
    intro ctx rung r t s hrung hlast
    refine Eq.trans (show _ = execIntraGapEnd ctx rung s from rfl) ?_
    unfold execIntraGapEnd
    rw [hrung]
    dsimp only
    rw [hlast]
    cases r.merged <;> rfl
  case late =>
    intro ctx rung row r s hrung ⟨hopen, hrun, hfirst⟩ hactive d x next u
    refine Eq.trans (show _ = execLateDryGuard ctx rung row s from rfl) ?_
    unfold execLateDryGuard
    dsimp only
    rw [hrung]
    dsimp only
    rw [if_neg (by simp [hopen, hrun, hfirst, hactive])]
    rfl

end Sys2Proof.Laws
end

section
/-! SUPPORT. Face cores (chapter 14): a core that is changed and read again, a bundle of NOPs, what a DMA transfer leaves of its core. -/

namespace Sys2Proof.Laws

open Sys2Proof.Machine Sys2Proof.Safety

/-! ## A table entry that is written twice -/

section
variable {α : Type} (t : Tab α) (i : Nat) (a b : α)

theorem tins_tins : tins (tins t i a) i b = tins t i b := by
  induction t with
  | nil => simp [tins]
  | cons e t ih =>
    obtain ⟨k, v⟩ := e
    by_cases hk : i = k
    · simp [tins, hk]
    · by_cases hlt : i < k
      · simp [tins, hk, hlt]
      · simp [tins, hk, hlt, ih]

theorem tdel_tins : tdel (tins t i a) i = tdel t i := by
  induction t with
  | nil => simp [tins, tdel]
  | cons e t ih =>
    obtain ⟨k, v⟩ := e
    by_cases hk : i = k
    · simp [tins, tdel, hk]
    · by_cases hlt : i < k
      · simp [tins, tdel, hk, hlt]
      · simp [tins, tdel, hk, hlt, ih]

/-- A value other than the default that is changed again leaves no trace. -/
theorem tmod_tmod_of_ne [DecidableEq α] (d : α) {f g : α → α} (hf : f (tget d t i) ≠ d) :
    tmod d (tmod d t i f) i g = tmod d t i fun x => g (f x) := by
  have hone : tmod d t i f = tins t i (f (tget d t i)) := if_neg hf
  rw [hone]
  unfold tmod tset
  rw [tget_tins_self, tdel_tins, tins_tins]

end

/-! ## A core that is changed -/

section
variable {s t : State} {d c : Nat} {x : FaceCore}

theorem modFace_congr {f g : FaceCore → FaceCore} (h : f (s.faceCore d c) = g (s.faceCore d c)) : s.modFace d c f = s.modFace d c g := by
  unfold State.modFace
  refine modDie_congr ?_
  have htab : tmod {} (s.die d).face c f = tmod {} (s.die d).face c g := by rw [tmod, tmod]; exact congrArg _ h
  rw [htab]

theorem modFace_modFace {f g : FaceCore → FaceCore} (hf : f (s.faceCore d c) ≠ {}) :
    (s.modFace d c f).modFace d c g = s.modFace d c fun x => g (f x) := by
  refine (modDie_modDie s d _ _).trans (modDie_congr ?_)
  have htab : tmod {} (tmod {} (s.die d).face c f) c g = tmod {} (s.die d).face c fun x => g (f x) := tmod_tmod_of_ne _ _ _ hf
  simp only [htab]

theorem faceCore_modFace_self {f : FaceCore → FaceCore} (hd : s.hasDie d = true) (hf : f (s.faceCore d c) ≠ {}) :
    (s.modFace d c f).faceCore d c = f (s.faceCore d c) := by
  simp only [State.faceCore, State.modFace, die_modDie_self _ _ _ hd]
  exact tget_tset_of_ne _ _ _ _ hf

/-- A core that is not as at reset is a core of a die of the package. -/
theorem hasDie_of_faceCore (h : s.faceCore d c ≠ {}) : s.hasDie d = true := by
  by_contra habsent
  exact h (by rw [State.faceCore, die_of_absent (by simpa using habsent)]; rfl)

theorem ne_default_of_role (h : x.role = 1) : x ≠ {} := fun hx => absurd (h.symm.trans (congrArg FaceCore.role hx)) (by decide)

theorem ne_default_of_dma (h : x.dma ≠ []) : x ≠ {} := fun hx => h (congrArg FaceCore.dma hx)

/-! ## Bundles -/

theorem landDue_of_none (h : x.flights = []) : landDue x = x := by
  unfold landDue
  rw [h]
  change { x with flights := [] } = x
  rw [← h]

theorem bundleFault_nop (x : FaceCore) : bundleFault x 0 = none := by
  have hctl : ctlFault x (slotWord 0 0) = none := rfl
  have hmac : (if opCode (slotWord 0 2) = 6 then localFault (gRd x (opB (slotWord 0 2))).toNat 8 4 else none) = none := rfl
  have hmem : memFault x (slotWord 0 3) = none := rfl
  unfold bundleFault
  rw [if_neg (by decide), if_neg (by decide)]
  dsimp only
  rw [hctl, hmac, hmem, ite_self, ite_self, ite_self]
  rfl

theorem runBundle_nop (x : FaceCore) (s : State) : runBundle d c x 0 s = (false, s.modFace d c fun _ => x) := by
  have hctl : ctlOp d c x (slotWord 0 0) x s = (x, s) := rfl
  have halu : aluOp s d c x (slotWord 0 1) x = x := rfl
  have hmac : macOp x (slotWord 0 2) x = x := rfl
  have hmem : memOp d c x (slotWord 0 3) x s = (false, x, s) := rfl
  unfold runBundle
  dsimp only
  rw [hctl, ite_self]
  dsimp only
  rw [halu, ite_self, hmac, ite_self, hmem, ite_self]

/-- What the end of an unbranched bundle without stalls and loops makes of its core. -/
theorem endBundle_plain (hbranch : (s.faceCore d c).branch = none) (hloop : (s.faceCore d c).loop = none) (hstop : (s.faceCore d c).stop = false)
    (hflights : (s.faceCore d c).flights = []) (hstate : (s.faceCore d c).state = .running) (hpc : (s.faceCore d c).pc.toNat < 4095) :
    endBundle 0 false d c s = s.modFace d c fun x => { x with pc := x.pc + 1, cycle := x.cycle + 1, busy := x.busy + 1 } := by
  have hstay : (s.faceCore d c).pc.toNat + 1 < 4096 := by omega
  have hpcs : BitVec.ofNat 12 ((s.faceCore d c).pc.toNat + 1) = (s.faceCore d c).pc + 1 := by simp [BitVec.ofNat_add]
  unfold endBundle fallThrough
  simp only [hbranch, hloop, hflights, hstop, List.map_nil]
  rw [if_neg (by decide), if_neg (by omega), hpcs]
  refine modFace_congr ?_
  simp [hbranch, hloop, hflights, hstop, hstate]

theorem exec_bundleIssue_fault (hrun : (s.faceCore d c).state = .running) (hstall : (s.faceCore d c).stalled = [])
    (hrole : (s.faceCore d c).role = 1) (hflights : (s.faceCore d c).flights = []) {cause : BitVec 4} {a : Nat}
    (hfault : bundleFault (s.faceCore d c) (tget 0 (s.faceCore d c).imem (s.faceCore d c).pc.toNat) = some (cause, a)) :
    exec (.bundleIssue d c) s =
      .next (faultCore d c cause (if cause = 3 || cause = 4 || cause = 8 then a else 0) (s.modFace d c fun _ => s.faceCore d c)) := by
  refine Eq.trans (show _ = execBundleIssue d c s from rfl) ?_
  unfold execBundleIssue
  dsimp only
  rw [if_neg (by simp [hrun, hstall, hrole]), if_neg (by simp [hrole]), landDue_of_none hflights, hfault]

/-- A bundle without a fault and without an access to a window, whose core then waits for nothing. -/
theorem exec_bundleIssue_ends (hrun : (s.faceCore d c).state = .running) (hstall : (s.faceCore d c).stalled = [])
    (hrole : (s.faceCore d c).role = 1) (hflights : (s.faceCore d c).flights = [])
    (hfault : bundleFault (s.faceCore d c) (tget 0 (s.faceCore d c).imem (s.faceCore d c).pc.toNat) = none)
    (hruns : runBundle d c (s.faceCore d c) (tget 0 (s.faceCore d c).imem (s.faceCore d c).pc.toNat)
      (s.modFace d c fun _ => s.faceCore d c) = (false, t))
    (htake : (t.faceCore d c).take = none) (hgoes : (t.faceCore d c).stalled = []) :
    exec (.bundleIssue d c) s = .next (endBundle 0 false d c t) := by
  refine Eq.trans (show _ = execBundleIssue d c s from rfl) ?_
  unfold execBundleIssue
  dsimp only
  rw [if_neg (by simp [hrun, hstall, hrole]), if_neg (by simp [hrole]), landDue_of_none hflights, hfault]
  dsimp only
  rw [hruns]
  dsimp only
  rw [htake, hgoes, if_neg (by decide), if_neg (by decide)]

theorem exec_bundleIssue_nop (hrun : (s.faceCore d c).state = .running) (hstall : (s.faceCore d c).stalled = [])
    (hrole : (s.faceCore d c).role = 1) (hflights : (s.faceCore d c).flights = []) (hloop : (s.faceCore d c).loop = none)
    (htake : (s.faceCore d c).take = none) (hbranch : (s.faceCore d c).branch = none) (hstop : (s.faceCore d c).stop = false)
    (hpc : (s.faceCore d c).pc.toNat < 4095) (hnop : tget 0 (s.faceCore d c).imem (s.faceCore d c).pc.toNat = 0) :
    exec (.bundleIssue d c) s = .next (s.modFace d c fun x => { x with pc := x.pc + 1, cycle := x.cycle + 1, busy := x.busy + 1 }) := by
  generalize hx : s.faceCore d c = x at *
  have hne : x ≠ {} := ne_default_of_role hrole
  have hcore : (s.modFace d c fun _ => x).faceCore d c = x := faceCore_modFace_self (f := fun _ => x) (hasDie_of_faceCore (hx ▸ hne)) hne
  have hsame : (s.modFace d c fun _ => x).modFace d c (fun _ => x) = s.modFace d c fun _ => x := modFace_modFace (f := fun _ => x) hne
  have hruns : runBundle d c x 0 (s.modFace d c fun _ => x) = (false, s.modFace d c fun _ => x) := by rw [runBundle_nop, hsame]
  subst hx
  rw [exec_bundleIssue_ends hrun hstall hrole hflights (by rw [hnop, bundleFault_nop]) (by rw [hnop, hruns]) (by rw [hcore, htake]) (by rw [hcore, hstall])]
  rw [endBundle_plain (by rwa [hcore]) (by rwa [hcore]) (by rwa [hcore]) (by rwa [hcore]) (by rwa [hcore]) (by rwa [hcore]), modFace_modFace hne]
  exact congrArg _ (modFace_congr rfl)

/-- A fault overwrites what a core was changed to, where it keeps nothing of the change. -/
theorem faultCore_modFace_const (hx : s.faceCore d c ≠ {}) (cause : BitVec 4) (a : Nat) :
    faultCore d c cause a (s.modFace d c fun _ => s.faceCore d c) = faultCore d c cause a s := by
  unfold faultCore
  rw [modFace_modFace hx]
  exact congrArg (fun u => raiseAny d (faceReq c) 0x0E01 (loseTub d c (leaveWait d c u))) (modFace_congr rfl)

/-! ## RUN and STOP -/

theorem faceCtrl_run {v : BitVec 64} (hrole : (s.faceCore d c).role = 1)
    (hstands : (s.faceCore d c).state = .stopped ∨ (s.faceCore d c).state = .fault) (hbit : v.getLsbD 0 = true) :
    faceCtrl d c v s = s.modFace d c fun x => startCore { x with entry := v.extractLsb' 16 12 } := by
  have hlive : (s.faceCore d c).state ≠ .retired := by rcases hstands with h | h <;> rw [h] <;> decide
  have hstill : ((s.faceCore d c).state == .stopped || (s.faceCore d c).state == .fault) = true := by
    rcases hstands with h | h <;> rw [h] <;> decide
  have hwaits : ((s.faceCore d c).state == .waiting || ((s.faceCore d c).state == .running && (s.faceCore d c).stalled.isEmpty)) = false := by
    rcases hstands with h | h <;> rw [h] <;> rfl
  have hruns : ((s.faceCore d c).state == .running) = false := by rcases hstands with h | h <;> rw [h] <;> rfl
  unfold faceCtrl bit fld
  dsimp only
  rw [if_neg (by rw [hrole, decide_eq_false hlive]; decide), hwaits, hruns, hstill, hbit, Bool.and_false, if_pos (by decide), if_neg (by decide)]
  exact modFace_modFace (f := fun x => { x with entry := v.extractLsb' 16 12 }) (ne_default_of_role hrole)

theorem faceCtrl_stop {v : BitVec 64} (hrole : (s.faceCore d c).role = 1)
    (hruns : (s.faceCore d c).state = .waiting ∨ ((s.faceCore d c).state = .running ∧ (s.faceCore d c).stalled = []))
    (hstop : v.getLsbD 1 = true) (hrun : v.getLsbD 0 = false) :
    faceCtrl d c v s = stopCore d c (s.modFace d c fun x => { x with entry := v.extractLsb' 16 12 }) := by
  have hlive : (s.faceCore d c).state ≠ .retired := by rcases hruns with h | ⟨h, -⟩ <;> rw [h] <;> decide
  have hwaits : ((s.faceCore d c).state == .waiting || ((s.faceCore d c).state == .running && (s.faceCore d c).stalled.isEmpty)) = true := by
    rcases hruns with h | ⟨h, hs⟩
    · rw [h]; rfl
    · rw [h, hs]; rfl
  unfold faceCtrl bit fld
  dsimp only
  rw [if_neg (by rw [hrole, decide_eq_false hlive]; decide), hwaits, hstop, hrun, Bool.false_and, if_neg (by decide), if_pos (by decide)]

/-! ## What a DMA transfer leaves of its core -/

/-- A core that has a DMA channel in use and does not stall. -/
def dmaSteady (d c : Nat) (s : State) : Prop := (s.faceCore d c).dma ≠ [] ∧ (s.faceCore d c).stalled = []

theorem dmaSteady_of_shows (h : Shows Die.face s t) (k : dmaSteady d c s) : dmaSteady d c t := by
  have hcore : t.faceCore d c = s.faceCore d c := congrArg (fun f : Tab FaceCore => tget ({} : FaceCore) f c) (h.2 d)
  rw [dmaSteady, hcore]
  exact k

theorem dmaSteady_modFace {f : FaceCore → FaceCore} (h : dmaSteady d c s) (hdma : (f (s.faceCore d c)).dma ≠ [])
    (hstall : (f (s.faceCore d c)).stalled = (s.faceCore d c).stalled) : dmaSteady d c (s.modFace d c f) := by
  rw [dmaSteady, faceCore_modFace_self (hasDie_of_faceCore (ne_default_of_dma h.1)) (ne_default_of_dma hdma)]
  exact ⟨hdma, hstall.trans h.2⟩

theorem shows_face_devWr (req : Byte) (a : Nat) (bs : List Byte) (s : State) : Shows Die.face s (devWr req a bs s) := by
  unfold devWr
  dsimp only
  split
  · exact shows_modDie s _ fun _ => rfl
  · unfold devRefused
    dsimp only
    refine shows_trans ?_ (shows_raiseFrom _ _ _ _ _ fun _ _ => rfl)
    exact shows_modDie s _ fun _ => rfl

theorem shows_face_fenceSet (i : Nat) (v : BitVec 32) (s : State) : Shows Die.face s (fenceSet d i v s) := by
  unfold fenceSet
  dsimp only
  split
  · exact shows_modDie s _ fun _ => rfl
  · exact shows_refl s

theorem dmaSteady_dmaMove (desc : List (BitVec 64)) (h : dmaSteady d c s) : dmaSteady d c (dmaMove d c desc s) := by
  unfold dmaMove
  generalize List.range (dmaRows desc) = rows
  induction rows generalizing s with
  | nil => exact h
  | cons r rows ih =>
    refine ih ?_
    dsimp only
    split
    · exact dmaSteady_of_shows (shows_face_devWr _ _ _ s) h
    · exact dmaSteady_modFace h h.1 rfl

/-- A channel that has ended a transfer of at least one row is not as at reset. -/
theorem dma_ended_ne_nil (t : Tab DmaCh) (ch : Nat) {k : DmaCh} (h : k.rows ≠ 0) : tset {} t ch k ≠ [] := fun hnil => by
  have hget := tget_tset_of_ne {} t ch k fun hk => h (congrArg DmaCh.rows hk)
  rw [hnil] at hget
  exact h (congrArg DmaCh.rows hget).symm

/-- The transfer of a channel that reads no poisoned line, of a core that does not stall. -/
theorem exec_dmaDone_clean {ch : Nat} (hbusy : (tget {} (s.faceCore d c).dma ch).busy = true) (hstall : (s.faceCore d c).stalled = [])
    (hclean : (s.die d).drc.poison = []) (hrows : dmaRows (tget {} (s.faceCore d c).dma ch).desc < 4096) :
    let k := tget {} (s.faceCore d c).dma ch
    let moved := dmaMove d c k.desc s
    let idle := { moved with free := moved.free + 1 }.modFace d c fun x => { x with
      dma := tset {} x.dma ch { k with busy := false, rows := BitVec.ofNat 12 (dmaRows k.desc), desc := [] } }
    exec (.dmaDone d c ch) s = .next (if bit (dmaW k.desc 1) 19 then
      fenceSet d (fldN (dmaW k.desc 1) 20 8) (fld (dmaW k.desc 2) 32 32) idle else idle) := by
  intro k moved idle
  have hsome : (s.faceCore d c).dma ≠ [] := fun h => absurd hbusy (by rw [h]; exact Bool.false_ne_true)
  have hone : BitVec.ofNat 12 (dmaRows k.desc) ≠ 0 := fun h => by
    have hval := congrArg BitVec.toNat h
    rw [BitVec.toNat_ofNat, Nat.mod_eq_of_lt hrows] at hval
    exact Nat.succ_ne_zero _ hval
  have hmoved : dmaSteady d c moved := dmaSteady_dmaMove k.desc ⟨hsome, hstall⟩
  have hidle : dmaSteady d c idle := dmaSteady_modFace (s := { moved with free := moved.free + 1 }) hmoved (dma_ended_ne_nil _ ch hone) rfl
  have hend : dmaSteady d c (if bit (dmaW k.desc 1) 19 then
      fenceSet d (fldN (dmaW k.desc 1) 20 8) (fld (dmaW k.desc 2) 32 32) idle else idle) := by
    split
    · exact dmaSteady_of_shows (shows_face_fenceSet _ _ idle) hidle
    · exact hidle
  refine Eq.trans (show _ = execDmaDone d c ch s from rfl) ?_
  unfold execDmaDone
  dsimp only
  rw [hclean, List.filter_nil, if_neg (by rw [hbusy]; decide), if_neg (by decide), if_neg (Nat.ne_of_lt hrows)]
  exact if_pos (List.isEmpty_iff.mpr hend.2)

/-! ## Instruction memory and the restart of a vendor core -/

theorem imemWrite_stands {off : Nat} (v : BitVec 64) (hrole : (s.faceCore d c).role = 1) (hoff : off < 0x10000)
    (hstands : (s.faceCore d c).state = .stopped ∨ (s.faceCore d c).state = .fault) :
    imemWrite d c off v s = s.modFace d c fun x => { x with
      imem := tmod 0 x.imem (off / 16) fun b => if off / 8 % 2 = 1 then v ++ b.extractLsb' 0 64 else b.extractLsb' 64 64 ++ v } := by
  have hhalf : (fun b => setHalf b (off / 8 % 2 == 1) v) =
      fun b => if off / 8 % 2 = 1 then v ++ b.extractLsb' 0 64 else b.extractLsb' 64 64 ++ v := by
    funext b
    simp [setHalf, BitVec.setWidth_eq_extractLsb']
  unfold imemWrite
  dsimp only
  rw [hhalf, if_neg ?guard, if_neg ?stands]
  case guard => rw [hrole, decide_eq_false (Nat.not_le.mpr hoff)]; rcases hstands with h | h <;> rw [h] <;> decide
  case stands => rcases hstands with h | h <;> rw [h] <;> decide

theorem imemWrite_refused {off : Nat} (v : BitVec 64) (hrole : (s.faceCore d c).role = 1) (hoff : off < 0x10000)
    (hlive : (s.faceCore d c).state ≠ .retired) (hruns : ¬((s.faceCore d c).state = .stopped ∨ (s.faceCore d c).state = .fault)) :
    imemWrite d c off v s = raiseAny d (hostReq 0) 0x0E04 s := by
  unfold imemWrite
  dsimp only
  rw [if_neg ?guard, if_pos ?runs]
  case guard => rw [hrole, decide_eq_false (Nat.not_le.mpr hoff), decide_eq_false hlive]; decide
  case runs => rw [not_or] at hruns; rw [decide_eq_true hruns.1, decide_eq_true hruns.2]; rfl

theorem exec_vendorCoreRestart_quiet (hrole : (s.faceCore d c).role = 0) (hrun : (s.faceCore d c).state = .running)
    (hnone : tget none (s.die d).hst.held c = none) (hlegs : (s.openLegs d).all (fun l => !(s.legLive l).audio) = true) :
    exec (.vendorCoreRestart d c) s = .next ((raiseAny d (faceReq c) 0x0E02 s).modFace d c fun x => { x with cycle := 0 }) := by
  have hkeep : loseTub d c s = s := by rw [loseTub, hnone]
  have hmute : (s.openLegs d).filter (fun l => (s.legLive l).audio) = [] := by
    rw [List.filter_eq_nil_iff]
    exact fun l hl => by simpa using List.all_eq_true.mp hlegs l hl
  refine Eq.trans (show _ = execVendorCoreRestart d c s from rfl) ?_
  unfold execVendorCoreRestart
  dsimp only
  rw [hkeep, hmute, if_neg (by rw [hrole, hrun]; decide)]
  rfl

end

end Sys2Proof.Laws
end

section
/-! The obligation on Face cores (14 R308 to R329). -/

namespace Sys2Proof.Laws

open Sys2Proof.Machine

/-- Settles O49, clause by clause. -/
theorem faceCoresRunStopAndFault : Obligations.FaceCoresRunStopAndFault := by
  refine ⟨?other, ?run, ?stop, ?still, ?vendor, ?nops, ?illegal, ?idle, ?moves, ?imemVf, ?imem, ?restart⟩
  case other =>
    intro die core v s hrole
    have hskip : faceCtrl die core v s = s := if_pos (by rw [decide_eq_true hrole]; rfl)
    exact ⟨congrArg _ hskip, congrArg _ hskip⟩
  case run =>
    intro die core v s hrole hstands hbit
    refine Eq.trans (show exec (.run die core v) s = .next (faceCtrl die core v s) from rfl) (congrArg _ ?_)
    exact faceCtrl_run hrole hstands hbit
  case stop =>
    intro die core v s hrole hstands ⟨hstop, hrun⟩
    refine Eq.trans (show exec (.stop die core v) s = .next (faceCtrl die core v s) from rfl) (congrArg _ ?_)
    exact faceCtrl_stop hrole hstands hstop hrun
  case still =>
    intro die core s hstate
    exact ⟨if_pos (by simp [hstate]), if_pos (by simp [hstate])⟩
  case vendor =>
    intro die core s ⟨hrun, hstall, hrole⟩
    exact (if_neg (by simp [hrun, hstall, hrole])).trans (if_pos hrole)
  case nops =>
    intro die core s x ⟨hrun, hstall, hrole, hflights, hloop, htake, hbranch, hstop, hpc, hnop⟩
    exact exec_bundleIssue_nop hrun hstall hrole hflights hloop htake hbranch hstop hpc hnop
  case illegal =>
    intro die core s x ⟨hrun, hstall, hrole, hflights, hbad⟩
    have hfault : bundleFault x (tget 0 x.imem x.pc.toNat) = some (1, 0) := if_pos (by rw [hbad]; rfl)
    refine (exec_bundleIssue_fault hrun hstall hrole hflights hfault).trans ?_
    exact congrArg _ (faultCore_modFace_const (ne_default_of_role hrole) 1 0)
  case idle => exact fun die core ch s hidle => if_pos (by rw [hidle]; rfl)
  case moves => exact fun die core ch s hbusy hstall hclean hrows => exec_dmaDone_clean hbusy hstall hclean hrows
  case imemVf =>
    intro func die core off v s ⟨hon, hvf⟩
    exact (if_neg (by simp [hon])).trans (if_pos (by simp [isPf, hvf]))
  case imem =>
    intro die core off v s hon hrole hlive hoff stands
    have hwrite : exec (.faceImemWrite 0 die core off v) s = .next (imemWrite die core off v s) :=
      (if_neg (by rw [hon]; decide)).trans (if_neg (by decide))
    rw [hwrite]
    exact ⟨fun h => congrArg _ (imemWrite_stands v hrole hoff h),
      fun h => ⟨Config.freeValue s.free, congrArg _ (imemWrite_refused v hrole hoff hlive h)⟩⟩
  case restart =>
    exact fun die core s ⟨hrun, hrole⟩ hnone hlegs => ⟨Config.freeValue s.free, exec_vendorCoreRestart_quiet hrole hrun hnone hlegs⟩

end Sys2Proof.Laws
end
